-- ==== Sys2Proof/Word.lean ====
section
/-! DEFINITION. The words of the GF-7 (R6, R8): widths that the spec fixes, as abbreviations of bit vectors. -/

namespace Sys2Proof

/-- A 32-bit register element (R101). -/
abbrev Word := BitVec 32

/-- A 64-bit value: a register pair, a 64-bit special or a memory quad (R45). -/
abbrev DWord := BitVec 64

/-- The addressable unit of memory and of the typed buffers (R6). -/
abbrev Byte := BitVec 8

/-- A set of lanes of one wave: bit l stands for lane l (R101). -/
abbrev Lanes := BitVec 32

/-- A program counter: a 56-bit virtual address (R35). -/
abbrev PC := BitVec 56

end Sys2Proof
end

