-- ==== Sys2Proof/Syntax.lean ====
section
/-! DEFINITION. The syntax of the GF-7: operand codes (R43), type codes (R54), the header (R38), the six formats
(R47 to R53) and `Instr`, one constructor per row of spec/opcode_table.json. The rows after UNASSIGNED_OPCODE are the
engine steps of spec/95_what_each_step_holds.md and the inputs of the world outside the package: their arguments
name the pending work, the core or the object that the step acts on. -/

namespace Sys2Proof

/-- The special registers of Table 2-4, codes 352 to 372 (R43). -/
inductive Special where
  | lane | wave | crew | core | cluster | stack | die | clock | taskid | argp | quota | fpctl | chkctl
  | scalewin (n : BitVec 3)
  deriving DecidableEq, Repr

/-- The floating-point constants of Table 2-4, codes 337 to 340 (R43, R44). -/
inductive FConst where
  | half | log2e | ln2 | inf
  deriving DecidableEq, Repr

/-- A register operand code of Table 2-4 that is not reserved (R43). -/
inductive Opnd where
  /-- v0 to v255, per thread. -/
  | v (n : BitVec 8)
  /-- s0 to s63, per wave. -/
  | s (n : BitVec 6)
  /-- Integer constants 0 to 15 (codes 320 to 335). -/
  | int (n : BitVec 4)
  /-- Constant -1 (code 336). -/
  | negOne
  | fconst (c : FConst)
  | sp (x : Special)
  deriving DecidableEq, Repr

/-- The type codes of Table 2-11. `resv n` is the reserved code 20 + n, which no entry lists (R54). -/
inductive Ty where
  | none | i8 | i16 | i32 | i64 | n8 | n16 | n32 | n64 | b32 | b64 | f16 | bf16 | f32 | f64 | e4m3 | e5m2 | fq4
  | f16x2 | bf16x2
  | resv (n : BitVec 4)
  deriving DecidableEq, Repr

/-- The rounding modes of RND (R47, R76). -/
inductive Rnd where
  | rne | rtz | rdn | rup
  deriving DecidableEq, Repr

/-- The orderings of ORD (R50). -/
inductive Ord where
  | rlx | acq | rel | ar
  deriving DecidableEq, Repr

/-- The instruction header (Table 2-3) without OPC and FMT, which the constructor gives. PE with PTK and WE with
WTK and WTH are options, since a clear enable requires zero fields (R40). -/
structure Hdr where
  stall : BitVec 4
  post : Option (BitVec 4)
  wait : Option (BitVec 4 × BitVec 3)
  pn : Bool
  pred : BitVec 3
  deriving DecidableEq, Repr

/-- Format A (Table 2-5). -/
structure FmtA where
  d : Opnd
  a : Opnd
  b : Opnd
  c : Opnd
  ty : Ty
  rnd : Rnd
  sat : Bool
  negC : Bool
  absC : Bool
  negB : Bool
  absB : Bool
  negA : Bool
  absA : Bool
  sub : BitVec 4
  pd : BitVec 3
  ps : BitVec 3
  s : Bool
  deriving DecidableEq, Repr

/-- Format I (Table 2-6). -/
structure FmtI where
  d : Opnd
  a : Opnd
  imm : Word
  ty : Ty
  sub : BitVec 4
  s : Bool
  pd : BitVec 3
  deriving DecidableEq, Repr

/-- Format M (Table 2-7). -/
structure FmtM where
  d : Opnd
  a : Opnd
  ofs : BitVec 20
  ty : Ty
  ord : Ord
  scope : BitVec 3
  mop : BitVec 5
  b : Opnd
  deriving DecidableEq, Repr

/-- Format C (Table 2-8). -/
structure FmtC where
  disp : Word
  slot : BitVec 3
  a : Opnd
  jx : BitVec 3
  tk : BitVec 4
  cnt : BitVec 6
  sub : BitVec 4
  deriving DecidableEq, Repr

/-- Format K (Table 2-9). -/
structure FmtK where
  d : Opnd
  a : Opnd
  b : Opnd
  c : Opnd
  sub : BitVec 4
  imm : BitVec 16
  deriving DecidableEq, Repr

/-- Format X (Table 2-10): `guard` is `some (GS, GP)` when GE = 1 (R53). -/
structure FmtX where
  d : Opnd
  a : Opnd
  b : Opnd
  guard : Option (BitVec 5 × Bool)
  ch : BitVec 2
  ty : Ty
  cmd : BitVec 23
  deriving DecidableEq, Repr

/-- A page granted by another package: the attributes recorded at the send and the page's contents (R339, R340). -/
structure RemotePage where
  kind : Nat
  fmtc : Nat
  geo : Nat
  sws : Nat
  bytes : List Byte
  deriving DecidableEq, Repr

/-- What one unit of Erwick Link traffic carries (R404). `serial` is the sender's own number of the call it belongs
to or answers. -/
inductive RemoteBody where
  /-- A message for the port at Catalogue index `index` with generation `gen`, from process `asid` of package `sender`, which is
  0xFFFE for a message of the host (R338, R408, R419). -/
  | message (index gen sender asid : Nat) (tag : DWord) (payload : List Byte) (pages : List RemotePage) (waits : Bool)
  /-- The answer to a `psend` or `nsbind` of this package: a status of Table 13-4. -/
  | answer (status : Nat)
  /-- The target port of a waiting `psend` has room again (R408). -/
  | room
  /-- The TAKEN notice of a grant of this package (R409). -/
  | taken
  /-- A `grantrev` forwarded to this package, for a grant sent to the port at Catalogue index `index` (R410). -/
  | revoke (index : Nat)
  /-- The answer to a forwarded `grantrev` of this package: whether the message had been received (R410). -/
  | revoked (wasTaken : Bool)
  /-- A lookup of a name whose MAP entry names this package (R411, R412). -/
  | lookup (name : DWord)
  /-- The answer to a lookup of this package: the binding's package, index and generation, if it exists. -/
  | found (binding : Option (Nat × Nat × Nat))
  /-- A system binding of a port of the sending package, held here (R411). -/
  | bind (name : DWord) (index gen : Nat)
  /-- Its removal (R412). -/
  | unbind (name : DWord)
  deriving DecidableEq, Repr

/-- One unit of traffic on the stream from die `die` of package `pkg`, number `seq` of that stream (R406). -/
structure RemoteMsg where
  pkg : Nat
  die : Nat
  seq : Nat
  serial : Nat
  body : RemoteBody
  deriving DecidableEq, Repr

/-- An access made by the host (R413, R416): offsets count from the base of the device-shared region (R414), those of
`readReg` and `writeReg` from that of the Acolaotte DVSEC (Table 16-2), and `readConfig` reads the rest of a port's
configuration space: the CXL DVSECs and AER (Table 16-1). -/
inductive HostAccess where
  | readShared (off size : Nat)
  | writeShared (off : Nat) (bytes : List Byte)
  | writeHost (addr : Nat) (bytes : List Byte)
  | readReg (off : Nat)
  | writeReg (off : Nat) (value : DWord)
  | readConfig (port off : Nat)
  deriving DecidableEq, Repr

/-- The storage unit that an uncorrectable error poisons (R429), or the request or copy command, by number, whose data is
spoilt between two dies (R402). -/
inductive EccPlace where
  | mem (unit : Nat)
  | abuf (core unit : Nat)
  | wbuf (core unit : Nat)
  | cbuf (core unit : Nat)
  | vreg (core wave elem : Nat)
  | sreg (core wave num : Nat)
  /-- 8 bytes of a line's copy in an L1 or a cluster cache, and a line of an instruction cache. -/
  | l1 (core line : Nat) (manual : Bool) (unit : Nat)
  | cluster (cluster line unit : Nat)
  | icache (core asid line : Nat)
  | link (num : Nat)
  deriving DecidableEq, Repr

/-- A signature over the SHA-384 digest of what is signed: the SHA-384 hash of its key, and whether it verifies with that key
(R431). The arithmetic of ECDSA over P-384 and of LMS lies outside the model. -/
structure Signature where
  keyHash : BitVec 384
  good : Bool
  deriving DecidableEq, Repr

/-- What the boot ROM finds of an image, or of the package identity: its two signatures, its version and its bytes. -/
structure SignedImage where
  ecdsa : Signature
  lms : Signature
  version : Nat
  bytes : List Byte
  deriving DecidableEq, Repr

/-- What is fused (R431): the four key slots, each with its hash and whether it is revoked, and the anti-rollback counter. -/
structure Fuses where
  keys : List (BitVec 384 × Bool)
  rollback : Nat
  deriving DecidableEq, Repr

/-- What a package reset finds: the fuses, the main image, the bring-up image and the identity (R431, R432), the failing check
that the status word gives, and the limits of the signed configuration block (R426): a rate ceiling for each link port, and the
ranges of the firmware region, each with its first byte and its length. -/
structure BootBlock where
  fuses : Fuses
  main : SignedImage
  bringup : SignedImage
  identity : SignedImage
  failingCheck : Nat
  powerCeiling : Nat
  linkCeilings : List Nat
  firmware : List (Nat × Nat)
  sharedSize : Nat
  deriving DecidableEq, Repr

/-- One constructor per row of spec/opcode_table.json. -/
inductive Instr where
  /-- R140: Adds two register operands per passing lane, with an optional carry-out predicate and saturation. -/
  | add (h : Hdr) (o : FmtA)
  /-- R140: Format I form of add, with a 32-bit immediate in place of operand b. -/
  | addImm (h : Hdr) (o : FmtI)
  /-- R140: Adds two operands and a carry-in predicate, and writes a carry-out predicate. -/
  | addc (h : Hdr) (o : FmtA)
  /-- R140: Format I form of addc, whose carry-in and carry-out share the PD field. -/
  | addcImm (h : Hdr) (o : FmtI)
  /-- R140: Subtracts operand b from operand a, with an optional borrow-out predicate and saturation. -/
  | sub (h : Hdr) (o : FmtA)
  /-- R140: Format I form of sub. -/
  | subImm (h : Hdr) (o : FmtI)
  /-- R140: Subtracts with a borrow-in predicate and writes a borrow-out predicate. -/
  | subb (h : Hdr) (o : FmtA)
  /-- R140: Format I form of subb, whose borrow predicate is named by PD. -/
  | subbImm (h : Hdr) (o : FmtI)
  /-- R141: Writes the low half of a product, with optional saturation. -/
  | mul (h : Hdr) (o : FmtA)
  /-- R141: Format I form of mul. -/
  | mulImm (h : Hdr) (o : FmtI)
  /-- R141: Writes the high half of the exact product. -/
  | mulh (h : Hdr) (o : FmtA)
  /-- R141: Format I form of mulh. -/
  | mulhImm (h : Hdr) (o : FmtI)
  /-- R141: Writes the low half of a product plus an addend. -/
  | mad (h : Hdr) (o : FmtA)
  /-- R142: Starts an integer division on the quadrant's divide unit; the quotient arrives later and may post to a token. -/
  | div (h : Hdr) (o : FmtA)
  /-- R142: Format I form of div. -/
  | divImm (h : Hdr) (o : FmtI)
  /-- R142: Starts an integer remainder on the divide unit; the result arrives later and may post to a token. -/
  | rem (h : Hdr) (o : FmtA)
  /-- R142: Format I form of rem. -/
  | remImm (h : Hdr) (o : FmtI)
  /-- R143: Writes the lesser of two integer operands. -/
  | min (h : Hdr) (o : FmtA)
  /-- R143: Format I form of min. -/
  | minImm (h : Hdr) (o : FmtI)
  /-- R143: Writes the greater of two integer operands. -/
  | max (h : Hdr) (o : FmtA)
  /-- R143: Format I form of max. -/
  | maxImm (h : Hdr) (o : FmtI)
  /-- R143: Writes the absolute value of a signed integer. -/
  | abs (h : Hdr) (o : FmtA)
  /-- R143: Writes the negation of a signed integer. -/
  | neg (h : Hdr) (o : FmtA)
  /-- R144: Writes the bitwise AND of two operands. -/
  | and (h : Hdr) (o : FmtA)
  /-- R144: Format I form of and. -/
  | andImm (h : Hdr) (o : FmtI)
  /-- R144: Writes the bitwise OR of two operands. -/
  | or (h : Hdr) (o : FmtA)
  /-- R144: Format I form of or. -/
  | orImm (h : Hdr) (o : FmtI)
  /-- R144: Writes the bitwise XOR of two operands. -/
  | xor (h : Hdr) (o : FmtA)
  /-- R144: Format I form of xor. -/
  | xorImm (h : Hdr) (o : FmtI)
  /-- R144: Writes a AND NOT b. -/
  | andn (h : Hdr) (o : FmtA)
  /-- R144: Format I form of andn. -/
  | andnImm (h : Hdr) (o : FmtI)
  /-- R144: Writes the bitwise complement of a. -/
  | not (h : Hdr) (o : FmtA)
  /-- R145: Shifts left by a 32-bit amount. -/
  | shl (h : Hdr) (o : FmtA)
  /-- R145: Format I form of shl. -/
  | shlImm (h : Hdr) (o : FmtI)
  /-- R145: Shifts right logically. -/
  | shr (h : Hdr) (o : FmtA)
  /-- R145: Format I form of shr. -/
  | shrImm (h : Hdr) (o : FmtI)
  /-- R145: Shifts right arithmetically. -/
  | sha (h : Hdr) (o : FmtA)
  /-- R145: Format I form of sha. -/
  | shaImm (h : Hdr) (o : FmtI)
  /-- R145: Rotates left by the amount modulo the width. -/
  | rot (h : Hdr) (o : FmtA)
  /-- R145: Format I form of rot. -/
  | rotImm (h : Hdr) (o : FmtI)
  /-- R146: Takes a 32-bit window from a 64-bit register pair, in ring or fill mode. -/
  | shf (h : Hdr) (o : FmtA)
  /-- R147: Extracts a bit field with sign or zero extension. -/
  | bfe (h : Hdr) (o : FmtA)
  /-- R147: Format I form of bfe, with the position and length in the immediate. -/
  | bfeImm (h : Hdr) (o : FmtI)
  /-- R147: Inserts a bit field. -/
  | bfi (h : Hdr) (o : FmtA)
  /-- R148: Counts the one bits. -/
  | popc (h : Hdr) (o : FmtA)
  /-- R148: Counts the leading zeros. -/
  | clz (h : Hdr) (o : FmtA)
  /-- R148: Counts the trailing zeros. -/
  | ctz (h : Hdr) (o : FmtA)
  /-- R148: Reverses the bit order. -/
  | brev (h : Hdr) (o : FmtA)
  /-- R149: Selects bytes from a register pair by selector nibbles. -/
  | perm (h : Hdr) (o : FmtA)
  /-- R149: Format I form of perm, with the selector in the immediate. -/
  | permImm (h : Hdr) (o : FmtI)
  /-- R150: Selects a or b by a predicate. -/
  | sel (h : Hdr) (o : FmtA)
  /-- R150: Format I form of sel, with the predicate in PD. -/
  | selImm (h : Hdr) (o : FmtI)
  /-- R151: Compares integers and writes a predicate ANDed with a source predicate. -/
  | cmp (h : Hdr) (o : FmtA)
  /-- R151: Format I form of cmp. -/
  | cmpImm (h : Hdr) (o : FmtI)
  /-- R153: Forms a 64-bit address from a base and a shifted index. -/
  | lea (h : Hdr) (o : FmtA)
  /-- R153: Format I form of lea. -/
  | leaImm (h : Hdr) (o : FmtI)
  /-- R154: Copies a register, constant or special unchanged. -/
  | mov (h : Hdr) (o : FmtA)
  /-- R154: Writes an immediate, or with .hi the high word of a pair. -/
  | movi (h : Hdr) (o : FmtI)
  /-- R155: Sign-extends the low bits to 32 or 64 bits. -/
  | sxt (h : Hdr) (o : FmtA)
  /-- R155: Zero-extends the low bits to 32 or 64 bits. -/
  | zxt (h : Hdr) (o : FmtA)
  /-- R152: Computes any function of three predicates from a truth table. -/
  | plop (h : Hdr) (o : FmtA)
  /-- R156: Copies one lane's register into an s register and writes a validity predicate. -/
  | sread (h : Hdr) (o : FmtA)
  /-- R157: Writes FPCTL, CHKCTL or a SCALEWIN register once for the wave. -/
  | swrite (h : Hdr) (o : FmtA)
  /-- R177: Adds floating-point values with one rounding. -/
  | fadd (h : Hdr) (o : FmtA)
  /-- R177: Format I form of fadd. -/
  | faddImm (h : Hdr) (o : FmtI)
  /-- R177: Subtracts floating-point values with one rounding. -/
  | fsub (h : Hdr) (o : FmtA)
  /-- R177: Format I form of fsub. -/
  | fsubImm (h : Hdr) (o : FmtI)
  /-- R177: Multiplies floating-point values with one rounding. -/
  | fmul (h : Hdr) (o : FmtA)
  /-- R177: Format I form of fmul. -/
  | fmulImm (h : Hdr) (o : FmtI)
  /-- R177: Forms a fused multiply-add with one rounding. -/
  | ffma (h : Hdr) (o : FmtA)
  /-- R179: Writes the lesser floating-point operand. -/
  | fmin (h : Hdr) (o : FmtA)
  /-- R179: Format I form of fmin. -/
  | fminImm (h : Hdr) (o : FmtI)
  /-- R179: Writes the greater floating-point operand. -/
  | fmax (h : Hdr) (o : FmtA)
  /-- R179: Format I form of fmax. -/
  | fmaxImm (h : Hdr) (o : FmtI)
  /-- R182: Compares floating-point values and writes a predicate. -/
  | fcmp (h : Hdr) (o : FmtA)
  /-- R182: Format I form of fcmp. -/
  | fcmpImm (h : Hdr) (o : FmtI)
  /-- R183: Writes the one-hot class mask of a value. -/
  | fclass (h : Hdr) (o : FmtA)
  /-- R184: Approximates the reciprocal. -/
  | frcp (h : Hdr) (o : FmtA)
  /-- R184: Approximates the reciprocal square root. -/
  | frsq (h : Hdr) (o : FmtA)
  /-- R178: Writes the correctly rounded square root. -/
  | fsqrt (h : Hdr) (o : FmtA)
  /-- R178: Writes the correctly rounded quotient. -/
  | fdiv (h : Hdr) (o : FmtA)
  /-- R184: Approximates 2 to the power x. -/
  | fexp2 (h : Hdr) (o : FmtA)
  /-- R184: Approximates log2 x. -/
  | flog2 (h : Hdr) (o : FmtA)
  /-- R184: Approximates sin x. -/
  | fsin (h : Hdr) (o : FmtA)
  /-- R184: Approximates cos x. -/
  | fcos (h : Hdr) (o : FmtA)
  /-- R184: Approximates tanh x. -/
  | ftanh (h : Hdr) (o : FmtA)
  /-- R180: Multiplies by a power of two with one rounding. -/
  | fscale (h : Hdr) (o : FmtA)
  /-- R180: Format I form of fscale, with the exponent as the immediate. -/
  | fscaleImm (h : Hdr) (o : FmtI)
  /-- R181: Rounds to an integral value in the selected direction. -/
  | frnd (h : Hdr) (o : FmtA)
  /-- R188: Converts between element formats. -/
  | cvt (h : Hdr) (o : FmtA)
  /-- R187: Forms a four-element 8-bit dot product plus a 32-bit addend. -/
  | dot4 (h : Hdr) (o : FmtA)
  /-- R186: Adds packed half-precision pairs. -/
  | hadd2 (h : Hdr) (o : FmtA)
  /-- R186: Format I form of hadd2. -/
  | hadd2Imm (h : Hdr) (o : FmtI)
  /-- R186: Multiplies packed half-precision pairs. -/
  | hmul2 (h : Hdr) (o : FmtA)
  /-- R186: Format I form of hmul2. -/
  | hmul2Imm (h : Hdr) (o : FmtI)
  /-- R186: Forms fused multiply-adds on packed half-precision pairs. -/
  | hfma2 (h : Hdr) (o : FmtA)
  /-- R192: Reads a value from another active lane, by lane, offset, butterfly or rotation. -/
  | shfl (h : Hdr) (o : FmtA)
  /-- R192: Format I form of shfl, with the selector as the immediate. -/
  | shflImm (h : Hdr) (o : FmtI)
  /-- R193: Votes every, some or same over the active lanes' predicates. -/
  | vote (h : Hdr) (o : FmtA)
  /-- R194: Writes the mask of active lanes whose predicate holds. -/
  | ballot (h : Hdr) (o : FmtA)
  /-- R195: Writes masks of active lanes that hold equal bits. -/
  | matchLanes (h : Hdr) (o : FmtA)
  /-- R196: Reduces a value over the active set and writes the result to every active lane. -/
  | redux (h : Hdr) (o : FmtA)
  /-- R197: Permutes values within each octet by a uniform pattern. -/
  | laneperm (h : Hdr) (o : FmtA)
  /-- R197: Format I form of laneperm, with the pattern in the immediate. -/
  | lanepermImm (h : Hdr) (o : FmtI)
  /-- R159: Branches the passing lanes to a PC-relative target, dividing the split as needed. -/
  | bra (h : Hdr) (o : FmtC)
  /-- R160: Branches each passing lane to the target address in its register. -/
  | brx (h : Hdr) (o : FmtC)
  /-- R161: Writes the link pair and transfers to a PC-relative target. -/
  | call (h : Hdr) (o : FmtC)
  /-- R161: Writes the link pair and transfers to a register target. -/
  | callx (h : Hdr) (o : FmtC)
  /-- R162: Returns each passing lane to the address in its return pair. -/
  | ret (h : Hdr) (o : FmtC)
  /-- R110: Opens a rejoin register with the passing lanes as the expected set. -/
  | join (h : Hdr) (o : FmtC)
  /-- R110: Arrives at a rejoin register and either merges the waiting splits or enters JOINWAIT. -/
  | waitj (h : Hdr) (o : FmtC)
  /-- R164: Removes the passing lanes from the wave, updating rejoin registers and barrier drops. -/
  | exit (h : Hdr) (o : FmtC)
  /-- R165: Has only its header effects. -/
  | nop (h : Hdr) (o : FmtC)
  /-- R165: Holds the wave's next issue for n extra cycles. -/
  | delay (h : Hdr) (o : FmtC)
  /-- R166: Makes the wave yield the quadrant for up to 64 cycles. -/
  | yield (h : Hdr) (o : FmtC)
  /-- R167: Lowers the wave's current issue level by one. -/
  | backoff (h : Hdr) (o : FmtC)
  /-- R168: Waits until a token stands at or below a threshold from 0 to 63. -/
  | twait (h : Hdr) (o : FmtC)
  /-- R169: Sets a token's checker guaranteed mark to its post count. -/
  | treset (h : Hdr) (o : FmtC)
  /-- R170: Writes a token's outstanding count into a register. -/
  | tread (h : Hdr) (o : FmtC)
  /-- R171: Requests a new register quota from the quadrant's free pool and writes the resulting quota. -/
  | regq (h : Hdr) (o : FmtC)
  /-- R242: Loads 1 to 32 bytes of memory per passing lane, optionally splitting the split at misses. -/
  | ld (h : Hdr) (o : FmtM)
  /-- R242: Stores 1 to 32 bytes of memory per passing lane. -/
  | st (h : Hdr) (o : FmtM)
  /-- R245: Loads page elements, decodes them with their scales and rounds them to a register type. -/
  | lde (h : Hdr) (o : FmtM)
  /-- R246: Loads from the A-buffer. -/
  | lda (h : Hdr) (o : FmtM)
  /-- R246: Stores to the A-buffer. -/
  | sta (h : Hdr) (o : FmtM)
  /-- R246: Loads from the W-buffer. -/
  | ldw (h : Hdr) (o : FmtM)
  /-- R246: Loads FP32 elements from the C-buffer. -/
  | ldc (h : Hdr) (o : FmtM)
  /-- R248: Performs a read-modify-write at the unit its scope names and returns the old value. -/
  | atom (h : Hdr) (o : FmtM)
  /-- R248: Performs a read-modify-write without returning a result. -/
  | red (h : Hdr) (o : FmtM)
  /-- R252: Compares up to eight words under locks and writes them all or none as one event. -/
  | mcas (h : Hdr) (o : FmtM)
  /-- R255: Orders the thread's later accesses by acquire, release, both or sequentially consistent rules. -/
  | fence (h : Hdr) (o : FmtM)
  /-- R256: Writes back the dirty MANUAL bytes of an address range. -/
  | wbr (h : Hdr) (o : FmtM)
  /-- R256: Writes back and drops cached copies of a range, including instruction-cache lines. -/
  | invr (h : Hdr) (o : FmtM)
  /-- R259: Prefetches a line into the L1 or the cluster cache without faulting. -/
  | pref (h : Hdr) (o : FmtM)
  /-- R260: Prefetches instruction lines into the instruction cache. -/
  | ipref (h : Hdr) (o : FmtM)
  /-- R260: Fetches and pins instruction lines for the crew. -/
  | ipin (h : Hdr) (o : FmtM)
  /-- R260: Removes the crew's pins on a range of instruction lines. -/
  | iunpin (h : Hdr) (o : FmtM)
  /-- R261: Arms a one-shot watch at a line's home, or signals the counter at once if the word differs. -/
  | watch (h : Hdr) (o : FmtM)
  /-- R265: Arrives at a crew barrier with a thread count. -/
  | barArrive (h : Hdr) (o : FmtA)
  /-- R265: Waits on a barrier for the phase of the lanes' pending arrivals. -/
  | barWait (h : Hdr) (o : FmtA)
  /-- R265: Arrives at a barrier and waits for the phase to complete. -/
  | barSync (h : Hdr) (o : FmtA)
  /-- R264: Format I form of bar.arrive, with the count in the immediate. -/
  | barArriveImm (h : Hdr) (o : FmtI)
  /-- R264: Format I form of bar.sync, with the count in the immediate. -/
  | barSyncImm (h : Hdr) (o : FmtI)
  /-- R268: Binds a scratchpad queue to an A-buffer header and ring, and wakes the lanes suspended on it. -/
  | sqinit (h : Hdr) (o : FmtA)
  /-- R269: Pushes one handle per passing lane, or suspends and replays. -/
  | sqpush (h : Hdr) (o : FmtA)
  /-- R269: Returns send allowance to a queue without pushing. -/
  | sqpushCredit (h : Hdr) (o : FmtA)
  /-- R269: Pops one handle per passing lane, or suspends and replays. -/
  | sqpop (h : Hdr) (o : FmtA)
  /-- R269: Pops handles and also returns allowance. -/
  | sqpopFree (h : Hdr) (o : FmtA)
  /-- R277: Issues a linear copy command, optionally decoding, to a channel of the copy engine. -/
  | cpy (h : Hdr) (o : FmtX)
  /-- R286: Issues a strided multicast copy to the buffers of gang cores of the cluster. -/
  | cpym (h : Hdr) (o : FmtX)
  /-- R277: Issues a strided copy command. -/
  | cpys (h : Hdr) (o : FmtX)
  /-- R277: Issues a gather copy through a row list. -/
  | cpyg (h : Hdr) (o : FmtX)
  /-- R277: Issues a scatter copy through a row list. -/
  | cpyx (h : Hdr) (o : FmtX)
  /-- R284: Seals each passing lane's open copy commands into a batch and optionally posts on its completion. -/
  | seal (h : Hdr) (o : FmtA)
  /-- R294: Reads a channel's write pointer, as a crew-scope acquire of the delivered bytes. -/
  | cptr (h : Hdr) (o : FmtA)
  /-- R294: Reads a channel's issue pointer. -/
  | cptrIptr (h : Hdr) (o : FmtA)
  /-- R294: Reads a channel's status word. -/
  | cptrStat (h : Hdr) (o : FmtA)
  /-- R287: Adds an amount to the pending-bytes count of a crew barrier. -/
  | cinit (h : Hdr) (o : FmtA)
  /-- R285: Arrives at a barrier, deferring each lane's arrival until its batch completes. -/
  | carr (h : Hdr) (o : FmtA)
  /-- R291: Sets masked guard slots to SET0 or SET1 at t + 2, as a release. -/
  | gset (h : Hdr) (o : FmtA)
  /-- R291: Format I form of gset, with the mask in the immediate. -/
  | gsetImm (h : Hdr) (o : FmtI)
  /-- R292: Sets masked guard slots to UNSET at t + 2. -/
  | gclr (h : Hdr) (o : FmtA)
  /-- R292: Format I form of gclr, with the mask in the immediate. -/
  | gclrImm (h : Hdr) (o : FmtI)
  /-- R303: Issues a matrix multiply-accumulate command directed by a parameter block. -/
  | mma (h : Hdr) (o : FmtX)
  /-- R317: Issues a command that zeroes a run of C tiles. -/
  | mzero (h : Hdr) (o : FmtX)
  /-- R321: Issues a wave-port command that reads C-tile elements into lane registers. -/
  | mrd (h : Hdr) (o : FmtA)
  /-- R321: Issues a wave-port command that writes lane registers into C-tile elements. -/
  | mwr (h : Hdr) (o : FmtA)
  /-- R318: Issues a max or sum reduction of tile columns into one column. -/
  | mred (h : Hdr) (o : FmtX)
  /-- R319: Issues an element-wise mul, scale, sub, exp2 or causal operation on a tile. -/
  | mmap (h : Hdr) (o : FmtX)
  /-- R320: Issues a conversion of tile rows into A-buffer rows. -/
  | mcvt (h : Hdr) (o : FmtX)
  /-- R323: Reports what the matrix queue holds for a tile. -/
  | mtile (h : Hdr) (o : FmtA)
  /-- R336: Creates a wave in the caller's crew on the same core. -/
  | wcreate (h : Hdr) (o : FmtK)
  /-- R338: Sends a message, optionally granting pages, to a port. -/
  | psend (h : Hdr) (o : FmtK)
  /-- R340: Receives the oldest message of a port and maps its granted pages. -/
  | precv (h : Hdr) (o : FmtK)
  /-- R343: Sets a member of a wait set to a counter and a target. -/
  | wsadd (h : Hdr) (o : FmtK)
  /-- R343: Removes a member from a wait set. -/
  | wsdel (h : Hdr) (o : FmtK)
  /-- R344: Suspends the passing lanes until a counter or wait set is satisfied, with a PC-relative continuation. -/
  | suspend (h : Hdr) (o : FmtK)
  /-- R344: Suspend with the continuation taken from a register pair. -/
  | suspendX (h : Hdr) (o : FmtK)
  /-- R345: Arms a timer with a deadline and a period. -/
  | tarm (h : Hdr) (o : FmtK)
  /-- R345: Disarms a timer. -/
  | tdisarm (h : Hdr) (o : FmtK)
  /-- R342: Adds an increment to an event counter and wakes its satisfied waiters. -/
  | ecsig (h : Hdr) (o : FmtK)
  /-- R342: Reads an event counter's value. -/
  | ecread (h : Hdr) (o : FmtK)
  /-- R347: Enqueues a task record into a task queue slot. -/
  | qenq (h : Hdr) (o : FmtK)
  /-- R350: Creates a dependence counter with a count and a successor task. -/
  | dcinit (h : Hdr) (o : FmtK)
  /-- R350: Decrements a dependence counter and enqueues its successor on reaching zero. -/
  | dcdec (h : Hdr) (o : FmtK)
  /-- R329: Creates a port, wait set, timer, queue or event counter. -/
  | objnew (h : Hdr) (o : FmtK)
  /-- R352: Deletes an object with the effects its type gives. -/
  | objdel (h : Hdr) (o : FmtK)
  /-- R353: Reads an object's type, state and count. -/
  | objinfo (h : Hdr) (o : FmtK)
  /-- R351: Resolves a name through the reaches and creates a proxy port. -/
  | nslook (h : Hdr) (o : FmtK)
  /-- R351: Binds a name to an OPEN port in the package or system reach. -/
  | nsbind (h : Hdr) (o : FmtK)
  /-- R341: Revokes an INFLIGHT grant and restores the sender's pages. -/
  | grantrev (h : Hdr) (o : FmtK)
  /-- R355: Gathers the split's passing lanes into one mailbox-ring entry for a service core. -/
  | syscall (h : Hdr) (o : FmtK)
  /-- R358: Checks a launch record and opens a launch. -/
  | launch (h : Hdr) (o : FmtK)
  /-- R376: Reads a launch's status word. -/
  | lstat (h : Hdr) (o : FmtK)
  /-- R369: Reads a contract descriptor and admits the contract or rejects it. -/
  | ctadmit (h : Hdr) (o : FmtK)
  /-- R394: Names a hint block of live state and marks a pre-emption point. -/
  | phint (h : Hdr) (o : FmtI)
  /-- R394: Marks a pre-emption point that saves everything, unhinted. -/
  | phintFull (h : Hdr) (o : FmtI)
  /-- R395: Takes SOFTWARE in the passing lanes. -/
  | trap (h : Hdr) (o : FmtI)
  /-- R395: Takes BREAKPOINT in the passing lanes. -/
  | bkpt (h : Hdr) (o : FmtI)
  /-- R396: Resumes the STOPPED lanes of a named wave. -/
  | rett (h : Hdr) (o : FmtC)
  /-- R396: Resumes the STOPPED lanes of a named wave for one step, then stops them again with STEP. -/
  | rettStep (h : Hdr) (o : FmtC)
  /-- R397: Pre-empts the crew on a core, saves it and holds it. -/
  | csave (h : Hdr) (o : FmtA)
  /-- R398: Restores a HELD crew from its frame to a core or a resume list. -/
  | crest (h : Hdr) (o : FmtA)
  /-- R399: Shoots down an address range of an ASID. -/
  | ptinv (h : Hdr) (o : FmtM)
  /-- R399: Shoots down a range and resumes the PARKED splits whose faults lie in it. -/
  | ptinvRsm (h : Hdr) (o : FmtM)
  /-- R399: Shoots down a range and ends the PARKED splits whose faults lie in it. -/
  | ptinvEnd (h : Hdr) (o : FmtM)
  /-- R56: A split issues a slot whose major opcode is unassigned, including 0xF0-0xFF, and takes ILLEGAL_OPCODE for the whole split. -/
  | unassignedOpcode (word : BitVec 96)
  /-- R114: The register results of a fixed-latency instruction are written at t + L − 1. -/
  | fixedLatencyWrite (core wave : Nat)
  /-- R142: The divide unit writes the results of a div or rem, 18 or 34 cycles after issue. -/
  | divideComplete (core wave op : Nat)
  /-- R120: A completed operation and every older one on its token retire, and the count falls. -/
  | tokenRetire (core wave tok : Nat)
  /-- R131: After 4,096 ready cycles without issue, the wave becomes aged and claims its datapath. -/
  | waveAged (core wave : Nat)
  /-- R166: 64 cycles after a yield, the wave stops yielding. -/
  | yieldExpiry (core wave : Nat)
  /-- R102: A wave with no lane left and every token at zero retires, and its slot and registers return. -/
  | waveRetire (core wave : Nat)
  /-- R37: A fetched line arrives in the instruction cache and its BTM and parity are checked. -/
  | icacheLineFill (core asid line : Nat)
  /-- R206: A cluster walk returns a translation, or a fault, to the waiting accesses. -/
  | tlbWalkComplete (core asid page : Nat)
  /-- R213: A RELEASED load is performed at the home, granting a lease and installing copies. -/
  | homeLoad (req : Nat)
  /-- R213: A store is performed at its home and timestamped. -/
  | homeStore (req : Nat)
  /-- R213: A store acknowledgement returns, updating the core's copies and its time. -/
  | storeAck (req : Nat)
  /-- R213: A cached RELEASED copy older than 1,024 cycles is dropped. -/
  | leaseExpiry (inL1 : Bool) (unit line : Nat)
  /-- R215: A line leaves a home slice, raising the slice's timestamp floor. -/
  | lineLeavesSlice (line : Nat)
  /-- R216: The L1 evicts a line, writing back the dirty MANUAL bytes. -/
  | l1Eviction (core line : Nat)
  /-- R216: The home merges written-back MANUAL bytes by mask. -/
  | manualWritebackMerge (wb : Nat)
  /-- R217: An atomic or red is performed at the unit its scope names. -/
  | atomicPerform (req : Nat)
  /-- R253: A Conjunction unit is granted the lock of an mcas line at its home. -/
  | mcasLock (req : Nat)
  /-- R252: With every line locked, the entries are compared, written on success and unlocked. -/
  | mcasComplete (req : Nat)
  /-- R207: Every core has dropped the old translation and written back its MANUAL bytes. -/
  | shootdownComplete (sd : Nat)
  /-- R261: A write at the home to a watched line signals the counter and disarms the watch. -/
  | watchFire (watch : Nat)
  /-- R222: The missing lanes of an .ms load become READY at next(x) when their data is written. -/
  | missSplitWake (core wave op : Nat)
  /-- R257: A wbr or invr completes for a lane once its write-backs are acknowledged. -/
  | cacheOpComplete (req : Nat)
  /-- R269: A change to a queue header wakes the splits suspended on it to replay. -/
  | sqHeaderWake (core q : Nat)
  /-- R280: A copy command enters its channel queue and takes its stream positions. -/
  | copyAccept (core cmd : Nat)
  /-- R290: A guarded copy command resolves against its guard slot. -/
  | copyGuardResolve (core cmd : Nat)
  /-- R283: A channel starts its next command after the footprint checks, discarding or faulting it as needed. -/
  | copyStart (core chan : Nat)
  /-- R281: Copied bytes are performed at the destination, advancing WPTR and the barrier's PB. -/
  | copyDeliver (core cmd bytes : Nat)
  /-- R272: A copy command completes and leaves its queue and batch. -/
  | copyComplete (core cmd : Nat)
  /-- R293: A mid-copy memory fault stops the command and halts its channel. -/
  | copyFaultHalt (core cmd : Nat)
  /-- R285: When a lane's batch completes, its deferred barrier arrival is made. -/
  | carrDeferredArrival (core wave lane : Nat)
  /-- R287: A cinit's amount is added to PB, within 8 cycles of issue. -/
  | cinitPerform (core op : Nat)
  /-- R304: A matrix command enters the queue, or is dropped with GUARD_OPEN under R309. -/
  | matrixAccept (core cmd : Nat)
  /-- R308: A guarded matrix command resolves; otherwise it is discarded. -/
  | matrixGuardResolve (core cmd : Nat)
  /-- R301: An mma reads and checks its parameter block and fixes its footprint. -/
  | mmaBlockRead (core cmd : Nat)
  /-- R306: A unit starts the oldest eligible command that meets the scoreboard. -/
  | matrixStart (core cmd : Nat)
  /-- R307: An mma writes its tile D + 32 cycles after its start. -/
  | mmaComplete (core cmd : Nat)
  /-- R307: A tile-unit command completes with its writes and flags. -/
  | tileUnitComplete (core cmd : Nat)
  /-- R307: An mrd or mwr completes 12 cycles after its start. -/
  | wavePortComplete (core cmd : Nat)
  /-- R324: A call that would wait is woken by a change of its port, queue or ring, to replay. -/
  | suspendReplayWake (waiter : Nat)
  /-- R344: A satisfied counter or wait set makes the suspended split READY at its continuation. -/
  | orreryWake (waiter : Nat)
  /-- R345: A timer reaches its deadline and signals its counter. -/
  | siderealExpiry (obj : Nat)
  /-- R348: The Orrery gathers queued tasks into a wave on a stage core. -/
  | taskWaveForm (core obj : Nat)
  /-- R350: A HELD dependence successor is enqueued when a general slot frees. -/
  | heldSuccessorEnqueue (obj : Nat)
  /-- R408: A forwarded message reaches the target port and is appended or refused. -/
  | remoteMessageArrival (pkg serial : Nat)
  /-- R409: The receiver's TAKEN notice ends the reservation of the granted frames. -/
  | grantTakenNotice (obj : Nat)
  /-- R410: A forwarded grantrev removes the queued message at the target or answers TAKEN. -/
  | remoteGrantrev (pkg serial : Nat)
  /-- R361: A die agent claims a range of indices for its free cores from the central counter. -/
  | dieAgentClaim (die : Nat)
  /-- R362: A claimed crew's save frame is reserved and its waves are created on a core. -/
  | crewStart (core : Nat)
  /-- R28: A crew whose waves, queues and engines are done retires, and the launch may complete. -/
  | crewRetire (core : Nat)
  /-- R365: A die agent reserves a cluster and has its crews moved away to place a gang. -/
  | gangGather (die : Nat)
  /-- R370: At S_k, Ephemeris opens an instance and asks for pre-emption on the set cores. -/
  | contractInstanceOpen (obj : Nat)
  /-- R371: A core's charge reaches the share, and its instance crews drop to normal class. -/
  | contractShareReached (obj core : Nat)
  /-- R372: At an instance's deadline, a miss drops indices, signals MISSCTR and demotes or aborts crews. -/
  | contractDeadline (obj inst : Nat)
  /-- R367: A bandwidth or power window closes, and the tenant's gating is re-evaluated. -/
  | budgetWindowClose (tenant win watts : Nat)
  /-- R375: Every 10,000 cycles, Precession adds, moves or drains one core per enabled stage. -/
  | precessionEval 
  /-- R375: A draining core with its task waves retired and engines empty leaves its stage. -/
  | stageCoreLeave (core : Nat)
  /-- R384: A pre-emption request reaches a crew, whose waves then come to rest. -/
  | preemptRequest (core reason : Nat)
  /-- R384: 8,192 cycles after a request, every wave stops and is saved unhinted. -/
  | forcedSaveTimeout (core : Nat)
  /-- R386: Once every wave rests, Dusk drains the crew and writes its save frame. -/
  | crewSave (core : Nat)
  /-- R388: The frame becomes SAVED or HELD, and the core is free. -/
  | saveComplete (core : Nat)
  /-- R388: A saved crew is restored on a free core and issues again. -/
  | crewRestore (frame core : Nat)
  /-- R366: Dusk moves a crew to another core with a release, an acquire and a MANUAL write-back. -/
  | crewMove (src dst : Nat)
  /-- R379: A trap is taken at an instruction boundary, parking, stopping or ending its lanes. -/
  | trapDelivery (trap : Nat)
  /-- R383: A crew's speculative version merges into memory as one event. -/
  | versionCommit (core : Nat)
  /-- R407: A stream held unacknowledged for 2,000,000 cycles makes its package unreachable. -/
  | streamTimeout (pkg : Nat)
  /-- R406: Erwick Link traffic of a stream is delivered at the destination in order. -/
  | flitArrival (msg : RemoteMsg)
  /-- R415: A host access unanswered for 1,000,000 cycles triggers a host warm restart. -/
  | hostAccessTimeout (req : Nat)
  /-- R416: A host access to the device-shared region is performed at its home slice. -/
  | hostCxlMemAccess (acc : HostAccess)
  /-- R415: The host's invalidation of a watched host line fires its watch. -/
  | hostSnoopInvalidation (line : Nat)
  /-- R415: The host answers a device access to a window. -/
  | hostAccessComplete (req : Nat)
  /-- R421: A CXL hot reset or loss of link on every port that is up triggers a warm restart. -/
  | cxlLinkLoss 
  /-- R421: A host write of 1 to EWCCTL.RESTART requests a warm restart. -/
  | ewcctlRestart 
  /-- R419: The command ring's NOP call returns ARG0. -/
  | ewcNop 
  /-- R419: The command ring's LAUNCH call opens a launch for a target ASID. -/
  | ewcLaunch 
  /-- R419: The command ring's LSTAT call returns a launch's status word. -/
  | ewcLstat 
  /-- R419: The command ring's SEND call sends a short message with SENDER 0xFFFE. -/
  | ewcSend 
  /-- R419: The command ring's HBIND call binds a name in the host reach. -/
  | ewcHbind 
  /-- R419: The command ring's HUNBIND call removes a host-reach binding. -/
  | ewcHunbind 
  /-- R425: The syscall function that appends text to the log. -/
  | log (entry lane : Nat)
  /-- R428: The syscall function that reads the core's eight event counters. -/
  | evread (entry lane : Nat)
  /-- R428: The syscall function that selects counter sources and zeroes the counters. -/
  | evsel (entry lane : Nat)
  /-- R327: The syscall function that names the process's own fault and pager ports. -/
  | ownports (entry lane : Nat)
  /-- R425: The supervisor function that creates or deletes a process entry. -/
  | proc (entry lane : Nat)
  /-- R425: The supervisor function that adds frames to a process's frame pool. -/
  | frames (entry lane : Nat)
  /-- R367: The supervisor function that writes a tenant budget entry. -/
  | tenant (entry lane : Nat)
  /-- R427: The supervisor function that writes a tenant firewall slot. -/
  | firewall (entry lane : Nat)
  /-- R374: The supervisor function that writes a Precession stage entry. -/
  | stage (entry lane : Nat)
  /-- R423: The supervisor function that writes a host window entry with the current epoch. -/
  | hwin (entry lane : Nat)
  /-- R401: The supervisor function that writes the package number, a route or a MAP block. -/
  | route (entry lane : Nat)
  /-- R425: The supervisor function that writes EWCCMD, EWCINB and the restart counter. -/
  | ewcset (entry lane : Nat)
  /-- R426: The supervisor function that sets the power and link caps, clamped to their ceilings. -/
  | caps (entry lane : Nat)
  /-- R425: The supervisor function that reads error log entries. -/
  | ras (entry lane : Nat)
  /-- R425: The supervisor function that binds or unbinds a host-reach name. -/
  | hbind (entry lane : Nat)
  /-- R430: Each 10 µs, the governor compares package power with the cap and steps issue throttling. -/
  | powerGovernorTick (watts : Nat)
  /-- R430: A junction temperature of 105 °C throttles issue as the power cap does. -/
  | thermalLimit (hot : Bool)
  /-- R430: At 115 °C the package stops every die and drops its CXL links. -/
  | thermalShutdown 
  /-- R429: A corrected error is repaired in place, counted, and logged once per 1,024. -/
  | eccCorrected (core loc : Nat)
  /-- R429: An uncorrectable error poisons its unit and is logged. -/
  | eccUncorrectable (place : EccPlace)
  /-- R431: The boot ROM verifies the firmware, falls back to the bring-up image, or stays in reset. -/
  | packageReset (boot : BootBlock)
  /-- R333: An Orrery object call arrives at the Orrery that homes its object, is performed there as one indivisible step, and its result returns to the calling lane. -/
  | objectCallPerform (call : Nat)
  /-- R261: A watch request reaches the home of its line, which compares the word and either signals the counter at once or arms the watch. -/
  | watchArm (req : Nat)
  /-- R120: A load's data returns and is written into the lane registers, completing its operation before or at its token retirement. -/
  | loadComplete (core wave op : Nat)
  /-- R413: A CXL host port trains and comes up, possibly at a lower rate or width, and host traffic spreads over it. -/
  | cxlLinkUp (port rate width : Nat)
  /-- R431: A host request over DOE, such as CDAT or SPDM, to read the package identity is taken and answered. -/
  | doeRequest (port kind : Nat)
  deriving DecidableEq, Repr

end Sys2Proof
end

