-- ==== Sys2Proof/WellFormed.lean ====
section
/-! DEFINITION. Which instructions the encoding rules admit: for each instruction its row of the opcode tables
(Tables 6-1, 6-2, 7-1, 7-4, 7-6, 9-1, 10-2, 11-3, 13-6, 14-1, 15-7) as data, from which the checks of decode
(R40, R42 to R55), the encoder and the registers that an instruction reads and writes are taken. -/

namespace Sys2Proof

/-! ## Types (Table 2-11) -/

/-- Bits of a value of the type in a register or in memory; 0 where the type has no width. -/
def Ty.bits : Ty → Nat
  | .i8 | .n8 | .e4m3 | .e5m2 => 8
  | .i16 | .n16 | .f16 | .bf16 => 16
  | .i32 | .n32 | .b32 | .f32 | .f16x2 | .bf16x2 => 32
  | .i64 | .n64 | .b64 | .f64 => 64
  | .none | .fq4 | .resv _ => 0

/-- Whether an operand of the type is a register pair (R45). -/
def Ty.wide (t : Ty) : Bool := t.bits == 64

/-- Registers that an operand of the type takes. -/
def Ty.regs (t : Ty) : Nat := if t.wide then 2 else 1

/-- The signed integer types (R8). -/
def Ty.signed : Ty → Bool
  | .i8 | .i16 | .i32 | .i64 => true
  | _ => false

/-- The floating-point types, to which the constants of codes 337 to 340 belong (R44). -/
def Ty.float : Ty → Bool
  | .f16 | .bf16 | .f32 | .f64 | .e4m3 | .e5m2 | .f16x2 | .bf16x2 => true
  | _ => false

/-- The integer types of `cvt` (Table 7-4). -/
def Ty.isInt : Ty → Bool
  | .i8 | .i16 | .i32 | .i64 | .n8 | .n16 | .n32 | .n64 => true
  | _ => false

/-- The scalar floating-point formats of `cvt` (Table 7-4). -/
def Ty.isFloat6 : Ty → Bool
  | .f64 | .f32 | .f16 | .bf16 | .e4m3 | .e5m2 => true
  | _ => false

/-- The code of a type (Table 2-11). -/
def Ty.code : Ty → Nat
  | .none => 0 | .i8 => 1 | .i16 => 2 | .i32 => 3 | .i64 => 4 | .n8 => 5 | .n16 => 6 | .n32 => 7 | .n64 => 8
  | .b32 => 9 | .b64 => 10 | .f16 => 11 | .bf16 => 12 | .f32 => 13 | .f64 => 14 | .e4m3 => 15 | .e5m2 => 16
  | .fq4 => 17 | .f16x2 => 18 | .bf16x2 => 19
  | .resv n => 20 + n.toNat

/-- The type of a 5-bit code. -/
def Ty.ofCode (n : Nat) : Ty :=
  match n with
  | 0 => .none | 1 => .i8 | 2 => .i16 | 3 => .i32 | 4 => .i64 | 5 => .n8 | 6 => .n16 | 7 => .n32 | 8 => .n64
  | 9 => .b32 | 10 => .b64 | 11 => .f16 | 12 => .bf16 | 13 => .f32 | 14 => .f64 | 15 => .e4m3 | 16 => .e5m2
  | 17 => .fq4 | 18 => .f16x2 | 19 => .bf16x2
  | m => .resv (BitVec.ofNat 4 (m - 20))

/-! ## Operands (Table 2-4) -/

/-- The code of a special register. -/
def Special.code : Special → Nat
  | .lane => 352 | .wave => 353 | .crew => 354 | .core => 355 | .cluster => 356 | .stack => 357 | .die => 358
  | .clock => 359 | .taskid => 360 | .argp => 361 | .quota => 362 | .fpctl => 363 | .chkctl => 364
  | .scalewin n => 365 + n.toNat

/-- The code of a floating-point constant. -/
def FConst.code : FConst → Nat
  | .half => 337 | .log2e => 338 | .ln2 => 339 | .inf => 340

/-- The 9-bit code of an operand. -/
def Opnd.code : Opnd → Nat
  | .v n => n.toNat
  | .s n => 256 + n.toNat
  | .int n => 320 + n.toNat
  | .negOne => 336
  | .fconst c => c.code
  | .sp x => x.code

/-- The operand of a 9-bit code; none for a reserved code (R43). -/
def Opnd.ofCode (n : Nat) : Option Opnd :=
  if n < 256 then some (.v (BitVec.ofNat 8 n))
  else if n < 320 then some (.s (BitVec.ofNat 6 (n - 256)))
  else if n < 336 then some (.int (BitVec.ofNat 4 (n - 320)))
  else match n with
    | 336 => some .negOne
    | 337 => some (.fconst .half) | 338 => some (.fconst .log2e) | 339 => some (.fconst .ln2)
    | 340 => some (.fconst .inf)
    | 352 => some (.sp .lane) | 353 => some (.sp .wave) | 354 => some (.sp .crew) | 355 => some (.sp .core)
    | 356 => some (.sp .cluster) | 357 => some (.sp .stack) | 358 => some (.sp .die) | 359 => some (.sp .clock)
    | 360 => some (.sp .taskid) | 361 => some (.sp .argp) | 362 => some (.sp .quota) | 363 => some (.sp .fpctl)
    | 364 => some (.sp .chkctl)
    | 365 => some (.sp (.scalewin 0)) | 366 => some (.sp (.scalewin 1)) | 367 => some (.sp (.scalewin 2))
    | 368 => some (.sp (.scalewin 3)) | 369 => some (.sp (.scalewin 4)) | 370 => some (.sp (.scalewin 5))
    | 371 => some (.sp (.scalewin 6)) | 372 => some (.sp (.scalewin 7))
    | _ => none

/-- Whether the operand is a v register. -/
def Opnd.isV : Opnd → Bool
  | .v _ => true
  | _ => false

/-- Whether the operand is an s register. -/
def Opnd.isS : Opnd → Bool
  | .s _ => true
  | _ => false

/-- Whether the operand is a v or s register. -/
def Opnd.isReg (o : Opnd) : Bool := o.isV || o.isS

/-- Codes 320 to 335. -/
def Opnd.isInt16 : Opnd → Bool
  | .int _ => true
  | _ => false

/-- Codes 320 to 336. -/
def Opnd.isConst : Opnd → Bool
  | .int _ | .negOne => true
  | _ => false

/-- Codes 337 to 340. -/
def Opnd.isFConst : Opnd → Bool
  | .fconst _ => true
  | _ => false

/-- The 64-bit specials (Table 2-4). -/
def Opnd.isSp64 : Opnd → Bool
  | .sp .clock | .sp .argp | .sp (.scalewin _) => true
  | _ => false

/-- The register number of a v or s operand is a multiple of `n` (R45). -/
def Opnd.mult (o : Opnd) (n : Nat) : Bool :=
  match o with
  | .v k => k.toNat % n == 0
  | .s k => k.toNat % n == 0
  | _ => true

/-! ## How an instruction uses an operand field -/

/-- A use of a field: whether the field's operand is one that the use admits, how many registers it covers from the
one it names, and whether they are written. -/
structure Use where
  op : Opnd
  ok : Bool
  n : Nat
  wr : Bool
  deriving DecidableEq, Repr

namespace Use

/-- The field is not used and must be zero (R46). -/
def zero (o : Opnd) : Use := { op := o, ok := o == .v 0, n := 0, wr := false }

/-- A field whose code is checked by the row itself and that names no register. -/
def code (o : Opnd) (ok : Bool) : Use := { op := o, ok := ok, n := 0, wr := false }

/-- A source at type `t` under the S rule (R44, R45, R48). -/
def src (o : Opnd) (t : Ty) (s : Bool) : Use :=
  { op := o, ok := (!s || !o.isV) && (!o.isFConst || t.float) && o.mult t.regs, n := t.regs, wr := false }

/-- A 32-bit integer source, one register at every type (R135). -/
def src32 (o : Opnd) (s : Bool) : Use :=
  { op := o, ok := (!s || !o.isV) && !o.isFConst, n := 1, wr := false }

/-- A 64-bit integer source (R153). -/
def src64 (o : Opnd) (s : Bool) : Use :=
  { op := o, ok := (!s || !o.isV) && !o.isFConst && o.mult 2, n := 2, wr := false }

/-- A destination of `n` registers, v with S = 0 and s with S = 1 (R48). -/
def dst (o : Opnd) (n : Nat) (s : Bool) : Use :=
  { op := o, ok := (if s then o.isS else o.isV) && o.mult n, n := n, wr := true }

/-- A destination that may be v or s, its number a multiple of `n`. -/
def dstVS (o : Opnd) (n : Nat) : Use := { op := o, ok := o.isReg && o.mult n, n := n, wr := true }

/-- One v or s register or a constant code 320 to 336 (R273, R299, R331). -/
def op32 (o : Opnd) : Use := { op := o, ok := o.isReg || o.isConst, n := 1, wr := false }

/-- One v or s register, or code 320 (R237). -/
def bufAddr (o : Opnd) : Use := { op := o, ok := o.isReg || o == .int 0, n := 1, wr := false }

/-- An s register or a constant code 320 to 336 (R299). -/
def uniform (o : Opnd) : Use := { op := o, ok := o.isS || o.isConst, n := 1, wr := false }

/-- A v or s pair (R331). -/
def pair (o : Opnd) : Use := { op := o, ok := o.isReg && o.mult 2, n := 2, wr := false }

/-- A v or s pair, or code 320 (R331). -/
def pairOr0 (o : Opnd) : Use := { op := o, ok := (o.isReg && o.mult 2) || o == .int 0, n := 2, wr := false }

/-- A v or s pair, a 64-bit special or code 320: a memory address (R237). -/
def addr (o : Opnd) : Use := { op := o, ok := (o.isReg && o.mult 2) || o.isSp64 || o == .int 0, n := 2, wr := false }

/-- A group of four registers (R273). -/
def group4 (o : Opnd) : Use := { op := o, ok := o.isReg && o.mult 4, n := 4, wr := false }

/-- A store's data: registers, their number a multiple of `n`, or a constant code 320 to 336 (R241). -/
def data (o : Opnd) (n : Nat) : Use := { op := o, ok := (o.isReg && o.mult n) || o.isConst, n := n, wr := false }

/-- A v source register or group (R156). -/
def vreg (o : Opnd) (n : Nat) : Use := { op := o, ok := o.isV && o.mult n, n := n, wr := false }

/-- A v destination group (R299). -/
def dstV (o : Opnd) (n : Nat) : Use := { op := o, ok := o.isV && o.mult n, n := n, wr := true }

/-- The special that `swrite` writes, with its type (R157). -/
def special (o : Opnd) (t : Ty) : Use :=
  { op := o, n := 0, wr := false
    ok := match o with
      | .sp .fpctl | .sp .chkctl => t == .b32
      | .sp (.scalewin _) => t == .b64
      | _ => false }

/-- A constant code 320 to 335 (R273). -/
def int16 (o : Opnd) : Use := { op := o, ok := o.isInt16, n := 0, wr := false }

/-- A channel, code 320 to 323 (R273). -/
def chan (o : Opnd) : Use := { op := o, ok := decide (320 ≤ o.code) && decide (o.code < 324), n := 0, wr := false }

/-- As `op32`, under the S rule (R48, R299). -/
def op32S (o : Opnd) (s : Bool) : Use := { op := o, ok := (o.isReg || o.isConst) && (!s || !o.isV), n := 1, wr := false }

/-- The link pair that `call` and `callx` write (R161). -/
def link : Use := { op := .v 58, ok := true, n := 2, wr := true }

/-- A register group: v or s, its number a multiple of `n`, no constant (R247). -/
def group (o : Opnd) (n : Nat) : Use := { op := o, ok := o.isReg && o.mult n, n := n, wr := false }

end Use

/-! ## Rows -/

/-- The stall classes of Table 5-6. -/
inductive Cls where
  | i1 | i2 | im | im64 | f | f64 | t | td | x | xm | sp | c | cn | q
  deriving DecidableEq, Repr

/-- The latency L of a fixed-latency class (Table 5-6); 1 where the class writes no register at a fixed latency. -/
def Cls.latency : Cls → Nat
  | .i1 => 2 | .i2 => 3 | .im => 4 | .im64 => 8 | .f => 4 | .f64 => 8 | .t => 8 | .td => 16 | .x => 4 | .xm => 6
  | .sp => 4 | .c => 2 | .cn => 1 | .q => 1

/-- The datapaths of Table 5-8. -/
inductive Path where
  | int | div | float | exch | spec | port | none
  deriving DecidableEq, Repr

/-- What the tables say of one instruction: the uses of its operand fields, whether its other fields meet the
encoding rules (`enc`) and the modifier rules (`mod`), whether it may post, its stall class, datapath and occupancy,
the predicates it reads and writes besides its guard, and whether it is a supervisor instruction. -/
structure Row where
  uses : List Use
  enc : Bool
  mod : Bool
  post : Bool
  cls : Cls
  path : Path
  occ : Nat
  pRead : List Nat
  pWrite : List Nat
  super : Bool
  deriving DecidableEq, Repr

/-- The class of an integer instruction by its type (Table 6-1). -/
def clsI (t : Ty) (c32 c64 : Cls) : Cls := if t.wide then c64 else c32

/-- Cycles for which an instruction of the class holds its datapath (Table 5-6). -/
def Cls.occupancy : Cls → Nat
  | .im64 => 4 | .f64 => 8 | .t => 4 | .td => 8 | .xm => 2
  | _ => 1

/-- The datapath of a class (Table 5-8). -/
def Cls.path : Cls → Path
  | .i1 | .i2 | .im | .im64 => .int
  | .f | .f64 | .t | .td => .float
  | .x | .xm => .exch
  | .sp => .spec
  | .c | .cn => .none
  | .q => .port

/-- A row of format A. `pd` and `ps` tell whether the field names a predicate (otherwise it must hold 7, R45); `sOk`
whether S = 1 is allowed, where PD must then hold 7 (R136). -/
def rowA (o : FmtA) (types : List Ty) (subs : List Nat) (rnd sat mA mB mC pd ps sOk : Bool) (cls : Cls)
    (uses : List Use) : Row where
  uses := uses
  enc := (pd || o.pd == 7) && (ps || o.ps == 7) && (sOk || !o.s) && (!o.s || o.pd == 7)
  mod := types.contains o.ty && subs.contains o.sub.toNat && (rnd || o.rnd == .rne) && (sat || !o.sat)
    && (mA || (!o.negA && !o.absA)) && (mB || (!o.negB && !o.absB)) && (mC || (!o.negC && !o.absC))
  post := false
  cls := cls
  path := cls.path
  occ := cls.occupancy
  pRead := if ps then [o.ps.toNat] else []
  pWrite := if pd then [o.pd.toNat] else []
  super := false

/-- Format I at a 16-bit scalar type takes its value from IMM[15:0], and IMM[31:16] must be zero (R49). -/
def immOk (t : Ty) (imm : Word) : Bool :=
  match t with
  | .f16 | .bf16 => decide (imm.toNat < 2 ^ 16)
  | _ => true

/-- A row of format I. -/
def rowI (o : FmtI) (types : List Ty) (subs : List Nat) (pd sOk : Bool) (cls : Cls) (uses : List Use) : Row where
  uses := uses
  enc := (pd || o.pd == 7) && (sOk || !o.s) && (!o.s || o.pd == 7) && immOk o.ty o.imm
  mod := types.contains o.ty && subs.contains o.sub.toNat
  post := false
  cls := cls
  path := cls.path
  occ := cls.occupancy
  pRead := []
  pWrite := if pd then [o.pd.toNat] else []
  super := false

/-- A row of the engine groups: class Q on the engine port (Table 5-6). -/
def rowQ (enc mod post : Bool) (uses : List Use) : Row where
  uses := uses
  enc := enc
  mod := mod
  post := post
  cls := .q
  path := .port
  occ := 1
  pRead := []
  pWrite := []
  super := false

/-- A row of format A in an engine group: TYPE and SUB as listed, no rounding, saturation or source modifier. -/
def rowQA (o : FmtA) (types : List Ty) (subs : List Nat) (sOk post : Bool) (uses : List Use) : Row :=
  { rowQ true true post uses with
    enc := (rowA o types subs false false false false false false false sOk .q uses).enc
    mod := (rowA o types subs false false false false false false false sOk .q uses).mod }

/-! ### Integer group (Table 6-1) -/

def tysAdd : List Ty := [.i32, .n32, .i64, .n64]
def tysB : List Ty := [.b32, .b64]
def tysF : List Ty := [.f16, .bf16, .f32, .f64]

/-- Two typed sources and a typed destination. -/
def row2A (o : FmtA) (types : List Ty) (sat pd ps sOk : Bool) (c32 c64 : Cls) : Row :=
  rowA o types [0] false sat false false false pd ps sOk (clsI o.ty c32 c64)
    [.dst o.d o.ty.regs o.s, .src o.a o.ty o.s, .src o.b o.ty o.s, .zero o.c]

def row2I (o : FmtI) (types : List Ty) (pd sOk : Bool) (c32 c64 : Cls) : Row :=
  rowI o types [0] pd sOk (clsI o.ty c32 c64) [.dst o.d o.ty.regs o.s, .src o.a o.ty o.s]

/-- One typed source and a destination of `n` registers. -/
def row1A (o : FmtA) (types : List Ty) (sat : Bool) (n : Nat) (c32 c64 : Cls) : Row :=
  rowA o types [0] false sat false false false false false true (clsI o.ty c32 c64)
    [.dst o.d n o.s, .src o.a o.ty o.s, .zero o.b, .zero o.c]

/-- A shift: b is a 32-bit operand (R145). -/
def rowShift (o : FmtA) : Row :=
  rowA o tysB [0] false false false false false false false true (clsI o.ty .i1 .i2)
    [.dst o.d o.ty.regs o.s, .src o.a o.ty o.s, .src32 o.b o.s, .zero o.c]

/-- `div` and `rem`: class Q, which may post, on the divide unit (R139, R142). -/
def divRow (r : Row) (t : Ty) : Row := { r with post := true, path := .div, occ := if t.wide then 8 else 4 }

/-! ### Floating-point group (Table 7-1) -/

/-- The class of a floating-point instruction (R173). -/
def clsF (t : Ty) (c c64 : Cls) : Cls := if t == .f64 then c64 else c

def rowF2 (o : FmtA) (types : List Ty) (rnd sat : Bool) (c c64 : Cls) : Row :=
  rowA o types [0] rnd sat true true false false false true (clsF o.ty c c64)
    [.dst o.d o.ty.regs o.s, .src o.a o.ty o.s, .src o.b o.ty o.s, .zero o.c]

def rowF3 (o : FmtA) (types : List Ty) : Row :=
  rowA o types [0] true true true true true false false true (clsF o.ty .f .f64)
    [.dst o.d o.ty.regs o.s, .src o.a o.ty o.s, .src o.b o.ty o.s, .src o.c o.ty o.s]

def rowF1 (o : FmtA) (rnd sat : Bool) (c c64 : Cls) : Row :=
  rowA o tysF [0] rnd sat true false false false false true (clsF o.ty c c64)
    [.dst o.d o.ty.regs o.s, .src o.a o.ty o.s, .zero o.b, .zero o.c]

def rowFI (o : FmtI) (types : List Ty) : Row :=
  rowI o types [0] false true (clsF o.ty .f .f64) [.dst o.d o.ty.regs o.s, .src o.a o.ty o.s]

/-- The source type that `cvt` holds in field c (R188). -/
def cvtSrc (c : Opnd) : Ty := Ty.ofCode (c.code % 32)

/-- The pairs of Table 7-4. -/
def cvtPair (d s : Ty) : Bool :=
  d != s && ((d.isFloat6 && (s.isFloat6 || s.isInt)) || (d.isInt && (s.isFloat6 || s.isInt))
    || ((d == .f16x2 || d == .bf16x2) && s == .f32))

def rowCvt (o : FmtA) : Row :=
  let src := cvtSrc o.c
  let packed := o.ty == .f16x2 || o.ty == .bf16x2
  let cls : Cls := if src == .f64 || o.ty == .f64 then .f64 else .f
  { rowA o [o.ty] [0] true true src.isFloat6 (src.isFloat6 && packed) false false false true cls
      [.dst o.d o.ty.regs o.s, .src o.a src o.s, if packed then .src o.b src o.s else .zero o.b,
       .code o.c (decide (o.c.code < 32))] with
    mod := (rowA o [o.ty] [0] true true src.isFloat6 (src.isFloat6 && packed) false false false true cls []).mod
      && cvtPair o.ty src }

def rowDot4 (o : FmtA) : Row :=
  let r := rowA o [.e4m3, .e5m2, .i8, .n8] [0, 1] true true false false false false false true .f
    [.dst o.d 1 o.s, .src o.a o.ty o.s, .src o.b o.ty o.s, .src o.c o.ty o.s]
  { r with mod := r.mod && (o.ty.float || (o.sub == 0 && o.rnd == .rne)) }

/-! ### Lane exchange (Tables 7-6, 7-7) -/

/-- The types of a `redux` operation (Table 7-7). -/
def reduxTypes (sub : Nat) : List Ty :=
  if sub ≤ 2 then tysAdd else if sub ≤ 5 then tysB else if sub ≤ 8 then [.f32] else []

def rowRedux (o : FmtA) : Row :=
  rowA o (reduxTypes o.sub.toNat) [0, 1, 2, 3, 4, 5, 6, 7, 8] (o.sub == 6) (o.sub == 6 || o.sub == 0) false false false
    false false false .xm [.dst o.d o.ty.regs false, .src o.a o.ty false, .zero o.b, .zero o.c]

/-! ### Control (Table 6-2) -/

/-- A row of format C: which of the target, a, JX, TK and CNT fields the instruction uses. -/
def rowC (o : FmtC) (target jx tk cnt : Bool) (a : Use) (cls : Cls) : Row where
  uses := [a]
  enc := (if target then decide (o.slot.toNat < 5) else o.disp == 0 && o.slot == 0) && (jx || o.jx == 0)
    && (tk || o.tk == 0) && (cnt || o.cnt == 0)
  mod := o.sub == 0
  post := false
  cls := cls
  path := cls.path
  occ := 1
  pRead := []
  pWrite := []
  super := false

/-! ### Memory (Tables 9-1 to 9-3) -/

/-- The ordering and scope combinations of Table 9-2: with `.rlx` the scope is 0 unless the row says `rlxAny`. -/
def ordOk (o : FmtM) (ords : List Ord) (rlxAny onlyCrew : Bool) : Bool :=
  ords.contains o.ord && decide (o.scope.toNat < 6) && (!onlyCrew || o.scope == 0)
    && (o.ord != .rlx || rlxAny || o.scope == 0)

/-- Elements that VEC selects (R236). VEC = 3 selects none: 1 stands there, so that `vecOk` alone refuses it. -/
def vecN (mop : BitVec 5) : Nat := match mop.toNat % 4 with | 0 => 1 | 1 => 2 | 2 => 4 | _ => 1

/-- VEC's own rules (R236). -/
def vecOk (o : FmtM) (ldw : Bool) : Bool :=
  o.mop.toNat % 4 != 3 && (o.mop.toNat % 4 == 0 || decide (32 ≤ o.ty.bits))
    && (ldw || !(o.mop.toNat % 4 == 2 && o.ty == .b64))

def tysMem : List Ty :=
  [.i8, .i16, .i32, .i64, .n8, .n16, .n32, .n64, .b32, .b64, .f16, .bf16, .f32, .f64, .e4m3, .e5m2, .f16x2, .bf16x2]

def rowLd (o : FmtM) (types : List Ty) (ms : Bool) (a : Use) (ords : List Ord) (onlyCrew ldw : Bool) : Row :=
  rowQ true (types.contains o.ty && (ms || decide (o.mop.toNat < 16)) && decide (o.mop.toNat % 16 < 4) && vecOk o ldw
      && ordOk o ords false onlyCrew) true
    [.dstVS o.d (vecN o.mop * o.ty.regs), a, .zero o.b]

def rowSt (o : FmtM) (types : List Ty) (a : Use) (onlyCrew : Bool) : Row :=
  rowQ true (types.contains o.ty && decide (o.mop.toNat < 4) && vecOk o false && ordOk o [.rlx, .rel] false onlyCrew)
    false [.data o.d (vecN o.mop * o.ty.regs), a, .zero o.b]

/-- Elements that CNT of `lde` selects (R245). -/
def ldeN (mop : BitVec 5) : Nat := match mop.toNat / 4 % 4 with | 0 => 1 | 1 => 2 | 2 => 4 | _ => 8

/-- The types of an atomic operation (Table 9-3). -/
def atomTypes (op : Nat) : List Ty :=
  if op = 0 ∨ op = 4 ∨ op = 5 then tysAdd
  else if op ≤ 3 ∨ op = 6 ∨ op = 7 then tysB
  else if op ≤ 10 then [.f32, .f64, .f16x2, .bf16x2]
  else if op = 11 then [.b64] else []

/-- Whether `red` takes the operation (Table 9-3). -/
def redOk (op : Nat) : Bool := op ≤ 5 || (8 ≤ op && op ≤ 10)

def rowAtom (o : FmtM) : Row :=
  let op := o.mop.toNat % 16
  let abuf := decide (16 ≤ o.mop.toNat)
  let b : Use := if op = 7 then .group o.b (2 * o.ty.regs) else if op = 11 then .group o.b 8
    else .src o.b o.ty false
  rowQ true ((atomTypes op).contains o.ty && ordOk o [.rlx, .acq, .rel, .ar] true abuf) true
    [.dstVS o.d (if op = 11 then 4 else o.ty.regs), if abuf then .bufAddr o.a else .addr o.a, b]

def rowRed (o : FmtM) : Row :=
  let op := o.mop.toNat % 16
  let abuf := decide (16 ≤ o.mop.toNat)
  rowQ true ((atomTypes op).contains o.ty && redOk op && ordOk o [.rlx, .rel] true abuf) false
    [.data o.d o.ty.regs, if abuf then .bufAddr o.a else .addr o.a, .zero o.b]

/-- The cache, prefetch and pin instructions: `.rlx`, scope 0, no type. -/
def rowCache (o : FmtM) (mop1 : Bool) (b : Use) : Row :=
  rowQ true (o.ty == .none && decide (o.mop.toNat < (if mop1 then 2 else 1)) && ordOk o [.rlx] false true) false
    [.zero o.d, .addr o.a, b]

/-- `bar` (R264): every field but SUB is of the encoding class. -/
def rowBarA (o : FmtA) (sub : Nat) (wait : Bool) : Row :=
  rowQ (o.ty == .none && o.pd == 7 && o.ps == 7 && !o.s && o.rnd == .rne && !o.sat && !o.negA && !o.absA && !o.negB
      && !o.absB && !o.negC && !o.absC) (o.sub.toNat == sub) false
    [.zero o.d, .code o.a (o.a.isS || o.a.isInt16), if wait then .zero o.b else .op32 o.b, .zero o.c]

def rowBarI (o : FmtI) (sub : Nat) : Row :=
  rowQ (o.ty == .none && o.pd == 7 && !o.s) (o.sub.toNat == sub) false
    [.zero o.d, .code o.a (o.a.isS || o.a.isInt16)]

/-! ### Copy (Tables 10-2 to 10-4) -/

/-- A buffer operand is 32-bit, a memory operand a 64-bit pair, a 64-bit special or code 320 (R275). -/
def spaceUse (o : Opnd) (sp : Nat) : Use := if sp = 0 then .addr o else .op32 o

/-- The space pairs of a copy command (Table 10-4); `op` counts from 0xA0. -/
def copySpaces (op ssp dsp : Nat) : Bool :=
  match op with
  | 0 | 2 => (ssp == 0 && (dsp == 1 || dsp == 2)) || (ssp == 1 && decide (dsp ≤ 2))
  | 1 => decide (ssp ≤ 1) && (dsp == 1 || dsp == 2)
  | 3 => ssp == 0 && (dsp == 1 || dsp == 2)
  | _ => ssp == 1 && dsp == 0

/-- Fields of CMD (Table 10-3). -/
def cmdF (c : BitVec 23) (lo w : Nat) : Nat := c.toNat / 2 ^ lo % 2 ^ w

def rowCopy (o : FmtX) (op : Nat) : Row :=
  let ssp := cmdF o.cmd 21 2
  let dsp := cmdF o.cmd 19 2
  let dec := cmdF o.cmd 18 1 == 1
  let be := cmdF o.cmd 14 1 == 1
  rowQ true
    (copySpaces op ssp dsp && (!dec || ((op == 0 || op == 2) && ssp == 0))
      && (if dec then [Ty.f16, .bf16, .f32].contains o.ty else o.ty == .none && cmdF o.cmd 15 3 == 0)
      && (be || cmdF o.cmd 10 4 == 0) && cmdF o.cmd 8 2 == 0
      && (if op == 1 then cmdF o.cmd 0 8 != 0 else cmdF o.cmd 0 8 == 0))
    false
    [spaceUse o.d dsp, spaceUse o.a ssp, if op = 0 then .op32 o.b else .group4 o.b]

/-! ### Matrix (Tables 11-3, 11-8) -/

def rowX (o : FmtX) (types : List Ty) (cmdOk : Bool) (uses : List Use) : Row :=
  rowQ (o.ch == 0) (types.contains o.ty && cmdOk) true uses

/-- A row of format A in the matrix group: RND, SAT, ABS and NEG are of the encoding class where they are not 0 (R299). -/
def rowMatA (o : FmtA) (types : List Ty) (subs : List Nat) (sOk : Bool) (uses : List Use) : Row :=
  { rowQA o types subs sOk true uses with
    enc := (rowQA o types subs sOk true uses).enc && o.rnd == .rne && !o.sat && !o.negC && !o.absC && !o.negB && !o.absB
      && !o.negA && !o.absA }

/-- An operand that a form does not use must be 0 (R319). -/
def optUse (used : Bool) (o : Opnd) : Use := if used then .op32 o else .zero o

/-- `mmap`: an OP that Table 11-7 does not list leaves the use of a and b open and is of the modifier class (R319). -/
def rowMmap (o : FmtX) : Row :=
  let op := cmdF o.cmd 0 3
  let bad := decide (4 < op)
  rowX o [.f32] (decide (op ≤ 4) && cmdF o.cmd 17 6 == 0 && ((1 ≤ op && op ≤ 3) || cmdF o.cmd 3 7 == 0))
    [.op32 o.d, optUse (bad || (1 ≤ op && op ≤ 3)) o.a, optUse (bad || op == 0 || op == 3 || op == 4) o.b]

/-! ### Orrery, Transit and Dusk (Tables 13-6, 14-1, 15-7) -/

/-- A row of format K: `sub` and `imm` tell whether SUB and IMM hold a value that the table lists. -/
def rowK (sub imm post enc : Bool) (uses : List Use) : Row := rowQ enc (sub && imm) post uses

/-- `phint`: IMM and the fields that Table 15-7 marks 0 are of the encoding class (R393). -/
def rowHint (o : FmtI) (sub : Nat) (a : Use) : Row :=
  rowQ (o.imm == 0 && o.pd == 7 && !o.s) (o.ty == .none && o.sub.toNat == sub) false [.zero o.d, a]

def rowTrap (o : FmtI) : Row :=
  rowQ (decide (o.imm.toNat < 2 ^ 16) && o.pd == 7 && !o.s) (o.ty == .none && o.sub == 0) false [.zero o.d, .zero o.a]

/-- `csave` and `crest`: TYPE, RND, SAT, ABS and NEG break R393 and are of the encoding class where they are not 0. -/
def rowDusk (o : FmtA) (uses : List Use) : Row :=
  { rowMatA o [.none] [0] false uses with
    enc := (rowMatA o [.none] [0] false uses).enc && o.ty == .none
    super := true }

/-- `ptinv`: TYPE, ORD and SCOPE are of the encoding class, MOP of the modifier class (R393). -/
def rowPtinv (o : FmtM) (mop : Nat) : Row :=
  { rowQ (o.ty == .none && o.ord == .rlx && o.scope == 0) (o.mop.toNat == mop) true
      [.op32 o.d, .addr o.a, .op32 o.b] with super := true }

/-! ### Special cases of the tables -/

/-- A further encoding condition of an instruction (R147, R149, R171, R197). -/
def rowImmHi (r : Row) (ok : Bool) : Row := { r with enc := r.enc && ok }

/-- `cmp`: the conditions 2 to 5 are not allowed at raw types (R151). -/
def rowCmp (r : Row) (t : Ty) (sub : BitVec 4) : Row :=
  { r with mod := r.mod && (decide (sub.toNat ≤ 1) || !tysB.contains t) }

/-- `movi`: `.hi` only at `.b64` (R154). -/
def rowMovi (o : FmtI) : Row :=
  let r := rowI o tysB [0, 1] false true (clsI o.ty .i1 .i2) [.dst o.d o.ty.regs o.s, .zero o.a]
  { r with mod := r.mod && (o.sub == 0 || o.ty == .b64) }

/-- `plop`: fields a, b and c hold predicate numbers and d the truth table (R152). -/
def rowPlop (o : FmtA) : Row :=
  { rowA o [.none] [0] false false false false false true false false .i1
      [.code o.d (decide (o.d.code < 256)), .code o.a (decide (o.a.code < 8)), .code o.b (decide (o.b.code < 8)),
       .code o.c (decide (o.c.code < 8))] with
    pRead := [o.a.code, o.b.code, o.c.code] }

/-- `call` and `callx` write the link pair. -/
def Row.link (r : Row) : Row := { r with uses := r.uses ++ [.link] }

/-- `lde`: element k goes to register d + k, or to the pair d + 2k (R245). -/
def rowLde (o : FmtM) : Row :=
  rowQ true (tysF.contains o.ty && o.mop.toNat / 4 % 4 != 3 && ordOk o [.rlx, .acq] false false) true
    [{ Use.dstVS o.d o.ty.regs with n := ldeN o.mop * o.ty.regs }, .addr o.a, .src32 o.b false]

/-- `fence`: no operand, so the offset is 0 too (R46, R236, R255). -/
def rowFence (o : FmtM) : Row :=
  rowQ (o.ofs == 0) (o.ty == .none && decide (o.mop.toNat < 2) && (o.mop == 0 || o.ord == .ar)
    && ordOk o [.acq, .rel, .ar] false false) false [.zero o.d, .zero o.a, .zero o.b]

/-- Format I in the copy group: TYPE 0, SUB 0, S 0 and PD 7 (R273). -/
def rowQI (o : FmtI) (uses : List Use) : Row :=
  rowQ (o.pd == 7 && !o.s) (o.ty == .none && o.sub == 0) false uses

/-! ## The row of each instruction -/

/-- An instruction with its opcode, header, format and row; an engine step or input is an `event`, and a slot with
an unassigned opcode is `raw`. -/
inductive Shape where
  | a (opc : Nat) (h : Hdr) (o : FmtA) (r : Row)
  | i (opc : Nat) (h : Hdr) (o : FmtI) (r : Row)
  | m (opc : Nat) (h : Hdr) (o : FmtM) (r : Row)
  | c (opc : Nat) (h : Hdr) (o : FmtC) (r : Row)
  | k (opc : Nat) (h : Hdr) (o : FmtK) (r : Row)
  | x (opc : Nat) (h : Hdr) (o : FmtX) (r : Row)
  | raw (w : BitVec 96)
  | event
  deriving DecidableEq, Repr


/-- The shape of every instruction. -/
def Instr.shape (i : Instr) : Shape :=
  match i with
  | .add h o => .a 0x00 h o (row2A o tysAdd true true false true .i1 .i2)
  | .addImm h o => .i 0x00 h o (row2I o tysAdd true true .i1 .i2)
  | .addc h o => .a 0x01 h o (row2A o tysAdd false true true false .i1 .i2)
  | .addcImm h o => .i 0x01 h o ({ row2I o tysAdd true false .i1 .i2 with pRead := [o.pd.toNat] })
  | .sub h o => .a 0x02 h o (row2A o tysAdd true true false true .i1 .i2)
  | .subImm h o => .i 0x02 h o (row2I o tysAdd true true .i1 .i2)
  | .subb h o => .a 0x03 h o (row2A o tysAdd false true true false .i1 .i2)
  | .subbImm h o => .i 0x03 h o ({ row2I o tysAdd true false .i1 .i2 with pRead := [o.pd.toNat] })
  | .mul h o => .a 0x04 h o (row2A o tysAdd true false false true .im .im64)
  | .mulImm h o => .i 0x04 h o (row2I o tysAdd false true .im .im64)
  | .mulh h o => .a 0x05 h o (row2A o tysAdd false false false true .im .im64)
  | .mulhImm h o => .i 0x05 h o (row2I o tysAdd false true .im .im64)
  | .mad h o => .a 0x06 h o (rowA o tysAdd [0] false true false false false false false true (clsI o.ty .im .im64)
      [.dst o.d o.ty.regs o.s, .src o.a o.ty o.s, .src o.b o.ty o.s, .src o.c o.ty o.s])
  | .div h o => .a 0x07 h o (divRow (row2A o tysAdd false false false true .q .q) o.ty)
  | .divImm h o => .i 0x07 h o (divRow (row2I o tysAdd false true .q .q) o.ty)
  | .rem h o => .a 0x08 h o (divRow (row2A o tysAdd false false false true .q .q) o.ty)
  | .remImm h o => .i 0x08 h o (divRow (row2I o tysAdd false true .q .q) o.ty)
  | .min h o => .a 0x09 h o (row2A o tysAdd false false false true .i1 .i2)
  | .minImm h o => .i 0x09 h o (row2I o tysAdd false true .i1 .i2)
  | .max h o => .a 0x0A h o (row2A o tysAdd false false false true .i1 .i2)
  | .maxImm h o => .i 0x0A h o (row2I o tysAdd false true .i1 .i2)
  | .abs h o => .a 0x0B h o (row1A o [.i32, .i64] true o.ty.regs .i1 .i2)
  | .neg h o => .a 0x0C h o (row1A o [.i32, .i64] true o.ty.regs .i1 .i2)
  | .and h o => .a 0x0D h o (row2A o tysB false false false true .i1 .i2)
  | .andImm h o => .i 0x0D h o (row2I o tysB false true .i1 .i2)
  | .or h o => .a 0x0E h o (row2A o tysB false false false true .i1 .i2)
  | .orImm h o => .i 0x0E h o (row2I o tysB false true .i1 .i2)
  | .xor h o => .a 0x0F h o (row2A o tysB false false false true .i1 .i2)
  | .xorImm h o => .i 0x0F h o (row2I o tysB false true .i1 .i2)
  | .andn h o => .a 0x10 h o (row2A o tysB false false false true .i1 .i2)
  | .andnImm h o => .i 0x10 h o (row2I o tysB false true .i1 .i2)
  | .not h o => .a 0x11 h o (row1A o tysB false o.ty.regs .i1 .i2)
  | .shl h o => .a 0x12 h o (rowShift o)
  | .shlImm h o => .i 0x12 h o (row2I o tysB false true .i1 .i2)
  | .shr h o => .a 0x13 h o (rowShift o)
  | .shrImm h o => .i 0x13 h o (row2I o tysB false true .i1 .i2)
  | .sha h o => .a 0x14 h o (rowShift o)
  | .shaImm h o => .i 0x14 h o (row2I o tysB false true .i1 .i2)
  | .rot h o => .a 0x15 h o (rowShift o)
  | .rotImm h o => .i 0x15 h o (row2I o tysB false true .i1 .i2)
  | .shf h o => .a 0x16 h o (rowA o [.b32] [0, 1] false false false false false false false true .i2
      [.dst o.d 1 o.s, .src32 o.a o.s, .src32 o.b o.s, .src32 o.c o.s])
  | .bfe h o => .a 0x17 h o (rowA o tysAdd [0] false false false false false false false true .i2
      [.dst o.d o.ty.regs o.s, .src o.a o.ty o.s, .src32 o.b o.s, .zero o.c])
  | .bfeImm h o => .i 0x17 h o (rowImmHi (row2I o tysAdd false true .i2 .i2) (o.imm.toNat < 2 ^ 16))
  | .bfi h o => .a 0x18 h o (rowA o tysB [0] false false false false false false false true .i2
      [.dst o.d o.ty.regs o.s, .src o.a o.ty o.s, .src o.b o.ty o.s, .src32 o.c o.s])
  | .popc h o => .a 0x19 h o (row1A o tysB false 1 .i2 .i2)
  | .clz h o => .a 0x1A h o (row1A o tysB false 1 .i2 .i2)
  | .ctz h o => .a 0x1B h o (row1A o tysB false 1 .i2 .i2)
  | .brev h o => .a 0x1C h o (row1A o tysB false o.ty.regs .i2 .i2)
  | .perm h o => .a 0x1D h o (rowA o [.b32] [0] false false false false false false false true .i2
      [.dst o.d 1 o.s, .src32 o.a o.s, .src32 o.b o.s, .src32 o.c o.s])
  | .permImm h o => .i 0x1D h o (rowImmHi (row2I o [.b32] false true .i2 .i2) (o.imm.toNat < 2 ^ 16))
  | .sel h o => .a 0x1E h o (row2A o tysB false false true true .i1 .i2)
  | .selImm h o => .i 0x1E h o ({ row2I o tysB false true .i1 .i2 with enc := (row2I o tysB true true .i1 .i2).enc, pRead := [o.pd.toNat] })
  | .cmp h o => .a 0x1F h o (rowCmp (rowA o (tysAdd ++ tysB) [0, 1, 2, 3, 4, 5] false false false false false true true false (clsI o.ty .i1 .i2)
      [.zero o.d, .src o.a o.ty false, .src o.b o.ty false, .zero o.c]) o.ty o.sub)
  | .cmpImm h o => .i 0x1F h o (rowCmp (rowI o (tysAdd ++ tysB) [0, 1, 2, 3, 4, 5] true false (clsI o.ty .i1 .i2)
      [.zero o.d, .src o.a o.ty false]) o.ty o.sub)
  | .lea h o => .a 0x20 h o (rowA o [.i32, .n32, .b64] [0, 1, 2, 3, 4] false false false false false false false true (clsI o.ty .i1 .i2)
      [.dst o.d 2 o.s, .src64 o.a o.s, if o.ty.wide then .src64 o.b o.s else .src32 o.b o.s, .zero o.c])
  | .leaImm h o => .i 0x20 h o (rowI o [.i32, .n32, .b64] [0, 1, 2, 3, 4] false true (clsI o.ty .i1 .i2) [.dst o.d 2 o.s, .src64 o.a o.s])
  | .mov h o => .a 0x21 h o (row1A o tysB false o.ty.regs .i1 .i2)
  | .movi h o => .i 0x22 h o (rowMovi o)
  | .sxt h o => .a 0x23 h o (rowA o [.i8, .i16, .i32] [0, 1] false false false false false false false true .i1
      [.dst o.d (if o.sub == 1 then 2 else 1) o.s, .src32 o.a o.s, .zero o.b, .zero o.c])
  | .zxt h o => .a 0x24 h o (rowA o [.n8, .n16, .n32] [0, 1] false false false false false false false true .i1
      [.dst o.d (if o.sub == 1 then 2 else 1) o.s, .src32 o.a o.s, .zero o.b, .zero o.c])
  | .plop h o => .a 0x25 h o (rowPlop o)
  | .sread h o => .a 0x26 h o (rowA o tysB [0, 1] false false false false false true false false .sp
      [.dst o.d o.ty.regs true, .vreg o.a o.ty.regs, if o.sub == 1 then .zero o.b else .uniform o.b, .zero o.c])
  | .swrite h o => .a 0x27 h o (rowA o tysB [0] false false false false false false false false .sp
      [.special o.d o.ty, .src o.a o.ty false, .zero o.b, .zero o.c])
  | .fadd h o => .a 0x40 h o (rowF2 o tysF true true .f .f64)
  | .faddImm h o => .i 0x40 h o (rowFI o tysF)
  | .fsub h o => .a 0x41 h o (rowF2 o tysF true true .f .f64)
  | .fsubImm h o => .i 0x41 h o (rowFI o tysF)
  | .fmul h o => .a 0x42 h o (rowF2 o tysF true true .f .f64)
  | .fmulImm h o => .i 0x42 h o (rowFI o tysF)
  | .ffma h o => .a 0x43 h o (rowF3 o tysF)
  | .fmin h o => .a 0x44 h o (rowF2 o tysF false false .f .f64)
  | .fminImm h o => .i 0x44 h o (rowFI o tysF)
  | .fmax h o => .a 0x45 h o (rowF2 o tysF false false .f .f64)
  | .fmaxImm h o => .i 0x45 h o (rowFI o tysF)
  | .fcmp h o => .a 0x46 h o (rowA o tysF [0, 1, 2, 3, 4, 5, 6] false false true true false true true false (clsF o.ty .f .f64)
      [.zero o.d, .src o.a o.ty false, .src o.b o.ty false, .zero o.c])
  | .fcmpImm h o => .i 0x46 h o (rowI o tysF [0, 1, 2, 3, 4, 5, 6] true false (clsF o.ty .f .f64) [.zero o.d, .src o.a o.ty false])
  | .fclass h o => .a 0x47 h o (rowA o (tysF ++ [.e4m3, .e5m2]) [0] false false false false false false false true (clsF o.ty .f .f64)
      [.dst o.d 1 o.s, .src o.a o.ty o.s, .zero o.b, .zero o.c])
  | .frcp h o => .a 0x48 h o (rowF1 o false true .t .td)
  | .frsq h o => .a 0x49 h o (rowF1 o false true .t .td)
  | .fsqrt h o => .a 0x4A h o (rowF1 o true true .t .td)
  | .fdiv h o => .a 0x4B h o (rowF2 o tysF true true .td .td)
  | .fexp2 h o => .a 0x4C h o (rowF1 o false true .t .td)
  | .flog2 h o => .a 0x4D h o (rowF1 o false true .t .td)
  | .fsin h o => .a 0x4E h o (rowF1 o false true .t .td)
  | .fcos h o => .a 0x4F h o (rowF1 o false true .t .td)
  | .ftanh h o => .a 0x50 h o (rowF1 o false true .t .td)
  | .fscale h o => .a 0x51 h o (rowA o tysF [0] true true true false false false false true (clsF o.ty .f .f64)
      [.dst o.d o.ty.regs o.s, .src o.a o.ty o.s, .src32 o.b o.s, .zero o.c])
  | .fscaleImm h o => .i 0x51 h o ({ rowFI o tysF with enc := o.pd == 7 })
  | .frnd h o => .a 0x52 h o (rowF1 o true false .f .f64)
  | .cvt h o => .a 0x53 h o (rowCvt o)
  | .dot4 h o => .a 0x54 h o (rowDot4 o)
  | .hadd2 h o => .a 0x55 h o (rowF2 o [.f16x2, .bf16x2] true true .f .f)
  | .hadd2Imm h o => .i 0x55 h o (rowFI o [.f16x2, .bf16x2])
  | .hmul2 h o => .a 0x56 h o (rowF2 o [.f16x2, .bf16x2] true true .f .f)
  | .hmul2Imm h o => .i 0x56 h o (rowFI o [.f16x2, .bf16x2])
  | .hfma2 h o => .a 0x57 h o (rowF3 o [.f16x2, .bf16x2])
  | .shfl h o => .a 0x60 h o (rowA o tysB [0, 1, 2, 3] false false false false false true false false .x
      [.dst o.d o.ty.regs false, .src o.a o.ty false, .src o.b o.ty false, .src32 o.c false])
  | .shflImm h o => .i 0x60 h o (rowI o tysB [0, 1, 2, 3] true false .x [.dst o.d o.ty.regs false, .src o.a o.ty false])
  | .vote h o => .a 0x61 h o (rowA o [.none] [0, 1, 2] false false false false false true true false .x
      [.zero o.d, .zero o.a, .zero o.b, .zero o.c])
  | .ballot h o => .a 0x62 h o (rowA o [.none] [0] false false false false false false true false .x
      [.dst o.d 1 false, .zero o.a, .zero o.b, .zero o.c])
  | .matchLanes h o => .a 0x63 h o (rowA o tysB [0, 1] false false false false false (o.sub == 1) false false .xm
      [.dst o.d 1 false, .src o.a o.ty false, .zero o.b, .zero o.c])
  | .redux h o => .a 0x64 h o (rowRedux o)
  | .laneperm h o => .a 0x65 h o (rowA o tysB [0] false false false false false false false false .x
      [.dst o.d o.ty.regs false, .src o.a o.ty false, .uniform o.b, .zero o.c])
  | .lanepermImm h o => .i 0x65 h o (rowImmHi (rowI o tysB [0] false false .x [.dst o.d o.ty.regs false, .src o.a o.ty false])
      (o.imm.toNat < 2 ^ 24))
  | .bra h o => .c 0x70 h o (rowC o true false false false (.zero o.a) .cn)
  | .brx h o => .c 0x71 h o (rowC o false false false false (.pair o.a) .cn)
  | .call h o => .c 0x72 h o ((rowC o true false false false (.zero o.a) .c).link)
  | .callx h o => .c 0x73 h o ((rowC o false false false false (.pair o.a) .c).link)
  | .ret h o => .c 0x74 h o (rowC o false false false false (.pair o.a) .cn)
  | .join h o => .c 0x75 h o (rowC o false true false false (.zero o.a) .cn)
  | .waitj h o => .c 0x76 h o (rowC o false true false false (.zero o.a) .cn)
  | .exit h o => .c 0x77 h o (rowC o false false false false (.zero o.a) .cn)
  | .nop h o => .c 0x78 h o (rowC o false false false false (.zero o.a) .cn)
  | .delay h o => .c 0x79 h o (rowC o false false false true (.zero o.a) .cn)
  | .yield h o => .c 0x7A h o (rowC o false false false false (.zero o.a) .cn)
  | .backoff h o => .c 0x7B h o (rowC o false false false false (.zero o.a) .cn)
  | .twait h o => .c 0x7C h o (rowC o false false true true (.zero o.a) .cn)
  | .treset h o => .c 0x7D h o (rowC o false false true false (.zero o.a) .cn)
  | .tread h o => .c 0x7E h o (rowC o false false true false (.dstVS o.a 1) .c)
  | .regq h o => .c 0x7F h o (rowImmHi (rowC o false false false true (.dstVS o.a 1) .c) (o.cnt != 0 && decide (o.cnt.toNat ≤ 32)))
  | .ld h o => .m 0x80 h o (rowLd o tysMem true (.addr o.a) [.rlx, .acq] false false)
  | .st h o => .m 0x81 h o (rowSt o tysMem (.addr o.a) false)
  | .lde h o => .m 0x82 h o (rowLde o)
  | .lda h o => .m 0x83 h o (rowLd o tysB false (.bufAddr o.a) [.rlx, .acq] true false)
  | .sta h o => .m 0x84 h o (rowSt o tysB (.bufAddr o.a) true)
  | .ldw h o => .m 0x85 h o (rowLd o tysB false (.bufAddr o.a) [.rlx] true true)
  | .ldc h o => .m 0x86 h o (rowLd o [.b32] false (.bufAddr o.a) [.rlx] true false)
  | .atom h o => .m 0x87 h o (rowAtom o)
  | .red h o => .m 0x88 h o (rowRed o)
  | .mcas h o => .m 0x89 h o (rowQ true (o.ty == .b64 && o.mop == 0 && ordOk o [.rlx, .acq, .rel, .ar] true false) true
      [.dstVS o.d 1, .addr o.a, .zero o.b])
  | .fence h o => .m 0x8A h o (rowFence o)
  | .wbr h o => .m 0x8B h o (rowCache o false (.src32 o.b false))
  | .invr h o => .m 0x8C h o (rowCache o false (.src32 o.b false))
  | .pref h o => .m 0x8D h o (rowCache o true (.zero o.b))
  | .ipref h o => .m 0x8E h o (rowCache o false (.src32 o.b false))
  | .ipin h o => .m 0x8F h o (rowCache o false (.src32 o.b false))
  | .iunpin h o => .m 0x90 h o (rowCache o false (.src32 o.b false))
  | .watch h o => .m 0x91 h o (rowQ true (tysB.contains o.ty && o.mop == 0 && ordOk o [.rlx] false true) false
      [.data o.d o.ty.regs, .addr o.a, .pair o.b])
  | .barArrive h o => .a 0x92 h o (rowBarA o 0 false)
  | .barWait h o => .a 0x92 h o (rowBarA o 1 true)
  | .barSync h o => .a 0x92 h o (rowBarA o 2 false)
  | .barArriveImm h o => .i 0x92 h o (rowBarI o 0)
  | .barSyncImm h o => .i 0x92 h o (rowBarI o 2)
  | .sqinit h o => .a 0x93 h o (rowQA o [.none] [0] false false [.zero o.d, .uniform o.a, .uniform o.b, .uniform o.c])
  | .sqpush h o => .a 0x94 h o (rowQA o [.b64] [0] false false [.data o.d 2, .op32 o.a, .zero o.b, .zero o.c])
  | .sqpushCredit h o => .a 0x94 h o (rowQA o [.b64] [1] false false [.zero o.d, .op32 o.a, .zero o.b, .zero o.c])
  | .sqpop h o => .a 0x95 h o (rowQA o [.b64] [0] false true [.dst o.d 2 false, .op32 o.a, .zero o.b, .zero o.c])
  | .sqpopFree h o => .a 0x95 h o (rowQA o [.b64] [1] false true [.dst o.d 2 false, .op32 o.a, .zero o.b, .zero o.c])
  | .cpy h o => .x 0xA0 h o (rowCopy o 0)
  | .cpym h o => .x 0xA1 h o (rowCopy o 1)
  | .cpys h o => .x 0xA2 h o (rowCopy o 2)
  | .cpyg h o => .x 0xA3 h o (rowCopy o 3)
  | .cpyx h o => .x 0xA4 h o (rowCopy o 4)
  | .seal h o => .a 0xA5 h o (rowQA o [.none] [0] false true [.zero o.d, .int16 o.a, .zero o.b, .zero o.c])
  | .cptr h o => .a 0xA6 h o (rowQA o [.b64] [0] true true [.dst o.d 2 o.s, .chan o.a, .zero o.b, .zero o.c])
  | .cptrIptr h o => .a 0xA6 h o (rowQA o [.b64] [1] true true [.dst o.d 2 o.s, .chan o.a, .zero o.b, .zero o.c])
  | .cptrStat h o => .a 0xA6 h o (rowQA o [.b32] [2] true true [.dst o.d 1 o.s, .chan o.a, .zero o.b, .zero o.c])
  | .cinit h o => .a 0xA7 h o (rowQA o [.none] [0] false false [.zero o.d, .int16 o.a, .op32 o.b, .zero o.c])
  | .carr h o => .a 0xA8 h o (rowQA o [.none] [0] false false [.zero o.d, .int16 o.a, .int16 o.b, .op32 o.c])
  | .gset h o => .a 0xA9 h o (rowQA o [.none] [0] false false [.zero o.d, .op32 o.a, .op32 o.b, .zero o.c])
  | .gsetImm h o => .i 0xA9 h o (rowQI o [.zero o.d, .op32 o.a])
  | .gclr h o => .a 0xAA h o (rowQA o [.none] [0] false false [.zero o.d, .zero o.a, .op32 o.b, .zero o.c])
  | .gclrImm h o => .i 0xAA h o (rowQI o [.zero o.d, .zero o.a])
  | .mma h o => .x 0xB0 h o (rowX o [.none] (o.cmd == 0) [.zero o.d, .op32 o.a, .zero o.b])
  | .mzero h o => .x 0xB1 h o (rowX o [.none] (o.cmd == 0) [.zero o.d, .op32 o.a, .op32 o.b])
  | .mrd h o => .a 0xB2 h o (rowMatA o [.b32] [0, 1, 2] false [.dstV o.d (if o.sub == 1 then 2 else if o.sub == 2 then 4 else 1), .uniform o.a, .op32 o.b, .zero o.c])
  | .mwr h o => .a 0xB3 h o (rowMatA o [.b32] [0, 1, 2] false [.group o.d (if o.sub == 1 then 2 else if o.sub == 2 then 4 else 1), .uniform o.a, .op32 o.b, .zero o.c])
  | .mred h o => .x 0xB4 h o (rowX o [.f32] (cmdF o.cmd 16 7 == 0) [.op32 o.d, .op32 o.a, .zero o.b])
  | .mmap h o => .x 0xB5 h o (rowMmap o)
  | .mcvt h o => .x 0xB6 h o (rowX o [.f16, .bf16, .e4m3, .e5m2] (cmdF o.cmd 17 6 == 0) [.op32 o.d, .op32 o.a, .op32 o.b])
  | .mtile h o => .a 0xB7 h o (rowMatA o [.none] [0] true [.dst o.d 1 o.s, .op32S o.a o.s, .zero o.b, .zero o.c])
  | .wcreate h o => .k 0xC0 h o (rowK (o.sub == 0) (o.imm == 0) true (true)
      [.dstVS o.d 2, .pairOr0 o.a, .pair o.b, .op32 o.c])
  | .psend h o => .k 0xC1 h o (rowK (decide (o.sub.toNat < 2)) (o.imm == 0) true (true)
      [.dstVS o.d 1, .pair o.a, .pair o.b, .zero o.c])
  | .precv h o => .k 0xC2 h o (rowK (decide (o.sub.toNat < 2)) (o.imm == 0) true (true)
      [.dstVS o.d 1, .pair o.a, .pair o.b, .zero o.c])
  | .wsadd h o => .k 0xC3 h o (rowK (o.sub == 0) (decide (o.imm.toNat < 64)) true (true)
      [.dstVS o.d 1, .pair o.a, .pair o.b, .pair o.c])
  | .wsdel h o => .k 0xC4 h o (rowK (o.sub == 0) (decide (o.imm.toNat < 64)) true (true)
      [.dstVS o.d 1, .pair o.a, .zero o.b, .zero o.c])
  | .suspend h o => .k 0xC5 h o (rowK (o.sub == 0) (true) false (decide (o.imm.toNat % 8 < 5))
      [.zero o.d, .pair o.a, .pairOr0 o.b, .zero o.c])
  | .suspendX h o => .k 0xC5 h o (rowK (o.sub == 1) (o.imm == 0) false (true)
      [.zero o.d, .pair o.a, .pairOr0 o.b, .pair o.c])
  | .tarm h o => .k 0xC6 h o (rowK (o.sub == 0) (o.imm == 0) true (true)
      [.dstVS o.d 1, .pair o.a, .pair o.b, .op32 o.c])
  | .tdisarm h o => .k 0xC7 h o (rowK (o.sub == 0) (o.imm == 0) true (true)
      [.dstVS o.d 1, .pair o.a, .zero o.b, .zero o.c])
  | .ecsig h o => .k 0xC8 h o (rowK (o.sub == 0) (o.imm == 0) true (true)
      [.zero o.d, .pair o.a, .op32 o.b, .zero o.c])
  | .ecread h o => .k 0xC9 h o (rowK (o.sub == 0) (o.imm == 0) true (true)
      [.dstVS o.d 2, .pair o.a, .zero o.b, .zero o.c])
  | .qenq h o => .k 0xCA h o (rowK (decide (o.sub.toNat < 2)) (o.imm == 0) true (true)
      [.dstVS o.d 1, .pair o.a, .pair o.b, .zero o.c])
  | .dcinit h o => .k 0xCB h o (rowK (o.sub == 0) (o.imm == 0) true (true)
      [.dstVS o.d 2, .pair o.a, .pair o.b, .op32 o.c])
  | .dcdec h o => .k 0xCC h o (rowK (o.sub == 0) (o.imm == 0) true (true)
      [.dstVS o.d 1, .pair o.a, .zero o.b, .zero o.c])
  | .objnew h o => .k 0xCD h o (rowK (decide (2 ≤ o.sub.toNat) && decide (o.sub.toNat ≤ 6)) (o.imm == 0) true (true)
      [.dstVS o.d 2, .zero o.a, .op32 o.b, .pairOr0 o.c])
  | .objdel h o => .k 0xCE h o (rowK (o.sub == 0) (o.imm == 0) true (true)
      [.dstVS o.d 1, .pair o.a, .zero o.b, .zero o.c])
  | .objinfo h o => .k 0xCF h o (rowK (o.sub == 0) (o.imm == 0) true (true)
      [.dstVS o.d 2, .pair o.a, .zero o.b, .zero o.c])
  | .nslook h o => .k 0xD0 h o (rowK (o.sub == 0) (o.imm == 0) true (true)
      [.dstVS o.d 2, .zero o.a, .pair o.b, .zero o.c])
  | .nsbind h o => .k 0xD1 h o (rowK (decide (o.sub.toNat < 2)) (o.imm == 0) true (true)
      [.dstVS o.d 1, .pair o.a, .pair o.b, .zero o.c])
  | .grantrev h o => .k 0xD2 h o (rowK (o.sub == 0) (o.imm == 0) true (true)
      [.dstVS o.d 1, .pair o.a, .zero o.b, .zero o.c])
  | .syscall h o => .k 0xD3 h o (rowK (o.sub == 0) (true) true (true)
      [.dstVS o.d 1, .pairOr0 o.a, .pair o.b, .zero o.c])
  | .launch h o => .k 0xE0 h o (rowK (o.sub == 0) (o.imm == 0) true (true)
      [.dstVS o.d 2, .pairOr0 o.a, .pair o.b, .zero o.c])
  | .lstat h o => .k 0xE1 h o (rowK (o.sub == 0) (o.imm == 0) true (true)
      [.dstVS o.d 2, .zero o.a, .pair o.b, .zero o.c])
  | .ctadmit h o => .k 0xE2 h o (rowK (o.sub == 0) (o.imm == 0) true (true)
      [.dstVS o.d 2, .zero o.a, .pair o.b, .zero o.c])
  | .phint h o => .i 0xE3 h o (rowHint o 0 (.uniform o.a))
  | .phintFull h o => .i 0xE3 h o (rowHint o 1 (.zero o.a))
  | .trap h o => .i 0xE4 h o (rowTrap o)
  | .bkpt h o => .i 0xE5 h o (rowTrap o)
  | .rett h o => .c 0xE6 h o ({ rowC o false false false false (.pair o.a) .q with mod := o.sub == 0 })
  | .rettStep h o => .c 0xE6 h o ({ rowC o false false false false (.pair o.a) .q with mod := o.sub == 1 })
  | .csave h o => .a 0xE7 h o (rowDusk o [.dst o.d 2 false, .op32 o.a, .zero o.b, .zero o.c])
  | .crest h o => .a 0xE8 h o (rowDusk o [.dst o.d 1 false, .addr o.a, .op32 o.b, .zero o.c])
  | .ptinv h o => .m 0xE9 h o (rowPtinv o 0)
  | .ptinvRsm h o => .m 0xE9 h o (rowPtinv o 1)
  | .ptinvEnd h o => .m 0xE9 h o (rowPtinv o 2)
  | .unassignedOpcode w => .raw w
  | .fixedLatencyWrite .. | .divideComplete .. | .tokenRetire .. | .waveAged .. | .yieldExpiry .. | .waveRetire ..
  | .icacheLineFill .. | .tlbWalkComplete .. | .homeLoad .. | .homeStore .. | .storeAck .. | .leaseExpiry ..
  | .lineLeavesSlice .. | .l1Eviction .. | .manualWritebackMerge .. | .atomicPerform .. | .mcasLock ..
  | .mcasComplete .. | .shootdownComplete .. | .watchFire .. | .missSplitWake .. | .cacheOpComplete ..
  | .sqHeaderWake .. | .copyAccept .. | .copyGuardResolve .. | .copyStart .. | .copyDeliver .. | .copyComplete ..
  | .copyFaultHalt .. | .carrDeferredArrival .. | .cinitPerform .. | .matrixAccept .. | .matrixGuardResolve ..
  | .mmaBlockRead .. | .matrixStart .. | .mmaComplete .. | .tileUnitComplete .. | .wavePortComplete ..
  | .suspendReplayWake .. | .orreryWake .. | .siderealExpiry .. | .taskWaveForm .. | .heldSuccessorEnqueue ..
  | .remoteMessageArrival .. | .grantTakenNotice .. | .remoteGrantrev .. | .dieAgentClaim .. | .crewStart ..
  | .crewRetire .. | .gangGather .. | .contractInstanceOpen .. | .contractShareReached .. | .contractDeadline ..
  | .budgetWindowClose .. | .precessionEval | .stageCoreLeave .. | .preemptRequest .. | .forcedSaveTimeout ..
  | .crewSave .. | .saveComplete .. | .crewRestore .. | .crewMove .. | .trapDelivery .. | .versionCommit ..
  | .streamTimeout .. | .flitArrival .. | .hostAccessTimeout .. | .hostCxlMemAccess .. | .hostSnoopInvalidation ..
  | .hostAccessComplete .. | .cxlLinkLoss | .ewcctlRestart | .ewcNop | .ewcLaunch | .ewcLstat | .ewcSend
  | .ewcHbind | .ewcHunbind | .log .. | .evread .. | .evsel .. | .ownports .. | .proc .. | .frames .. | .tenant ..
  | .firewall .. | .stage .. | .hwin .. | .route .. | .ewcset .. | .caps .. | .ras .. | .hbind ..
  | .powerGovernorTick .. | .thermalLimit .. | .thermalShutdown | .eccCorrected .. | .eccUncorrectable ..
  | .packageReset .. | .objectCallPerform .. | .watchArm .. | .loadComplete .. | .cxlLinkUp .. | .doeRequest .. => .event

/-- The row of a shape; none for an event or a raw slot. -/
def Shape.row : Shape → Option Row
  | .a _ _ _ r | .i _ _ _ r | .m _ _ _ r | .c _ _ _ r | .k _ _ _ r | .x _ _ _ r => some r
  | .raw _ | .event => none

/-- The header of a shape. -/
def Shape.hdr : Shape → Option Hdr
  | .a _ h _ _ | .i _ h _ _ | .m _ h _ _ | .c _ h _ _ | .k _ h _ _ | .x _ h _ _ => some h
  | .raw _ | .event => none

/-- The assigned major opcodes (Table 2-15). -/
def opcAssigned (n : Nat) : Bool :=
  decide (n < 0x28) || (decide (0x40 ≤ n) && decide (n < 0x58)) || (decide (0x60 ≤ n) && decide (n < 0x66))
    || (decide (0x70 ≤ n) && decide (n < 0x96)) || (decide (0xA0 ≤ n) && decide (n < 0xAB))
    || (decide (0xB0 ≤ n) && decide (n < 0xB8)) || (decide (0xC0 ≤ n) && decide (n < 0xD4))
    || (decide (0xE0 ≤ n) && decide (n < 0xEA))

/-- The row meets every encoding rule: row 4 of Table 2-16 does not apply. -/
def Row.encOk (r : Row) : Bool := r.enc && r.uses.all (·.ok)

/-- The row meets every modifier rule: row 5 of Table 2-16 does not apply. -/
def Row.modOk (r : Row) (h : Hdr) : Bool := r.mod && (r.post || h.post.isNone)

/-- No rule of rows 3 to 5 of Table 2-16 applies to the instruction; a raw slot is well-formed when its opcode is
unassigned, since `unassignedOpcode` stands for exactly those slots. An engine step has no encoding. -/
def Instr.wellFormed (i : Instr) : Bool :=
  match i.shape with
  | .a _ h _ r | .i _ h _ r | .m _ h _ r | .c _ h _ r | .k _ h _ r | .x _ h _ r => r.encOk && r.modOk h
  | .raw w => !opcAssigned (w.toNat / 2 ^ 88)
  | .event => false

end Sys2Proof
end

