-- ==== Sys2Proof/Decode.lean ====
section
/-! DEFINITION. The instruction line (R30 to R34), the decoder of a slot with the precedence of Table 2-16, and the
encoder, both from the layouts of Tables 2-3 and 2-5 to 2-10. -/

namespace Sys2Proof

/-! ## Fields -/

/-- A number whose fields, lowest first, have the given widths and values. -/
def pack : List (Nat × Nat) → Nat
  | [] => 0
  | (w, v) :: t => v % 2 ^ w + 2 ^ w * pack t

/-- The fields of a number, lowest first. -/
def unpack : List Nat → Nat → List Nat
  | [], _ => []
  | w :: t, x => x % 2 ^ w :: unpack t (x / 2 ^ w)

/-- 1 for a set bit. -/
def bitOf (b : Bool) : Nat := if b then 1 else 0

def Rnd.code : Rnd → Nat
  | .rne => 0 | .rtz => 1 | .rdn => 2 | .rup => 3

def Rnd.ofCode : Nat → Rnd
  | 0 => .rne | 1 => .rtz | 2 => .rdn | _ => .rup

def Ord.code : Ord → Nat
  | .rlx => 0 | .acq => 1 | .rel => 2 | .ar => 3

def Ord.ofCode : Nat → Ord
  | 0 => .rlx | 1 => .acq | 2 => .rel | _ => .ar

/-- Field widths of the header (Table 2-3) from FMT up. -/
def widthsH : List Nat := [3, 3, 1, 3, 4, 1, 4, 1, 4, 8]

/-- Field widths of the formats (Tables 2-5 to 2-10), lowest field first. -/
def widthsA : List Nat := [3, 1, 3, 3, 4, 1, 1, 1, 1, 1, 1, 1, 2, 5, 9, 9, 9, 9]
def widthsI : List Nat := [1, 3, 1, 4, 5, 32, 9, 9]
def widthsM : List Nat := [2, 9, 5, 3, 2, 5, 20, 9, 9]
def widthsC : List Nat := [3, 4, 6, 4, 3, 9, 3, 32]
def widthsK : List Nat := [8, 16, 4, 9, 9, 9, 9]
def widthsX : List Nat := [23, 5, 2, 1, 1, 5, 9, 9, 9]

def Hdr.fields (h : Hdr) (opc fmt : Nat) : List Nat :=
  [fmt, h.pred.toNat, bitOf h.pn, match h.wait with | some x => x.2.toNat | none => 0,
   match h.wait with | some x => x.1.toNat | none => 0, bitOf h.wait.isSome,
   match h.post with | some x => x.toNat | none => 0, bitOf h.post.isSome, h.stall.toNat, opc]

def FmtA.fields (o : FmtA) : List Nat :=
  [0, bitOf o.s, o.ps.toNat, o.pd.toNat, o.sub.toNat, bitOf o.absA, bitOf o.negA, bitOf o.absB, bitOf o.negB,
   bitOf o.absC, bitOf o.negC, bitOf o.sat, o.rnd.code, o.ty.code, o.c.code, o.b.code, o.a.code, o.d.code]

def FmtI.fields (o : FmtI) : List Nat :=
  [0, o.pd.toNat, bitOf o.s, o.sub.toNat, o.ty.code, o.imm.toNat, o.a.code, o.d.code]

def FmtM.fields (o : FmtM) : List Nat :=
  [0, o.b.code, o.mop.toNat, o.scope.toNat, o.ord.code, o.ty.code, o.ofs.toNat, o.a.code, o.d.code]

def FmtC.fields (o : FmtC) : List Nat :=
  [0, o.sub.toNat, o.cnt.toNat, o.tk.toNat, o.jx.toNat, o.a.code, o.slot.toNat, o.disp.toNat]

def FmtK.fields (o : FmtK) : List Nat :=
  [0, o.imm.toNat, o.sub.toNat, o.c.code, o.b.code, o.a.code, o.d.code]

def FmtX.fields (o : FmtX) : List Nat :=
  [o.cmd.toNat, o.ty.code, o.ch.toNat, bitOf o.guard.isSome, match o.guard with | some x => bitOf x.2 | none => 0,
   match o.guard with | some x => x.1.toNat | none => 0, o.b.code, o.a.code, o.d.code]

/-- The header of its fields; none where a clear enable has a nonzero field (R40). -/
def Hdr.ofFields : List Nat → Option Hdr
  | [_, pred, pn, wth, wtk, we, ptk, pe, stall, _] =>
    if (we = 0 ∧ (wth ≠ 0 ∨ wtk ≠ 0)) ∨ (pe = 0 ∧ ptk ≠ 0) then none
    else some { stall := BitVec.ofNat 4 stall, post := if pe = 0 then none else some (BitVec.ofNat 4 ptk),
                wait := if we = 0 then none else some (BitVec.ofNat 4 wtk, BitVec.ofNat 3 wth),
                pn := pn == 1, pred := BitVec.ofNat 3 pred }
  | _ => none

/-- Format A of its fields; none for a reserved code or a nonzero reserved field (R43, R46). -/
def FmtA.ofFields : List Nat → Option FmtA
  | [r, s, ps, pd, sub, absA, negA, absB, negB, absC, negC, sat, rnd, ty, c, b, a, d] =>
    match Opnd.ofCode d, Opnd.ofCode a, Opnd.ofCode b, Opnd.ofCode c with
    | some d, some a, some b, some c =>
      if r ≠ 0 then none
      else some { d := d, a := a, b := b, c := c, ty := Ty.ofCode ty, rnd := Rnd.ofCode rnd, sat := sat == 1,
                  negC := negC == 1, absC := absC == 1, negB := negB == 1, absB := absB == 1, negA := negA == 1,
                  absA := absA == 1, sub := BitVec.ofNat 4 sub, pd := BitVec.ofNat 3 pd, ps := BitVec.ofNat 3 ps,
                  s := s == 1 }
    | _, _, _, _ => none
  | _ => none

/-- Format I of its fields. -/
def FmtI.ofFields : List Nat → Option FmtI
  | [r, pd, s, sub, ty, imm, a, d] =>
    match Opnd.ofCode d, Opnd.ofCode a with
    | some d, some a =>
      if r ≠ 0 then none
      else some { d := d, a := a, imm := BitVec.ofNat 32 imm, ty := Ty.ofCode ty, sub := BitVec.ofNat 4 sub,
                  s := s == 1, pd := BitVec.ofNat 3 pd }
    | _, _ => none
  | _ => none

/-- Format M of its fields. -/
def FmtM.ofFields : List Nat → Option FmtM
  | [r, b, mop, scope, ord, ty, ofs, a, d] =>
    match Opnd.ofCode d, Opnd.ofCode a, Opnd.ofCode b with
    | some d, some a, some b =>
      if r ≠ 0 then none
      else some { d := d, a := a, ofs := BitVec.ofNat 20 ofs, ty := Ty.ofCode ty, ord := Ord.ofCode ord,
                  scope := BitVec.ofNat 3 scope, mop := BitVec.ofNat 5 mop, b := b }
    | _, _, _ => none
  | _ => none

/-- Format C of its fields. -/
def FmtC.ofFields : List Nat → Option FmtC
  | [r, sub, cnt, tk, jx, a, slot, disp] =>
    match Opnd.ofCode a with
    | some a =>
      if r ≠ 0 then none
      else some { disp := BitVec.ofNat 32 disp, slot := BitVec.ofNat 3 slot, a := a, jx := BitVec.ofNat 3 jx,
                  tk := BitVec.ofNat 4 tk, cnt := BitVec.ofNat 6 cnt, sub := BitVec.ofNat 4 sub }
    | none => none
  | _ => none

/-- Format K of its fields. -/
def FmtK.ofFields : List Nat → Option FmtK
  | [r, imm, sub, c, b, a, d] =>
    match Opnd.ofCode d, Opnd.ofCode a, Opnd.ofCode b, Opnd.ofCode c with
    | some d, some a, some b, some c =>
      if r ≠ 0 then none
      else some { d := d, a := a, b := b, c := c, sub := BitVec.ofNat 4 sub, imm := BitVec.ofNat 16 imm }
    | _, _, _, _ => none
  | _ => none

/-- Format X of its fields; none where a clear GE has a nonzero field (R53). -/
def FmtX.ofFields : List Nat → Option FmtX
  | [cmd, ty, ch, ge, gp, gs, b, a, d] =>
    match Opnd.ofCode d, Opnd.ofCode a, Opnd.ofCode b with
    | some d, some a, some b =>
      if ge = 0 ∧ (gp ≠ 0 ∨ gs ≠ 0) then none
      else some { d := d, a := a, b := b, guard := if ge = 0 then none else some (BitVec.ofNat 5 gs, gp == 1),
                  ch := BitVec.ofNat 2 ch, ty := Ty.ofCode ty, cmd := BitVec.ofNat 23 cmd }
    | _, _, _ => none
  | _ => none

/-! ## The opcode map (Table 2-15) -/

/-- The entry of a list at key `k`. -/
def lookup {α : Type} : List (Nat × α) → Nat → Option α
  | [], _ => none
  | (i, x) :: t, k => if i = k then some x else lookup t k

/-- Instructions of format A whose major opcode names one instruction in that format (Table 2-15). -/
def tableA0 : List (Nat × (Hdr → FmtA → Instr)) :=
  [(0x00, .add), (0x01, .addc), (0x02, .sub), (0x03, .subb), (0x04, .mul), (0x05, .mulh), (0x06, .mad),
   (0x07, .div), (0x08, .rem), (0x09, .min), (0x0A, .max), (0x0B, .abs), (0x0C, .neg), (0x0D, .and), (0x0E, .or),
   (0x0F, .xor)]

/-- Instructions of format A whose major opcode names one instruction in that format (Table 2-15). -/
def tableA1 : List (Nat × (Hdr → FmtA → Instr)) :=
  [(0x10, .andn), (0x11, .not), (0x12, .shl), (0x13, .shr), (0x14, .sha), (0x15, .rot), (0x16, .shf), (0x17, .bfe),
   (0x18, .bfi), (0x19, .popc), (0x1A, .clz), (0x1B, .ctz), (0x1C, .brev), (0x1D, .perm), (0x1E, .sel),
   (0x1F, .cmp)]

/-- Instructions of format A whose major opcode names one instruction in that format (Table 2-15). -/
def tableA2 : List (Nat × (Hdr → FmtA → Instr)) :=
  [(0x20, .lea), (0x21, .mov), (0x23, .sxt), (0x24, .zxt), (0x25, .plop), (0x26, .sread), (0x27, .swrite),
   (0x40, .fadd), (0x41, .fsub), (0x42, .fmul), (0x43, .ffma), (0x44, .fmin), (0x45, .fmax), (0x46, .fcmp),
   (0x47, .fclass), (0x48, .frcp)]

/-- Instructions of format A whose major opcode names one instruction in that format (Table 2-15). -/
def tableA3 : List (Nat × (Hdr → FmtA → Instr)) :=
  [(0x49, .frsq), (0x4A, .fsqrt), (0x4B, .fdiv), (0x4C, .fexp2), (0x4D, .flog2), (0x4E, .fsin), (0x4F, .fcos),
   (0x50, .ftanh), (0x51, .fscale), (0x52, .frnd), (0x53, .cvt), (0x54, .dot4), (0x55, .hadd2), (0x56, .hmul2),
   (0x57, .hfma2), (0x60, .shfl)]

/-- Instructions of format A whose major opcode names one instruction in that format (Table 2-15). -/
def tableA4 : List (Nat × (Hdr → FmtA → Instr)) :=
  [(0x61, .vote), (0x62, .ballot), (0x63, .matchLanes), (0x64, .redux), (0x65, .laneperm), (0x93, .sqinit),
   (0xA5, .seal), (0xA7, .cinit), (0xA8, .carr), (0xA9, .gset), (0xAA, .gclr), (0xB2, .mrd), (0xB3, .mwr),
   (0xB7, .mtile), (0xE7, .csave), (0xE8, .crest)]

/-- All of them. -/
def tableA : List (Nat × (Hdr → FmtA → Instr)) :=
  tableA0 ++ tableA1 ++ tableA2 ++ tableA3 ++ tableA4

/-- The instruction that a major opcode and its sub-operation select in format A. -/
def mkA (opc : Nat) (o : FmtA) : Option (Hdr → FmtA → Instr) :=
  match opc with
  | 0x92 => some (if o.sub == 1 then .barWait else if o.sub == 2 then .barSync else .barArrive)
  | 0x94 => some (if o.sub == 1 then .sqpushCredit else .sqpush)
  | 0x95 => some (if o.sub == 1 then .sqpopFree else .sqpop)
  | 0xA6 => some (if o.sub == 1 then .cptrIptr else if o.sub == 2 then .cptrStat else .cptr)
  | _ => lookup tableA opc

/-- Instructions of format I whose major opcode names one instruction in that format (Table 2-15). -/
def tableI0 : List (Nat × (Hdr → FmtI → Instr)) :=
  [(0x00, .addImm), (0x01, .addcImm), (0x02, .subImm), (0x03, .subbImm), (0x04, .mulImm), (0x05, .mulhImm),
   (0x07, .divImm), (0x08, .remImm), (0x09, .minImm), (0x0A, .maxImm), (0x0D, .andImm), (0x0E, .orImm),
   (0x0F, .xorImm), (0x10, .andnImm), (0x12, .shlImm), (0x13, .shrImm)]

/-- Instructions of format I whose major opcode names one instruction in that format (Table 2-15). -/
def tableI1 : List (Nat × (Hdr → FmtI → Instr)) :=
  [(0x14, .shaImm), (0x15, .rotImm), (0x17, .bfeImm), (0x1D, .permImm), (0x1E, .selImm), (0x1F, .cmpImm),
   (0x20, .leaImm), (0x22, .movi), (0x40, .faddImm), (0x41, .fsubImm), (0x42, .fmulImm), (0x44, .fminImm),
   (0x45, .fmaxImm), (0x46, .fcmpImm), (0x51, .fscaleImm), (0x55, .hadd2Imm)]

/-- Instructions of format I whose major opcode names one instruction in that format (Table 2-15). -/
def tableI2 : List (Nat × (Hdr → FmtI → Instr)) :=
  [(0x56, .hmul2Imm), (0x60, .shflImm), (0x65, .lanepermImm), (0xA9, .gsetImm), (0xAA, .gclrImm), (0xE4, .trap),
   (0xE5, .bkpt)]

/-- All of them. -/
def tableI : List (Nat × (Hdr → FmtI → Instr)) :=
  tableI0 ++ tableI1 ++ tableI2

/-- The instruction that a major opcode and its sub-operation select in format I. -/
def mkI (opc : Nat) (o : FmtI) : Option (Hdr → FmtI → Instr) :=
  match opc with
  | 0x92 => some (if o.sub == 2 then .barSyncImm else .barArriveImm)
  | 0xE3 => some (if o.sub == 1 then .phintFull else .phint)
  | _ => lookup tableI opc

/-- Instructions of format M whose major opcode names one instruction in that format (Table 2-15). -/
def tableM0 : List (Nat × (Hdr → FmtM → Instr)) :=
  [(0x80, .ld), (0x81, .st), (0x82, .lde), (0x83, .lda), (0x84, .sta), (0x85, .ldw), (0x86, .ldc), (0x87, .atom),
   (0x88, .red), (0x89, .mcas), (0x8A, .fence), (0x8B, .wbr), (0x8C, .invr), (0x8D, .pref), (0x8E, .ipref),
   (0x8F, .ipin)]

/-- Instructions of format M whose major opcode names one instruction in that format (Table 2-15). -/
def tableM1 : List (Nat × (Hdr → FmtM → Instr)) :=
  [(0x90, .iunpin), (0x91, .watch)]

/-- All of them. -/
def tableM : List (Nat × (Hdr → FmtM → Instr)) :=
  tableM0 ++ tableM1

/-- The instruction that a major opcode and its sub-operation select in format M. -/
def mkM (opc : Nat) (o : FmtM) : Option (Hdr → FmtM → Instr) :=
  match opc with
  | 0xE9 => some (if o.mop == 1 then .ptinvRsm else if o.mop == 2 then .ptinvEnd else .ptinv)
  | _ => lookup tableM opc

/-- Instructions of format C whose major opcode names one instruction in that format (Table 2-15). -/
def tableC : List (Nat × (Hdr → FmtC → Instr)) :=
  [(0x70, .bra), (0x71, .brx), (0x72, .call), (0x73, .callx), (0x74, .ret), (0x75, .join), (0x76, .waitj),
   (0x77, .exit), (0x78, .nop), (0x79, .delay), (0x7A, .yield), (0x7B, .backoff), (0x7C, .twait), (0x7D, .treset),
   (0x7E, .tread), (0x7F, .regq)]

/-- The instruction that a major opcode and its sub-operation select in format C. -/
def mkC (opc : Nat) (o : FmtC) : Option (Hdr → FmtC → Instr) :=
  match opc with
  | 0xE6 => some (if o.sub == 1 then .rettStep else .rett)
  | _ => lookup tableC opc

/-- Instructions of format K whose major opcode names one instruction in that format (Table 2-15). -/
def tableK0 : List (Nat × (Hdr → FmtK → Instr)) :=
  [(0xC0, .wcreate), (0xC1, .psend), (0xC2, .precv), (0xC3, .wsadd), (0xC4, .wsdel), (0xC6, .tarm),
   (0xC7, .tdisarm), (0xC8, .ecsig), (0xC9, .ecread), (0xCA, .qenq), (0xCB, .dcinit), (0xCC, .dcdec),
   (0xCD, .objnew), (0xCE, .objdel), (0xCF, .objinfo), (0xD0, .nslook)]

/-- Instructions of format K whose major opcode names one instruction in that format (Table 2-15). -/
def tableK1 : List (Nat × (Hdr → FmtK → Instr)) :=
  [(0xD1, .nsbind), (0xD2, .grantrev), (0xD3, .syscall), (0xE0, .launch), (0xE1, .lstat), (0xE2, .ctadmit)]

/-- All of them. -/
def tableK : List (Nat × (Hdr → FmtK → Instr)) :=
  tableK0 ++ tableK1

/-- The instruction that a major opcode and its sub-operation select in format K. -/
def mkK (opc : Nat) (o : FmtK) : Option (Hdr → FmtK → Instr) :=
  match opc with
  | 0xC5 => some (if o.sub == 1 then .suspendX else .suspend)
  | _ => lookup tableK opc

/-- Instructions of format X whose major opcode names one instruction in that format (Table 2-15). -/
def tableX : List (Nat × (Hdr → FmtX → Instr)) :=
  [(0xA0, .cpy), (0xA1, .cpym), (0xA2, .cpys), (0xA3, .cpyg), (0xA4, .cpyx), (0xB0, .mma), (0xB1, .mzero),
   (0xB4, .mred), (0xB5, .mmap), (0xB6, .mcvt)]

/-- The instruction that a major opcode selects in format X. -/
def mkX (opc : Nat) : Option (Hdr → FmtX → Instr) :=
  lookup tableX opc


/-! ## Decode -/

/-- The causes that the encoding alone decides (rows 4 and 5 of Table 2-16). -/
inductive DecodeErr where
  | illegalEncoding | illegalModifier
  deriving DecidableEq, Repr

/-- The instruction that the format selector, the major opcode and the low 64 bits name, before the checks of its row;
none for a bad format, a reserved code or a nonzero reserved field. -/
def rawInstr (opc fmt low : Nat) (h : Hdr) : Option Instr :=
  match fmt with
  | 0 => (FmtA.ofFields (unpack widthsA low)).bind (fun o => (mkA opc o).map (fun f => f h o))
  | 1 => (FmtI.ofFields (unpack widthsI low)).bind (fun o => (mkI opc o).map (fun f => f h o))
  | 2 => (FmtM.ofFields (unpack widthsM low)).bind (fun o => (mkM opc o).map (fun f => f h o))
  | 3 => (FmtC.ofFields (unpack widthsC low)).bind (fun o => (mkC opc o).map (fun f => f h o))
  | 4 => (FmtK.ofFields (unpack widthsK low)).bind (fun o => (mkK opc o).map (fun f => f h o))
  | 5 => (FmtX.ofFields (unpack widthsX low)).bind (fun o => (mkX opc).map (fun f => f h o))
  | _ => none

/-- The checks of an instruction's row, in the precedence of Table 2-16. -/
def rowCheck (i : Instr) : Except DecodeErr Instr :=
  match i.shape.row, i.shape.hdr with
  | some r, some h =>
    if !r.encOk then .error .illegalEncoding else if !r.modOk h then .error .illegalModifier else .ok i
  | _, _ => .ok i

/-- The instruction of a 96-bit slot. An unassigned major opcode gives `unassignedOpcode`, whose meaning takes
ILLEGAL_OPCODE; otherwise the highest row of Table 2-16 that applies is the error. -/
def decode (w : Nat) : Except DecodeErr Instr :=
  let opc := w / 2 ^ 88 % 256
  if !opcAssigned opc then .ok (.unassignedOpcode (BitVec.ofNat 96 w))
  else
    match Hdr.ofFields (unpack widthsH (w / 2 ^ 64)) with
    | none => .error .illegalEncoding
    | some h =>
      match rawInstr opc (w / 2 ^ 64 % 8) (w % 2 ^ 64) h with
      | none => .error .illegalEncoding
      | some i => rowCheck i

/-- The decoder on the bits that the opcode table gives a row (bit 0 of the table is bit 0 of the slot, R30); the bits
above `nbits` are 0. -/
def decodeTableWord (nbits w : Nat) : Option Instr :=
  match decode (w % 2 ^ nbits % 2 ^ 96) with
  | .ok i => some i
  | .error _ => none

/-! ## Encode -/

/-- A slot of its header fields and its format fields. -/
def encodeSlot (wf ff hf : List Nat) : Nat := pack (wf.zip ff) + 2 ^ 64 * pack (widthsH.zip hf)

/-- The 96-bit slot of an instruction; 0 for an engine step, which has none. -/
def encode (i : Instr) : Nat :=
  match i.shape with
  | .a opc h o _ => encodeSlot widthsA o.fields (h.fields opc 0)
  | .i opc h o _ => encodeSlot widthsI o.fields (h.fields opc 1)
  | .m opc h o _ => encodeSlot widthsM o.fields (h.fields opc 2)
  | .c opc h o _ => encodeSlot widthsC o.fields (h.fields opc 3)
  | .k opc h o _ => encodeSlot widthsK o.fields (h.fields opc 4)
  | .x opc h o _ => encodeSlot widthsX o.fields (h.fields opc 5)
  | .raw w => w.toNat
  | .event => 0

/-! ## Instruction lines -/

/-- The slot i of a line whose bytes, byte 0 lowest, make the number `bits` (R30). -/
def lineSlot (bits : BitVec 512) (i : Nat) : Nat := bits.toNat / 2 ^ (96 * i) % 2 ^ 96

/-- The line word (Table 2-2). -/
def lineWord (bits : BitVec 512) : Nat := bits.toNat / 2 ^ 480

/-- BTM bit i of a line word. -/
def lineBtm (lw i : Nat) : Bool := lw / 2 ^ i % 2 == 1

/-- TPL of a line word. -/
def lineTpl (lw : Nat) : Nat := lw / 2 ^ 11 % 16

/-- The reserved field and the template of a line word are legal (R34). -/
def lineWordOk (lw : Nat) : Bool := lw / 2 ^ 15 == 0 && decide (lineTpl lw < 8)

/-- The number of ones among the low n bits. -/
def onesOf : Nat → Nat → Nat
  | 0, _ => 0
  | n + 1, x => x % 2 + onesOf n (x / 2)

/-- The parity of the line word (LPAR, R32). -/
def lineParityOk (lw : Nat) : Bool := onesOf 32 lw % 2 == 0

/-- The parity of slot i (SPAR bit 5 + i, R32). -/
def slotParityOk (bits : BitVec 512) (i : Nat) : Bool :=
  (onesOf 96 (lineSlot bits i) + lineWord bits / 2 ^ (5 + i)) % 2 == 0

/-- Whether TPL names the pair (i, i + 1) (Table 2-14). -/
def pairNamed (tpl i : Nat) : Bool :=
  match tpl with
  | 1 => i == 0 | 2 => i == 1 | 3 => i == 2 | 4 => i == 3
  | 5 => i == 0 || i == 2 | 6 => i == 0 || i == 3 | 7 => i == 1 || i == 3
  | _ => false

/-- A line of five slots with its line word: BTM and TPL as given, parities made even (R31, R32). -/
def buildLine (slots : List Nat) (btm tpl : Nat) : BitVec 512 :=
  let body := pack (slots.map (fun x => (96, x)))
  let spar := pack (slots.map (fun x => (1, onesOf 96 x)))
  let lw := btm % 32 + spar * 32 + tpl % 16 * 2048
  BitVec.ofNat 512 (body + 2 ^ 480 * (lw + onesOf 32 lw % 2 * 1024))

end Sys2Proof
end

