-- ==== Sys2Proof/Config.lean ====
section
/-! DEFINITION. What the spec leaves open: the free values (constants without a body, applied to State's counter or to
the operands they depend on) and the model's fixed choices, each with its entry in notes/assumptions. -/

namespace Sys2Proof.Config

/-- Free choice of the old or the new value of an element with a pending write (R118), and of the other two-way
choices that the spec leaves open: counter and element key (notes/assumptions/5). -/
opaque freeBit : Nat → Nat → Bool

/-- Free choice among the steps that may happen next (R25, R26, R107; notes/assumptions/6). -/
opaque freePick : Nat → Nat

/-- Free bits of an `.f32` or `.f64` approximated function within its bound (R184, R185): function, type code and
input bits. One fixed function of the input, as R185 states (notes/assumptions/7). -/
opaque approxBits : Nat → Nat → Nat → Nat

/-- Free 64-bit value for what the spec names but does not give: the engine-area check word of a save frame (Table
15-4), the answer of a DOE request (R431) (notes/assumptions/8). -/
opaque freeWord : Nat → BitVec 64

/-- Frames of 16 MiB that the firmware sets aside for saves at bring-up (R29, R387): how many, and where they begin.
The spec gives neither (notes/assumptions/9). -/
opaque saveFrameBase : Nat

/-- The number of save frames (notes/assumptions/9). -/
opaque saveFrameCount : Nat

/-- LEASE of R213. -/
def lease : Nat := 8

/-- Cycles for which a cached copy stays valid after its fill (R213). -/
def copyLife : Nat := 1024

/-- Lines of 128 bytes that an L1, a cluster cache and a home LLC slice hold (Table 8-1). -/
def l1Lines : Nat := 4096

/-- See `l1Lines`. -/
def clusterLines : Nat := 131072

/-- See `l1Lines`. -/
def sliceLines : Nat := 393216

/-- The size of the registers of one lane position of a quadrant (R103). -/
def quadrantRegs : Nat := 2048

/-- End of the populated HBM4E range (Table 8-2). -/
def hbmEnd : Nat := 0x30000000000

/-- Bytes of one HBM4E stack (R199). -/
def stackBytes : Nat := 0x1800000000

/-- First address of the host windows (Table 8-2). -/
def hostBase : Nat := 0x8000000000000

/-- End of the physical address space (Table 8-2). -/
def physEnd : Nat := 0x10000000000000

/-- Bytes of the A-, W- and C-buffer (Table 8-8). -/
def abufBytes : Nat := 0x200000

/-- See `abufBytes`. -/
def wbufBytes : Nat := 0x400000

/-- See `abufBytes`. -/
def cbufBytes : Nat := 0x800000

end Sys2Proof.Config
end

