-- ==== Sys2Proof/Machine/State.lean ====
section
/-! DEFINITION. The state of the package as plain data: the wave engines, the memory engine, the copy and matrix
engines, the Orrery, Transit, Dusk, the fabric and the service tables (Table 1-5), with the faults and refusals of a
step and the state right after reset. Fields marked MODEL are the model's own and not the spec's. -/

namespace Sys2Proof.Machine

/-- A table from natural numbers to data: keys strictly rising. -/
abbrev Tbl (α : Type) := List (Nat × α)

/-- A sparse array of w-bit cells: keys strictly rising, no cell equal to 0, and an unlisted key reads as 0. -/
abbrev Bits (w : Nat) := List (Nat × BitVec w)

/-- Byte-addressed storage in the canonical form of `Bits`. -/
abbrev Memory := List Host.Cell

/-- Why a step stops with a fault. Raised by the fetch of a step whose cursor names no wave: safe, since no program
reaches it (the schedule only ever names a resident wave). -/
inductive Fault where
  | noSuchWave
  deriving DecidableEq, Repr

/-- Why an instruction has no meaning. -/
inductive Refusal where
  /-- Raised by an arm of `exec` that has no meaning yet. Safe: nothing is claimed of it. -/
  | notModelled (mnemonic : String)
  deriving DecidableEq, Repr

/-! ## Wave engine (Table 5-1) -/

/-- What a SUSPENDED split waits for (Table 5-3). -/
inductive Susp where
  /-- The open phase of a crew barrier; it goes on at the next PC (R265). -/
  | barrier (b : Nat)
  /-- A change of a scratchpad queue's header from what it was; it replays (R269). -/
  | squeue (q seen : Nat)
  /-- The answer of a call that may suspend (R324). -/
  | call (id : Nat)
  /-- A waiter record: a `suspend`, or a call that must wait and replays (R324, R344). -/
  | waiter (id : Nat)
  /-- The data of the missing lanes of an `.ms` load (R222). -/
  | miss (op : Nat)
  deriving DecidableEq, Repr

/-- The split states of Table 5-3 with their details. -/
inductive SplitSt where
  | ready
  | joinWait (j : Nat)
  | parked (cause secondary addr : Nat) (resolved : Bool)
  | suspended (w : Susp)
  | stopped (cause : Nat)
  /-- MODEL: READY, but held until the pages of the instruction numbered `op`, which it has issued, are translated
  (R434). -/
  | held (op : Nat)
  deriving DecidableEq, Repr

/-- A split (R105). `since` is the cycle from which it has been READY without issuing (R108); `notBefore` is the
earliest cycle of its next issue after a transfer (R117); `stepOne` asks for a single step (R396); `stop` is the cause
with which it stops at its next instruction boundary (R133); `origin` is the PC
of the transfer that brought it to `pc` while the BTM check of R36 is still to be made. -/
structure Split where
  pc : PC
  mask : Lanes
  st : SplitSt
  since : Nat
  notBefore : Nat
  stepOne : Bool
  stop : Option Nat
  origin : Option PC
  deriving DecidableEq, Repr

/-- A rejoin register (Table 5-4). -/
structure JReg where
  v : Bool
  pcw : PC
  arr : Lanes
  exp : Lanes
  deriving DecidableEq, Repr

/-- The poll record (Table 5-1, R130): the address and value of the lowest passing lane. -/
structure Poll where
  addr : Nat
  value : DWord
  deriving DecidableEq, Repr

/-- An operation outstanding on a token: its number, the value of P just after its post (R125), whether it has
completed and in which cycle (R120), and the poll record that it makes and the flags that it raises when it retires (R78,
R130). -/
structure TokOp where
  id : Nat
  q : Nat
  done : Bool
  at_ : Nat
  poll : Option Poll
  fl : BitVec 6
  deriving DecidableEq, Repr

/-- Register writes of an issued instruction that are still to be made (R114, R142): in cycle `due`, or from cycle
`early` on where the rule allows that (R157). `v` is keyed by register × 32 + lane; `p` gives a predicate number, the
lanes written and their values; `sp` the special registers (0 for CHKCTL, 1 + n for SCALEWINn); `fl` are the FPCTL
flags that the instruction raises (R78). `num` is the number of its issue; `op` numbers the token operation that the writes complete, and `isDiv` marks
the divide unit's. -/
structure PWrite where
  due : Nat
  early : Nat
  num : Nat
  op : Option Nat
  isDiv : Bool
  v : List (Nat × Word)
  s : List (Nat × Word)
  p : List (Nat × Lanes × Lanes)
  sp : List (Nat × DWord)
  fl : BitVec 6
  deriving DecidableEq, Repr

/-- An element of an `lde` (R245): the page format that decodes it and its index within an FQ4 cell. -/
structure LdeElem where
  lane : Nat
  k : Nat
  fmtc : Nat
  sub : Nat
  deriving DecidableEq, Repr

/-- What an outstanding Q-class operation does with the values that its requests bring back. -/
inductive OutKind where
  /-- n elements of the type to the registers from `d` (R242, R246). -/
  | load (d : Opnd) (ty : Ty) (n : Nat)
  /-- The decoded elements of an `lde` (R245). -/
  | lde (d : Opnd) (ty : Ty) (rnd : Rnd) (elems : List LdeElem)
  /-- The old value of an `atom` in `words` registers (R248). -/
  | atom (d : Opnd) (words : Nat)
  /-- The result word of an `mcas` (R252). -/
  | mcas (d : Opnd)
  deriving DecidableEq, Repr

/-- An outstanding memory operation of a wave: its lanes and what their answers become. An acquire carries the lane that
makes the poll record with its address and, once it is bound, its value (R130). -/
structure OutOp where
  id : Nat
  lanes : Lanes
  pc : PC
  kind : OutKind
  acq : Bool
  pollLane : Nat
  pollAddr : Nat
  pollVal : Option DWord
  fl : BitVec 6
  deriving DecidableEq, Repr

/-- The task that one lane of a task wave runs (R348). -/
structure TaskLane where
  slot : Nat
  argp : DWord
  depth : Nat
  deriving DecidableEq, Repr

/-- How a wave stands towards a pre-emption (R384): whether it rests, and the hint that it last gave (R394). -/
structure Rest where
  resting : Bool
  hinted : Bool
  block : Option Nat
  hintPc : PC
  deriving DecidableEq, Repr

/-- The bypass that a `fence.sc` leaves to a thread (R230): its scope, the number from which requests follow it, and
the lines loaded since. -/
structure ScBypass where
  scope : Nat
  since : Nat
  seen : List Nat
  deriving DecidableEq, Repr

/-- A wave: Table 5-1 with the state that its rules keep for issue (R127 to R131), checking (R125), pre-emption
(R384) and crew barriers (R263). -/
structure Wave where
  asid : Nat
  launched : Lanes
  v : Bits 32
  s : Bits 32
  /-- Predicate n, for n from 0 to 6, as the mask of the lanes in which it is true. -/
  p : Bits 32
  splits : List Split
  j : Tbl JReg
  toks : Tbl (List TokOp)
  /-- Per token, the cycle of its last retirement and the operations that retired in it (R121, R170). -/
  falls : Tbl (Nat × Nat)
  posts : Tbl Nat
  gmark : Tbl Nat
  fpctl : Word
  chkctl : Word
  quota : Nat
  scalewin : Bits 64
  rt : Bool
  base : Nat
  level : Nat
  poll : Option Poll
  argp : DWord
  crewNo : Word
  tasks : Tbl TaskLane
  taskQueue : Option Nat
  /-- First A-buffer byte and length of the region that the wave addresses from 0 (R220, R348). -/
  abase : Nat
  abytes : Nat
  /-- The WAVE object of a created wave, by index and generation, and the event counter signalled when it retires, or 0
  (R336). -/
  waveObj : Option (Nat × Nat)
  exitCtr : Nat
  pend : List PWrite
  outs : List OutOp
  notBefore : Nat
  /-- The cycle from which the wave has been ready without issuing (R129), and that from which it has been ready or held
  only by a busy datapath (R131). -/
  readySince : Nat
  waitSince : Nat
  agedAt : Option Nat
  yieldUntil : Option Nat
  chkLand : Tbl Nat
  chkTok : Tbl (Nat × Nat)
  /-- Per barrier, the lanes with a pending arrival (W) and the phase parity at which they arrived (Q). -/
  barW : Bits 32
  barQ : Bits 32
  rest : Rest
  scFence : Tbl (List ScBypass)
  /-- Shrinks of QUOTA with the number that the next operation had then: writes of older operations to the registers
  that were lost are discarded (R172). -/
  cuts : List (Nat × Nat)
  /-- Elements of the v file that hold an uncorrectable error (R429). -/
  bad : List Nat
  /-- Per register element, the cycle and the issue number of the last write made to it (R118), while it may matter. -/
  made : Tbl (Nat × Nat)
  /-- The flags raised by operations that retired in the cycle named, which is the latest (R157). -/
  raised : Nat × BitVec 6
  /-- Lanes woken to replay a send to the host which they have not issued again, with its PC, and whether the host has
  restarted since (R422). -/
  replays : List (Lanes × PC × Bool)
  deriving DecidableEq, Repr

/-! ## Memory engine -/

/-- Where an access is performed (R223). -/
inductive Place where
  | mem | host | abuf | wbuf | cbuf
  deriving DecidableEq, Repr

/-- One entry of an `mcas` block after translation, with the kind of its page (R250). -/
structure McasEnt where
  pa : Nat
  kind : Nat
  exp : DWord
  new : DWord
  deriving DecidableEq, Repr

/-- What an in-flight request does. -/
inductive ReqKind where
  | load
  | scale
  | store
  | atom (op : Nat)
  | red (op : Nat)
  | fence (sc : Bool)
  /-- The physical ranges of the pages, each with its length and kind. -/
  | wbr (ranges : List (Nat × Nat × Nat))
  | invr (ranges : List (Nat × Nat × Nat))
  | watch (counter : Nat)
  | mcas (ents : List McasEnt) (locked : List Nat)
  /-- A scratchpad queue operation of a lane that has been decided: the queue's address, its header as the operation
  leaves it, and whether it pops (R270). -/
  | squeue (z hdr : Nat) (pop : Bool)
  /-- An arrival of a lane at a crew barrier that has been counted (R265). -/
  | arrive (b : Nat)
  /-- The line that a `pref` loads: into the L1 or into the cluster cache only (R259). -/
  | pref (l1 : Bool)
  deriving DecidableEq, Repr

/-- How far a request has come: not performed; performed with a value that its operation waits for; or performed
with the acknowledgement, which carries the write timestamp and the cycle of the store, on its way. A performed store
holds in `data2` the line as the home left it. -/
inductive ReqSt where
  | waiting
  | bound (value : Nat)
  | unacked (wts at_ : Nat)
  deriving DecidableEq, Repr

/-- One access of one lane (or one page piece of one element of it, R210, R242) in flight. `id` rises with the
issue order, so it is the program order of a thread; `age` is the CLOCK value at which it was sent (R218). -/
structure Req where
  id : Nat
  uid : Nat
  asid : Nat
  core : Nat
  wave : Nat
  lane : Nat
  op : Nat
  kind : ReqKind
  place : Place
  pageKind : Nat
  addr : Nat
  size : Nat
  va : Nat
  elem : Nat
  off : Nat
  ord : Ord
  scope : Nat
  ty : Ty
  data : Nat
  data2 : Nat
  age : Nat
  st : ReqSt
  pc : PC
  /-- The cycle in which Lodestar issued a host access (R415). -/
  lodged : Option Nat
  deriving DecidableEq, Repr

/-- A cached copy of a 128-byte line (R213, R216): `held` marks the bytes that it holds, `bad` those of its units of 8 bytes
that hold an uncorrectable error and have not been written again (R429), and `dirty` those written
on a MANUAL page and not yet written back. `pages` lists the processes and virtual 64 KiB pages through which a MANUAL line
has been accessed; its `wts` is the latest time of the writes that its fills have read (R228). -/
structure Copy where
  data : Bits 8
  held : BitVec 128
  bad : BitVec 128
  dirty : BitVec 128
  manual : Bool
  pages : List (Nat × Nat)
  wts : Nat
  rts : Nat
  filled : Nat
  deriving DecidableEq, Repr

/-- The timestamps of a RELEASED line at its home (R213). -/
structure LineTs where
  wts : Nat
  rts : Nat
  deriving DecidableEq, Repr

/-- A TLB entry (R206): the leaf entry that translates the page, for 64 KiB (`big` false) or 2 MiB. -/
structure TlbEnt where
  asid : Nat
  page : Nat
  big : Bool
  leaf : DWord
  deriving DecidableEq, Repr

/-- A walk for a page that the held instruction numbered `op` waits for: outstanding, or answered with a fault cause that
the instruction takes (R206, R434). -/
structure Walk where
  asid : Nat
  page : Nat
  op : Nat
  cause : Option Nat
  deriving DecidableEq, Repr

/-- A line of the instruction cache (R61): its 64 bytes as one number, byte 0 lowest, and whether they hold an uncorrectable
error (R429). -/
structure ILine where
  asid : Nat
  line : Nat
  bits : BitVec 512
  bad : Bool
  deriving DecidableEq, Repr

/-- A MANUAL write-back on its way to its home (R216), for the `wbr`, `invr` or shootdown numbered `op`; `pages` is as
in `Copy`, `asid` the process that it is charged to, `time` its core's T and `age` the cycle in which it was sent. -/
structure WriteBack where
  id : Nat
  op : Nat
  uid : Nat
  core : Nat
  asid : Nat
  line : Nat
  pages : List (Nat × Nat)
  data : Bits 8
  mask : BitVec 128
  bad : BitVec 128
  time : Nat
  age : Nat
  deriving DecidableEq, Repr

/-- A commit of a crew's version that is taking the locks of its lines (R383): its number, under which it holds them, the
crew, and the CLOCK value at its start. -/
structure Commit where
  id : Nat
  uid : Nat
  core : Nat
  age : Nat
  deriving DecidableEq, Repr

/-- A unit that holds an uncorrectable error, with those of its bytes that have not been written again (R429). -/
structure Spoilt where
  place : EccPlace
  left : BitVec 32
  deriving DecidableEq, Repr

/-- An armed watch at a home (R261): `fired` when a write has been performed to its line. -/
structure Watch where
  id : Nat
  uid : Nat
  line : Nat
  host : Bool
  counter : Nat
  fired : Bool
  deriving DecidableEq, Repr

/-- A shootdown in progress (R207): who asked, the range, and what follows it (`ptinv` with its MOP, a grant). -/
structure Shoot where
  id : Nat
  asid : Nat
  lo : Nat
  hi : Nat
  mode : Nat
  call : Option Nat
  deriving DecidableEq, Repr

/-- A crew barrier (Table 9-5). `open_` counts the arrivals in ARR whose release is still to be performed (R265). -/
structure Barrier where
  pb : Word
  phase : Word
  drop : BitVec 16
  arr : BitVec 16
  cnt : BitVec 16
  open_ : Nat
  deriving DecidableEq, Repr

/-! ## Copy engine (Table 10-1) -/

/-- The five copy commands. -/
inductive CopyOp where
  | cpy | cpym | cpys | cpyg | cpyx
  deriving DecidableEq, Repr

/-- A guard slot (Table 10-1). -/
inductive Guard where
  | unset | set0 | set1
  deriving DecidableEq, Repr

/-- A copy command from its issue to its completion. `batch` is none while it stands in its thread's open set; its
`start` is the stream position S; `done` counts the bytes delivered; `resolved` is its guard's outcome. -/
structure CopyCmd where
  /-- A task wave issued it (R349). -/
  task : Bool
  id : Nat
  asid : Nat
  op : CopyOp
  wave : Nat
  lane : Nat
  pc : PC
  chan : Nat
  src : DWord
  dst : DWord
  ssp : Nat
  dsp : Nat
  rb : Nat
  rn : Nat
  b2 : Int
  b3 : Int
  dec : Bool
  rnd : Rnd
  sat : Bool
  ty : Ty
  be : Bool
  bar : Nat
  mask : Nat
  guard : Option (Nat × Bool)
  resolved : Option Bool
  batch : Option Nat
  scalewin : Bits 64
  accepted : Bool
  started : Bool
  rows : List Int
  start : Nat
  done : Nat
  flags : BitVec 6
  /-- The A-buffer region of the issuing wave (R278, R349). -/
  abase : Nat
  abytes : Nat
  /-- The `gset` on which the guard resolved, by wave, lane and number: its thread's earlier accesses go first (R290). -/
  after : Option (Nat × Nat × Nat)
  age : Nat
  /-- The pages that the command has reached, by virtual page, with the leaf and the physical address that translated them then
  (R282). -/
  pages : List (Nat × DWord × Nat)
  /-- The cycle from which its host access has waited for an answer (R415). -/
  lodged : Option Nat
  deriving DecidableEq, Repr

/-- A channel of the copy engine. `queue` lists accepted commands in acceptance order. -/
structure Chan where
  queue : List Nat
  iptr : Nat
  wptr : Nat
  halt : Bool
  mcause : Nat
  deriving DecidableEq, Repr

/-- A `seal` whose operation is outstanding: the commands that it waits for (R284). -/
structure SealOp where
  op : Nat
  wave : Nat
  cmds : List Nat
  deriving DecidableEq, Repr

/-- A deferred barrier arrival of one lane (R285). -/
structure CarrOp where
  id : Nat
  wave : Nat
  lane : Nat
  bar : Nat
  cmds : List Nat
  deriving DecidableEq, Repr

/-- A `cinit` that is still to be performed (R287). -/
structure CinitOp where
  id : Nat
  bar : Nat
  amount : Word
  due : Nat
  deriving DecidableEq, Repr

/-- A `gset` or `gclr` that is performed at the slots at `due` (R291, R292). -/
structure GuardWrite where
  due : Nat
  mask : Word
  value : Guard
  by_ : Nat × Nat × Nat
  deriving DecidableEq, Repr

/-! ## Matrix engine (Table 11-2) -/

/-- The parameter block of an `mma` (Table 11-4). -/
structure MmaBlock where
  ct : Nat
  acc : Bool
  m : Nat
  n : Nat
  k : Nat
  afmt : Ty
  bfmt : Ty
  ase : Bool
  bse : Bool
  abase : Nat
  astr : Nat
  asc : Nat
  asstr : Nat
  wofs : Nat
  bsc : Nat
  deriving DecidableEq, Repr

/-- The commands of the matrix queue with their operands (R300, R321). -/
inductive MatOp where
  | mma (blockAddr : Nat) (block : Option MmaBlock)
  | mzero (first count : Nat)
  | mred (dst src : Nat) (sum : Bool) (dcol n : Nat) (cmb : Bool)
  | mmap (op dst vt : Nat) (scalar : Word) (vcol n : Nat)
  | mcvt (addr src stride : Nat) (ty : Ty) (rnd : Rnd) (sat : Bool) (m n : Nat)
  /-- Destination, tile and, for each lane, its first element (R321). -/
  | mrd (d : Opnd) (tile n : Nat) (elems : List (Nat × Nat))
  /-- Tile and the words written, in increasing lane order: element index and value. -/
  | mwr (tile : Nat) (words : List (Nat × Word))
  deriving DecidableEq, Repr

/-- How far a matrix command has come; `running due` completes at cycle `due`. -/
inductive MatSt where
  | issued | queued | running (due : Nat)
  deriving DecidableEq, Repr

/-- A command of the matrix engine. -/
structure MatCmd where
  id : Nat
  /-- The process of its issue, which a fault reaches when the wave has gone (R27). -/
  asid : Nat
  wave : Nat
  lanes : Lanes
  /-- The threads that issued it: the elected one, or the lanes that take part (R310, R321). -/
  threads : Lanes
  pc : PC
  kind : MatOp
  guard : Option (Nat × Bool)
  resolved : Option Bool
  /-- As in `CopyCmd`. -/
  after : Option (Nat × Nat × Nat)
  posted : Bool
  /-- The A-buffer region of the issuing wave (R349). -/
  abase : Nat
  abytes : Nat
  /-- The cycle of its issue, and from its acceptance on the cycle of that. -/
  at_ : Nat
  st : MatSt
  /-- Values read when the command started (R306): element writes and flags made at completion. -/
  tileOut : List (Nat × Word)
  abufOut : List (Nat × Byte)
  regOut : List (Nat × Word)
  flags : BitVec 6
  deriving DecidableEq, Repr

/-! ## Crews, cores and quadrants -/

/-- A speculative version (R382). One that has been discarded takes the crew's later RELEASED writes with it (R380,
R383). -/
inductive Version where
  | none
  | opened (bytes : Tbl Byte)
  | committed
  | discarded
  deriving DecidableEq, Repr

/-- A pre-emption request on a crew (R384): its reason, the cycle in which it reached the crew, whether the save is
forced, whether the crew stays HELD, and the core to which it is to move. -/
structure Preempt where
  reason : Nat
  at_ : Nat
  forced : Bool
  hold : Bool
  dest : Option Nat
  deriving DecidableEq, Repr

/-- A crew that a die agent has claimed for a core (R361): its launch, its index and the instance. -/
structure Claim where
  serial : Nat
  index : Nat
  inst : Nat
  deriving DecidableEq, Repr

/-- For whom a core is reserved: the gang of a launch (R365), or a crew that is being moved to it, by number (R366). -/
inductive Reserve where
  | gang (serial : Nat)
  | move (uid : Nat)
  deriving DecidableEq, Repr

/-- The crew on a core, or the stage context that takes its place and belongs to no one process (R349). -/
structure Crew where
  uid : Nat
  asid : Nat
  tenant : Nat
  serial : Nat
  crewNo : Nat
  waves : Nat
  abytes : Nat
  gang : Option Nat
  version : Version
  rt : Bool
  base : Nat
  /-- The instance of its launch (R370), and the contract that a stage context serves (R373). -/
  inst : Nat
  contract : Option Nat
  /-- The cycle from which the work on the core is still to be charged, and for a stage context what is to be charged from
  before (R371, R373). -/
  startedAt : Nat
  busy : Nat
  frame : Nat
  /-- A request that has been made and has not reached the crew, and one that has (R384). -/
  asked : Option Preempt
  preempt : Option Preempt
  stage : Option Nat
  draining : Bool
  /-- The stage that takes the core once it has drained (R375). -/
  nextStage : Option Nat
  /-- R380: the whole crew ends; no lane of it issues again. -/
  ending : Bool
  deriving DecidableEq, Repr

/-- A core (Table 1-5): its wave engines, its part of the memory engine, its copy and matrix engines. -/
structure Core where
  crew : Option Crew
  claim : Option Claim
  reservedFor : Option Reserve
  waves : Tbl Wave
  /-- Keyed by quadrant × 8 + datapath: the first cycle in which the datapath is free (R116). -/
  busy : Tbl Nat
  /-- Per quadrant, the cycle of its last issue plus one (R129). -/
  issued : Tbl Nat
  /-- Keyed as `busy`: the cycle of the last issue to the datapath plus one, which found it free (R128, R129). -/
  taken : Tbl Nat
  /-- The claims of aged waves, in the order in which they aged: quadrant × 8 + datapath, and the wave slot (R131). -/
  agedFor : List (Nat × Nat)
  /-- T (R213), and the latest time that a relaxed load of a STRICT or host location has read (R228): a later `fence`
  acquire takes it over. -/
  time : Nat
  seen : Nat
  l1 : Tbl Copy
  tlb : List TlbEnt
  walks : List Walk
  icache : List ILine
  /-- Pinned instruction lines, with the process (R63). -/
  pins : List (Nat × Nat)
  abuf : Bits 8
  wbuf : Bits 8
  /-- Keyed by FP32 element: address / 4 (R219). -/
  cbuf : Bits 32
  bars : Tbl Barrier
  /-- Bound scratchpad queues: the address Z (R267). -/
  squeues : Tbl Nat
  chans : Tbl Chan
  cmds : Tbl CopyCmd
  guards : Tbl Guard
  guardWrites : List GuardWrite
  /-- Who last set each guard slot: wave, lane and number of the `gset` (R290). -/
  guardBy : Tbl (Nat × Nat × Nat)
  seals : List SealOp
  carrs : List CarrOp
  cinits : List CinitOp
  mats : List MatCmd
  arrayFree : Nat
  evSel : Bits 8
  evCnt : Bits 48
  deriving DecidableEq, Repr

/-! ## Orrery -/

/-- Attributes of a granted page recorded at the send, with its old leaf and the frame or contents (R338, R339). -/
structure GrantPage where
  kind : Nat
  fmtc : Nat
  geo : Nat
  sws : Nat
  leaf : DWord
  frame : Nat
  bytes : List Byte
  deriving DecidableEq, Repr

/-- A message queued in a port (R337): `grant` is the handle of its GRANT object, `gva` the first granted page at its
sender, `serial` the number under which its sender knows it and `time` the sender's T (R335). -/
structure Msg where
  payload : List Byte
  tag : DWord
  pkg : Nat
  asid : Nat
  grant : Option Nat
  gva : Nat
  pages : List GrantPage
  serial : Nat
  time : Nat
  deriving DecidableEq, Repr

/-- A task queued and not yet gathered (R347). -/
structure Task where
  slot : Nat
  depth : Nat
  entry : Nat
  reserved : Bool
  time : Nat
  deriving DecidableEq, Repr

/-- The successor of a HELD dependence counter, by index and generation, with the time of its firing decrement (R350). -/
structure HeldTask where
  dep : Nat
  gen : Nat
  record : List Byte
  time : Nat
  deriving DecidableEq, Repr

/-- A task queue (Table 13-9). `used` lists the occupied slots and `waves` counts its task waves that run. -/
structure TaskQ where
  arena : Nat
  recsz : Nat
  cap : Nat
  q8 : Nat
  lvl : Nat
  stage : Nat
  abytes : Nat
  contract : Option Nat
  tasks : List Task
  used : List Nat
  /-- In the order in which they fired. -/
  held : List HeldTask
  waves : Nat
  deriving DecidableEq, Repr

/-- An Ephemeris contract (Table 14-5): times in cycles but for `budget`, in core-µs. `active` is set by the launch that
binds it, and `opened` counts its instances (R370). -/
structure Contract where
  period : Nat
  deadline : Nat
  budget : Nat
  abort : Bool
  tenant : Nat
  start : Nat
  missCtr : Nat
  clusters : BitVec 128
  active : Bool
  opened : Nat
  deriving DecidableEq, Repr

/-- The objects of Table 13-2 with the states of Table 13-3. Counters and ports are named by Catalogue index. -/
inductive ObjBody where
  | wave (done : Bool) (exitCtr : Nat)
  | port (cap : Nat) (msgs : List Msg) (lost : Nat)
  | proxy (pkg die index gen : Nat) (dead : Bool)
  | waitset (members : Tbl (Nat × Nat))
  | timer (ctr state deadline period fired : Nat)
  | queue (q : TaskQ)
  | event (value : Nat)
  | dep (state count queue : Nat) (record : List Byte)
  | contract (c : Contract)
  /-- State (Table 13-3), number of pages, the port that holds the message (none for another package) and the number of
  the message. -/
  | grant (state pages : Nat) (port : Option Nat) (serial : Nat)
  deriving DecidableEq, Repr

/-- A live Catalogue entry: generation, owner and object (R328). `time` is the latest T of the signals to an event
counter, which its wakes take over (R335). -/
structure Obj where
  gen : Nat
  owner : Nat
  time : Nat
  body : ObjBody
  deriving DecidableEq, Repr

/-- A process entry (R327). Ports are handles; `frames` is the pool of free frames. -/
structure Proc where
  root : Nat
  tenant : Nat
  faultPort : DWord
  pagerPort : DWord
  frames : List Nat
  deriving DecidableEq, Repr

/-- The calls of 0xC0 to 0xE2 and the Dusk calls that answer to a token. -/
inductive CallOp where
  | wcreate | psend (wait : Bool) | precv (wait : Bool) | wsadd (idx : Nat) | wsdel (idx : Nat)
  | suspend (cont : PC) | tarm | tdisarm | ecsig | ecread | qenq (wait : Bool) | dcinit | dcdec | objnew (ty : Nat)
  | objdel | objinfo | nslook | nsbind (sys : Bool) | grantrev | syscall (fn : Nat)
  | launch | lstat | ctadmit | csave | crest | ptinv (mode : Nat)
  /-- A `psend` that is answered but for the GRANT field of its descriptor: the handle or 0, its status, and for a
  `.wait` that was refused with FULL the serial of its note and whether the target has room by now (R408). -/
  | sendEnd (grant status : Nat) (room : Option (Nat × Bool))
  deriving DecidableEq, Repr

/-- What a `wcreate` takes from the calling wave at its issue (R336). -/
structure Maker where
  sregs : List Word
  argp : DWord
  windows : Bits 64
  rt : Bool
  crewNo : Word
  abase : Nat
  abytes : Nat
  queue : Option Nat
  deriving DecidableEq, Repr

/-- A call in flight of one lane, or of a split (R332): the operand values of its thread at issue (R114) and how far
it has come. `noA` to `noC` mark operands written as code 320, `writes` that its result is written to d, `susp` that
its lanes wait SUSPENDED for the answer (R324), and `sent` holds the serial under which it waits for another package,
a service core or Dusk. -/
structure Call where
  id : Nat
  uid : Nat
  core : Nat
  asid : Nat
  tenant : Nat
  wave : Nat
  lane : Nat
  lanes : Lanes
  op : Nat
  pc : PC
  kind : CallOp
  d : Opnd
  writes : Bool
  a : DWord
  b : DWord
  c : DWord
  noA : Bool
  noB : Bool
  noC : Bool
  maker : Maker
  susp : Bool
  /-- The record addresses of a `syscall`, by lane (R355). -/
  recs : List (Nat × Nat)
  tok : Option (Nat × Nat)
  /-- The depth of a task that the call enqueues (R347). -/
  depth : Nat
  sent : Option Nat
  /-- The cycle from which a host access of the call has waited for Lodestar (R415), and that the call with the host was
  outstanding at a warm restart (R422). -/
  lodged : Option Nat
  lost : Bool
  deriving DecidableEq, Repr

/-- What a waiter waits for. -/
inductive WaitOn where
  /-- An event counter at Catalogue index `obj` reaching `target`. -/
  | counter (obj target : Nat)
  | waitset (obj : Nat)
  /-- A change of a port or queue: replay (R324). -/
  | change (obj : Nat)
  /-- Room in the mailbox ring of a service core: replay. -/
  | ring (sc : Nat)
  /-- Room at a remote port: replay (R408). -/
  | room (serial : Nat)
  /-- Nothing more: its peer is lost, and the call is to complete with PEER_LOST (R407, R422). -/
  | lost
  deriving DecidableEq, Repr

/-- A suspended split known to the Orrery (R344): `fired` holds the value of s0 at the wake, and `time` the T that the
wake takes over (R335). `d` and `writes` are those of a call that replays. -/
structure Waiter where
  id : Nat
  uid : Nat
  wave : Nat
  lanes : Lanes
  on : WaitOn
  cont : PC
  d : Opnd
  writes : Bool
  fired : Option Word
  time : Nat
  deriving DecidableEq, Repr

/-! ## Transit -/

/-- One run over the indices of a launch: the launch itself, or instance `k` of a contract's launch (R370). `live`
counts its crews that have started or been claimed and not retired, `claims` tells whether indices may still be claimed,
and the charges of R371 are keyed by core. -/
structure Inst where
  k : Nat
  next : Nat
  returned : List Nat
  live : Nat
  claims : Bool
  charge : Tbl Nat
  spent : List Nat
  time : Nat
  /-- The cycle in which the run came to its end. -/
  ended : Option Nat
  deriving DecidableEq, Repr

/-- A launch in Transit's table (R358 to R360) with the fields of its record (Table 4-3). A launch bound to a contract
keeps the contract's terms; `contract` is none once the contract has been deleted (R372). -/
structure Launch where
  asid : Nat
  entry : PC
  argbase : DWord
  count : Nat
  waves : Nat
  quota8 : Nat
  gang : Bool
  lvl : Nat
  rt : Bool
  abytes : Nat
  tenant : Nat
  ver : Bool
  argsz : Nat
  terms : Option Contract
  contract : Option Nat
  firstK : Nat
  done : Nat
  insts : List Inst
  complete : Bool
  time : Nat
  deriving DecidableEq, Repr

/-! ## Dusk -/

/-- A trap that has reached the wave engine and is still to be taken (R27). With `tok` it is held until a wait on
that token covers post number `q`. `op` numbers the operation whose lanes it may still gather (R378), or is 0. -/
structure PTrap where
  id : Nat
  uid : Nat
  asid : Nat
  core : Nat
  wave : Nat
  lanes : Lanes
  cause : Nat
  secondary : Nat
  pc : PC
  addr : Nat
  tok : Option (Nat × Nat)
  carr : Option Nat
  chan : Option Nat
  op : Nat
  deriving DecidableEq, Repr

/-- The engine area of a save frame, which only Dusk reads and writes (Table 15-3). `statics` holds of each wave what
its record does not, and `kept` the v registers that the save wrote, as a mask. -/
structure EngineArea where
  chans : Tbl Chan
  cmds : Tbl CopyCmd
  guards : Tbl Guard
  guardBy : Tbl (Nat × Nat × Nat)
  seals : List SealOp
  carrs : List CarrOp
  mats : List MatCmd
  bars : Tbl Barrier
  squeues : Tbl Nat
  pins : List (Nat × Nat)
  statics : Tbl Wave
  kept : Tbl Nat
  deriving DecidableEq, Repr

/-- A save frame (R387), keyed by its physical address. `state` is the STATE word's code; `resume` marks a crew on
its die's resume list, and `target` names the core to which a move or `crest` sends it. `area` gives the free values
and the number of the bytes that its engine area holds, `written` the ranges that the save wrote (address and length), `time` the crew's T (R233),
`due` the cycle in which the save completes (R388), and `cost` what a save or restore takes. -/
structure Frame where
  state : Nat
  crew : Option Crew
  die : Nat
  order : Nat
  resume : Bool
  corePos : Nat
  engine : Option EngineArea
  check : DWord
  area : Nat × Nat
  written : List (Nat × Nat)
  hold : Bool
  target : Option Nat
  time : Nat
  due : Nat
  cost : Nat
  deriving DecidableEq, Repr

/-! ## Fabric, host and service -/

/-- A binding of a name (R411): package, Catalogue index and generation. For package 0xFFFE the index is the host
port number. -/
structure Binding where
  pkg : Nat
  index : Nat
  gen : Nat
  deriving DecidableEq, Repr

/-- A host window entry (R414): target 0 is host memory, 1 the device-shared region. -/
structure Window where
  base : Nat
  size : Nat
  target : Nat
  offset : Nat
  epoch : Nat
  deriving DecidableEq, Repr

/-- Traffic sent to another package from a die (R406): when it left, and whether its delivery is known. -/
structure OutMsg where
  pkg : Nat
  die : Nat
  serial : Nat
  body : RemoteBody
  at_ : Nat
  acked : Bool
  deriving DecidableEq, Repr

/-- A grant in flight to another package (R409): whose pages they are, where they were mapped, the target port, the handle
of the GRANT object, which may have been deleted since, and the message. -/
structure SentGrant where
  asid : Nat
  gva : Nat
  pages : List GrantPage
  pkg : Nat
  index : Nat
  gen : Nat
  handle : Nat
  tag : DWord
  payload : List Byte
  deriving DecidableEq, Repr

/-- An entry of a mailbox ring (R355): one gathered split. `todo` marks the lanes whose reply is still to come, and
`answers` holds the statuses of the others. -/
structure RingEnt where
  id : Nat
  sc : Nat
  fn : Nat
  uid : Nat
  core : Nat
  wave : Nat
  asid : Nat
  lanes : Lanes
  todo : Lanes
  recs : List (Nat × Nat)
  bitmap : Option Nat
  call : Nat
  answers : List (Nat × Nat)
  deriving DecidableEq, Repr

/-- An entry of the error log (R429). -/
structure LogEnt where
  seq : Nat
  cause : Nat
  place : Nat
  clock : Nat
  deriving DecidableEq, Repr

/-- A text appended by LOG (Table 17-2). -/
structure LogText where
  asid : Nat
  core : Nat
  text : List Byte
  deriving DecidableEq, Repr

/-- The status word of R432. -/
inductive Boot where
  | held | running | bringup | failed
  deriving DecidableEq, Repr

/-- A record of the command ring whose SEND waits for another package (R408, R412): the lookup of its name, or the
answer to its message. -/
inductive EwcWait where
  | lookup (serial : Nat)
  | answer (serial : Nat)
  deriving DecidableEq, Repr

/-- An access of the host to the device-shared region that waits at a locked line (R218, R416). -/
structure HostWait where
  id : Nat
  acc : HostAccess
  deriving DecidableEq, Repr

/-- The fabric interface, the Almanac and Lodestar (chapter 16). -/
structure Fabric where
  pkgNo : Nat
  routes : Tbl (List Nat)
  map : Tbl Nat
  unreachable : List Nat
  pkgBind : Tbl Binding
  hostBind : Tbl Binding
  sysBind : Tbl Binding
  /-- Per stream (package × 8 + die), the number of its next unit (R406). -/
  inSeq : Tbl Nat
  arrived : List RemoteMsg
  outbox : List OutMsg
  /-- Notes that waiting senders leave at a port: port, package and serial (R408). -/
  notes : List (Nat × Nat × Nat)
  /-- Names of this package's ports bound at another package: name, index, generation, and the package that holds the
  binding (R411, R412). -/
  bound : List (Nat × Nat × Nat × Nat)
  sent : Tbl SentGrant
  windows : Tbl Window
  epoch : Nat
  ewccmd : DWord
  ewcinb : DWord
  restartCtr : DWord
  portsUp : Tbl (Nat × Nat)
  sharedSize : Nat
  hostReads : List (List Byte)
  hostQ : List HostWait
  /-- DOE requests answered: port, kind and the bytes of the answer. -/
  doeAnswered : List (Nat × Nat × List Byte)
  /-- The service waves serve the command ring: it has been set up since the last warm restart (R418, R422). -/
  ewcUp : Bool
  ewcWait : Option EwcWait
  deriving DecidableEq, Repr

/-- The bytes that a tenant's accesses have moved (R367): in window `win` so far and in the one before, and the window in
which its gating was last evaluated. -/
structure Moved where
  win : Nat
  last : Nat
  now : Nat
  closed : Nat
  deriving DecidableEq, Repr

/-- The tables and logs of the service cores (chapter 17). -/
structure Service where
  boot : Boot
  failingCheck : Nat
  rings : List RingEnt
  /-- Tenant budget entries (Table 14-4), firewall slots (tenant × 16 + slot) and stage entries (Table 14-6). -/
  budgets : Tbl DWord
  firewall : Tbl DWord
  stages : Tbl DWord
  powerCeiling : Nat
  linkCeilings : List Nat
  /-- The ranges of the firmware region: first byte and length (R426). -/
  firmware : List (Nat × Nat)
  /-- The package identity, once its signatures have been verified (R431). -/
  identity : List Byte
  moduleCap : Nat
  portCaps : Tbl Nat
  log : List LogEnt
  logSeq : Nat
  texts : List LogText
  corrected : Tbl Nat
  uncorrected : Tbl Nat
  /-- Issue slots of each 8 cycles that the governor grants: 8, 6, 4 or 2 (R430). -/
  governor : Nat
  hot : Bool
  stopped : Bool
  /-- Tenants gated by bandwidth and by power (R367). -/
  gatedBw : List Nat
  gatedPower : List Nat
  moved : Tbl Moved
  /-- The CLOCK values of Precession's next evaluation (R375) and of the governor's next comparison (R430). -/
  nextEval : Nat
  nextTick : Nat
  deriving DecidableEq, Repr

/-- Which split issues next (MODEL): the READY split of the wave that stands at `pc` and holds a lane of `lanes`.
`pair` is set when the next slot issues in the same cycle (R59), and `second` while that slot is due, with the first
slot's stall (R60). -/
structure Cursor where
  core : Nat
  wave : Nat
  pc : PC
  lanes : Lanes
  pair : Bool
  second : Option Nat
  deriving DecidableEq, Repr

/-- An instruction that issues: its wave as it stood, its executing split (`lanes`), the passing lanes, the number and
the token of its operation, and whether the split is being stepped (R396). -/
structure Ctx where
  core : Nat
  wave : Nat
  pc : PC
  x : Wave
  lanes : Lanes
  pass : Lanes
  h : Hdr
  clock : Nat
  fc : Nat
  asid : Nat
  uid : Nat
  op : Nat
  tok : Option (Nat × Nat)
  step : Bool
  pair : Bool
  deriving DecidableEq, Repr

/-- An instruction that has issued and whose pages are still to be translated (R434): its effect is made when they
are. -/
structure HeldIssue where
  i : Instr
  k : Ctx
  deriving DecidableEq, Repr

/-- A request that has reached its home while its line was locked (R218, R253): its line, age, agent number and the
number of the request, command, call or walk. -/
structure LineWait where
  line : Nat
  age : Nat
  agent : Nat
  num : Nat
  deriving DecidableEq, Repr

/-- The package. -/
structure State where
  /-- CLOCK (R16). -/
  clock : Nat
  /-- MODEL: the split chosen to issue. -/
  cursor : Option Cursor
  /-- MODEL: engine steps and inputs that happen next, in order. -/
  agenda : List Instr
  /-- MODEL: the counter to which the free values of Config are applied. -/
  freeCtr : Nat
  /-- MODEL: numbers given to requests, operations, crews and calls. -/
  nextId : Nat
  mem : Memory
  hostMem : Memory
  lineTs : Tbl LineTs
  sliceM : Tbl Nat
  /-- MODEL: per STRICT line, keyed by line × 2, or with 1 more for a line of host memory, the latest T of the writes to it,
  which an acquire that reads it takes over (R227 to R229). -/
  strictTs : Tbl Nat
  /-- MODEL: the latest T of what has left for the host or another package: what comes from there may follow it (R335,
  R416). -/
  outTime : Nat
  clusters : Tbl (Tbl Copy)
  locks : Tbl Nat
  lineQ : List LineWait
  held : List HeldIssue
  reqs : List Req
  writeBacks : List WriteBack
  watches : List Watch
  shoots : List Shoot
  commits : List Commit
  poison : List Spoilt
  cores : Tbl Core
  procs : Tbl Proc
  objs : Tbl Obj
  gens : Tbl Nat
  calls : List Call
  waiters : List Waiter
  launches : Tbl Launch
  nextSerial : Nat
  gathers : Tbl (Nat × Nat)
  traps : List PTrap
  frames : Tbl Frame
  framePool : List Nat
  fab : Fabric
  svc : Service
  deriving DecidableEq, Repr

/-- A core that holds no crew, with every engine idle (R271, R298). -/
def Core.idle : Core where
  crew := none
  claim := none
  reservedFor := none
  waves := []
  busy := []
  issued := []
  taken := []
  agedFor := []
  time := 0
  seen := 0
  l1 := []
  tlb := []
  walks := []
  icache := []
  pins := []
  abuf := []
  wbuf := []
  cbuf := []
  bars := []
  squeues := []
  chans := []
  cmds := []
  guards := []
  guardWrites := []
  guardBy := []
  seals := []
  carrs := []
  cinits := []
  mats := []
  arrayFree := 0
  evSel := []
  evCnt := []

/-- The fabric interface at package reset: MAP holds 0xFFFF everywhere (an unlisted entry, R411), EPOCH and the EWC
registers are 0 (Table 16-2). The package number and the ports' training are DESIGN CHOICE (notes/assumptions/3). -/
def Fabric.reset : Fabric where
  pkgNo := 0
  routes := []
  map := []
  unreachable := []
  pkgBind := []
  hostBind := []
  sysBind := []
  inSeq := []
  arrived := []
  outbox := []
  notes := []
  bound := []
  sent := []
  windows := []
  epoch := 0
  ewccmd := 0
  ewcinb := 0
  restartCtr := 0
  portsUp := []
  sharedSize := 0
  hostReads := []
  hostQ := []
  doeAnswered := []
  ewcUp := false
  ewcWait := none

/-- The service tables at package reset: an unlisted budget, firewall or stage entry has the reset value of its
table (Tables 14-4, 17-3, 14-6). The caps stand at the ceilings (notes/assumptions/3). -/
def Service.reset : Service where
  boot := .held
  failingCheck := 0
  rings := []
  budgets := []
  firewall := []
  stages := []
  powerCeiling := 4000
  linkCeilings := List.replicate 18 400
  firmware := []
  identity := []
  moduleCap := 4000
  portCaps := []
  log := []
  logSeq := 0
  texts := []
  corrected := []
  uncorrected := []
  governor := 8
  hot := false
  stopped := false
  gatedBw := []
  gatedPower := []
  moved := []
  nextEval := 10000
  nextTick := 10000

/-- The package right after reset, before the boot ROM has verified an image (R431): CLOCK 0 (R16), no crew, no
process, no object, timestamps 0 (R213). -/
def State.reset : State where
  clock := 0
  cursor := none
  agenda := []
  freeCtr := 0
  nextId := 1
  mem := []
  hostMem := []
  lineTs := []
  sliceM := []
  strictTs := []
  outTime := 0
  clusters := []
  locks := []
  lineQ := []
  held := []
  reqs := []
  writeBacks := []
  watches := []
  shoots := []
  commits := []
  poison := []
  cores := []
  procs := []
  objs := []
  gens := []
  calls := []
  waiters := []
  launches := []
  nextSerial := 0
  gathers := []
  traps := []
  frames := []
  framePool := []
  fab := Fabric.reset
  svc := Service.reset

end Sys2Proof.Machine
end

