-- ==== Sys2Proof/Machine/Table.lean ====
section
/-! DEFINITION. The named operations over tables, sparse arrays and bytes: every field of State that is a table, a
register file, a buffer or memory is read and written through them, and each keeps the canonical form of the
container (Sys2Proof/Laws/Table.lean). -/

namespace Sys2Proof.Machine

/-- The entry at key `k`. -/
def Tbl.find {α : Type} : List (Nat × α) → Nat → Option α
  | [], _ => none
  | (i, x) :: t, k => if i = k then some x else Tbl.find t k

/-- The entry at key `k`, or `d`. -/
def Tbl.getD {α : Type} (t : List (Nat × α)) (k : Nat) (d : α) : α := (Tbl.find t k).getD d

/-- The table with `x` at key `k`. -/
def Tbl.put {α : Type} : List (Nat × α) → Nat → α → List (Nat × α)
  | [], k, x => [(k, x)]
  | (i, y) :: t, k, x =>
    if k < i then (k, x) :: (i, y) :: t else if k = i then (k, x) :: t else (i, y) :: Tbl.put t k x

/-- The table without key `k`. -/
def Tbl.del {α : Type} : List (Nat × α) → Nat → List (Nat × α)
  | [], _ => []
  | (i, y) :: t, k => if k < i then (i, y) :: t else if k = i then t else (i, y) :: Tbl.del t k

/-- The table with the entry at `k`, or `d`, changed by `f`. -/
def Tbl.mod {α : Type} (t : List (Nat × α)) (k : Nat) (d : α) (f : α → α) : List (Nat × α) :=
  Tbl.put t k (f (Tbl.getD t k d))

/-- The canonical form of a table: keys strictly rising. -/
def Tbl.wf {α : Type} : List (Nat × α) → Bool
  | [] => true
  | [_] => true
  | (i, _) :: (j, y) :: t => decide (i < j) && Tbl.wf ((j, y) :: t)

/-- `x` before the first element that it does not come after. -/
def insertBy {α : Type} (le : α → α → Bool) (x : α) : List α → List α
  | [] => [x]
  | y :: t => if le x y then x :: y :: t else y :: insertBy le x t

/-- The list in the order `le`; equal elements keep their order. -/
def sortBy {α : Type} (le : α → α → Bool) (l : List α) : List α := l.foldr (insertBy le) []

/-- The cell at key `k` of a sparse array: 0 where it lists none. -/
def Bits.rd {w : Nat} (m : Bits w) (k : Nat) : BitVec w := Tbl.getD m k 0

/-- The sparse array with `x` at key `k`: a zero removes the entry. -/
def Bits.wr {w : Nat} (m : Bits w) (k : Nat) (x : BitVec w) : Bits w :=
  if x = 0 then Tbl.del m k else Tbl.put m k x

/-- The canonical form of a sparse array: keys strictly rising and no cell 0. -/
def Bits.wf {w : Nat} (m : Bits w) : Bool := Tbl.wf m && m.all (fun e => e.2 != 0)

/-- Writes a list of cells in order. -/
def Bits.wrs {w : Nat} : Bits w → List (Nat × BitVec w) → Bits w
  | m, [] => m
  | m, (k, x) :: t => Bits.wrs (Bits.wr m k x) t

/-- Removes the cells whose key fails `keep`. -/
def Bits.keep {w : Nat} (m : Bits w) (keep : Nat → Bool) : Bits w := m.filter (fun e => keep e.1)

/-- The canonical form of memory: addresses strictly rising and no listed byte 0, what an unlisted byte reads as. -/
def Memory.wf (m : Memory) : Bool := Bits.wf m

/-- The byte of memory at address `a`. -/
def Memory.byte (m : Memory) (a : Nat) : Byte := Bits.rd m a

/-- The n bytes from address `a`, little-endian (R6), as a number. -/
def Memory.read (m : Memory) (a : Nat) : Nat → Nat
  | 0 => 0
  | n + 1 => (Bits.rd m a).toNat + 256 * Memory.read m (a + 1) n

/-- Memory with the low n bytes of `x` at address `a`, little-endian (R6). -/
def Memory.write (m : Memory) (a : Nat) : Nat → Nat → Memory
  | 0, _ => m
  | n + 1, x => Memory.write (Bits.wr m a (BitVec.ofNat 8 x)) (a + 1) n (x / 256)

/-- The n bytes from address `a` as a list. -/
def Memory.bytes (m : Memory) (a : Nat) : Nat → List Byte
  | 0 => []
  | n + 1 => Bits.rd m a :: Memory.bytes m (a + 1) n

/-- Memory with a list of bytes from address `a`. -/
def Memory.setBytes (m : Memory) (a : Nat) : List Byte → Memory
  | [] => m
  | b :: t => Memory.setBytes (Bits.wr m a b) (a + 1) t

/-- The bytes of a number, lowest first. -/
def bytesOf : Nat → Nat → List Byte
  | 0, _ => []
  | n + 1, x => BitVec.ofNat 8 x :: bytesOf n (x / 256)

/-- The number that bytes, lowest first, hold. -/
def ofBytes : List Byte → Nat
  | [] => 0
  | b :: t => b.toNat + 256 * ofBytes t

/-- Bits [lo + w - 1 : lo] of a number. -/
def fieldOf (x lo w : Nat) : Nat := x / 2 ^ lo % 2 ^ w

/-- ⌈a / b⌉. -/
def ceilDiv (a b : Nat) : Nat := (a + b - 1) / b

/-- The signed value of the low `w` bits of `x`. -/
def sintOf (w x : Nat) : Int :=
  let y := x % 2 ^ w
  if y < 2 ^ (w - 1) then (y : Int) else (y : Int) - (2 : Int) ^ w

/-- The low `w` bits of an integer (`trunc` of R9). -/
def truncTo (w : Nat) (e : Int) : Nat := (e % ((2 : Int) ^ w)).toNat

/-- The lanes of a set, in increasing order. -/
def lanesOf (m : Lanes) : List Nat := (List.range 32).filter (fun l => m.getLsbD l)

/-- The set of one lane. -/
def laneBit (l : Nat) : Lanes := BitVec.ofNat 32 (2 ^ l)

/-- The set of the lanes of a list. -/
def laneSet (ls : List Nat) : Lanes := ls.foldl (fun m l => m ||| laneBit l) 0

/-- The lowest lane of a set; 0 for the empty set. -/
def lowestLane (m : Lanes) : Nat := (lanesOf m).headD 0

/-- The number of lanes of a set. -/
def laneCount (m : Lanes) : Nat := (lanesOf m).length

end Sys2Proof.Machine
end

