-- ==== Sys2Proof/Machine/Float.lean ====
section
/-! DEFINITION. Exact arithmetic on the floating-point formats of Table 3-1: decoding to exact dyadic values, the one
rounding of R76 with Table 3-6 and the flags of R77, and the operations of Table 3-9. Every operation forms its exact
value and rounds once. -/

namespace Sys2Proof.Machine

/-- A format of Table 3-1: exponent and fraction widths; `noInf` marks E4M3. -/
structure FFmt where
  e : Nat
  m : Nat
  noInf : Bool
  deriving DecidableEq, Repr

/-- The format of a type; FP32 for a type without one. -/
def fmtOf : Ty → FFmt
  | .f16 | .f16x2 => ⟨5, 10, false⟩
  | .bf16 | .bf16x2 => ⟨8, 7, false⟩
  | .f64 => ⟨11, 52, false⟩
  | .e4m3 => ⟨4, 3, true⟩
  | .e5m2 => ⟨5, 2, false⟩
  | _ => ⟨8, 23, false⟩

def FFmt.bias (f : FFmt) : Nat := 2 ^ (f.e - 1) - 1

/-- Exponent of the smallest normal. -/
def FFmt.emin (f : FFmt) : Int := 1 - (f.bias : Int)

def FFmt.width (f : FFmt) : Nat := f.e + f.m + 1

/-- The biased exponent of all ones. -/
def FFmt.eMax (f : FFmt) : Nat := 2 ^ f.e - 1

/-- The sign bit. -/
def FFmt.signBit (f : FFmt) (neg : Bool) : Nat := if neg then 2 ^ (f.e + f.m) else 0

/-- The canonical NaN (R65). -/
def FFmt.nan (f : FFmt) : Nat :=
  if f.noInf then f.eMax * 2 ^ f.m + (2 ^ f.m - 1) else f.eMax * 2 ^ f.m + 2 ^ (f.m - 1)

/-- The infinity of a format that has one. -/
def FFmt.inf (f : FFmt) (neg : Bool) : Nat := f.signBit neg + f.eMax * 2 ^ f.m

/-- M with a sign: the largest finite value. -/
def FFmt.maxFin (f : FFmt) (neg : Bool) : Nat :=
  f.signBit neg + (if f.noInf then f.eMax * 2 ^ f.m + (2 ^ f.m - 2) else f.eMax * 2 ^ f.m - 1)

/-- The significand and exponent of M. -/
def FFmt.maxMan (f : FFmt) : Nat := if f.noInf then 2 ^ (f.m + 1) - 2 else 2 ^ (f.m + 1) - 1
def FFmt.maxExp (f : FFmt) : Int := (if f.noInf then (f.eMax : Int) else (f.eMax : Int) - 1) - (f.bias : Int) - (f.m : Int)

/-- A decoded value: NaN (signalling or quiet), infinity, or the exact number (−1)^neg × man × 2^exp. -/
inductive FV where
  | nan (sig : Bool)
  | inf (neg : Bool)
  | num (neg : Bool) (man : Nat) (exp : Int)
  deriving DecidableEq, Repr

/-- The value of an encoding (R64, R65). -/
def FFmt.dec (f : FFmt) (bits : Nat) : FV :=
  let neg := fieldOf bits (f.e + f.m) 1 == 1
  let ex := fieldOf bits f.m f.e
  let fr := bits % 2 ^ f.m
  if ex = 0 then .num neg fr (f.emin - (f.m : Int))
  else if ex = f.eMax ∧ (!f.noInf ∨ fr = 2 ^ f.m - 1) then
    if fr = 0 then .inf neg else .nan (!f.noInf && fieldOf fr (f.m - 1) 1 == 0)
  else .num neg (fr + 2 ^ f.m) ((ex : Int) - (f.bias : Int) - (f.m : Int))

/-- The encoding with its sign bit cleared or complemented (R47: ABS before NEG). -/
def FFmt.modify (f : FFmt) (abs neg : Bool) (bits : Nat) : Nat :=
  let b := bits % 2 ^ f.width
  let s := decide (2 ^ (f.e + f.m) ≤ b)
  let low := b % 2 ^ (f.e + f.m)
  low + f.signBit (xor (s && !abs) neg)

/-- The BF16 input flush (R79). -/
def FFmt.flush (f : FFmt) (bits : Nat) : Nat :=
  if f.e = 8 ∧ f.m = 7 ∧ fieldOf bits f.m f.e = 0 then f.signBit (fieldOf bits (f.e + f.m) 1 == 1) else bits

/-- The sticky flags of Table 3-7. -/
def flNV : BitVec 6 := 1
def flDZ : BitVec 6 := 2
def flOF : BitVec 6 := 4
def flUF : BitVec 6 := 8
def flNX : BitVec 6 := 16
def flFI : BitVec 6 := 32

/-- A flag if a condition holds. -/
def flIf (b : Bool) (f : BitVec 6) : BitVec 6 := if b then f else 0

/-- The bits and flags of a result. -/
structure FRes where
  bits : Nat
  fl : BitVec 6
  deriving DecidableEq, Repr

/-- The number of bits of `x`. -/
def bitLen (x : Nat) : Nat := if x = 0 then 0 else Nat.log2 x + 1

/-- Whether a magnitude with the discarded part `rem` of `2^k` is rounded up (R76). -/
def roundUp (mode : Rnd) (neg : Bool) (q rem k : Nat) : Bool :=
  match mode with
  | .rne => decide (2 ^ k < 2 * rem) || (2 * rem == 2 ^ k && q % 2 == 1)
  | .rtz => false
  | .rdn => neg && rem != 0
  | .rup => !neg && rem != 0

/-- `man × 2^exp` rounded to a multiple of 2^q: the multiple, and whether it is inexact. A shift far beyond the
significand is cut short, which leaves the decision unchanged. -/
def roundAt (mode : Rnd) (neg : Bool) (man : Nat) (exp q : Int) : Nat × Bool :=
  if q ≤ exp then (man * 2 ^ (exp - q).toNat, false)
  else
    let k := min (q - exp).toNat (bitLen man + 2)
    let t := man / 2 ^ k
    let r := man % 2 ^ k
    (if roundUp mode neg t r k then t + 1 else t, r != 0)

/-- The result of a finite overflow (Table 3-6). -/
def FFmt.overflow (f : FFmt) (mode : Rnd) (sat neg : Bool) : Nat :=
  let toMax := sat || (match mode with | .rne => false | .rtz => true | .rdn => !neg | .rup => neg)
  if toMax then f.maxFin neg else if f.noInf then f.nan else f.inf neg

/-- An infinite result (R76): M and NX under SAT, in E4M3 otherwise its NaN and NV. -/
def FFmt.infRes (f : FFmt) (sat neg : Bool) (fl : BitVec 6) : FRes :=
  if sat then ⟨f.maxFin neg, fl ||| flNX⟩
  else if f.noInf then ⟨f.nan, fl ||| flNV⟩
  else ⟨f.inf neg, fl⟩

/-- A NaN result with NV if `nv`. -/
def FFmt.nanRes (f : FFmt) (nv : Bool) : FRes := ⟨f.nan, flIf nv flNV⟩

/-- `round` of R76 for the value (−1)^neg × man × 2^exp with man > 0, where `sticky` adds a positive amount below one
unit of `man`. -/
def FFmt.round (f : FFmt) (mode : Rnd) (sat neg : Bool) (man : Nat) (exp : Int) (sticky : Bool) : FRes :=
  let man := man * 4 + (if sticky then 1 else 0)
  let exp := exp - 2
  let top := (bitLen man : Int) - 1 + exp
  let qU := top - (f.m : Int)
  let u := roundAt mode neg man exp qU
  let qS := f.emin - (f.m : Int)
  -- the value rounded to unbounded range exceeds M
  let big := decide (f.maxExp < qU) || (qU == f.maxExp && decide (f.maxMan < u.1))
  if big then ⟨f.overflow mode sat neg, flOF ||| flNX⟩
  else
    let q := max qU qS
    let r := roundAt mode neg man exp q
    -- the value rounded to unbounded range is below the smallest normal
    let tiny := decide (qU < qS) && !(qU + 1 == qS && u.1 == 2 ^ (f.m + 1))
    let bits := f.signBit neg + (if r.1 < 2 ^ f.m then r.1 else (q - qS).toNat * 2 ^ f.m + r.1)
    ⟨bits, flIf r.2 flNX ||| flIf (r.2 && tiny) flUF⟩

/-- The sign of an exact zero sum (R76): that of all terms if they agree, and otherwise minus under RDN only. -/
def zeroSign (mode : Rnd) (signs : List Bool) : Bool :=
  if signs.all (fun b => b) then true else if signs.all (fun b => !b) then false else mode == .rdn

/-- The exact sum of signed dyadic terms, at the least exponent. -/
def sumExact (ts : List (Bool × Nat × Int)) : Int × Int :=
  let e := ts.foldl (fun m t => if t.2.1 = 0 then m else min m t.2.2)
    (ts.foldl (fun m t => if t.2.1 = 0 then m else max m t.2.2) (-100000))
  (ts.foldl (fun a t =>
    if t.2.1 = 0 then a
    else if t.1 then a - (t.2.1 * 2 ^ (t.2.2 - e).toNat : Nat) else a + (t.2.1 * 2 ^ (t.2.2 - e).toNat : Nat)) 0, e)

/-- round of an exact sum of finite terms. -/
def FFmt.roundSum (f : FFmt) (mode : Rnd) (sat : Bool) (ts : List (Bool × Nat × Int)) : FRes :=
  let x := sumExact ts
  if x.1 = 0 then ⟨f.signBit (zeroSign mode (ts.map (·.1))), 0⟩
  else f.round mode sat (decide (x.1 < 0)) x.1.natAbs x.2 false

def FV.isNan : FV → Bool
  | .nan _ => true
  | _ => false

def FV.isSig : FV → Bool
  | .nan s => s
  | _ => false

def FV.isInf : FV → Bool
  | .inf _ => true
  | _ => false

def FV.neg : FV → Bool
  | .nan _ => false
  | .inf n => n
  | .num n _ _ => n

def FV.isZero : FV → Bool
  | .num _ 0 _ => true
  | _ => false

/-- The finite term of a number. -/
def FV.term : FV → Bool × Nat × Int
  | .num n m e => (n, m, e)
  | _ => (false, 0, 0)

/-- The value with its sign complemented. -/
def FV.negate : FV → FV
  | .nan s => .nan s
  | .inf n => .inf (!n)
  | .num n m e => .num (!n) m e

/-- The values hold +∞ and −∞. -/
def opposed (xs : List FV) : Bool :=
  xs.any (fun x => x.isInf && x.neg) && xs.any (fun x => x.isInf && !x.neg)

/-- A sum of values none of which is a NaN: infinities first, then the rounded exact sum (R76, R80). -/
def FFmt.sumVals (f : FFmt) (mode : Rnd) (sat : Bool) (xs : List FV) : FRes :=
  if opposed xs then f.nanRes true
  else match xs.filter FV.isInf with
    | x :: _ => f.infRes sat x.neg 0
    | [] => f.roundSum mode sat (xs.map FV.term)

/-- A sum of any values: a NaN among them gives NaN, with NV for a signalling one and where +∞ and −∞ stand beside
it: of `redux` R196 says so, and of `dot4` it is a DESIGN CHOICE (notes/assumptions/94). -/
def FFmt.sum (f : FFmt) (mode : Rnd) (sat : Bool) (xs : List FV) : FRes :=
  if xs.any FV.isNan then f.nanRes (xs.any FV.isSig || opposed xs) else f.sumVals mode sat xs

/-- The exact product of two values that are not NaN; none for 0 × ∞. DESIGN CHOICE (notes/assumptions/94): a zero product has
the exclusive-or of its factors' signs, of integer factors too. -/
def prodV (a b : FV) : Option FV :=
  match a, b with
  | .num n m e, .num n' m' e' => some (.num (xor n n') (m * m') (e + e'))
  | .inf n, .inf n' => some (.inf (xor n n'))
  | .inf n, .num n' m _ => if m = 0 then none else some (.inf (xor n n'))
  | .num n m _, .inf n' => if m = 0 then none else some (.inf (xor n n'))
  | _, _ => none

/-- round of the sum of products and addends (R84, R85, R177): a product 0 × ∞ gives NaN and NV even beside a quiet NaN
(Table 3-9). Of a product with a NaN factor only the NaN counts. -/
def FFmt.dot (f : FFmt) (mode : Rnd) (sat : Bool) (ps : List (FV × FV)) (zs : List FV) : FRes :=
  let nanIn := fun (p : FV × FV) => p.1.isNan || p.2.isNan
  if ps.any (fun p => !nanIn p && (prodV p.1 p.2).isNone) then f.nanRes true
  else f.sum mode sat (zs ++ ps.flatMap (fun p => if nanIn p then [p.1, p.2].filter FV.isNan else (prodV p.1 p.2).toList))

/-- round(a + b) (R177). -/
def FFmt.add (f : FFmt) (mode : Rnd) (sat : Bool) (a b : Nat) : FRes :=
  f.sum mode sat [f.dec (f.flush a), f.dec (f.flush b)]

/-- round(a − b). -/
def FFmt.sub (f : FFmt) (mode : Rnd) (sat : Bool) (a b : Nat) : FRes :=
  f.sum mode sat [f.dec (f.flush a), (f.dec (f.flush b)).negate]

/-- round(a × b). -/
def FFmt.mul (f : FFmt) (mode : Rnd) (sat : Bool) (a b : Nat) : FRes :=
  let x := f.dec (f.flush a)
  let y := f.dec (f.flush b)
  if x.isNan || y.isNan then f.nanRes (x.isSig || y.isSig)
  else match prodV x y with
    | none => f.nanRes true
    | some p => f.sumVals mode sat [p]

/-- round(a × b + c), fused (R177). -/
def FFmt.fma (f : FFmt) (mode : Rnd) (sat : Bool) (a b c : Nat) : FRes :=
  f.dot mode sat [(f.dec (f.flush a), f.dec (f.flush b))] [f.dec (f.flush c)]

/-- A quotient of positive significands with `extra` fraction bits: its floor and whether it is inexact. -/
def quotBits (a b extra : Nat) : Nat × Bool := (a * 2 ^ extra / b, a * 2 ^ extra % b != 0)

/-- round(a / b) (R178). -/
def FFmt.div (f : FFmt) (mode : Rnd) (sat : Bool) (a b : Nat) : FRes :=
  let x := f.dec (f.flush a)
  let y := f.dec (f.flush b)
  if x.isNan || y.isNan then f.nanRes (x.isSig || y.isSig)
  else
    let n := xor x.neg y.neg
    match x, y with
    | .inf _, .inf _ => f.nanRes true
    | .inf _, _ => f.infRes sat n 0
    | _, .inf _ => ⟨f.signBit n, 0⟩
    | .num _ m e, .num _ m' e' =>
      if m' = 0 then (if m = 0 then f.nanRes true else f.infRes sat n flDZ)
      else if m = 0 then ⟨f.signBit n, 0⟩
      else
        let k := bitLen m' + f.m + 4
        let q := quotBits m m' k
        f.round mode sat n q.1 (e - e' - (k : Int)) q.2
    | _, _ => f.nanRes true

/-- The integer square root by bisection over n bits: the greatest r below 2^n with r² ≤ x. -/
def isqrt : Nat → Nat → Nat → Nat
  | 0, _, r => r
  | n + 1, x, r => if (r + 2 ^ n) * (r + 2 ^ n) ≤ x then isqrt n x (r + 2 ^ n) else isqrt n x r

/-- The square root of man × 2^exp with at least `bits` bits: significand, exponent, inexact. -/
def sqrtBits (man : Nat) (exp : Int) (bits : Nat) : Nat × Int × Bool :=
  let k0 := 2 * bits
  let k := if (exp - (k0 : Int)) % 2 = 0 then k0 else k0 + 1
  let x := man * 2 ^ k
  let r := isqrt (bitLen x / 2 + 1) x 0
  (r, (exp - (k : Int)) / 2, r * r != x)

/-- round(√a) (R178). -/
def FFmt.sqrt (f : FFmt) (mode : Rnd) (sat : Bool) (a : Nat) : FRes :=
  match f.dec (f.flush a) with
  | .nan s => f.nanRes s
  | .inf n => if n then f.nanRes true else f.infRes sat false 0
  | .num n m e =>
    if m = 0 then ⟨f.signBit n, 0⟩
    else if n then f.nanRes true
    else
      let r := sqrtBits m e (f.m + 4)
      f.round mode sat false r.1 r.2.1 r.2.2

/-- The order of two values that are not NaN; −0 equals +0. -/
def cmpV (a b : FV) : Ordering :=
  match a, b with
  | .inf n, .inf n' => if n = n' then .eq else if n then .lt else .gt
  | .inf n, _ => if n then .lt else .gt
  | _, .inf n => if n then .gt else .lt
  | a, b =>
    let x := (sumExact [a.term, b.negate.term]).1
    if x < 0 then .lt else if x = 0 then .eq else .gt

/-- `fmin` and `fmax` (R179, Table 3-9): the operand itself, −0 below +0. -/
def FFmt.minmax (f : FFmt) (isMax : Bool) (a b : Nat) : FRes :=
  let a' := f.flush a % 2 ^ f.width
  let b' := f.flush b % 2 ^ f.width
  let x := f.dec a'
  let y := f.dec b'
  let nv := flIf (x.isSig || y.isSig) flNV
  if x.isNan && y.isNan then ⟨f.nan, nv⟩
  else if x.isNan then ⟨b', nv⟩
  else if y.isNan then ⟨a', nv⟩
  else
    let less := match cmpV x y with
      | .lt => true
      | .gt => false
      | .eq => x.neg && !y.neg
    ⟨if less != isMax then a' else b', nv⟩

/-- `fcmp` (R182, Table 7-2): the condition and its flags. -/
def FFmt.cmp (f : FFmt) (sub : Nat) (a b : Nat) : Bool × BitVec 6 :=
  let x := f.dec (f.flush a)
  let y := f.dec (f.flush b)
  if x.isNan || y.isNan then
    (sub == 1 || sub == 6, flIf (x.isSig || y.isSig || (2 ≤ sub && sub ≤ 5)) flNV)
  else
    let o := cmpV x y
    (match sub with
      | 0 => o == .eq | 1 => o != .eq | 2 => o == .lt | 3 => o != .gt | 4 => o == .gt | 5 => o != .lt
      | _ => false, 0)

/-- `fclass` (Table 7-3). -/
def FFmt.classOf (f : FFmt) (bits : Nat) : Nat :=
  match f.dec bits with
  | .nan s => if s then 1 else 2
  | .inf n => if n then 4 else 512
  | .num n m _ =>
    if m = 0 then (if n then 32 else 64)
    else if m < 2 ^ f.m then (if n then 16 else 128)
    else if n then 8 else 256

/-- `fscale`: round(a × 2^n) (R180). -/
def FFmt.scale (f : FFmt) (mode : Rnd) (sat : Bool) (a : Nat) (n : Int) : FRes :=
  match f.dec (f.flush a) with
  | .nan s => f.nanRes s
  | .inf neg => f.infRes sat neg 0
  | .num neg m e => if m = 0 then ⟨f.signBit neg, 0⟩ else f.round mode sat neg m (e + n) false

/-- `frnd`: a rounded to an integral value of its type (R181). -/
def FFmt.integral (f : FFmt) (mode : Rnd) (a : Nat) : FRes :=
  match f.dec (f.flush a) with
  | .nan s => f.nanRes s
  | .inf neg => ⟨f.inf neg, 0⟩
  | .num neg m e =>
    if 0 ≤ e then ⟨f.flush a % 2 ^ f.width, 0⟩
    else
      let r := roundAt mode neg m e 0
      if r.1 = 0 then ⟨f.signBit neg, flIf r.2 flNX⟩
      else ⟨(f.round .rne false neg r.1 0 false).bits, flIf r.2 flNX⟩

/-- A value converted to the format (R81). -/
def FFmt.conv (f : FFmt) (mode : Rnd) (sat : Bool) (v : FV) : FRes :=
  match v with
  | .nan s => f.nanRes s
  | .inf neg => f.infRes sat neg 0
  | .num neg m e => if m = 0 then ⟨f.signBit neg, 0⟩ else f.round mode sat neg m e false

/-- An integer as an exact value. -/
def intFV (x : Int) : FV := .num (decide (x < 0)) x.natAbs 0

/-- The bounds of an integer type (R135). -/
def intMin (t : Ty) : Int := if t.signed then -((2 : Int) ^ (t.bits - 1)) else 0
def intMax (t : Ty) : Int := if t.signed then (2 : Int) ^ (t.bits - 1) - 1 else (2 : Int) ^ t.bits - 1

/-- `clamp` to a type's range. -/
def clampTo (t : Ty) (x : Int) : Int := if x < intMin t then intMin t else if intMax t < x then intMax t else x

/-- An integer as an 8- to 64-bit register value: sign- or zero-extended to at least 32 bits (R67). -/
def intReg (t : Ty) (x : Int) : Nat :=
  if t.signed then truncTo (max t.bits 32) x else truncTo t.bits x

/-- The integer that a register value of the type holds (R67, R135). -/
def intVal (t : Ty) (bits : Nat) : Int := if t.signed then sintOf t.bits bits else ((bits % 2 ^ t.bits : Nat) : Int)

/-- Floating point to integer (R82). -/
def toIntRes (t : Ty) (mode : Rnd) (v : FV) : FRes :=
  match v with
  | .nan _ => ⟨0, flNV⟩
  | .inf neg => ⟨intReg t (if neg then intMin t else intMax t), flNV⟩
  | .num neg m e =>
    -- a value at or above 2^70 is outside every type
    if 70 < (bitLen m : Int) + e then ⟨intReg t (if neg then intMin t else intMax t), flNV⟩
    else
      let r := roundAt mode neg m e 0
      let x : Int := if neg then -(r.1 : Int) else (r.1 : Int)
      if intMin t ≤ x ∧ x ≤ intMax t then ⟨intReg t x, flIf r.2 flNX⟩
      else ⟨intReg t (if neg then intMin t else intMax t), flNV⟩

/-- `cvt` of one element (R188, R189, Table 7-4): source type, value and modifiers. DESIGN CHOICE (notes/assumptions/40):
SAT = 1 clamps every integer conversion to the range of its destination, one that widens too (R83). -/
def cvtRes (d s : Ty) (mode : Rnd) (sat : Bool) (bits : Nat) : FRes :=
  if s.isInt then
    let x := intVal s bits
    if d.isInt then ⟨intReg d (if sat then clampTo d x else intVal d (truncTo 64 x)), 0⟩
    else (fmtOf d).conv mode sat (intFV x)
  else
    let v := (fmtOf s).dec bits
    if d.isInt then toIntRes d mode v else (fmtOf d).conv mode sat v

/-! ## FQ4 (R68 to R71) -/

/-- e4m3(x) of R68: a NaN byte gives 0 and FI. -/
def fq4Byte (x : Nat) : FV × Bool :=
  match (fmtOf .e4m3).dec x with
  | .nan _ => (.num false 0 0, true)
  | v => (v, false)

/-- The unscaled element k of a cell, and the FI that decoding the cell sets (R68). -/
def fq4Elem (c k : Nat) : FV × Bool :=
  let nib := fun i => fieldOf c (4 * i) 4
  let m0 := nib 0 == 8
  let m3 := nib 3 == 8
  let zero : FV := .num false 0 0
  if m0 && m3 then (zero, true)
  else if m0 then
    (if k = 0 then fq4Byte (nib 1 * 16 + nib 2) else if k = 3 then (intFV (sintOf 4 (nib 3)), (fq4Byte (nib 1 * 16 + nib 2)).2)
     else (zero, (fq4Byte (nib 1 * 16 + nib 2)).2))
  else if m3 then
    (if k = 3 then fq4Byte (nib 2 * 16 + nib 1) else if k = 0 then (intFV (sintOf 4 (nib 0)), (fq4Byte (nib 2 * 16 + nib 1)).2)
     else (zero, (fq4Byte (nib 2 * 16 + nib 1)).2))
  else
    let fi := nib 1 == 8 || nib 2 == 8
    if (k = 1 ∨ k = 2) ∧ nib k = 8 then (zero, fi) else (intFV (sintOf 4 (nib k)), fi)

/-- An element scaled by its block's scale byte (R70). -/
def fq4Scaled (c k scale : Nat) : FV × Bool :=
  if scale = 255 then (.num false 0 0, true)
  else
    let u := fq4Elem c k
    match u.1 with
    | .num n m e => (.num n m (e + (scale : Int) - 127), u.2)
    | v => (v, u.2)

/-- The block of element i of a 64 KiB page (R69). -/
def fq4Block (geo i : Nat) : Nat := if geo = 0 then i / 64 else i / 128 / 64 * 128 + i % 128

/-- The address of the scale byte of element i of the page at virtual address p (R71). -/
def scaleAddr (win p i geo : Nat) : Nat :=
  let pgb := min (fieldOf win 58 6) 40
  (fieldOf win 11 45 * 2048 + fieldOf p 16 pgb * 2048 + fq4Block geo i) % 2 ^ 56

/-- The exact value of a cell of a page format (Table 3-4), for a format other than FQ4. -/
def pageElem (fmtc bits : Nat) : FV :=
  match fmtc with
  | 1 => (fmtOf .f16).dec bits
  | 2 => (fmtOf .bf16).dec bits
  | 3 => (fmtOf .f32).dec bits
  | 4 => (fmtOf .f64).dec bits
  | 5 => (fmtOf .e4m3).dec bits
  | 6 => (fmtOf .e5m2).dec bits
  | _ => intFV (sintOf 8 bits)

/-- The cell size in bytes of a page format (Table 3-4); 0 for RAW and the reserved codes. -/
def cellSize (fmtc : Nat) : Nat :=
  match fmtc with
  | 1 | 2 | 8 => 2
  | 3 => 4
  | 4 => 8
  | 5 | 6 | 7 => 1
  | _ => 0

/-! ## Packed and dot forms -/

/-- An operation on both elements of a packed pair, its flags ORed (R186). -/
def pairOp (op : Nat → Nat → Nat → FRes) (a b c : Nat) : FRes :=
  let x := op (a % 2 ^ 16) (b % 2 ^ 16) (c % 2 ^ 16)
  let y := op (fieldOf a 16 16) (fieldOf b 16 16) (fieldOf c 16 16)
  ⟨x.bits + 2 ^ 16 * y.bits, x.fl ||| y.fl⟩

/-- `dot4` of floating-point formats (R85, R187): c and the result are FP32. -/
def dot4Float (fa fb : FFmt) (mode : Rnd) (sat : Bool) (a b c : Nat) : FRes :=
  let as := (List.range 4).map (fun k => fa.dec (fieldOf a (8 * k) 8))
  let bs := (List.range 4).map (fun k => fb.dec (fieldOf b (8 * k) 8))
  (fmtOf .f32).dot mode sat (as.zip bs) [(fmtOf .f32).dec c]

/-- `dot4` of integers: the exact sum, truncated or clamped to 32 bits (R187). -/
def dot4Int (t : Ty) (sat : Bool) (a b c : Nat) : Nat :=
  let r : Ty := if t.signed then .i32 else .n32
  let e := (List.range 4).foldl (fun x k => x + intVal t (fieldOf a (8 * k) 8) * intVal t (fieldOf b (8 * k) 8))
    (intVal r c)
  truncTo 32 (if sat then clampTo r e else e)

/-- `fadd` of `redux` and the sums of the tile unit: one rounding of the exact sum (R196, R318). -/
def sumAll (f : FFmt) (mode : Rnd) (sat : Bool) (xs : List Nat) : FRes := f.sum mode sat (xs.map f.dec)

/-- `fmin` or `fmax` folded over a list (R196, R318). -/
def foldMinmax (f : FFmt) (isMax : Bool) : List Nat → FRes
  | [] => ⟨0, 0⟩
  | x :: t => t.foldl (fun r y => let z := f.minmax isMax r.bits y; ⟨z.bits, r.fl ||| z.fl⟩) (f.minmax isMax x x)

end Sys2Proof.Machine
end

