-- ==== Sys2Proof/Machine/Fn.lean ====
section
/-! DEFINITION. The approximated functions of R184 and R185: exact cases, special values, and a result that is the
correctly rounded one at `.f16` and `.bf16`, and at `.f32` and `.f64` a free value (notes/assumptions/7) kept within the
bound of Table 7-5. The exact value is enclosed by integer arithmetic with `fxBits` fraction bits. -/

namespace Sys2Proof.Machine

/-- Fraction bits of the fixed-point arithmetic. -/
def fxBits : Nat := 224

/-- 1 in fixed point. -/
def fxOne : Nat := 2 ^ fxBits

/-- 2^400, the base of the digits of `piFx`. -/
def fxBase : Nat :=
  0x10000000000000000000000000000000000000000000000000000000000000000000000000000000000000000000000000000

/-- ⌊π × 2^1400⌋. -/
def piFx : Nat :=
  ((0x3243F6A8885A308D313198A2E03707344A4093822299F31D008 * fxBase
    + 0x2EFA98EC4E6C89452821E638D01377BE5466CF34E90C6CC0AC29B7C97C50DD3F84D5B5B54709179216D5D98979FB1BD1310B) * fxBase
    + 0xA698DFB5AC2FFD72DBD01ADFB7B8E1AFED6A267E96BA7C9045F12C7F9924A19947B3916CF70801F2E2858EFC16636920D871) * fxBase
    + 0x574E69A458FEA3F4933D7E0D95748F728EB658718BCD5882154AEE7B54A41DC25A59B59C30D5392AF26013C5D1B023286085

/-- ⌊ln 2 × 2^fxBits⌋. -/
def ln2Fx : Nat :=
  0xB17217F7D1CF79ABC9E3B39803F2F6AF40F343267298B62D8A0D175B

/-- e^x for x in [0, 1) as a fixed-point series: `n` further terms, the last term and the sum so far. -/
def expSeries : Nat → Nat → Nat → Nat → Nat → Nat
  | 0, _, _, _, acc => acc
  | n + 1, x, k, term, acc =>
    let t := term * x / fxOne / k
    expSeries n x (k + 1) t (acc + t)

/-- e^x in fixed point for a fixed-point x in [0, 1). -/
def expFx (x : Nat) : Nat := expSeries 64 x 1 fxOne fxOne

/-- atanh z for a fixed-point z below 0.35: Σ z^(2k+1) / (2k + 1). -/
def atanhSeries : Nat → Nat → Nat → Nat → Nat → Nat
  | 0, _, _, _, acc => acc
  | n + 1, z2, k, pow, acc =>
    let p := pow * z2 / fxOne
    atanhSeries n z2 (k + 2) p (acc + p / k)

def atanhFx (z : Nat) : Nat := atanhSeries 80 (z * z / fxOne) 3 z z

/-- The alternating series of sin and cos: the term grows by x² / (k (k + 1)). -/
def altSeries : Nat → Nat → Nat → Nat → Bool → Int → Int
  | 0, _, _, _, _, acc => acc
  | n + 1, x2, k, term, minus, acc =>
    let t := term * x2 / fxOne / (k * (k + 1))
    altSeries n x2 (k + 2) t (!minus) (if minus then acc - (t : Int) else acc + (t : Int))

/-- sin and cos in fixed point for a fixed-point x in [0, 1.6). -/
def sinFx (x : Nat) : Int := altSeries 48 (x * x / fxOne) 2 x true (x : Int)
def cosFx (x : Nat) : Int := altSeries 48 (x * x / fxOne) 1 fxOne true (fxOne : Int)

/-- man × 2^exp in fixed point. -/
def toFx (man : Nat) (exp : Int) : Nat :=
  let e := exp + (fxBits : Int)
  if 0 ≤ e then man * 2 ^ e.toNat else man / 2 ^ (-e).toNat

/-- The functions of R184. -/
inductive Fn where
  | rcp | rsq | exp2 | log2 | sin | cos | tanh
  deriving DecidableEq, Repr

/-- A number for each function, as an argument of the free value. -/
def Fn.code : Fn → Nat
  | .rcp => 0 | .rsq => 1 | .exp2 => 2 | .log2 => 3 | .sin => 4 | .cos => 5 | .tanh => 6

/-- An enclosed value: sign, significand, exponent; the magnitude of the exact one lies between `below` units of the significand
under it and `above` units over it, and is not equal to it. -/
structure Approx where
  neg : Bool
  man : Nat
  exp : Int
  below : Nat
  above : Nat
  deriving DecidableEq, Repr

/-- A value that the fixed-point arithmetic gives: its truncated steps are off by far fewer units than these. -/
def computed (neg : Bool) (man : Nat) (exp : Int) : Approx := ⟨neg, man, exp, 4096, 4096⟩

/-- The quadrant and the remainder of |x| modulo π / 2, in fixed point; x = man × 2^exp is exact. -/
def reduceAngle (man : Nat) (exp : Int) : Nat × Nat :=
  -- x and π / 2 with 1400 fraction bits
  let e := exp + 1400
  let x := if 0 ≤ e then man * 2 ^ e.toNat else man / 2 ^ (-e).toNat
  let q := x / (piFx / 2)
  (q % 4, (x - q * (piFx / 2)) / 2 ^ (1400 - fxBits))

/-- A value just below man × 2^exp in magnitude: what a function with f(x) = x − O(x³) gives for a tiny x. -/
def justBelow (neg : Bool) (man : Nat) (exp : Int) : Approx := ⟨neg, man * 2 ^ 96 - 1, exp - 96, 0, 1⟩

/-- A value just above man × 2^exp in magnitude. -/
def justAbove (neg : Bool) (man : Nat) (exp : Int) : Approx := ⟨neg, man * 2 ^ 96, exp - 96, 0, 1⟩

/-- The value of a function at the finite nonzero x = (−1)^neg × man × 2^exp, outside its exact and invalid cases. -/
def Fn.approx (fn : Fn) (neg : Bool) (man : Nat) (exp : Int) : Approx :=
  let fx : Int := -(fxBits : Int)
  let top := (bitLen man : Int) + exp
  match fn with
  | .rcp => computed neg (2 ^ (bitLen man + fxBits) / man) (-exp - (bitLen man + fxBits : Nat))
  | .rsq =>
    let r := sqrtBits man exp (fxBits + 8)
    let k := bitLen r.1 + fxBits
    computed false (2 ^ k / r.1) (-r.2.1 - (k : Int))
  | .exp2 =>
    if top < -100 then
      (if neg then justBelow false 1 0 else justAbove false 1 0)
    else
      let x := toFx man exp
      let i := x / fxOne
      let f := x % fxOne
      -- 2^(−x) = 2^(1 − f) × 2^(−i − 1)
      if neg then computed false (expFx ((fxOne - f) * ln2Fx / fxOne)) (fx - (i : Int) - 1)
      else computed false (expFx (f * ln2Fx / fxOne)) (fx + (i : Int))
  | .log2 =>
    -- x = y × 2^k with y in [1, 2); log2 y = 2 atanh((y − 1) / (y + 1)) / ln 2
    let k := top - 1
    let y := toFx man (exp - k)
    let y' := if 3 * fxOne < 2 * y then y / 2 else y
    let k' : Int := if 3 * fxOne < 2 * y then k + 1 else k
    let l : Int :=
      if y' < fxOne then -((2 * atanhFx ((fxOne - y') * fxOne / (fxOne + y')) * fxOne / ln2Fx : Nat) : Int)
      else ((2 * atanhFx ((y' - fxOne) * fxOne / (fxOne + y')) * fxOne / ln2Fx : Nat) : Int)
    let r : Int := k' * (fxOne : Int) + l
    computed (decide (r < 0)) r.natAbs fx
  | .sin =>
    if top < -60 then justBelow neg man exp
    else
      let a := reduceAngle man exp
      let v : Int := match a.1 with
        | 0 => sinFx a.2 | 1 => cosFx a.2 | 2 => -sinFx a.2 | _ => -cosFx a.2
      computed (xor neg (decide (v < 0))) v.natAbs fx
  | .cos =>
    if top < -60 then justBelow false 1 0
    else
      let a := reduceAngle man exp
      let v : Int := match a.1 with
        | 0 => cosFx a.2 | 1 => -sinFx a.2 | 2 => -cosFx a.2 | _ => sinFx a.2
      computed (decide (v < 0)) v.natAbs fx
  | .tanh =>
    if top < -60 then justBelow neg man exp
    else if 7 < top then justBelow neg 1 0
    else
      -- with e = e^(2x) = 2^i × e^f: (e − 1) / (e + 1)
      let x2 := 2 * toFx man exp
      let i := x2 / ln2Fx
      let e := expFx (x2 - i * ln2Fx) * 2 ^ i
      computed neg ((e - fxOne) * fxOne / (e + fxOne)) fx

/-- The exact cases of R185 at the nonzero x: the result as an exact value. -/
def Fn.exact (fn : Fn) (f : FFmt) (neg : Bool) (man : Nat) (exp : Int) : Option FV :=
  -- x = odd × 2^k
  let tz : Nat := (List.range (f.m + 1)).foldl (fun n i => if man % 2 ^ (i + 1) = 0 then i + 1 else n) 0
  let odd := man / 2 ^ tz
  let k := exp + (tz : Int)
  match fn with
  | .rcp => if odd = 1 then some (.num neg 1 (-k)) else none
  | .rsq => if odd = 1 ∧ k % 2 = 0 then some (.num false 1 (-k / 2)) else none
  | .exp2 =>
    if 0 ≤ k ∧ (bitLen man : Int) + exp ≤ 12 then
      let n : Int := (odd * 2 ^ k.toNat : Nat)
      let n := if neg then -n else n
      if f.emin - (f.m : Int) ≤ n ∧ n ≤ f.maxExp + (f.m : Int) then some (.num false 1 n) else none
    else none
  | .log2 => if odd = 1 then some (intFV k) else none
  | _ => none

/-- The bound of Table 7-5: ulps, and the fraction bits of the absolute bound where the row gives one for the input. -/
def Fn.bound (fn : Fn) (f : FFmt) (man : Nat) (exp : Int) : Nat × Option Nat :=
  let absBits := if f.m = 52 then 51 else 22
  -- x in [0.5, 2]
  let near := (bitLen man : Int) + exp == 0 || (bitLen man : Int) + exp == 1
    || (man == 2 ^ (bitLen man - 1) && (bitLen man : Int) + exp == 2)
  match fn with
  | .rcp | .rsq => (1, none)
  | .exp2 | .tanh => (2, none)
  | .log2 => (2, if near then some absBits else none)
  | .sin | .cos => (0, some absBits)

/-- |r − y| ≤ tol × 2^t for every y that the enclosure holds: r less the bound lies at or under its lower end, and r with the
bound at or over its upper one. -/
def closeTo (y : Approx) (r : FV) (tol : Nat) (t : Int) : Bool :=
  let m := (if y.neg then r.negate else r).term
  let m' := (if y.neg then r else r.negate).term
  decide ((sumExact [m, (true, tol, t), (true, y.man, y.exp), (false, y.below, y.exp)]).1 ≤ 0)
    && decide ((sumExact [m', (true, tol, t), (false, y.man, y.exp), (false, y.above, y.exp)]).1 ≤ 0)

/-- Whether the encoding r is a result that R184 and R185 allow for the exact value y. -/
def Fn.allowed (fn : Fn) (f : FFmt) (man : Nat) (exp : Int) (y : Approx) (r : Nat) : Bool :=
  match f.dec r with
  | .num n m e =>
    let b := fn.bound f man exp
    let ulpExp := max ((bitLen y.man : Int) - 1 + y.exp) f.emin - (f.m : Int)
    let inUlp := decide (0 < b.1) && closeTo y (.num n m e) b.1 ulpExp
    let inAbs := match b.2 with | some k => closeTo y (.num n m e) 1 (-(k : Int)) | none => false
    let unit := match fn with
      | .sin | .cos | .tanh => cmpV (.num false m e) (.num false 1 0) != .gt
      | .exp2 => !n
      | _ => true
    (inUlp || inAbs) && unit
  | _ => false

/-- The result for a finite nonzero x that is neither exact nor invalid. DESIGN CHOICE (notes/assumptions/41): an `fexp2`
whose exact value lies below the smallest subnormal gives +0 (R185) at `.f16` and `.bf16` too, where R184's rounding to
nearest would give the smallest subnormal for the upper half of that range. -/
def Fn.inexact (fn : Fn) (f : FFmt) (ty : Ty) (sat neg : Bool) (man : Nat) (exp : Int) (bits : Nat) : FRes :=
  -- an exponent beyond 2^12 decides `fexp2` without the series
  if fn = .exp2 ∧ 12 < (bitLen man : Int) + exp then
    (if neg then ⟨0, flUF ||| flNX⟩ else ⟨f.overflow .rne sat false, flOF ||| flNX⟩)
  else
    let y := fn.approx neg man exp
    let c := f.round .rne sat y.neg y.man y.exp true
    let low := (bitLen y.man : Int) + y.exp ≤ f.emin - (f.m : Int)
    if fn = .exp2 ∧ low then ⟨0, flUF ||| flNX⟩
    else if c.fl &&& flOF != 0 then c
    else if f.m = 10 ∨ f.m = 7 then ⟨c.bits, c.fl ||| flNX⟩
    else
      -- odd functions are computed on |x| and cos on |x| too (R185)
      let even := bits % 2 ^ (f.width - 1)
      let cand := Config.approxBits fn.code ty.code (if fn = .sin ∨ fn = .cos ∨ fn = .tanh then even else bits)
      let cand := cand % 2 ^ f.width
      let cand := if (fn = .sin ∨ fn = .tanh) ∧ neg then f.modify false true cand else cand
      let r := if fn.allowed f man exp y cand then cand else c.bits
      let tiny := match f.dec r with | .num _ m _ => decide (0 < m) && decide (m < 2 ^ f.m) | _ => false
      ⟨r, flNX ||| flIf tiny flUF⟩

/-- An approximated function (R184, R185, Table 3-9). DESIGN CHOICE (notes/assumptions/90): an `frcp` of ±2^k whose reciprocal
lies beyond M is the overflow result with OF and NX (Table 3-6), though R185 lists it among the exact cases. -/
def Fn.eval (fn : Fn) (ty : Ty) (sat : Bool) (a : Nat) : FRes :=
  let f := fmtOf ty
  let bits := f.flush a % 2 ^ f.width
  match f.dec bits with
  | .nan s => f.nanRes s
  | .inf n =>
    match fn with
    | .rcp => ⟨f.signBit n, 0⟩
    | .rsq => if n then f.nanRes true else ⟨0, 0⟩
    | .exp2 => if n then ⟨0, 0⟩ else f.infRes sat false 0
    | .log2 => if n then f.nanRes true else f.infRes sat false 0
    | .sin | .cos => f.nanRes true
    | .tanh => f.conv .rne sat (.num n 1 0)
  | .num n m e =>
    if m = 0 then
      match fn with
      | .rcp | .rsq => f.infRes sat n flDZ
      | .exp2 | .cos => f.conv .rne sat (.num false 1 0)
      | .log2 => f.infRes sat true flDZ
      | .sin | .tanh => ⟨f.signBit n, 0⟩
    else if n ∧ (fn = .rsq ∨ fn = .log2) then f.nanRes true
    else
      match fn.exact f n m e with
      | some v => f.conv .rne sat v
      | none => fn.inexact f ty sat n m e bits

end Sys2Proof.Machine
end

