-- ==== Sys2Proof/Machine/Ops.lean ====
section
/-! DEFINITION. The named operations over the state that the meanings share: cores, waves and splits, tokens, crew
barriers, Catalogue objects and signals, the fault record, and TAKING A TRAP (R379, R380), written once. -/

namespace Sys2Proof.Machine

/-- The outcome of a meaning. -/
abbrev Out := Host.Outcome State Fault Refusal

/-! ## Cores and waves -/

/-- Core `c`; a core that the table does not list is idle. -/
def State.core (s : State) (c : Nat) : Core := Tbl.getD s.cores c Core.idle

/-- The state with core `c` changed. -/
def State.modCore (s : State) (c : Nat) (f : Core → Core) : State :=
  { s with cores := Tbl.put s.cores c (f (s.core c)) }

/-- Wave `w` of core `c`, if one is resident (R15). -/
def State.wave? (s : State) (c w : Nat) : Option Wave := Tbl.find (s.core c).waves w

/-- The state with wave `w` of core `c` put. -/
def State.setWave (s : State) (c w : Nat) (x : Wave) : State :=
  s.modCore c (fun k => { k with waves := Tbl.put k.waves w x })

/-- The state with wave `w` of core `c` changed, if it is resident. -/
def State.modWave (s : State) (c w : Nat) (f : Wave → Wave) : State :=
  match s.wave? c w with
  | some x => s.setWave c w (f x)
  | none => s

/-- A fresh number. -/
def State.fresh (s : State) : Nat × State := (s.nextId, { s with nextId := s.nextId + 1 })

/-- The core that holds the crew (or stage context) numbered `uid`. -/
def State.coreOf (s : State) (uid : Nat) : Option Nat :=
  (s.cores.find? (fun e => match e.2.crew with | some k => k.uid == uid | none => false)).map (·.1)

/-- The crew or stage context on core `c`. -/
def State.crew? (s : State) (c : Nat) : Option Crew := (s.core c).crew

/-- The number of the crew on core `c` (0 on an empty core, whose waves do not exist). -/
def State.uidOf (s : State) (c : Nat) : Nat := match s.crew? c with | some k => k.uid | none => 0

/-- The ASID of wave `w` of core `c`; of the core's crew for one that has retired. -/
def State.asidOf (s : State) (c w : Nat) : Nat :=
  match s.wave? c w with
  | some x => x.asid
  | none => match s.crew? c with | some k => k.asid | none => 0

/-- The tenant of a process (R20). -/
def State.tenantOfAsid (s : State) (asid : Nat) : Nat := match Tbl.find s.procs asid with | some p => p.tenant | none => 0

/-- The cycles of 10 µs: a cycle takes 2 ns in the bring-up service (R3). -/
def State.tenMicros (s : State) : Nat := if s.svc.boot = .bringup then 5000 else 10000

/-- The count as it stands in window `w`. -/
def Moved.roll (m : Moved) (w : Nat) : Moved :=
  if m.win = w then m
  else if m.win + 1 = w then { m with win := w, last := m.now, now := 0 }
  else { m with win := w, last := 0, now := 0 }

/-- No bytes moved yet. -/
def Moved.zero : Moved := { win := 0, last := 0, now := 0, closed := 0 }

/-- n bytes are moved at a home or a link for an access of process `asid` (R367). -/
def State.countMoved (s : State) (asid n : Nat) : State :=
  { s with svc := { s.svc with moved := Tbl.mod s.svc.moved (s.tenantOfAsid asid) Moved.zero (fun m =>
      let y := m.roll (s.clock / s.tenMicros)
      { y with now := y.now + n }) } }

/-- The state with the crew of core `c` changed. -/
def State.modCrew (s : State) (c : Nat) (f : Crew → Crew) : State :=
  s.modCore c (fun k => { k with crew := k.crew.map f })

/-- The quadrant of wave `w` (R15). -/
def quadOf (w : Nat) : Nat := w % 4

/-- The registers that the waves of a quadrant hold (R103). -/
def Core.quotaUsed (k : Core) (q : Nat) : Nat :=
  (k.waves.filter (fun e => quadOf e.1 == q)).foldl (fun n e => n + e.2.quota) 0

/-- The free pool of a quadrant (R103). -/
def Core.freePool (k : Core) (q : Nat) : Nat := Config.quadrantRegs - k.quotaUsed q

/-- CORE[9:7], the die (R13). -/
def dieOf (c : Nat) : Nat := c / 128 % 8

/-! ## Program counters (R35) -/

/-- The address of the line that holds a PC. -/
def lineOf (pc : PC) : Nat := pc.toNat / 64 * 64

/-- The slot of a PC. -/
def slotOf (pc : PC) : Nat := pc.toNat % 64 / 12

/-- The sequential successor next(x) (R35). -/
def nextPc (pc : PC) : PC :=
  if slotOf pc < 4 then BitVec.ofNat 56 (pc.toNat + 12) else BitVec.ofNat 56 (lineOf pc + 64)

/-- A 64-bit value that meets R35 as a PC (R160). -/
def pcOk (x : Nat) : Bool := decide (x < 2 ^ 56) && decide (x % 64 % 12 = 0) && decide (x % 64 < 60)

/-! ## Splits -/

/-- The launched, unexited lanes of a wave: those that some split holds (R105). -/
def Wave.lanes (w : Wave) : Lanes := w.splits.foldl (fun m p => m ||| p.mask) 0

/-- The splits without the lanes of `m`; a split left empty goes. -/
def Wave.without (w : Wave) (m : Lanes) : Wave :=
  { w with splits := (w.splits.map (fun p => { p with mask := p.mask &&& ~~~ m })).filter (fun p => p.mask != 0) }

/-- A READY split (R105) as it stands when it is created at `clock`. -/
def Split.fresh (pc : PC) (m : Lanes) (st : SplitSt) (clock : Nat) : Split :=
  { pc := pc, mask := m, st := st, since := clock, notBefore := 0, stepOne := false, stop := none, origin := none }

/-- The wave with a further split, if it has a lane. -/
def Wave.addSplit (w : Wave) (p : Split) : Wave :=
  if p.mask = 0 then w else { w with splits := w.splits ++ [p] }

/-- The cause with which the lanes of `m` are to stop at their next boundary, if a split of theirs is marked (R133). -/
def Wave.markOf (w : Wave) (m : Lanes) : Option Nat :=
  (w.splits.filterMap (fun p => if p.mask &&& m = 0 then none else p.stop)).head?

/-- The wave with the lanes of `m` moved into one split of their own. A mark to stop goes with them, until they are STOPPED
(R133). -/
def Wave.moveTo (w : Wave) (m : Lanes) (pc : PC) (st : SplitSt) (clock : Nat) : Wave :=
  (w.without m).addSplit { Split.fresh pc m st clock with
    stop := match st with | .stopped _ => none | _ => w.markOf m }

/-- Wakes the splits that `sel` picks: each becomes READY at the PC that `pcf` gives (R105). One that is to stop does so
before it issues (`start`, R133). -/
def Wave.wakeIf (w : Wave) (clock : Nat) (sel : Split → Bool) (pcf : Split → PC) : Wave :=
  { w with
    splits := w.splits.map (fun p =>
      if sel p then { p with pc := pcf p, st := .ready, since := clock, notBefore := 0 } else p) }

/-- A wake from SUSPENDED: as `wakeIf`, and the current level returns to base (R130). -/
def Wave.wakeSusp (w : Wave) (clock : Nat) (sel : Split → Bool) (pcf : Split → PC) : Wave :=
  let hit := w.splits.any sel
  { w.wakeIf clock sel pcf with level := if hit then w.base else w.level }

/-- Whether a split is SUSPENDED for the reason `r`. -/
def Split.waitsFor (p : Split) (r : Susp) : Bool := p.st == .suspended r

/-! ## Rejoin registers (R110, R111) -/

/-- A rejoin register that is not in progress. -/
def JReg.clear : JReg := { v := false, pcw := 0, arr := 0, exp := 0 }

/-- Rejoin register `n` of the wave. -/
def Wave.jreg (w : Wave) (n : Nat) : JReg := Tbl.getD w.j n JReg.clear

/-- Merges the lanes of `extra` and every split in JOINWAIT on register `n` into one READY split at `pc` (R110). A split
that is to stop as it becomes READY stays apart (R133). -/
def Wave.joinMerge (w : Wave) (n : Nat) (extra : Lanes) (pc : PC) (clock : Nat) : Wave :=
  let stops := fun (p : Split) => p.st == .joinWait n && p.stop.isSome
  let m := (w.splits.filter (fun p => p.st == .joinWait n && p.stop.isNone)).foldl (fun m p => m ||| p.mask) extra
  (w.wakeIf clock stops (fun _ => pc)).moveTo m pc .ready clock

/-- R111 for register `n`: the lanes of `m` leave EXP, and the register completes or closes if that decides it. -/
def Wave.jexit (w : Wave) (n : Nat) (m : Lanes) (clock : Nat) : Wave :=
  let r := w.jreg n
  if r.v then
    let e := r.exp &&& ~~~ m
    if e &&& ~~~ r.arr = 0 ∧ r.arr ≠ 0 then
      { (w.joinMerge n 0 (nextPc r.pcw) clock) with j := Tbl.put w.j n { r with exp := e, v := false } }
    else if e = 0 then { w with j := Tbl.put w.j n { r with exp := e, v := false } }
    else { w with j := Tbl.put w.j n { r with exp := e } }
  else w

/-! ## Tokens (R119 to R125) -/

/-- The operations outstanding on token `k`, oldest first. -/
def Wave.tok (w : Wave) (k : Nat) : List TokOp := Tbl.getD w.toks k []

/-- The count of token `k` (Table 5-1). -/
def Wave.count (w : Wave) (k : Nat) : Nat := (w.tok k).length

/-- The count of token `k` before the retirements of cycle `clock` (R121, R170). -/
def Wave.countBefore (w : Wave) (clock k : Nat) : Nat :=
  w.count k + (match Tbl.find w.falls k with | some e => if e.1 = clock then e.2 else 0 | none => 0)

/-- One more operation on token `k`: P rises by one (R125). -/
def Wave.postOp (w : Wave) (k id : Nat) (done : Bool) (clock : Nat) : Wave :=
  let p := Tbl.getD w.posts k 0 + 1
  { w with posts := Tbl.put w.posts k p, toks := Tbl.put w.toks k (w.tok k ++ [{ id := id, q := p, done := done, at_ := clock, poll := none, fl := 0 }]) }

/-- Operation `id` has completed in cycle `at_` (R120). -/
def Wave.complete (w : Wave) (id at_ : Nat) : Wave :=
  { w with toks := w.toks.map (fun e => (e.1, e.2.map (fun o => if o.id = id then { o with done := true, at_ := at_ } else o))) }

/-- The token and post number that carry operation `id`, if it posted. -/
def Wave.chanOf (w : Wave) (id : Nat) : Option (Nat × Nat) :=
  (w.toks.filterMap (fun e => (e.2.find? (fun o => o.id == id)).map (fun o => (e.1, o.q)))).head?

/-- Operation `id` of a wave has completed. -/
def State.completeOp (s : State) (c w id : Nat) : State := s.modWave c w (fun x => x.complete id s.clock)

/-- The poll record once an acquire load retires, and the level that a changed value restores (R130). -/
def Wave.polled (w : Wave) (p : Poll) : Wave :=
  let changed := match w.poll with | some q => q.addr == p.addr && q.value != p.value | none => false
  { w with poll := some p, level := if changed && decide (w.level < w.base) then w.base else w.level }

/-- The sticky flags `f` of an operation that retires in cycle `at_` ORed into FPCTL (R77, R78). -/
def Wave.raise (w : Wave) (f : BitVec 6) (at_ : Nat) : Wave :=
  { w with
    fpctl := w.fpctl ||| f.zeroExtend 32
    raised := if w.raised.1 = at_ then (at_, w.raised.2 ||| f) else if w.raised.1 < at_ then (at_, f) else w.raised }

/-- Operation `id` has completed in cycle `at_` and raises `f`: as it retires if it has posted a token, and otherwise at
once (R78). -/
def Wave.completeFl (w : Wave) (id at_ : Nat) (f : BitVec 6) : Wave :=
  let y := w.complete id at_
  if (w.chanOf id).isNone then y.raise f at_
  else { y with toks := y.toks.map (fun e => (e.1, e.2.map (fun o => if o.id = id then { o with fl := o.fl ||| f } else o))) }

/-! ## Register writes -/

/-- The key of element (register `r`, lane `l`) of the v file. -/
def vkey (r l : Nat) : Nat := r * 32 + l

/-- Keys of the elements that R118 and R125 count: v elements, s registers, predicate bits, specials. -/
def keyV (r l : Nat) : Nat := vkey r l
def keyS (n : Nat) : Nat := 8192 + n
def keyP (p l : Nat) : Nat := 8256 + p * 32 + l
def keySp (k : Nat) : Nat := 8512 + k

/-- Writes v elements: those at or above QUOTA or in lanes that have left are discarded (R102, R172). -/
def Wave.putV (w : Wave) (es : List (Nat × Word)) : Wave :=
  { w with
    v := Bits.wrs w.v (es.filter (fun e => decide (e.1 / 32 < w.quota) && w.lanes.getLsbD (e.1 % 32)))
    bad := w.bad.filter (fun k => !es.any (fun e => e.1 == k)) }

/-- Writes s registers. -/
def Wave.putS (w : Wave) (es : List (Nat × Word)) : Wave :=
  { w with s := Bits.wrs w.s es, bad := w.bad.filter (fun k => !es.any (fun e => keyS e.1 == k)) }

/-- Writes v elements for operation `id`: those of registers lost since its issue are discarded (R172). -/
def Wave.putVOp (w : Wave) (id : Nat) (es : List (Nat × Word)) : Wave :=
  w.putV (es.filter (fun e => w.cuts.all (fun c => decide (c.1 ≤ id) || decide (e.1 / 32 < c.2))))

/-- The write that instruction `num` makes to an element in cycle `at_` stands: no write of a later-issued one has been
made to it in that cycle or since (R118). -/
def Wave.stands (w : Wave) (at_ num key : Nat) : Bool :=
  match Tbl.find w.made key with
  | some (t, n) => decide (t < at_) || (t == at_ && decide (n ≤ num))
  | none => true

/-- The wave after instruction `num` has written elements in cycle `at_`: writes of older cycles need no record. -/
def Wave.noteMade (w : Wave) (at_ num : Nat) (keys : List Nat) : Wave :=
  let rest := w.made.filter (fun e => decide (at_ ≤ e.2.1 + 1))
  { w with made := keys.foldl (fun (m : Tbl (Nat × Nat)) k => if w.stands at_ num k then Tbl.put m k (at_, num) else m) rest }

/-- The register writes that instruction `num` makes in cycle `at_`: v elements, s registers (R114, R118, R172). -/
def Wave.write (w : Wave) (at_ num : Nat) (vs ss : List (Nat × Word)) : Wave :=
  let v := vs.filter (fun e => w.stands at_ num e.1)
  let s := ss.filter (fun e => w.stands at_ num (keyS e.1))
  (((w.putVOp num v).putS s).noteMade at_ num (v.map (·.1) ++ s.map (fun e => keyS e.1)))

/-- Writes predicate `p` in the lanes of `m` with the values of `x`; p7 discards (R45), and so does a lane that has left
(R164). -/
def Wave.putP (w : Wave) (p : Nat) (m x : Lanes) : Wave :=
  let m := m &&& w.lanes
  if p < 7 then { w with p := Bits.wr w.p p ((Bits.rd w.p p &&& ~~~ m) ||| (x &&& m)) } else w

/-- As `write`, for a predicate. -/
def Wave.writeP (w : Wave) (at_ num p : Nat) (m x : Lanes) : Wave :=
  let ls := (lanesOf m).filter (fun l => w.stands at_ num (keyP p l))
  (w.putP p (laneSet ls) x).noteMade at_ num (ls.map (fun l => keyP p l))

/-- Writes a special register (R157): reserved bits of CHKCTL and SCALEWIN are ignored (R7). -/
def Wave.putSp (w : Wave) (k : Nat) (x : DWord) : Wave :=
  if k = 0 then { w with chkctl := x.setWidth 32 &&& 0x101 }
  else { w with scalewin := Bits.wr w.scalewin (k - 1) (x &&& 0xFCFFFFFFFFFFF800) }

/-- The cycle in which a pending write is made: its due cycle, or an earlier one where the rule allows that. -/
def PWrite.madeAt (x : PWrite) (clock : Nat) : Nat := min x.due clock

/-- Makes the writes of a pending write at `clock`, raises its flags and completes its operation (R114, R78, R120). -/
def Wave.land (clock : Nat) (w : Wave) (x : PWrite) : Wave :=
  let t := x.madeAt clock
  let y := x.p.foldl (fun y e => y.writeP t x.num e.1 e.2.1 e.2.2) (w.write t x.num x.v x.s)
  let z := x.sp.foldl (fun y e => y.putSp e.1 e.2) y
  match x.op with
  | some id => z.completeFl id t x.fl
  | none => z.raise x.fl t

/-- Pending writes in the order in which they are made: by due cycle, and in issue order within one (R118). -/
def insertDue (x : PWrite) : List PWrite → List PWrite
  | [] => [x]
  | y :: t => if x.due < y.due then x :: y :: t else y :: insertDue x t

def byDue (l : List PWrite) : List PWrite := l.foldl (fun acc x => insertDue x acc) []

/-! ## Catalogue (R327 to R330) -/

/-- TYPE of an object (Table 13-2). -/
def ObjBody.type : ObjBody → Nat
  | .wave .. => 1
  | .port .. => 2
  | .proxy .. => 2
  | .waitset .. => 3
  | .timer .. => 4
  | .queue .. => 5
  | .event .. => 6
  | .dep .. => 6
  | .contract .. => 7
  | .grant .. => 8

/-- The handle of the object at `idx` (Table 13-1). -/
def handleOf (idx gen ty : Nat) : Nat := ty * 2 ^ 48 + gen % 2 ^ 24 * 2 ^ 24 + idx % 2 ^ 24

/-- The Catalogue index of a handle: home die and index within it. -/
def handleIdx (h : Nat) : Nat := h % 2 ^ 24

/-- Generation field of a handle. -/
def handleGen (h : Nat) : Nat := fieldOf h 24 24

/-- The live object that a handle names, whoever owns it. -/
def State.named (s : State) (h : Nat) : Option Obj :=
  match Tbl.find s.objs (handleIdx h) with
  | some o =>
    if h / 2 ^ 52 = 0 ∧ fieldOf h 48 4 = o.body.type ∧ handleGen h = o.gen then some o else none
  | none => none

/-- The object that a handle names for process `asid` (R328): none faults OBJ_HANDLE. -/
def State.owned (s : State) (asid h : Nat) : Option Obj :=
  match s.named h with
  | some o => if o.owner = asid then some o else none
  | none => none

/-- The state with the body of object `idx` replaced. -/
def State.setBody (s : State) (idx : Nat) (b : ObjBody) : State :=
  match Tbl.find s.objs idx with
  | some o => { s with objs := Tbl.put s.objs idx { o with body := b } }
  | none => s

/-- The value of the event counter at a Catalogue index. -/
def State.countAt (s : State) (idx : Nat) : Option (Nat × Nat) :=
  match Tbl.find s.objs idx with
  | some o => match o.body with | .event v => some (v, o.time) | _ => none
  | none => none

/-- What a wait finds: the value of s0 and the T that the wake takes over, if it is satisfied (R343, R344). -/
def State.waitHit (s : State) (on : WaitOn) : Option (Word × Nat) :=
  match on with
  | .counter idx target =>
    match s.countAt idx with
    | some (v, t) => if target ≤ v then some (0, t) else none
    | none => none
  | .waitset idx =>
    match Tbl.find s.objs idx with
    | some o => match o.body with
      | .waitset ms =>
        (ms.filterMap (fun e => match s.countAt e.2.1 with
          | some (v, t) => if e.2.2 ≤ v then some (BitVec.ofNat 32 e.1, t) else none
          | none => none)).head?
      | _ => none
    | none => none
  | _ => none

/-- Every waiter whose counter or wait set is satisfied fires. -/
def State.fireWaiters (s : State) : State :=
  { s with waiters := s.waiters.map (fun w =>
      if w.fired.isSome then w
      else match s.waitHit w.on with
        | some (x, t) => { w with fired := some x, time := max w.time t }
        | none => w) }

/-- Adds `n` to the event counter that handle `h` names, for an agent whose time is `t`, and fires the waiters that this
satisfies (R342 to R344); a signal aimed at a deleted counter is dropped (R352). -/
def State.signal (s : State) (h n t : Nat) : State :=
  match s.named h with
  | some o =>
    match o.body with
    | .event v =>
      ({ s with objs := Tbl.put s.objs (handleIdx h) { o with body := .event (v + n), time := max o.time t } } : State).fireWaiters
    | _ => s
  | none => s

/-- A port, queue or ring has changed: the calls that wait for it are woken to replay (R324). -/
def State.poke (s : State) (on : WaitOn) : State :=
  { s with waiters := s.waiters.map (fun w => if w.on = on ∧ w.fired = none then { w with fired := some 0 } else w) }

/-- The value of the event counter that handle `h` names; 0 for any other handle. -/
def State.counterValue (s : State) (h : Nat) : Nat :=
  match s.named h with
  | some o => match o.body with | .event v => v | _ => 0
  | none => 0

/-! ## Crew barriers (R263 to R266) -/

/-- A barrier as it stands when the crew starts (Table 9-5). -/
def Barrier.zero : Barrier := { pb := 0, phase := 0, drop := 0, arr := 0, cnt := 0, open_ := 0 }

/-- Barrier `b` of a core's crew. -/
def Core.bar (k : Core) (b : Nat) : Barrier := Tbl.getD k.bars b Barrier.zero

/-- PHASE[0] of a barrier. -/
def Barrier.parity (b : Barrier) : Bool := b.phase.getLsbD 0

/-- Whether the open phase is complete (R265): an arrival counts as the release that it is once that is performed. -/
def Barrier.met (b : Barrier) : Bool :=
  decide (b.cnt ≠ 0) && decide (b.cnt.toNat ≤ b.arr.toNat + b.drop.toNat) && decide (b.pb = 0) && decide (b.open_ = 0)

/-- A wave at the completion of the phase: the lanes waiting on `b` become READY at the next PC and their W := 0. -/
def Wave.barWake (w : Wave) (b clock : Nat) : Wave :=
  let m := (w.splits.filter (fun p => p.waitsFor (.barrier b))).foldl (fun m p => m ||| p.mask) 0
  { (w.wakeSusp clock (fun p => p.waitsFor (.barrier b)) (fun p => nextPc p.pc)) with
    barW := Bits.wr w.barW b (Bits.rd w.barW b &&& ~~~ m) }

/-- The completion check of R265 on barrier `b`. -/
def Core.barCheck (k : Core) (b clock : Nat) : Core :=
  let x := k.bar b
  if x.met then
    { k with
      bars := Tbl.put k.bars b { x with phase := x.phase + 1, arr := 0, cnt := 0 }
      waves := k.waves.map (fun e => (e.1, e.2.barWake b clock)) }
  else k

/-- The state after the completion check on barrier `b` of core `c`. -/
def State.barCheck (s : State) (c b : Nat) : State := s.modCore c (fun k => k.barCheck b s.clock)

/-- The lanes of `m` of wave `w` leave barrier `b`: DROP rises by their number, and their pending arrivals of the open phase
are taken back (R266). -/
def Core.barExit (k : Core) (w : Nat) (m : Lanes) (clock b : Nat) : Core :=
  let x := k.bar b
  let back := match Tbl.find k.waves w with
    | some y => if x.cnt = 0 then 0 else m &&& Bits.rd y.barW b &&& (if x.parity then Bits.rd y.barQ b else ~~~ Bits.rd y.barQ b)
    | none => 0
  let x' := { x with drop := x.drop + BitVec.ofNat 16 (laneCount m), arr := x.arr - BitVec.ofNat 16 (laneCount back) }
  ({ k with bars := Tbl.put k.bars b x' } : Core).barCheck b clock

/-- The deferred arrivals of the lanes of `m` of wave `w` are made at their exit (R285). -/
def Core.carrExit (k : Core) (w : Nat) (m : Lanes) (clock : Nat) : Core :=
  let mine := fun (r : CarrOp) => r.wave == w && m.getLsbD r.lane
  (k.carrs.filter mine).foldl (fun (y : Core) r =>
      let x := y.bar r.bar
      ({ y with bars := Tbl.put y.bars r.bar { x with arr := x.arr + 1 } } : Core).barCheck r.bar clock)
    { k with carrs := k.carrs.filter (fun r => !mine r) }

/-- The exit of the lanes of `m` of wave `w` as the crew barriers see it: deferred arrivals first, then R266 (R285). -/
def Core.leaveBarriers (k : Core) (w : Nat) (m : Lanes) (clock : Nat) : Core :=
  (List.range 16).foldl (fun y b => y.barExit w m clock b) (k.carrExit w m clock)

/-! ## Exit (R164, R111, R266) -/

/-- The slots of exited task lanes return to their queue (R347). -/
def TaskQ.freeSlots (q : TaskQ) (slots : List Nat) : TaskQ := { q with used := q.used.filter (fun x => !slots.contains x) }

/-- The task slots of the lanes of `m` are freed (R347). -/
def State.freeTasks (s : State) (w : Wave) (m : Lanes) : State :=
  match w.taskQueue with
  | some qi =>
    match Tbl.find s.objs qi with
    | some o =>
      match o.body with
      | .queue q =>
        (s.setBody qi (.queue (q.freeSlots ((lanesOf m).filterMap (fun l => (Tbl.find w.tasks l).map (·.slot)))))).poke
          (.change qi)
      | _ => s
    | none => s
  | none => s

/-- The lanes of `m` exit wave `w` of core `c` (R164): they leave every split, R111 acts on the rejoin registers,
their deferred arrivals are made (R285) and DROP rises on every barrier of the crew (R266). -/
def State.exitLanes (s : State) (c w : Nat) (m : Lanes) : State :=
  match s.wave? c w with
  | none => s
  | some x =>
    let m := m &&& x.lanes
    let x' := (List.range 8).foldl (fun y n => Wave.jexit y n m s.clock) (x.without m)
    let s1 := (s.setWave c w x').freeTasks x m
    let stage := match s.crew? c with | some k => k.stage.isSome | none => true
    if stage || x.taskQueue.isSome then s1 else s1.modCore c (fun k => k.leaveBarriers w m s.clock)

/-! ## Fault records (R354) -/

/-- The 64 bytes of a fault record (Table 13-11). -/
def faultRecord (cause secondary lost : Nat) (lanes : Lanes) (pc : PC) (addr core wave task : Nat) : List Byte :=
  bytesOf 4 (cause % 256 + lost % 256 * 256 + secondary % 256 * 65536) ++ bytesOf 4 lanes.toNat
    ++ bytesOf 8 pc.toNat ++ bytesOf 8 addr ++ bytesOf 4 (core % 1024 + wave % 128 * 65536) ++ bytesOf 4 task
    ++ bytesOf 32 0

/-- Appends a fault record to the port that handle `h` names. A full port counts the record as lost, and the count
goes with the next record that it takes (R354). -/
def State.sendRecord (s : State) (h : Nat) (asid : Nat) (mk : Nat → List Byte) : State :=
  match s.named h with
  | some o =>
    match o.body with
    | .port cap msgs lost =>
      if msgs.length < cap then
        let m : Msg := { payload := mk (min lost 255), tag := 0, pkg := s.fab.pkgNo, asid := asid, grant := none, gva := 0, pages := [], serial := 0, time := 0 }
        (s.setBody (handleIdx h) (.port cap (msgs ++ [m]) 0)).poke (.change (handleIdx h))
      else s.setBody (handleIdx h) (.port cap msgs (lost + 1))
    | _ => s
  | none => s

/-- PAGE_FAULT (0x10) or PAGE_PERM (0x11): the resumable causes (R208). -/
def resumable (cause : Nat) : Bool := cause == 0x10 || cause == 0x11

/-- The port to which a process's record of a cause goes: the pager port for a resumable cause if there is one, and
otherwise the fault port (R354). -/
def Proc.portFor (p : Proc) (cause : Nat) : Nat :=
  if resumable cause && p.pagerPort != 0 then p.pagerPort.toNat else p.faultPort.toNat

/-- Sends the fault record of lanes `m` of wave `w` of core `c` (R354); `id` is TASKID, or CREW where a rule puts it
there. -/
def State.record (s : State) (c w : Nat) (m : Lanes) (cause secondary : Nat) (pc : PC) (addr id : Nat) : State :=
  let asid := s.asidOf c w
  match Tbl.find s.procs asid with
  | some p => s.sendRecord (p.portFor cause) asid (fun lost => faultRecord cause secondary lost m pc addr c w id)
  | none => s

/-- TASKID of the lowest lane of `m`: 0xFFFF_FFFF in a crew wave (R362). -/
def Wave.taskId (w : Wave) (m : Lanes) : Nat :=
  match Tbl.find w.tasks (lowestLane m) with
  | some t => t.slot
  | none => 0xFFFFFFFF

/-! ## Taking a trap (R377 to R380) -/

/-- What a trap does to its lanes (Table 15-1). -/
inductive Fate where
  | park | stop | ends
  deriving DecidableEq, Repr

/-- The fate column of Table 15-1. -/
def fateOf (cause : Nat) : Fate :=
  if resumable cause then .park else if cause = 0x0A ∨ cause = 0x0B then .stop else .ends

/-- R380 for a crew with an open version: every lane of every wave ends, unstarted commands complete as discarded,
the version, the writes in flight and the crew's dirty MANUAL bytes are dropped, its watches are disarmed, and one
VERSION_DISCARD record is sent. -/
def State.endCrew (s : State) (c w : Nat) (m : Lanes) (cause : Nat) (pc : PC) (addr : Nat) : State :=
  match s.crew? c with
  | none => s
  | some k =>
    let s1 := s.record c w m 0x47 cause pc addr k.crewNo
    let undone := fun (r : Req) => r.uid == k.uid && r.st == .waiting && (match r.kind with
      | .load | .scale | .fence _ | .arrive _ | .pref _ => false
      | _ => true)
    let s2 := ((s1.core c).waves.map (·.1)).foldl (fun t i =>
      match t.wave? c i with | some x => t.exitLanes c i x.lanes | none => t) s1
    let s3 := s2.modCore c (fun k =>
      { k with
        crew := k.crew.map (fun z => { z with version := .discarded, ending := true })
        l1 := k.l1.filter (fun e => !e.2.manual)
        cmds := k.cmds.map (fun e => if e.2.started then e else (e.1, { e.2 with resolved := some false, started := e.2.started }))
        mats := k.mats.map (fun y => match y.st with | .running _ => y | _ => { y with resolved := some false }) })
    let mine := s3.held.filter (fun x => x.k.uid == k.uid)
    let s4 := mine.foldl (fun (t : State) x => t.completeOp c x.k.wave x.k.op) s3
    { s4 with
      commits := s3.commits.filter (fun x => x.uid != k.uid)
      locks := s3.locks.filter (fun e => !s3.commits.any (fun x => x.uid == k.uid && x.id == e.2))
      watches := s3.watches.filter (fun x => x.uid != k.uid || x.fired)
      reqs := s3.reqs.filter (fun r => !undone r)
      held := s3.held.filter (fun x => x.k.uid != k.uid) }

/-- Whether the crew on core `c` has an open version (R382). -/
def State.versionOpen (s : State) (c : Nat) : Bool :=
  match s.crew? c with
  | some k => match k.version with | .opened _ => true | _ => false
  | none => false

/-- Every split of the wave that is not STOPPED stops at its next instruction boundary, or as it would become READY
(R133). -/
def Wave.stopAll (w : Wave) (cause : Nat) : Wave :=
  { w with splits := w.splits.map (fun p => match p.st with | .stopped _ => p | _ => { p with stop := some cause }) }

/-- Lanes `m` of wave `x` stop at `goOn` with their record (R379): at a breakpoint or a step, or because they were marked
to (R133). -/
def State.stopLanes (s : State) (c w : Nat) (x : Wave) (m : Lanes) (cause secondary : Nat) (pc : PC) (addr : Nat)
    (goOn : PC) : State :=
  (s.record c w m cause secondary pc addr (x.taskId m)).modWave c w
    (fun y => y.moveTo m goOn (.stopped cause) s.clock)

/-- TAKING A TRAP: lanes `m` of wave `w` of core `c` take `cause` with its secondary cause and address. `pc` is the
faulting instruction's PC, which the record carries, and `goOn` the PC at which a stopped split goes on (R379). The
record is sent first (R354); then the lanes are parked, stopped or ended. Lanes that have left the wave take nothing. With
DSTOP set, a stop has every other split of the wave stop at its own next boundary (R133). -/
def State.takeTrap (s : State) (c w : Nat) (m : Lanes) (cause secondary : Nat) (pc : PC) (addr : Nat) (goOn : PC) :
    State :=
  match s.wave? c w with
  | none => s
  | some x =>
    let m := m &&& x.lanes
    if m = 0 then s
    else match fateOf cause with
    | .park =>
      (s.record c w m cause secondary pc addr (x.taskId m)).modWave c w
        (fun y => y.moveTo m pc (.parked cause secondary addr false) s.clock)
    | .stop =>
      (s.record c w m cause secondary pc addr (x.taskId m)).modWave c w
        (fun y => (if y.chkctl.getLsbD 8 then y.stopAll cause else y).moveTo m goOn (.stopped cause) s.clock)
    | .ends =>
      if s.versionOpen c then s.endCrew c w m cause pc addr
      else (s.record c w m cause secondary pc addr (x.taskId m)).exitLanes c w m

/-- A fault that reaches the wave engine after its instruction has issued (R27): held for the token that its
operation posted, or else due at the next instruction boundary (TRAP_DELIVERY). `asid` is the process of the instruction,
which its record reaches when the wave has gone. The lanes of one instruction (`op`) with the same cause share a trap
(R378), whose address is that of the lowest of them (notes/assumptions/10). -/
def State.postTrap (s : State) (asid c w : Nat) (m : Lanes) (cause secondary : Nat) (pc : PC) (addr : Nat)
    (tok : Option (Nat × Nat)) (carr chan : Option Nat) (op : Nat) : State :=
  let fellow := fun (t : PTrap) => op != 0 && t.op == op && t.cause == cause && t.secondary == secondary
  if s.traps.any fellow then
    { s with traps := s.traps.map (fun t =>
        if fellow t then { t with lanes := t.lanes ||| m, addr := if lowestLane m < lowestLane t.lanes then addr else t.addr } else t) }
  else
    { s with
      nextId := s.nextId + 1
      traps := s.traps ++ [{ id := s.nextId, uid := s.uidOf c, asid := asid, core := c, wave := w, lanes := m, cause := cause,
                             secondary := secondary, pc := pc, addr := addr, tok := tok, carr := carr, chan := chan, op := op }] }

/-- A trap still gathers lanes: its instruction has calls or accesses that are still to be answered (R378). -/
def State.gathers? (s : State) (t : PTrap) : Bool :=
  t.op != 0 && (s.calls.any (fun x => x.op == t.op) || s.reqs.any (fun r => r.op == t.op && r.st == .waiting))

end Sys2Proof.Machine
end

