-- ==== Sys2Proof/Machine/Operands.lean ====
section
/-! DEFINITION. Reading operands at issue (R43, R44, R114, R118): registers with their pending writes, constants at the
type of the operation, special registers, predicates, and the guard (R41). -/

namespace Sys2Proof.Machine

/-! ## Elements and their pending writes -/

/-- An element as an instruction that issues at `clock` reads it: a write made before that cycle is read; one that is
still pending gives the value before it or the value after it (R118), chosen freely. -/
def readPend {w : Nat} (fc clock key : Nat) (sel : PWrite → Option (BitVec w)) :
    List PWrite → Nat → BitVec w → BitVec w
  | [], _, cur => cur
  | e :: t, n, cur =>
    match sel e with
    | none => readPend fc clock key sel t (n + 1) cur
    | some x =>
      let now := decide (e.due < clock) || Config.freeBit fc (key * 64 + n)
      readPend fc clock key sel t (n + 1) (if now then x else cur)

/-- The value of a key in a list of writes; the last entry counts. -/
def lastOf {α : Type} (l : List (Nat × α)) (k : Nat) : Option α :=
  ((l.filter (fun e => e.1 == k)).getLast?).map (·.2)

/-- Register r of lane l. -/
def Wave.rdV (x : Wave) (fc clock r l : Nat) : Word :=
  let k := vkey r l
  if x.pend.isEmpty then Bits.rd x.v k
  else readPend fc clock (keyV r l) (fun e => lastOf e.v k) (byDue x.pend) 0 (Bits.rd x.v k)

/-- s register n. -/
def Wave.rdS (x : Wave) (fc clock n : Nat) : Word :=
  if x.pend.isEmpty then Bits.rd x.s n
  else readPend fc clock (keyS n) (fun e => lastOf e.s n) (byDue x.pend) 0 (Bits.rd x.s n)

/-- Predicate p of lane l; p7 reads true (R45). -/
def Wave.rdP (x : Wave) (fc clock p l : Nat) : Bool :=
  if 7 ≤ p then true
  else
    let base : BitVec 1 := BitVec.ofBool ((Bits.rd x.p p).getLsbD l)
    let sel := fun (e : PWrite) =>
      ((e.p.filter (fun y => y.1 == p && y.2.1.getLsbD l)).getLast?).map (fun y => BitVec.ofBool (y.2.2.getLsbD l))
    (if x.pend.isEmpty then base else readPend fc clock (keyP p l) sel (byDue x.pend) 0 base) == 1

/-- CHKCTL as it governs an instruction at `clock` (R157). -/
def Wave.rdChk (x : Wave) (fc clock : Nat) : Word :=
  if x.pend.isEmpty then x.chkctl
  else readPend fc clock (keySp 0) (fun e => (lastOf e.sp 0).map (fun v => v.setWidth 32 &&& 0x101)) (byDue x.pend) 0
    x.chkctl

/-- SCALEWINn as it governs an instruction at `clock` (R71, R157). -/
def Wave.rdWin (x : Wave) (fc clock n : Nat) : DWord :=
  if x.pend.isEmpty then Bits.rd x.scalewin n
  else readPend fc clock (keySp (n + 1)) (fun e => (lastOf e.sp (n + 1)).map (fun v => v &&& 0xFCFFFFFFFFFFF800))
    (byDue x.pend) 0 (Bits.rd x.scalewin n)

/-! ## The context of an issued instruction -/

/-- The lowest passing lane. -/
def Ctx.low (k : Ctx) : Nat := lowestLane k.pass

/-- Register r of lane l as the instruction reads it. -/
def Ctx.v (k : Ctx) (r l : Nat) : Word := k.x.rdV k.fc k.clock r l

/-- s register n as the instruction reads it. -/
def Ctx.s (k : Ctx) (n : Nat) : Word := k.x.rdS k.fc k.clock n

/-- Predicate p of lane l as the instruction reads it. -/
def Ctx.p (k : Ctx) (p l : Nat) : Bool := k.x.rdP k.fc k.clock p l

/-- A task lane's record, if the wave is a task wave (R348). -/
def Ctx.task (k : Ctx) (l : Nat) : Option TaskLane := Tbl.find k.x.tasks l

/-- The value of a special register (Table 2-4) in lane l. DESIGN CHOICE (notes/assumptions/45): a 32-bit special read at a
64-bit type is zero-extended. -/
def Ctx.special (k : Ctx) (x : Special) (l : Nat) : Nat :=
  match x with
  | .lane => l
  | .wave => k.wave
  | .crew => k.x.crewNo.toNat
  | .core => k.core
  | .cluster => k.core / 8
  | .stack => k.core / 32
  | .die => k.core / 128
  | .clock => k.clock % 2 ^ 64
  | .taskid => match k.task l with | some t => t.slot | none => 0xFFFFFFFF
  | .argp => match k.task l with | some t => t.argp.toNat | none => k.x.argp.toNat
  | .quota => k.x.quota
  | .fpctl => k.x.fpctl.toNat
  | .chkctl => (k.x.rdChk k.fc k.clock).toNat
  | .scalewin n => (k.x.rdWin k.fc k.clock n.toNat).toNat

/-- An integer constant at a type (R44): exact in a floating-point type, both elements of a packed pair. DESIGN CHOICE
(notes/assumptions/50): one that `.e5m2` cannot represent (9, 11, 13, 15) is rounded to nearest even. -/
def constInt (t : Ty) (x : Int) : Nat :=
  match t with
  | .f16x2 | .bf16x2 => let e := ((fmtOf t).conv .rne false (intFV x)).bits; e + 2 ^ 16 * e
  | .i64 | .n64 | .b64 => truncTo 64 x
  | .n8 => truncTo 8 x
  | .n16 => truncTo 16 x
  | _ => if t.float then ((fmtOf t).conv .rne false (intFV x)).bits else truncTo 32 x

/-- ⌊log2 e × 2^224⌋. -/
def log2eFx : Nat :=
  0x171547652B82FE1777D0FFDA0D23A7D11D6AEF551BAD2B4B1164A2CD9

/-- A floating-point constant at a type, rounded to nearest even (R43, R44). -/
def constF (t : Ty) (c : FConst) : Nat :=
  let f := fmtOf t
  let e := match c with
    | .half => (f.round .rne false false 1 (-1) false).bits
    | .log2e => (f.round .rne false false log2eFx (-224) true).bits
    | .ln2 => (f.round .rne false false ln2Fx (-224) true).bits
    | .inf => (f.infRes false false 0).bits
  match t with
  | .f16x2 | .bf16x2 => e + 2 ^ 16 * e
  | _ => e

/-- The value of operand o in lane l, read at type t (R44, R45): 64 bits at a 64-bit type and 32 bits otherwise. -/
def Ctx.opnd (k : Ctx) (o : Opnd) (t : Ty) (l : Nat) : Nat :=
  match o with
  | .v n =>
    if t.wide then (k.v n.toNat l).toNat + 2 ^ 32 * (k.v (n.toNat + 1) l).toNat else (k.v n.toNat l).toNat
  | .s n => if t.wide then (k.s n.toNat).toNat + 2 ^ 32 * (k.s (n.toNat + 1)).toNat else (k.s n.toNat).toNat
  | .int n => constInt t n.toNat
  | .negOne => constInt t (-1)
  | .fconst c => constF t c
  | .sp x => if t.wide then k.special x l else k.special x l % 2 ^ 32

/-- A 32-bit integer operand (R135). -/
def Ctx.u32 (k : Ctx) (o : Opnd) (l : Nat) : Nat := k.opnd o .b32 l

/-- A 64-bit operand (R153). -/
def Ctx.u64 (k : Ctx) (o : Opnd) (l : Nat) : Nat := k.opnd o .b64 l

/-- The widened immediate of format I at a type (R49). -/
def immAt (t : Ty) (imm : Word) : Nat :=
  match t with
  | .i64 | .b64 => truncTo 64 (sintOf 32 imm.toNat)
  | .f64 =>
    match (fmtOf .f32).dec imm.toNat with
    | .nan _ => (fmtOf .f64).signBit (imm.toNat / 2 ^ 31 == 1) + 0x7FF * 2 ^ 52 + imm.toNat % 2 ^ 23 * 2 ^ 29
    | v => ((fmtOf .f64).conv .rne false v).bits
  | .f16 | .bf16 => imm.toNat % 2 ^ 16
  | _ => imm.toNat

/-- The passing lanes of a split: the guard in each of its lanes (R41). -/
def Wave.guardLanes (x : Wave) (fc clock : Nat) (h : Hdr) (m : Lanes) : Lanes :=
  laneSet ((lanesOf m).filter (fun l => xor (x.rdP fc clock h.pred.toNat l) h.pn))

/-! ## Register results -/

/-- No pending write. -/
def PWrite.nil : PWrite :=
  { due := 0, early := 0, num := 0, op := none, isDiv := false, v := [], s := [], p := [], sp := [], fl := 0 }

/-- The elements that a value of `n` registers writes from operand d in lane l. -/
def wordsAt (d : Opnd) (l n x : Nat) : List (Nat × Word) × List (Nat × Word) :=
  match d with
  | .v r => ((List.range n).map (fun i => (vkey (r.toNat + i) l, BitVec.ofNat 32 (fieldOf x (32 * i) 32))), [])
  | .s r => ([], (List.range n).map (fun i => (r.toNat + i, BitVec.ofNat 32 (fieldOf x (32 * i) 32))))
  | _ => ([], [])

/-- The writes of one value per lane to d, each of `n` registers. -/
def writesAt (d : Opnd) (n : Nat) (xs : List (Nat × Nat)) : PWrite :=
  let ws := xs.map (fun e => wordsAt d e.1 n e.2)
  { PWrite.nil with v := ws.flatMap (·.1), s := ws.flatMap (·.2) }

/-- The predicate write of one value per lane. -/
def predAt (pd : BitVec 3) (xs : List (Nat × Bool)) : List (Nat × Lanes × Lanes) :=
  [(pd.toNat, laneSet (xs.map (·.1)), laneSet ((xs.filter (·.2)).map (·.1)))]

end Sys2Proof.Machine
end

