-- ==== Sys2Proof/Machine/Issue.lean ====
section
/-! DEFINITION. The issue of one instruction of a split (R38 to R41, R57, R107, R114 to R128): the conditions under
which the chosen split issues, the traps that stand before the instruction's effect in the precedence of Table 2-16,
R27 and R126, and everything that an issue does besides the instruction's own effect. `issue` runs an instruction's own
effect inside it. -/

namespace Sys2Proof.Machine

/-! ## The chosen split -/

/-- Whether a split is READY. -/
def Split.isReady (p : Split) : Bool := p.st == .ready

/-- The READY splits of the wave that stand at `pc` and hold a lane of `m`. -/
def Wave.chosen (x : Wave) (pc : PC) (m : Lanes) : List Split :=
  x.splits.filter (fun p => p.isReady && p.pc == pc && (p.mask &&& m) != 0)

/-- The executing split: the chosen READY split with every other READY split at its PC (R107); a split that is being
stepped (R396), or that is to stop and so does not issue (R133), stands alone. -/
def Wave.execSplits (x : Wave) (pc : PC) (m : Lanes) : List Split :=
  let ch := x.chosen pc m
  if ch.any (fun p => p.stepOne || p.stop.isSome) then ch.take 1
  else if ch.isEmpty then []
  else x.splits.filter (fun p => p.isReady && p.pc == pc && !p.stepOne && p.stop.isNone)

/-- The cause with which the chosen split stops instead of issuing (R133): at a boundary, which does not fall between the
slots of a pair (R60). -/
def Wave.stopAt (x : Wave) (cur : Cursor) : Option Nat :=
  if cur.second.isSome then none else (x.chosen cur.pc cur.lanes).head?.bind (·.stop)

/-- The lanes of a list of splits. -/
def lanesOfSplits (l : List Split) : Lanes := l.foldl (fun m p => m ||| p.mask) 0

/-! ## Checks before the effect -/

/-- The cause PRIVILEGE applies (R21, R356). -/
def privileged (i : Instr) (r : Row) : Bool :=
  match i with
  | .launch _ o => o.a != .int 0
  | _ => r.super

/-- The highest v register that a use names lies below `quota` (R45). -/
def useInQuota (u : Use) (quota : Nat) : Bool :=
  match u.op with
  | .v n => u.n == 0 || decide (n.toNat + u.n ≤ quota)
  | _ => true

/-- The quota that the instruction's v operands must lie below: for `regq` the smaller of QUOTA and its request
(R171). -/
def quotaFor (i : Instr) (quota : Nat) : Nat :=
  match i with
  | .regq _ o => min quota (o.cnt.toNat * 8)
  | _ => quota

/-- The token waits of an instruction: its header wait (R40) and that of `twait` (R168). -/
def waitsOf (i : Instr) (h : Hdr) : List (Nat × Nat) :=
  (match h.wait with | some w => [(w.1.toNat, w.2.toNat)] | none => [])
    ++ (match i with | .twait _ o => [(o.tk.toNat, o.cnt.toNat)] | _ => [])

/-- The index of a datapath within its quadrant (Table 5-8). -/
def pathIndex : Path → Nat
  | .int => 0 | .div => 1 | .float => 2 | .exch => 3 | .spec => 4 | .port => 5 | .none => 6

/-- The copy channel or the matrix queue that the instruction needs is full (R280, R304). -/
def Core.queueFull (k : Core) (i : Instr) : Bool :=
  match i.shape with
  | .x opc _ o _ =>
    if opc < 0xB0 then
      decide (64 ≤ (k.cmds.filter (fun e => e.2.chan == o.ch.toNat
        && (!e.2.accepted || (Tbl.getD k.chans o.ch.toNat { queue := [], iptr := 0, wptr := 0, halt := false, mcause := 0 }).queue.contains e.1))).length)
    else decide (32 ≤ k.mats.length)
  | .a opc _ _ _ => (opc == 0xB2 || opc == 0xB3) && decide (32 ≤ k.mats.length)
  | _ => false

/-- The power governor and the thermal limit let a quadrant issue in this cycle (R430): in the first `governor` cycles
of each eight. -/
def State.issueCycle (s : State) : Bool := decide (s.clock % 8 < s.svc.governor) && !s.svc.stopped

/-- The header wait is met since an earlier cycle and the post fits (R119, R121). -/
def Wave.tokensOk (x : Wave) (clock : Nat) (i : Instr) (h : Hdr) : Bool :=
  (waitsOf i h).all (fun e => decide (x.countBefore clock e.1 ≤ e.2))
    && (match h.post with | some t => decide (x.count t.toNat < 63) | none => true)

/-- The instruction at a PC, when its line is in the cache and the slot decodes. -/
def Core.slotAt (k : Core) (asid : Nat) (pc : PC) : Option Instr :=
  match k.icache.find? (fun x => x.asid == asid && x.line == lineOf pc) with
  | some l =>
    match decode (lineSlot l.bits (slotOf pc)) with
    | .ok i => some i
    | .error _ => none
  | none => none

/-- The row of a READY split's instruction, if it meets R128 but for the datapath, which it needs. -/
def State.readyBut (s : State) (c : Nat) (x : Wave) (p : Split) : Option Row :=
  if !p.isReady || decide (s.clock < p.notBefore) || decide (s.clock < x.notBefore) then none
  else
    match (s.core c).slotAt x.asid p.pc with
    | some i =>
      match i.shape.row, i.shape.hdr with
      | some r, some h => if x.tokensOk s.clock i h then some r else none
      | _, _ => none
    | none => none

/-- An aged wave holds the first claim on a datapath of its quadrant before wave `w`: it aged earlier, and a split of it
still waits for that datapath (R131). -/
def State.claimed (s : State) (c w : Nat) (x : Wave) (key : Nat) : Bool :=
  (s.core c).agedFor.any (fun e => e.1 == key && e.2 != w && (match s.wave? c e.2 with
    | some y =>
      (match y.agedAt, x.agedAt with | some t, some u => decide (t < u) | some _, none => true | none, _ => false)
        && y.splits.any (fun p => match s.readyBut c y p with | some r => quadOf e.2 * 8 + pathIndex r.path == key | none => false)
    | none => false))

/-- The datapath of the instruction is free for this wave (R116, R131). -/
def State.pathFree (s : State) (c w : Nat) (x : Wave) (r : Row) : Bool :=
  r.path == .none ||
    (decide (Tbl.getD (s.core c).busy (quadOf w * 8 + pathIndex r.path) 0 ≤ s.clock)
      && !s.claimed c w x (quadOf w * 8 + pathIndex r.path))

/-- Every condition of R128 but the stall and the line. -/
def State.canIssue (s : State) (c w : Nat) (x : Wave) (i : Instr) (r : Row) (h : Hdr) : Bool :=
  x.tokensOk s.clock i h && s.pathFree c w x r && !(s.core c).queueFull i

/-- The stalls of R39 and R117 have elapsed for the splits `l` of the wave. Those that join them at their PC (R107) do not
await theirs. -/
def Wave.stallOver (x : Wave) (clock : Nat) (l : List Split) : Bool :=
  decide (x.notBefore ≤ clock) && l.all (fun p => decide (p.notBefore ≤ clock))

/-- The wave issues nothing: it rests for a save, or a forced save has stopped it (R384). -/
def State.restHeld (s : State) (c : Nat) (x : Wave) : Bool :=
  x.rest.resting || (match s.crew? c with
    | some k => match k.preempt with | some p => p.forced | none => false
    | none => false)

/-- A trap is due at this boundary (R27): it has no channel, or one of the waits covers its operation. -/
def PTrap.due (t : PTrap) (x : Wave) (ws : List (Nat × Nat)) : Bool :=
  match t.tok with
  | none => t.carr.isNone
  | some (tk, q) => ws.any (fun e => e.1 == tk && decide (e.2 + q ≤ Tbl.getD x.posts tk 0))

/-- A trap without a channel (R27). -/
def PTrap.free (t : PTrap) : Bool := t.tok.isNone && t.carr.isNone

/-- The lanes `m` of a trap leave it; a trap without lanes is gone. -/
def dropTrap (l : List PTrap) (id : Nat) (m : Lanes) : List PTrap :=
  (l.map (fun t => if t.id = id then { t with lanes := t.lanes &&& ~~~ m } else t)).filter (fun t => t.lanes != 0)

/-- The channel that a COPY_FAULT halted is cleared when its trap is delivered (R293). -/
def State.clearChan (s : State) (c : Nat) (ch : Option Nat) : State :=
  match ch with
  | none => s
  | some n => s.modCore c (fun k => match Tbl.find k.chans n with
    | some x => { k with chans := Tbl.put k.chans n { x with halt := false, mcause := 0, wptr := x.iptr } }
    | none => k)

/-- The record alone of a trap whose wave has gone, to its process (R27, R354). -/
def State.recordOf (s : State) (t : PTrap) (m : Lanes) : State :=
  match Tbl.find s.procs t.asid with
  | some p => s.sendRecord (p.portFor t.cause) t.asid (fun lost =>
      faultRecord t.cause t.secondary lost m t.pc t.addr t.core t.wave 0xFFFFFFFF)
  | none => s

/-- Delivers trap `t` to its lanes within `m`: live lanes take it and exited lanes only send the record (R27, R379). -/
def State.deliver (s : State) (t : PTrap) (m : Lanes) : State :=
  let s1 := ({ s with traps := dropTrap s.traps t.id m } : State).clearChan t.core
    (if t.lanes &&& m = 0 ∨ t.uid ≠ s.uidOf t.core then none else t.chan)
  match (if t.uid = s.uidOf t.core then s.wave? t.core t.wave else none) with
  | none => s1.recordOf t (t.lanes &&& m)
  | some x =>
    let live := t.lanes &&& m &&& x.lanes
    let gone := t.lanes &&& m &&& ~~~ x.lanes
    let s2 := if gone = 0 then s1 else s1.record t.core t.wave gone t.cause t.secondary t.pc t.addr (x.taskId gone)
    s2.takeTrap t.core t.wave live t.cause t.secondary t.pc t.addr (nextPc t.pc)

/-! ## The checking scoreboard (R125) -/

/-- The checker's keys of the elements of a use in the passing lanes. -/
def useKeys (u : Use) (pass : Lanes) : List Nat :=
  match u.op with
  | .v r => (List.range u.n).flatMap (fun i => (lanesOf pass).map (fun l => keyV (r.toNat + i) l))
  | .s r => if pass = 0 then [] else (List.range u.n).map (fun i => keyS (r.toNat + i))
  | _ => []

/-- Keys of predicate p in the passing lanes. -/
def predKeys (p : Nat) (pass : Lanes) : List Nat := if 7 ≤ p then [] else (lanesOf pass).map (fun l => keyP p l)

/-- The elements that an instruction reads or writes, and those that it writes, in its passing lanes. -/
def touched (r : Row) (h : Hdr) (pass : Lanes) : List Nat :=
  r.uses.flatMap (fun u => useKeys u pass) ++ (h.pred.toNat :: (r.pRead ++ r.pWrite)).flatMap (fun p => predKeys p pass)

def written (r : Row) (pass : Lanes) : List Nat :=
  (r.uses.filter (·.wr)).flatMap (fun u => useKeys u pass) ++ r.pWrite.flatMap (fun p => predKeys p pass)

/-- The guaranteed marks after the waits of an issue (R125). -/
def Wave.marked (x : Wave) (ws : List (Nat × Nat)) : Tbl Nat :=
  ws.foldl (fun g e => Tbl.put g e.1 (max (Tbl.getD g e.1 0) (Tbl.getD x.posts e.1 0 - e.2))) x.gmark

/-- The instruction writes a register. -/
def rowWrites (r : Row) : Bool := r.uses.any (·.wr)

/-- The checking cause of an issue, if one applies (R123, R125). DESIGN CHOICE (notes/assumptions/47): of several the
first of STALL_SHORT, TOKEN_UNDERWAIT and TOKEN_CALL. -/
def Wave.checkCause (x : Wave) (i : Instr) (r : Row) (h : Hdr) (pass : Lanes) (clock : Nat) : Option Nat :=
  let g := x.marked (waitsOf i h)
  let ks := touched r h pass
  let call := match i with | .call .. | .callx .. | .ret .. => true | _ => false
  if ks.any (fun e => match Tbl.find x.chkLand e with | some d => decide (clock ≤ d) | none => false) then some 0x20
  else if ks.any (fun e => match Tbl.find x.chkTok e with | some (k, q) => decide (Tbl.getD g k 0 < q) | none => false)
  then some 0x21
  else if r.cls == .q && rowWrites r && h.post.isNone then some 0x21
  else if call && (List.range 8).any (fun j => decide (0 < x.count (j + 8))) then some 0x22
  else none

/-- The checker records after an issue: landing cycles of fixed-latency writes and the pairs of token writes. -/
def Wave.checkNote (x : Wave) (r : Row) (h : Hdr) (pass : Lanes) (clock : Nat) : Wave :=
  let ws := written r pass
  match r.cls, h.post with
  | .q, some t =>
    { x with chkTok := ws.foldl (fun m e => Tbl.put m e (t.toNat, Tbl.getD x.posts t.toNat 0 + 1)) x.chkTok }
  | .q, none => x
  | cls, _ => { x with chkLand := ws.foldl (fun m e => Tbl.put m e (clock + cls.latency - 1)) x.chkLand }

/-! ## Issue -/

/-- Adds n to every event counter of a core that counts `src` (R428). -/
def Core.countEv (k : Core) (src n : Nat) : Core :=
  { k with evCnt := (List.range 8).foldl (fun m i =>
      if (Bits.rd k.evSel i).toNat = src ∧ src ≠ 0 then Bits.wr m i (Bits.rd m i + BitVec.ofNat 48 n) else m) k.evCnt }

/-- The wave after the issue of an instruction by lanes `m`, before the instruction's own effect: the split stands at
the next PC (R35), the stall holds (R39, R60), the operation is posted (R40), and the selection state starts again
(R108, R129 to R131, R166). -/
def Wave.issued (x : Wave) (i : Instr) (r : Row) (h : Hdr) (m pass : Lanes) (pc : PC) (clock op : Nat)
    (second : Option Nat) : Wave :=
  let y := (x.moveTo m (nextPc pc) .ready clock).checkNote r h pass clock
  let z := { y with
    gmark := x.marked (waitsOf i h)
    notBefore := clock + 1 + max h.stall.toNat (second.getD 0)
    readySince := clock + 1
    waitSince := clock + 1
    agedAt := none
    yieldUntil := none
    replays := (y.replays.map (fun e => (e.1 &&& ~~~ m, e.2))).filter (fun e => e.1 != 0)
    rest := { y.rest with hinted := false } }
  match h.post with
  | some t => z.postOp t.toNat op (pass == 0) clock
  | none => z

/-- The core after an issue: the datapath is held (R116), the quadrant has issued (R129) and the counters count. -/
def Core.afterIssue (k : Core) (clock w : Nat) (r : Row) (pair : Bool) : Core :=
  let key := quadOf w * 8 + pathIndex r.path
  let k1 := { k with
    busy := if r.path = Path.none then k.busy else Tbl.put k.busy key (clock + r.occ)
    taken := if r.path = Path.none then k.taken else Tbl.put k.taken key (clock + 1)
    agedFor := k.agedFor.filter (fun e => e.2 != w)
    issued := Tbl.put k.issued (quadOf w) (clock + 1) }
  (k1.countEv 2 1).countEv 3 (if pair then 1 else 0)

/-- The passing lanes in which the instruction reads an element with an uncorrectable error (R429). -/
def Wave.badLanes (x : Wave) (r : Row) (pass : Lanes) : Lanes :=
  if x.bad.isEmpty then 0
  else laneSet ((lanesOf pass).filter (fun l =>
    (r.uses.filter (fun u => !u.wr)).any (fun u => (useKeys u (laneBit l)).any (fun e => x.bad.contains e))))

/-- How the issue of an instruction begins: its own effect comes next (`go`), or it does not issue and the state is as
given: nothing has happened, or a trap has been taken. -/
inductive Start where
  | go (k : Ctx) (t : State)
  | stop (t : State)
  deriving DecidableEq, Repr

/-- The lanes of the executing split at the cursor. -/
def Wave.lanesAt (x : Wave) (cur : Cursor) : Lanes := lanesOfSplits (x.execSplits cur.pc cur.lanes)

/-- The passing lanes of the instruction with header `h` at the cursor (R41). -/
def State.passAt (s : State) (cur : Cursor) (x : Wave) (h : Hdr) : Lanes :=
  x.guardLanes s.freeCtr s.clock h (x.lanesAt cur)

/-- The context of an instruction that issues at the cursor. -/
def State.ctxAt (s : State) (cur : Cursor) (x : Wave) (h : Hdr) : Ctx :=
  { core := cur.core, wave := cur.wave, pc := cur.pc, x := x, lanes := x.lanesAt cur, pass := s.passAt cur x h, h := h,
    clock := s.clock, fc := s.freeCtr, asid := x.asid, uid := s.uidOf cur.core, op := s.nextId,
    tok := h.post.map (fun t => (t.toNat, Tbl.getD x.posts t.toNat 0 + 1)),
    step := (x.execSplits cur.pc cur.lanes).any (·.stepOne), pair := cur.pair }

/-- The state in which an instruction that issues at the cursor has its own effect. -/
def State.issuedAt (s : State) (cur : Cursor) (x : Wave) (i : Instr) (r : Row) (h : Hdr) : State :=
  ({ s with cursor := none, freeCtr := s.freeCtr + 1, nextId := s.nextId + 1 } : State).modCore cur.core (fun k =>
    { k.afterIssue s.clock cur.wave r cur.pair with
      waves := Tbl.put k.waves cur.wave (x.issued i r h (x.lanesAt cur) (s.passAt cur x h) cur.pc s.clock s.nextId cur.second) })

/-- The lanes of a wave whose pair still awaits its second slot, because the first is held (R60, R434). -/
def State.pairHeld (s : State) (c w : Nat) : Lanes :=
  (s.held.filter (fun x => x.k.core == c && x.k.wave == w && x.k.pair)).foldl (fun m x => m ||| x.k.lanes) 0

/-- The trap that is due when the instruction issues (R27): one without a channel in any lanes of the wave, or one that
a wait of the instruction consumes in its own lanes. None falls between the slots of a pair (R60). -/
def State.dueTrap (s : State) (cur : Cursor) (x : Wave) (i : Instr) (h : Hdr) : Option PTrap :=
  if cur.second.isSome then none
  else s.traps.find? (fun t => t.core == cur.core && t.wave == cur.wave && t.uid == s.uidOf cur.core
    && (t.lanes &&& s.pairHeld cur.core cur.wave) == 0 && !s.gathers? t
    && (t.free || (t.lanes &&& x.lanesAt cur) != 0) && t.due x (waitsOf i h))

/-- The lanes that a due trap takes: its own, or, where a wait consumes it, those of the executing split. -/
def PTrap.takes (t : PTrap) (m : Lanes) : Lanes := if t.free then t.lanes else m

/-- The registers of a transfer give the passing lanes whose target breaks R35 (R160, R162): MISALIGNED_PC, which
precedes the checking causes (R126). -/
def Ctx.badTargets (k : Ctx) (i : Instr) : List (Nat × Nat) :=
  match i with
  | .brx _ o | .callx _ o | .ret _ o => ((lanesOf k.pass).map (fun l => (l, k.u64 o.a l))).filter (fun e => !pcOk e.2)
  | _ => []

/-- The checking cause of the issue, if the wave is being checked (R125). -/
def State.checkAt (s : State) (cur : Cursor) (x : Wave) (i : Instr) (r : Row) (h : Hdr) : Option Nat :=
  if (x.rdChk s.freeCtr s.clock).getLsbD 0 then x.checkCause i r h (s.passAt cur x h) s.clock else none

/-- Lanes grouped by the value that they hold, in the order of the lowest lane of each group. -/
def groupLanes : List (Nat × Nat) → List (Nat × Lanes)
  | [] => []
  | (l, x) :: t =>
    let g := groupLanes t
    let same := (g.filter (fun e => e.1 == x)).foldl (fun m e => m ||| e.2) 0
    (x, laneBit l ||| same) :: g.filter (fun e => e.1 != x)

/-- A fault of one lane: the lane, the cause and the address. -/
abbrev LaneFault := Nat × Nat × Nat

/-- The lanes that take one cause form one trap (R378); the record carries the address of the lowest of them
(notes/assumptions/10). -/
def State.laneFaults (s : State) (k : Ctx) (fs : List LaneFault) : State :=
  (groupLanes (fs.map (fun e => (e.1, e.2.1)))).foldl (fun t g =>
    let addr := ((fs.find? (fun e => g.2.getLsbD e.1)).map (·.2.2)).getD 0
    t.takeTrap k.core k.wave g.2 g.1 0 k.pc addr k.pc) s

/-- The trap of a checking cause: the lanes that meet MISALIGNED_PC take that first (R126, R378), and the other lanes of the
split the checking cause (notes/assumptions/14). -/
def State.checkTrap (s : State) (k : Ctx) (i : Instr) (cause : Nat) : State :=
  let bad := k.badTargets i
  let s1 := s.laneFaults k (bad.map (fun e => (e.1, 0x04, e.2)))
  s1.takeTrap k.core k.wave (k.lanes &&& ~~~ laneSet (bad.map (·.1))) cause 0 k.pc 0 k.pc

/-- The beginning of an issue, with the checks in their order: the rest before a save (R384), the stop at a boundary (R133),
the stall (R39), the decode causes PRIVILEGE and REG_RANGE, which do not await the wait, the post or the datapath (R57),
those conditions (R128), a held trap (R27), the checking causes (R126), and the lanes that read a register with an
uncorrectable error, which take DATA_UNCORRECTABLE while the others issue again (R429). A checking cause comes before the BTM check
of a transfer's target, which awaits its line (notes/assumptions/14). -/
def start (i : Instr) (s : State) : Start :=
  let s0 := { s with cursor := none }
  match s.cursor with
  | none => .stop s
  | some cur =>
    match s.wave? cur.core cur.wave, i.shape.row, i.shape.hdr with
    | some x, some r, some h =>
      let m := x.lanesAt cur
      let trap := fun cause => Start.stop (s0.takeTrap cur.core cur.wave m cause 0 cur.pc 0 cur.pc)
      if m = 0 || (cur.second.isNone && s.restHeld cur.core x) then .stop s0
      else if (x.stopAt cur).isSome then
        .stop (s0.stopLanes cur.core cur.wave x m ((x.stopAt cur).getD 0) 0 cur.pc 0 cur.pc)
      else if !(cur.second.isSome || x.stallOver s.clock (x.chosen cur.pc cur.lanes)) then .stop s0
      else if privileged i r && x.asid != 0 then trap 0x06
      else if !r.uses.all (fun u => useInQuota u (quotaFor i x.quota)) then trap 0x07
      else if !(cur.second.isSome || s.canIssue cur.core cur.wave x i r h) then .stop s0
      else
        match s.dueTrap cur x i h with
        | some t => .stop (s0.deliver t (t.takes m))
        | none =>
          match s.checkAt cur x i r h with
          | some cause => .stop (s0.checkTrap (s.ctxAt cur x h) i cause)
          | none =>
            if x.badLanes r (s.passAt cur x h) != 0 then
              .stop (s0.takeTrap cur.core cur.wave (x.badLanes r (s.passAt cur x h)) 0x51 0 cur.pc 0 cur.pc)
            else .go (s.ctxAt cur x h) (s.issuedAt cur x i r h)
    | _, _, _ => .stop s0

/-- The instruction issues with its own effect: the cursor names a split of wave `x` whose stall has elapsed and which
meets R128 (`r` and `h` are the instruction's row and header); neither a rest, a stop, PRIVILEGE or REG_RANGE, a
held trap, a checking cause nor a register with an uncorrectable error stands before it. The second slot of a pair has
met the conditions of its issue with the first (R60). -/
def issues (i : Instr) (s : State) (cur : Cursor) (x : Wave) (r : Row) (h : Hdr) : Bool :=
  s.cursor == some cur && s.wave? cur.core cur.wave == some x && i.shape.row == some r && i.shape.hdr == some h
    && x.lanesAt cur != 0 && (x.stopAt cur).isNone
    && (cur.second.isSome || (!s.restHeld cur.core x && x.stallOver s.clock (x.chosen cur.pc cur.lanes)
      && s.canIssue cur.core cur.wave x i r h))
    && (!privileged i r || x.asid == 0) && r.uses.all (fun u => useInQuota u (quotaFor i x.quota))
    && (s.dueTrap cur x i h).isNone && (s.checkAt cur x i r h).isNone && x.badLanes r (s.passAt cur x h) == 0

/-- The BTM check of the transfer that brought a split to its PC is still to be made when the split goes on (R37). -/
def Wave.keepOrigin (w : Wave) (p : Split) : Wave :=
  { w with splits := w.splits.map (fun q => if q.pc = p.pc ∧ q.mask = p.mask then { q with origin := p.origin } else q) }

/-- A stepped split stops at the next boundary with a STEP record for each of its splits (R133, R396). A lane that
waits stops as it would become READY, as with DSTOP set every other lane does; one that its own instruction has stopped
(`bkpt`) stays so. -/
def State.stepStop (s : State) (k : Ctx) : State :=
  match s.wave? k.core k.wave with
  | none => s
  | some x =>
    let mine := x.splits.filter (fun p => (p.mask &&& k.lanes) != 0)
    let s1 := s.modWave k.core k.wave (fun y =>
      if y.chkctl.getLsbD 8 then y.stopAll 0x0B
      else { y with splits := y.splits.map (fun p => match p.st with
        | .stopped _ => p
        | _ => if (p.mask &&& k.lanes) = 0 then p else { p with stop := some 0x0B }) })
    (mine.filter Split.isReady).foldl (fun t p =>
      (t.stopLanes k.core k.wave x p.mask 0x0B 0 p.pc 0 p.pc).modWave k.core k.wave (fun w => w.keepOrigin p)) s1

/-- The end of an issue: a stepped split stops, and the second slot of a pair is due at once (R60). -/
def finish (k : Ctx) (t : State) : State :=
  let t1 := if k.step then t.stepStop k else t
  if k.pair then
    { t1 with cursor := some { core := k.core, wave := k.wave, pc := nextPc k.pc, lanes := k.lanes, pair := false,
                               second := some k.h.stall.toNat } }
  else t1

/-- The issue of an instruction with its own effect `body`. -/
def issue (i : Instr) (s : State) (body : Ctx → State → State) : Out :=
  match start i s with
  | .go k t => .next (finish k (body k t))
  | .stop t => .next t

/-- A decode fault of the slot that the cursor names (R57): the whole executing split takes it, once its stall has
elapsed. -/
def decodeFault (s : State) (cause : Nat) : State :=
  let s0 := { s with cursor := none }
  match s.cursor with
  | none => s
  | some cur =>
    match s.wave? cur.core cur.wave with
    | none => s0
    | some x =>
      let sp := x.execSplits cur.pc cur.lanes
      if cur.second.isNone && s.restHeld cur.core x then s0
      else if (x.stopAt cur).isSome then
        s0.stopLanes cur.core cur.wave x (lanesOfSplits sp) ((x.stopAt cur).getD 0) 0 cur.pc 0 cur.pc
      else if cur.second.isSome || x.stallOver s.clock (x.chosen cur.pc cur.lanes) then
        s0.takeTrap cur.core cur.wave (lanesOfSplits sp) cause 0 cur.pc 0 cur.pc
      else s0

/-! ## Effects that the families share -/

/-- The state with the wave of the context changed. -/
def State.onWave (s : State) (k : Ctx) (f : Wave → Wave) : State := s.modWave k.core k.wave f

/-- A fixed-latency result (R114): the writes are made at t + L − 1. -/
def fixed (k : Ctx) (lat : Nat) (w : PWrite) (s : State) : State :=
  if k.pass = 0 then s
  else s.onWave k (fun y => { y with pend := y.pend ++ [{ w with due := k.clock + lat - 1, early := k.clock + lat - 1, num := k.op }] })

/-- The lanes for which an arithmetic instruction computes: each passing lane, or under S = 1 once for the wave, LANE
reading as the lowest passing lane (R48, R136). -/
def Ctx.compute (k : Ctx) (sc : Bool) : List Nat := if sc then (if k.pass = 0 then [] else [k.low]) else lanesOf k.pass

/-- A result that completes the context's operation in cycle `due`. -/
def tokenWrite (k : Ctx) (due : Nat) (isDiv : Bool) (w : PWrite) (s : State) : State :=
  if k.pass = 0 then s
  else s.onWave k (fun y =>
    { y with pend := y.pend ++ [{ w with due := due, early := due, num := k.op, op := some k.op, isDiv := isDiv }] })

end Sys2Proof.Machine
end

