-- ==== Sys2Proof/Machine/Translate.lean ====
section
/-! DEFINITION. Translation (R200 to R208, R434, R435): page tables, the TLB, the rights and format attributes of a
page, the physical checks, and the pieces of a lane's access with the first fault that it meets. -/

namespace Sys2Proof.Machine

/-! ## Leaf entries (Table 8-4) -/

def leafKind (e : DWord) : Nat := fieldOf e.toNat 48 2
def leafFmtc (e : DWord) : Nat := fieldOf e.toNat 50 4
def leafGeo (e : DWord) : Nat := fieldOf e.toNat 54 1
def leafSws (e : DWord) : Nat := fieldOf e.toNat 55 3
def leafPfn (e : DWord) : Nat := fieldOf e.toNat 12 36
def leafHost (e : DWord) : Bool := e.getLsbD 60
def leafPin (e : DWord) : Bool := e.getLsbD 59
def leafGnt (e : DWord) : Bool := e.getLsbD 58

/-- The end of the HBM4E range: that of stacks 0 to 3 in the bring-up service (Table 17-5). -/
def State.hbmEnd (s : State) : Nat := if s.svc.boot = .bringup then 0x6000000000 else Config.hbmEnd

/-- The faults of a valid leaf (R203), for an HBM4E range that ends at `top`. -/
def leafBad (top : Nat) (e : DWord) : Bool :=
  let pa := leafPfn e * 65536
  leafKind e == 3 || fieldOf e.toNat 61 3 != 0 || fieldOf e.toNat 5 7 != 0
    || (!leafHost e && decide (top ≤ pa))
    || (leafHost e && (decide (pa < Config.hostBase) || decide (Config.physEnd ≤ pa)))
    || (leafHost e && leafKind e != 0) || (e.getLsbD 3 && leafKind e != 1)

/-- A right of R205: bit 1 read, bit 2 write, bit 3 execute. -/
def rightR : Nat := 2
def rightW : Nat := 4
def rightX : Nat := 8

/-- The leaf grants every right of the mask. -/
def leafGrants (e : DWord) (need : Nat) : Bool := Nat.land e.toNat need == need

/-! ## Uncorrectable errors (R429) -/

/-- The bytes of a unit of memory or of a buffer: its place, its core, its first byte and its length. The stacked SRAM has units
of 32 bytes, as HBM4E has, and the A-buffer of 8. -/
def eccSpan (p : EccPlace) : Option (Place × Nat × Nat × Nat) :=
  match p with
  | .mem u => some (.mem, 0, u * 32, 32)
  | .abuf c u => some (.abuf, c, u * 8, 8)
  | .wbuf c u => some (.wbuf, c, u * 32, 32)
  | .cbuf c u => some (.cbuf, c, u * 32, 32)
  | _ => none

/-- A poisoned unit lies under n bytes of a place of core `c`. -/
def State.poisonAt (s : State) (c : Nat) (pl : Place) (a n : Nat) : Bool :=
  s.poison.any (fun e => match eccSpan e.place with
    | some (p, k, b, z) => p == pl && (pl == .mem || k == c) && decide (a < b + z) && decide (b < a + n)
    | none => false)

/-- The bytes of a place of core `c` that `hit` names are written: a unit all of whose bytes have been written again is no
longer poisoned. -/
def State.cleanse (s : State) (c : Nat) (pl : Place) (hit : Nat → Bool) : State :=
  if s.poison.isEmpty then s
  else { s with poison := s.poison.filterMap (fun e => match eccSpan e.place with
    | some (p, k, b, z) =>
      if p = pl ∧ (pl = .mem ∨ k = c) then
        let l := (List.range z).foldl (fun (m : BitVec 32) i => if hit (b + i) then m &&& ~~~ (BitVec.ofNat 32 (2 ^ i)) else m) e.left
        if l = 0 then none else some { e with left := l }
      else some e
    | none => some e) }

/-- As `cleanse`, for n bytes from an address. -/
def State.cleanseRange (s : State) (c : Nat) (pl : Place) (a n : Nat) : State :=
  s.cleanse c pl (fun b => decide (a ≤ b) && decide (b < a + n))

/-- An uncorrectable error is found in a unit of memory or of a buffer, or on a link. -/
def State.spoil (s : State) (p : EccPlace) : State :=
  { s with poison := s.poison.filter (fun e => e.place != p) ++ [{ place := p, left := match eccSpan p with
      | some (_, _, _, z) => BitVec.ofNat 32 (2 ^ z - 1)
      | none => 0 }] }

/-! ## The walk (R201, R204) -/

/-- A page-table entry, an 8-byte load at its home. -/
def State.pte (s : State) (a : Nat) : DWord := BitVec.ofNat 64 (Memory.read s.mem a 8)

/-- A non-leaf entry: the next table, or the cause that it gives. -/
def nextTable (top : Nat) (e : DWord) : Except Nat Nat :=
  if !e.getLsbD 0 then .error 0x10
  else if top ≤ leafPfn e * 65536 then .error 0x13
  else .ok (leafPfn e * 65536)

/-- The addresses of the entries that a walk reads, as far as the tables lead it. -/
def State.walkReads (s : State) (asid va : Nat) : List Nat :=
  match Tbl.find s.procs asid with
  | none => []
  | some p =>
    let a3 := p.root + 8 * (va / 2 ^ 42 % 16384)
    match nextTable s.hbmEnd (s.pte a3) with
    | .error _ => [a3]
    | .ok t2 =>
      let a2 := t2 + 8 * (va / 2 ^ 29 % 8192)
      match nextTable s.hbmEnd (s.pte a2) with
      | .error _ => [a3, a2]
      | .ok t1 =>
        let i := va / 2 ^ 16 % 8192
        [a3, a2, t1 + 8 * i] ++ (if (s.pte (t1 + 8 * i)).getLsbD 4 then [t1 + 8 * (i - i % 32)] else [])

/-- The walk of process `asid` for address `va`: whether a 2 MiB page translates it, and the leaf. DEDUCED
(notes/assumptions/88): a walk that reads a poisoned entry ends with DATA_UNCORRECTABLE. -/
def State.walk (s : State) (asid va : Nat) : Except Nat (Bool × DWord) :=
  match Tbl.find s.procs asid with
  | none => .error 0x10
  | some p =>
    match nextTable s.hbmEnd (s.pte (p.root + 8 * (va / 2 ^ 42 % 16384))) with
    | .error c => .error c
    | .ok t2 =>
      match nextTable s.hbmEnd (s.pte (t2 + 8 * (va / 2 ^ 29 % 8192))) with
      | .error c => .error c
      | .ok t1 =>
        let i := va / 2 ^ 16 % 8192
        let own := s.pte (t1 + 8 * i)
        let first := s.pte (t1 + 8 * (i - i % 32))
        let big := own.getLsbD 4 && first.getLsbD 0 && first.getLsbD 4
        let e := if big then first else own
        if (s.walkReads asid va).any (fun a => s.poisonAt 0 .mem a 8) then .error 0x51
        else if !e.getLsbD 0 then .error 0x10
        else if leafBad s.hbmEnd e then .error 0x13
        else .ok (big, e)

/-- The address of the leaf entry of a page, if its tables stand (R338). -/
def State.leafAddr (s : State) (asid va : Nat) : Option Nat :=
  match Tbl.find s.procs asid with
  | none => none
  | some p =>
    match nextTable s.hbmEnd (s.pte (p.root + 8 * (va / 2 ^ 42 % 16384))) with
    | .error _ => none
    | .ok t2 =>
      match nextTable s.hbmEnd (s.pte (t2 + 8 * (va / 2 ^ 29 % 8192))) with
      | .error _ => none
      | .ok t1 => some (t1 + 8 * (va / 2 ^ 16 % 8192))

/-- The physical address that a leaf gives `va` (R204). -/
def leafPa (big : Bool) (e : DWord) (va : Nat) : Nat :=
  if big then (leafPfn e - leafPfn e % 32) * 65536 + va % 2 ^ 21 else leafPfn e * 65536 + va % 65536

/-! ## The TLB (R206) -/

/-- The TLB entry of a core for an address. -/
def Core.tlbFind (k : Core) (asid va : Nat) : Option TlbEnt :=
  k.tlb.find? (fun e => e.asid == asid && e.page == va / (if e.big then 2 ^ 21 else 2 ^ 16))

/-- The TLB with a further entry; the oldest entry goes when 2,048 are held (notes/assumptions/11). -/
def Core.tlbFill (k : Core) (e : TlbEnt) : Core :=
  { k with tlb := (if k.tlb.length < 2048 then k.tlb else k.tlb.drop 1) ++ [e] }

/-- A translation: the leaf and the physical address, a fault, or a walk that is still to be made. -/
inductive Tr where
  | hit (leaf : DWord) (pa : Nat)
  | fault (cause : Nat)
  | miss
  deriving DecidableEq, Repr

/-- The translation that the instruction numbered `op` finds for `va` (R206, R434). -/
def State.xlate (s : State) (c op asid : Nat) (va : Nat) : Tr :=
  let k := s.core c
  match k.tlbFind asid va with
  | some e => .hit e.leaf (leafPa e.big e.leaf va)
  | none =>
    match k.walks.find? (fun x => x.asid == asid && x.page == va / 65536 && x.op == op) with
    | some x => match x.cause with | some cause => .fault cause | none => .miss
    | none => .miss

/-- The translation that an agent makes at once: from the TLB of core `c`, or by a walk that it waits for. -/
def State.xlateNow (s : State) (c asid va : Nat) : Tr :=
  match (s.core c).tlbFind asid va with
  | some e => .hit e.leaf (leafPa e.big e.leaf va)
  | none =>
    match s.walk asid va with
    | .ok (big, e) => .hit e (leafPa big e va)
    | .error cause => .fault cause

/-! ## Physical checks (R414, R427) -/

/-- The base of the device-shared region (R414, Table 17-5). -/
def State.sharedBase (s : State) : Nat :=
  s.hbmEnd - s.fab.sharedSize

/-- A firewall slot admits the range (R427, Table 17-3). -/
def slotAdmits (x : DWord) (pa len : Nat) : Bool :=
  x.getLsbD 63 && decide (fieldOf x.toNat 0 14 * 2 ^ 28 ≤ pa)
    && decide (pa + len ≤ (fieldOf x.toNat 0 14 + fieldOf x.toNat 32 14) * 2 ^ 28)

/-- A tenant may reach the HBM4E range (R427). -/
def State.admits (s : State) (tenant pa len : Nat) : Bool :=
  (List.range 16).any (fun i => slotAdmits (Tbl.getD s.svc.firewall (tenant * 16 + i) 0) pa len)

/-- The current window entry that covers a host address (R414). -/
def State.windowAt (s : State) (pa : Nat) : Option Window :=
  (s.fab.windows.find? (fun e => decide (e.2.base ≤ pa) && decide (pa < e.2.base + e.2.size) && e.2.epoch == s.fab.epoch)).map
    (·.2)

/-- Where an access through a leaf is performed, or the cause that the physical address gives (R414, R415, R427). -/
def State.placeOf (s : State) (tenant : Nat) (leaf : DWord) (pa len : Nat) : Except Nat (Place × Nat) :=
  if leafHost leaf then
    match s.windowAt pa with
    | none => .error 0x19
    | some w =>
      if w.target = 0 then .ok (.host, w.offset + (pa - w.base))
      else
        let a := s.sharedBase + w.offset + (pa - w.base)
        if s.admits tenant a len then .ok (.mem, a) else .error 0x1B
  else if s.admits tenant pa len then .ok (.mem, pa) else .error 0x1B

/-! ## The pieces of an access (R210, R435) -/

/-- The part of an access that lies on one page, translated. -/
structure Piece where
  va : Nat
  len : Nat
  leaf : DWord
  pa : Nat
  deriving DecidableEq, Repr

/-- What a lane's access meets: pages whose walk is still to be made, a fault, or its pieces. -/
inductive Acc where
  | miss (pages : List Nat)
  | fault (cause addr : Nat)
  | ok (ps : List Piece)
  deriving DecidableEq, Repr

/-- The page pieces of `len` bytes from `va`, in ascending order: at most `n` pages. -/
def pieces : Nat → Nat → Nat → List (Nat × Nat)
  | 0, _, _ => []
  | n + 1, va, len =>
    if len = 0 then []
    else
      let m := min len (65536 - va % 65536)
      (va, m) :: pieces n (va + m) (len - m)

/-- The page pieces of any range. -/
def piecesOf (va len : Nat) : List (Nat × Nat) := pieces (len / 65536 + 2) va len

/-- The range leaves the 56-bit space (R200). -/
def outside (va len : Nat) : Bool := decide (2 ^ 56 ≤ va) || decide (2 ^ 56 < va + len)

/-- Translates the pieces of a range with the rights `need`: misses first, then the first fault in address order. -/
def accOf (tr : Nat → Tr) (need va len : Nat) : Acc :=
  if outside va len then .fault 0x12 va
  else
    let ts := (piecesOf va len).map (fun p => (p, tr p.1))
    let misses := ts.filterMap (fun e => match e.2 with | .miss => some (e.1.1 / 65536) | _ => none)
    if misses ≠ [] then .miss misses
    else
      match ts.find? (fun e => match e.2 with | .hit leaf _ => !leafGrants leaf need | _ => true) with
      | some (p, .fault c) => .fault c p.1
      | some (p, _) => .fault 0x11 p.1
      | none => .ok (ts.filterMap (fun e => match e.2 with | .hit leaf pa => some ⟨e.1.1, e.1.2, leaf, pa⟩ | _ => none))

/-- The access of the context's instruction to `len` bytes at `va`. -/
def Ctx.acc (k : Ctx) (s : State) (need va len : Nat) : Acc :=
  accOf (fun a => s.xlate k.core k.op k.asid a) need va len

/-- The pages that an access still waits for. -/
def Acc.misses : Acc → List Nat
  | .miss ps => ps
  | _ => []

/-- The first cause of R435 rank 9 that the pieces meet, with its address. -/
def State.physFault (s : State) (tenant : Nat) (ps : List Piece) : Option (Nat × Nat) :=
  (ps.filterMap (fun p => match s.placeOf tenant p.leaf p.pa p.len with
    | .error c => some (c, p.va)
    | .ok _ => none)).head?

/-- A piece writes part of a cell of a formatted page (R75). -/
def Piece.partialCell (p : Piece) : Bool :=
  let c := cellSize (leafFmtc p.leaf)
  c != 0 && (p.va % c != 0 || p.len % c != 0)

/-! ## Holding an instruction for its walks (R434) -/

/-- The walks that the instruction numbered `op` waits for are asked of the walker. Each counts as a TLB miss (event 8). -/
def Core.askWalks (k : Core) (op asid : Nat) (pages : List Nat) : Core :=
  let all := pages.eraseDups.foldl (fun l p =>
      if l.any (fun x => x.asid == asid && x.page == p && x.op == op) then l
      else l ++ [{ asid := asid, page := p, op := op, cause := none }]) k.walks
  ({ k with walks := all } : Core).countEv 8 (all.length - k.walks.length)

/-- The issuing split, which stands at the next PC, issues nothing further until its instruction's pages are
translated. -/
def Wave.holdFor (w : Wave) (op : Nat) (m : Lanes) : Wave :=
  { w with splits := w.splits.map (fun p => if p.isReady && p.mask == m then { p with st := .held op } else p) }

/-- The stall of the second slot of a pair (R60). -/
def State.pairStall (s : State) (k : Ctx) : Nat :=
  match (s.core k.core).slotAt k.asid (nextPc k.pc) with
  | some j => match j.shape.hdr with | some h => h.stall.toNat | none => 0
  | none => 0

/-- The instruction of the context has issued, and its effect awaits the walks of `pages`. With it stands the second slot of a
pair, which has issued too: its stall holds the wave as well (R60). -/
def State.hold (s : State) (i : Instr) (k : Ctx) (pages : List Nat) : State :=
  (({ s with held := s.held ++ [{ i := i, k := k }] } : State).onWave k (fun w =>
    { w.holdFor k.op k.lanes with
      notBefore := if k.pair then max w.notBefore (k.clock + 1 + s.pairStall k) else w.notBefore })).modCore k.core
    (fun c => c.askWalks k.op k.asid pages)

/-- The issue of an instruction whose pages are translated before its effect: `wait` gives those that are still to be
walked (`none` when nothing). -/
def issueWhen (i : Instr) (s : State) (wait : Ctx → State → Option (List Nat)) (body : Ctx → State → State) : Out :=
  match start i s with
  | .go k t =>
    match wait k t with
    | some pages => .next (t.hold i k pages)
    | none => .next (finish k (body k t))
  | .stop t => .next t

/-- The lanes that instruction `op` holds. -/
def Wave.heldLanes (w : Wave) (op : Nat) : Lanes := lanesOfSplits (w.splits.filter (fun p => p.st == .held op))

/-- A held instruction, its wait and its effect being `wait` and `body`: it asks for the walks that it still needs, or it
makes its effect for the lanes that have not ended since, and its split goes on. -/
def State.goOn (s : State) (x : HeldIssue) (wait : Ctx → State → Option (List Nat)) (body : Ctx → State → State) : State :=
  let drop := fun (t : State) => ({ t with held := t.held.filter (fun y => y.k.op != x.k.op) } : State).modCore x.k.core
    (fun c => { c with walks := c.walks.filter (fun y => y.op != x.k.op) })
  match (if x.k.uid = s.uidOf x.k.core then s.wave? x.k.core x.k.wave else none) with
  | none => drop s
  | some w =>
    let m := w.heldLanes x.k.op
    let k := { x.k with lanes := x.k.lanes &&& m, pass := x.k.pass &&& m }
    match wait k s with
    | some pages => s.modCore k.core (fun c => c.askWalks k.op k.asid pages)
    | none =>
      let s1 := (drop s).onWave k (fun y =>
        { y with splits := y.splits.map (fun p => if p.st = .held k.op then { p with st := .ready } else p) })
      finish k (if k.pass = 0 then s1.completeOp k.core k.wave k.op else body k s1)

/-- The misses of a list of accesses, as what an instruction waits for. -/
def waitMisses (l : List Acc) : Option (List Nat) :=
  let ps := l.flatMap Acc.misses
  if ps.isEmpty then none else some ps

end Sys2Proof.Machine
end

