-- ==== Sys2Proof/Machine/Mem.lean ====
section
/-! DEFINITION. The memory engine's operations on storage (R198 to R234): lines, copies and leases, the homes with
their timestamps and versions, MANUAL copies, the order in which a thread's requests are performed, and the binding of
a load's value. -/

namespace Sys2Proof.Machine

/-! ## Lines and homes -/

/-- The line of a physical address (R198). -/
def lineNo (pa : Nat) : Nat := pa / 128

/-- The stack group that is the home of a line (R199). -/
def sliceOf (line : Nat) : Nat := line * 128 / Config.stackBytes

/-- The timestamps of a line at its home: a line that its slice does not hold has the slice's floor (R215). -/
def State.tsOf (s : State) (line : Nat) : LineTs :=
  let m := Tbl.getD s.sliceM (sliceOf line) 0
  Tbl.getD s.lineTs line { wts := m, rts := m }

/-- The 128 bytes of a line at its home. -/
def State.lineAt (s : State) (line : Nat) : Bits 8 :=
  Bits.wrs [] ((List.range 128).map (fun i => (i, Bits.rd s.mem (line * 128 + i))))

/-- T[c] := max(T[c], t) (R213). -/
def State.advance (s : State) (c t : Nat) : State := s.modCore c (fun k => { k with time := max k.time t })

/-- The key of a copy in an L1: a line may be held once through RELEASED and once through MANUAL pages. -/
def l1Key (line : Nat) (manual : Bool) : Nat := 2 * line + (if manual then 1 else 0)

/-- A copy is valid for a core whose time is `t` (R213). -/
def Copy.valid (x : Copy) (t clock : Nat) : Bool := decide (t ≤ x.rts) && decide (clock < x.filled + 1024)

/-- Bytes of a copy from an address. -/
def copyBytes (d : Bits 8) (pa : Nat) : Nat → List Byte
  | 0 => []
  | n + 1 => Bits.rd d (pa % 128) :: copyBytes d (pa + 1) n

/-- The bits of `n` bytes from offset `o` of a line. -/
def byteMask (o n : Nat) : BitVec 128 := BitVec.ofNat 128 ((2 ^ n - 1) * 2 ^ o)

/-- The RELEASED copy that serves core `c`: its L1, then its cluster cache, unless a `fence.sc` bypasses them. -/
def State.copyFor (s : State) (c line bypass : Nat) : Option Copy :=
  let k := s.core c
  let ok := fun (x : Copy) => x.valid k.time s.clock
  let l1 := if bypass = 0 then (Tbl.find k.l1 (l1Key line false)).filter ok else none
  match l1 with
  | some x => some x
  | none => if bypass ≤ 1 then (Tbl.find (Tbl.getD s.clusters (c / 8) []) line).filter ok else none

/-- A unit of 8 bytes under n bytes from offset o of a copy holds an uncorrectable error (R429). -/
def Copy.badAt (x : Copy) (o n : Nat) : Bool := (x.bad &&& byteMask (o / 8 * 8) ((o + n + 7) / 8 * 8 - o / 8 * 8)) != 0

/-- The bytes of a line at its home that lie in poisoned units. -/
def State.spoiltOf (s : State) (line : Nat) : BitVec 128 :=
  if s.poison.isEmpty then 0
  else (List.range 4).foldl (fun m i =>
    if s.poisonAt 0 .mem (line * 128 + 32 * i) 32 then m ||| byteMask (32 * i) 32 else m) 0

/-- The copy has been reached through a virtual page of a process. -/
def Copy.tag (x : Copy) (asid va : Nat) : Copy :=
  if x.pages.contains (asid, va / 65536) then x else { x with pages := x.pages ++ [(asid, va / 65536)] }

/-- Sends the dirty bytes of a MANUAL copy to the home for operation `op` and, with `drop`, removes the copy. -/
def State.sendBack (s : State) (c line op : Nat) (drop : Bool) : State :=
  match Tbl.find (s.core c).l1 (l1Key line true) with
  | none => s
  | some x =>
    let clean := { x with dirty := 0 }
    let s1 := s.modCore c (fun k => { k with l1 :=
      (if drop then Tbl.del k.l1 (l1Key line true) else Tbl.put k.l1 (l1Key line true) clean) })
    if x.dirty = 0 then s1
    else
      { s1 with
        nextId := s1.nextId + 1
        writeBacks := s1.writeBacks ++ [{ id := s1.nextId, op := op, uid := s.uidOf c, core := c, asid := (x.pages.headD (0, 0)).1, line := line
                                          pages := x.pages, data := x.data, mask := x.dirty, bad := x.bad &&& x.dirty
                                          time := (s.core c).time, age := s.clock }] }

/-- The L1 holds a line under the key, or has room for one more (Table 8-1). -/
def Core.l1Room (k : Core) (key : Nat) : Bool := (Tbl.find k.l1 key).isSome || decide (k.l1.length < Config.l1Lines)

/-- A line that leaves a full cache, chosen freely (notes/assumptions/6). -/
def victimOf {α : Type} (fc : Nat) (l : List (Nat × α)) : Option Nat := (l[Config.freePick fc % max 1 l.length]?).map (·.1)

/-- Makes room for a line in the L1 of core `c`: a victim's dirty bytes go to its home. While the crew's version is open
no dirty line leaves (R383). -/
def State.makeRoom (s : State) (c key : Nat) : State :=
  let k := s.core c
  if k.l1Room key then s
  else
    match victimOf s.freeCtr (k.l1.filter (fun e => !(s.versionOpen c && e.2.manual && e.2.dirty != 0))) with
    | none => s
    | some v =>
      if v % 2 = 1 then s.sendBack c (v / 2) 0 true
      else s.modCore c (fun k => { k with l1 := Tbl.del k.l1 v })

/-- Only lines that an open version keeps in place stand in a full L1. -/
def State.l1Stuck (s : State) (c key : Nat) : Bool := !((s.makeRoom c key).core c).l1Room key

/-- Puts a copy into the L1 of a core, if it can have room. -/
def State.putL1 (s : State) (c line : Nat) (x : Copy) : State :=
  let key := l1Key line x.manual
  let t := s.makeRoom c key
  t.modCore c (fun k => if k.l1Room key then { k with l1 := Tbl.put k.l1 key x } else k)

/-- Puts a copy into the cluster cache of a core; a victim leaves a full one. -/
def State.putCluster (s : State) (c line : Nat) (x : Copy) : State :=
  { s with clusters := Tbl.mod s.clusters (c / 8) [] (fun t =>
      let full := (Tbl.find t line).isNone && decide (Config.clusterLines ≤ t.length)
      Tbl.put (if full then (match victimOf s.freeCtr t with | some v => Tbl.del t v | none => t) else t) line x) }

/-- A line leaves its home slice: the slice's floor takes its read timestamp (R215). -/
def State.leaveSlice (s : State) (line : Nat) : State :=
  match Tbl.find s.lineTs line with
  | none => s
  | some h =>
    { s with
      sliceM := Tbl.put s.sliceM (sliceOf line) (max (Tbl.getD s.sliceM (sliceOf line) 0) h.rts)
      lineTs := Tbl.del s.lineTs line }

/-- The timestamps of a line at its home; a victim leaves a full slice. -/
def State.putTs (s : State) (line : Nat) (h : LineTs) : State :=
  let mine := s.lineTs.filter (fun e => sliceOf e.1 == sliceOf line)
  let full := (Tbl.find s.lineTs line).isNone && decide (Config.sliceLines ≤ mine.length)
  let t := if full then (match victimOf s.freeCtr mine with | some v => s.leaveSlice v | none => s) else s
  { t with lineTs := Tbl.put t.lineTs line h }

/-- A RELEASED copy filled at `clock`. -/
def Copy.released (d : Bits 8) (bad : BitVec 128) (wts rts clock : Nat) : Copy :=
  { data := d, held := BitVec.allOnes 128, bad := bad, dirty := 0, manual := false, pages := [], wts := wts, rts := rts,
    filled := clock }

/-- A RELEASED load at the home: a lease is granted and the copies are installed (R213). `l1` tells whether the copy
goes to the L1 as well as to the cluster cache. -/
def State.grantLease (s : State) (c line : Nat) (l1 : Bool) : State × Copy :=
  let h := s.tsOf line
  let g := max h.wts (s.core c).time + Config.lease
  let x := Copy.released (s.lineAt line) (s.spoiltOf line) h.wts g s.clock
  let s1 := s.putTs line { h with rts := max h.rts g }
  let s2 := s1.putCluster c line x
  (if l1 then s2.putL1 c line x else s2, x)

/-! ## Versions (R382) -/

/-- The bytes of the open version of the crew on core `c`. -/
def State.versionBytes (s : State) (c : Nat) : Tbl Byte :=
  match s.crew? c with
  | some k => match k.version with | .opened b => b | _ => []
  | none => []

/-- Bytes with the version's in their place. -/
def overlay (v : Tbl Byte) (pa : Nat) : List Byte → List Byte
  | [] => []
  | b :: t => (Tbl.find v pa).getD b :: overlay v (pa + 1) t

/-- The distinct lines of a version within a slice. -/
def versionLines (v : Tbl Byte) (slice : Nat) : List Nat :=
  ((v.map (fun e => lineNo e.1)).eraseDups).filter (fun l => sliceOf l == slice)

/-- The bytes of a crew's open version. -/
def crewVersion (k : Option Crew) : Tbl Byte := match k with | some z => (match z.version with | .opened b => b | _ => []) | none => []

/-- The open versions of all crews, on cores and saved (R386). -/
def State.allVersions (s : State) : List (Tbl Byte) := s.cores.map (fun e => crewVersion e.2.crew) ++ s.frames.map (fun e => crewVersion e.2.crew)

/-- A write to a line would take its slice past a limit of R382. -/
def State.versionFull (s : State) (c line : Nat) : Bool :=
  let v := s.versionBytes c
  let own := versionLines v (sliceOf line)
  let all : Nat := (s.allVersions.map (fun v => (versionLines v (sliceOf line)).length)).foldl (fun a b => a + b) 0
  !own.contains line && (decide (32768 ≤ own.length) || decide (131072 ≤ all))

/-! ## Writes at a home -/

/-- The watches on a line have seen a write (R261). -/
def State.touchLine (s : State) (host : Bool) (line : Nat) : State :=
  { s with watches := s.watches.map (fun w => if w.line = line ∧ w.host = host then { w with fired := true } else w) }

/-- Bytes are written at the homes of their lines, and watches see it; no timestamp changes. -/
def State.homeBytes (s : State) (pa : Nat) (bs : List Byte) : State :=
  let lines := (List.range ((pa % 128 + bs.length + 127) / 128)).map (fun i => lineNo pa + i)
  (lines.foldl (fun (t : State) l => t.touchLine false l) { s with mem := Memory.setBytes s.mem pa bs }).cleanseRange 0 .mem pa bs.length

/-- The key of a STRICT line, in HBM4E or in host memory. -/
def strictKey (host : Bool) (line : Nat) : Nat := 2 * line + (if host then 1 else 0)

/-- The time that a read of a line takes over (R213, R227). -/
def State.lineTime (s : State) (host : Bool) (line : Nat) : Nat :=
  max (Tbl.getD s.strictTs (strictKey host line) 0) (if host then 0 else (s.tsOf line).wts)

/-- What leaves the package carries the time of core `c` (R335, R416). -/
def State.outBy (s : State) (c : Nat) : State := { s with outTime := max s.outTime (s.core c).time }

/-- A write at time `t` to a STRICT line, which acquires that read it take over (R227). -/
def State.noteStrict (s : State) (host : Bool) (pa t : Nat) : State :=
  { s with strictTs := Tbl.put s.strictTs (strictKey host (lineNo pa)) (max (Tbl.getD s.strictTs (strictKey host (lineNo pa)) 0) t) }

/-- A write of core `c` to a STRICT line; the host may read it in its own memory and in the device-shared region. -/
def State.strictBy (s : State) (host : Bool) (c pa : Nat) : State :=
  let t := s.noteStrict host pa (s.core c).time
  if host || (decide (s.sharedBase ≤ pa) && decide (s.fab.sharedSize ≠ 0)) then t.outBy c else t

/-- A request reads a write that was made at time t: an acquire, or a load that a `fence` acquire of its thread follows, takes
the time over at once, any other at the thread's next such fence (R227, R228). -/
def State.seeTime (s : State) (r : Req) (t : Nat) : State :=
  let fenced := s.reqs.any (fun f => match f.kind with
    | .fence _ => f.core == r.core && f.wave == r.wave && f.lane == r.lane && decide (r.id < f.id) && f.ord != .rel
    | _ => false)
  if r.ord == .acq || r.ord == .ar || fenced then s.advance r.core t
  else s.modCore r.core (fun k => { k with seen := max k.seen t })

/-- A read at the home through a STRICT or MANUAL page by a request. -/
def State.seeStrict (s : State) (host : Bool) (r : Req) : State :=
  s.seeTime r (Tbl.getD s.strictTs (strictKey host (lineNo r.addr)) 0)

/-- The version of the crew on core `c` has been discarded. -/
def State.versionGone (s : State) (c : Nat) : Bool :=
  match s.crew? c with
  | some k => k.version == .discarded
  | none => false

/-- A store of core `c` performed at the home of a line (R213), or in the crew's open version (R382): the new state and
the write timestamp. Timestamps belong to RELEASED lines; a line that is written through a STRICT or MANUAL page keeps the
time of its writers. A discarded version takes the write with it (R380). -/
def State.homeStore (s : State) (c kind pa : Nat) (bs : List Byte) : State × Nat :=
  if kind = 1 ∧ s.versionGone c then (s, 0)
  else if kind = 1 ∧ s.versionOpen c then
    (s.modCrew c (fun k => match k.version with
      | .opened v => { k with version := .opened ((List.range bs.length).foldl (fun t i => Tbl.put t (pa + i) (bs.getD i 0)) v) }
      | _ => k), 0)
  else if kind = 1 then
    let line := lineNo pa
    let h := s.tsOf line
    let w := max (s.core c).time (h.rts + 1)
    ((s.homeBytes pa bs).putTs line { wts := w, rts := w }, w)
  else if kind = 0 then ((s.homeBytes pa bs).strictBy false c pa, 0)
  else ((s.homeBytes pa bs).noteStrict false pa (s.core c).time, 0)

/-- The copies of a line in a core's L1 and cluster cache take the line as its home left it at `wts` in cycle `at_`
(R213, R214). -/
def State.refresh (s : State) (c line : Nat) (d : Bits 8) (wts at_ : Nat) : State :=
  let new := Copy.released d (s.spoiltOf line) wts wts at_
  let upd := fun (x : Copy) => if x.wts < wts then new else x
  let s1 := match Tbl.find (s.core c).l1 (l1Key line false) with
    | some x => s.putL1 c line (upd x)
    | none => s
  match Tbl.find (Tbl.getD s1.clusters (c / 8) []) line with
  | some x => s1.putCluster c line (upd x)
  | none => s1

/-! ## MANUAL copies (R216, R243) -/

/-- A MANUAL copy that holds no byte yet. -/
def Copy.bare (clock : Nat) : Copy :=
  { data := [], held := 0, bad := 0, dirty := 0, manual := true, pages := [], wts := 0, rts := 0, filled := clock }

/-- The MANUAL copy of a line in the L1 of core `c`, reached at `va` of a process, with the room for it: it becomes what `f`
makes of it. -/
def State.onManual (s : State) (c asid line va : Nat) (f : Copy → Copy) : State :=
  (s.makeRoom c (l1Key line true)).modCore c (fun k =>
    { k with l1 := Tbl.put k.l1 (l1Key line true) (f ((Tbl.getD k.l1 (l1Key line true) (Copy.bare s.clock)).tag asid va)) })

/-- A store to a MANUAL line: the L1 copy, which may hold only these bytes, takes them as dirty. -/
def State.manualStore (s : State) (c asid pa va : Nat) (bs : List Byte) : State :=
  let m := byteMask (pa % 128) bs.length
  s.onManual c asid (lineNo pa) va (fun x =>
    { x with data := Memory.setBytes x.data (pa % 128) bs, held := x.held ||| m, dirty := x.dirty ||| m, bad := x.bad &&& ~~~ m })

/-- The fill of a MANUAL line from its home: dirty bytes stay (R243). -/
def State.manualFill (s : State) (c asid pa va : Nat) : State :=
  let line := lineNo pa
  s.onManual c asid line va (fun x =>
    { x with
      data := Bits.wrs x.data (((List.range 128).filter (fun i => !x.dirty.getLsbD i)).map (fun i =>
        (i, Bits.rd s.mem (line * 128 + i))))
      held := BitVec.allOnes 128
      bad := (x.bad &&& x.dirty) ||| (s.spoiltOf line &&& ~~~ x.dirty)
      wts := max x.wts (s.lineTime false line)
      filled := s.clock })

/-- The home merges a write-back by its mask: bytes that hold an uncorrectable error poison their units there. -/
def State.mergeBack (s : State) (w : WriteBack) : State :=
  let es := ((List.range 128).filter (fun i => w.mask.getLsbD i)).map (fun i => (w.line * 128 + i, Bits.rd w.data i))
  let t : State := { (s.touchLine false w.line).countMoved w.asid es.length with
    mem := Bits.wrs s.mem es
    writeBacks := s.writeBacks.filter (fun x => x.id != w.id)
    lineQ := s.lineQ.filter (fun x => x.num != w.id) }
  let u := t.cleanse 0 .mem (fun b => b / 128 == w.line && (w.mask &&& ~~~ w.bad).getLsbD (b % 128))
  (((List.range 4).filter (fun i => (w.bad &&& byteMask (32 * i) 32) != 0)).foldl
    (fun (y : State) i => y.spoil (.mem (w.line * 4 + i))) u).noteStrict false (w.line * 128) w.time

/-- Every write-back of core `c` to a line is merged now. -/
def State.mergeLine (s : State) (c line : Nat) : State :=
  (s.writeBacks.filter (fun w => w.core == c && w.line == line)).foldl State.mergeBack s

/-! ## The order of a thread's requests (R212, R225 to R227, R239, R257) -/

/-- The requests of one lane of one wave are one thread's. -/
def Req.sameThread (x y : Req) : Bool := x.uid == y.uid && x.wave == y.wave && x.lane == y.lane

/-- A request that binds a value: a load, an atomic, an `mcas`. -/
def Req.reads (r : Req) : Bool :=
  match r.kind with
  | .load | .scale | .atom _ | .mcas .. => true
  | .squeue _ _ pop => pop
  | _ => false

/-- A request that writes. -/
def Req.writes (r : Req) : Bool :=
  match r.kind with
  | .store | .atom _ | .red _ | .mcas .. | .arrive _ => true
  | .squeue _ _ pop => !pop
  | _ => false

def Req.waits (r : Req) : Bool := r.st == .waiting

/-- An acquire that has not bound its value. -/
def Req.acquiring (r : Req) : Bool := r.reads && r.waits && (r.ord == .acq || r.ord == .ar)

/-- A release write. -/
def Req.releasing (r : Req) : Bool := r.writes && (r.ord == .rel || r.ord == .ar)

/-- Every load of a list has bound its value. -/
def allBound (l : List Req) : Bool := l.all (fun x => !(x.reads && x.waits))

/-- Every other access of a list has been performed and, for a store, acknowledged; every `wbr` and `invr` has
completed. -/
def allDone (l : List Req) : Bool := l.all (fun x => match x.kind with
  | .fence _ | .pref _ => true
  | .load | .scale | .atom _ | .mcas .. => !x.waits
  | .squeue _ _ pop => pop && !x.waits
  | _ => false)

/-- A `wbr` or `invr` of a list has not completed. -/
def cacheOpen (l : List Req) : Bool := l.any (fun x => match x.kind with | .wbr _ | .invr _ => true | _ => false)

/-- A fence that is still to be performed, given the requests before it (R227, R255, R257). -/
def Req.fenceOpen (f : Req) (before : List Req) : Bool :=
  match f.kind with
  | .fence sc => !allBound before || cacheOpen before || ((sc || f.ord != .acq) && !allDone before)
  | _ => false

/-- The fence's acquire part is still to be performed: it holds every later access. -/
def Req.fenceHoldsAll (f : Req) (before : List Req) : Bool :=
  match f.kind with
  | .fence sc => if sc then f.fenceOpen before else (f.ord != .rel && (!allBound before || cacheOpen before))
  | _ => false

/-- The words of a request: place, first address, length. -/
def Req.spans (r : Req) : List (Place × Nat × Nat) :=
  match r.kind with
  | .mcas ents _ => ents.map (fun e => (Place.mem, e.pa, 8))
  | .fence _ | .wbr _ | .invr _ | .watch _ | .arrive _ | .pref _ => []
  | .squeue z _ _ => [(.abuf, z, 16), (.abuf, r.addr, r.size)]
  | _ => [(r.place, r.addr, r.size)]

/-- Two requests touch a common byte. -/
def Req.overlaps (x y : Req) : Bool :=
  x.spans.any (fun a => y.spans.any (fun b => a.1 == b.1 && decide (a.2.1 < b.2.1 + b.2.2) && decide (b.2.1 < a.2.1 + a.2.2)))

/-- The lines that a request goes to. -/
def Req.lines (r : Req) : List Nat :=
  match r.kind with
  | .wbr _ | .invr _ | .fence _ => []
  | .watch _ | .pref _ => if r.place = .mem then [lineNo r.addr] else []
  | _ => (r.spans.filter (fun e => e.1 == .mem)).map (fun e => lineNo e.2.1)

/-- A STRICT access (R212); host accesses are STRICT (R415). -/
def Req.strict (r : Req) : Bool :=
  match r.kind with
  | .load | .scale | .store | .atom _ | .red _ | .watch _ => r.place == .host || (r.place == .mem && r.pageKind == 0)
  | .mcas ents _ => ents.any (fun e => e.kind == 0)
  | _ => false

/-- The requests of the thread of `r` that were issued before it. -/
def State.before (s : State) (r : Req) : List Req := s.reqs.filter (fun x => x.sameThread r && decide (x.id < r.id))

/-- A line lies in one of the ranges. -/
def inRanges (rs : List (Nat × Nat × Nat)) (line : Nat) : Bool :=
  rs.any (fun e => decide (lineNo e.1 ≤ line) && decide (line * 128 < e.1 + e.2.1))

/-- An earlier request `x` of the same thread holds `r` for their common location (R225) or for R257: an atomic of a unit
below the home awaits the acknowledgement of its thread's own store. -/
def Req.holdsFor (x r : Req) : Bool :=
  (x.op != r.op && x.waits && x.overlaps r
      && (match x.kind with
        | .store => r.writes || (match r.kind with | .squeue .. => true | _ => false)
        | .load | .scale => r.reads
        | .atom _ | .red _ | .mcas .. | .squeue .. => true
        | _ => false))
    || (x.kind == .store && x.overlaps r && decide (r.scope < 2) && (match r.kind with | .atom _ | .red _ => r.pageKind == 1 | _ => false))
    || (match x.kind with | .invr rs => r.lines.any (fun l => inRanges rs l) | _ => false)
    || (match r.kind with
      | .wbr rs | .invr rs => x.kind == .store && x.waits && x.lines.any (fun l => inRanges rs l)
      | _ => false)

/-- Accesses of one instruction that R212 does not order: the parts of one element, loads of the same unit (R239), and a
scale byte beside the elements (R72). -/
def Req.beside (x r : Req) : Bool :=
  x.op == r.op && (x.elem == r.elem || (x.addr == r.addr && x.size == r.size) || x.kind == .scale || r.kind == .scale)

/-- The rules of the thread's own order let `r` be performed. -/
def State.ownOrder (s : State) (r : Req) : Bool :=
  let mine := s.before r
  !mine.any Req.acquiring
    && !mine.any (fun f => let b := s.before f; f.fenceHoldsAll b || (r.writes && f.ord != .acq && f.fenceOpen b))
    && (!r.writes || allBound mine)
    && (!r.releasing || (allBound mine && allDone mine))
    && (!r.strict || mine.all (fun x => !x.strict || x.beside r || (x.reads && !x.waits)))
    && !mine.any (fun x => x.holdsFor r)
    && !s.calls.any (fun y => y.uid == r.uid && y.wave == r.wave && decide (y.id < r.id) && y.lanes.getLsbD r.lane)

/-- The crew on core `c` has a commit under way (R383). -/
def State.committing (s : State) (c : Nat) : Bool := s.commits.any (fun m => m.uid == s.uidOf c)

/-- The L1 of the core holds dirty bytes of a MANUAL line. -/
def State.dirtyLine (s : State) (c line : Nat) : Bool :=
  match Tbl.find (s.core c).l1 (l1Key line true) with | some x => x.dirty != 0 | none => false

/-- The request must wait for the crew's version to commit (R383). -/
def State.needsCommit (s : State) (r : Req) : Bool :=
  s.versionOpen r.core && (match r.kind with
    | .load | .scale => r.place == .mem && r.pageKind == 2 && s.l1Stuck r.core (l1Key (lineNo r.addr) true)
    | .fence _ | .arrive _ | .squeue .. | .pref _ => false
    | .mcas .. => true
    | .wbr rs | .invr rs => (s.core r.core).l1.any (fun e => e.2.manual && e.2.dirty != 0 && inRanges rs (e.1 / 2))
    | .watch _ => r.strict || (r.place == .mem && r.pageKind == 2 && s.dirtyLine r.core (lineNo r.addr))
    | .atom _ | .red _ =>
      r.strict || (r.pageKind == 1 && s.committing r.core) || (r.place == .mem && r.pageKind == 2 && s.dirtyLine r.core (lineNo r.addr))
        || (r.place == .mem && r.pageKind == 1 && r.lines.any (fun l => s.versionFull r.core l))
    | _ => r.strict || (r.place == .mem && r.pageKind == 1 && s.committing r.core)
      || (r.place == .mem && r.pageKind == 1 && r.lines.any (fun l => s.versionFull r.core l))
      || (r.place == .mem && r.pageKind == 2 && s.l1Stuck r.core (l1Key (lineNo r.addr) true)))

/-- Fences that have been performed are forgotten. -/
def State.dropFences (s : State) : State :=
  { s with reqs := s.reqs.filter (fun f => match f.kind with | .fence _ => f.fenceOpen (s.before f) | _ => true) }

/-- The request with a new state of progress. -/
def State.setReq (s : State) (id : Nat) (f : Req → Req) : State :=
  { s with reqs := s.reqs.map (fun x => if x.id = id then f x else x) }

/-- The request has gone. -/
def State.dropReq (s : State) (id : Nat) : State := { s with reqs := s.reqs.filter (fun x => x.id != id) }

/-- The request numbered `id`. -/
def State.req? (s : State) (id : Nat) : Option Req := s.reqs.find? (fun x => x.id == id)

/-! ## Binding a load (R213, R216, R224, R230) -/

/-- A store of the thread to bytes of the load has been performed and awaits its acknowledgement, which is to refresh the copies
of its core: the thread reads the home, where its store stands (R225). -/
def State.ownUnacked (s : State) (r : Req) : Bool :=
  (s.before r).any (fun x => x.kind == .store && !x.waits && x.place == r.place && x.overlaps r)

/-- The bypass of a `fence.sc` for a load of a line: 0 none, 1 the L1, 2 also the cluster cache (R230). -/
def State.bypassFor (s : State) (r : Req) : Nat :=
  if s.ownUnacked r then 2 else
  match s.wave? r.core r.wave with
  | none => 0
  | some w =>
    (Tbl.getD w.scFence r.lane []).foldl (fun n b =>
      if r.id < b.since ∨ b.seen.contains (lineNo r.addr) then n else max n (min b.scope 2)) 0

/-- The first later load of a line has been made. -/
def State.seeLine (s : State) (r : Req) : State :=
  s.modWave r.core r.wave (fun w => match Tbl.find w.scFence r.lane with
    | some bs => { w with scFence := Tbl.put w.scFence r.lane (bs.map (fun b =>
        if b.since ≤ r.id ∧ !b.seen.contains (lineNo r.addr) then { b with seen := lineNo r.addr :: b.seen } else b)) }
    | none => w)

/-- The thread's own stores that a load returns before they are performed (R224). -/
def State.forwards (s : State) (r : Req) : List Req :=
  (s.before r).filter (fun x => x.kind == .store && x.waits && x.place == r.place && x.overlaps r)

/-- Byte `a` as the latest of the stores that covers it. -/
def forwardByte (l : List Req) (a : Nat) : Option Byte :=
  ((l.filter (fun x => decide (x.addr ≤ a) && decide (a < x.addr + x.size))).getLast?).map (fun x =>
    BitVec.ofNat 8 (x.data / 256 ^ (a - x.addr)))

/-- Bytes with the forwarded ones in their place. -/
def forwardBytes (l : List Req) (a : Nat) : List Byte → List Byte
  | [] => []
  | b :: t => (forwardByte l a).getD b :: forwardBytes l (a + 1) t

/-- Every byte of the load is the thread's own. -/
def State.allForwarded (s : State) (r : Req) : Bool :=
  (List.range r.size).all (fun i => (forwardByte (s.forwards r) (r.addr + i)).isSome)

/-- The MANUAL copy that holds every byte of a request. -/
def State.manualCopy (s : State) (r : Req) : Option Copy :=
  (Tbl.find (s.core r.core).l1 (l1Key (lineNo r.addr) true)).filter (fun x =>
    let m := byteMask (r.addr % 128) r.size
    x.held &&& m == m)

/-- The load needs no home: a buffer, a copy or the thread's own stores satisfy it. -/
def State.hits (s : State) (r : Req) : Bool :=
  match r.place with
  | .host => false
  | .mem =>
    s.allForwarded r || (match r.pageKind with
      | 1 => (s.copyFor r.core (lineNo r.addr) (s.bypassFor r)).isSome
      | 2 => (s.manualCopy r).isSome
      | _ => false)
  | _ => true

/-! ## Who is served next (R218, R239, R253) -/

/-- A load that its core satisfies itself. -/
def State.localHit (s : State) (r : Req) : Bool := (r.kind == .load || r.kind == .scale) && s.hits r

/-- The request goes to the home of its lines. -/
def State.toHome (s : State) (r : Req) : Bool :=
  r.place == .mem && !s.localHit r && !(r.pageKind == 2 && r.kind == .store) && !r.lines.isEmpty

/-- An operation on a scratchpad queue, whose lanes act together (R270). -/
def Req.onSq (r : Req) : Bool := match r.kind with | .squeue .. => true | _ => false

/-- Requests of the instructions of one core reach one line's home in the order in which the core sent them (R218), and the
lanes of one instruction write one location in increasing lane order (R239). One that has arrived, and waits there for an
unlock, does not await a later arrival. -/
def State.arrivalOrder (s : State) (r : Req) : Bool :=
  let far := s.toHome r
  let here := fun (l : Nat) => s.lineQ.any (fun q => q.line == l && q.num == r.id)
  (s.reqs.filter (fun x => decide (x.id < r.id) && x.core == r.core && x.waits)).all (fun x =>
    !((x.op == r.op && x.writes && !r.onSq && x.overlaps r)
      || (far && x.op != r.op && x.lines.any (fun l => r.lines.contains l && !here l) && s.toHome x && s.ownOrder x)))

/-- The Conjunction units hold a line of the request locked (R252). -/
def State.lockedFor (s : State) (r : Req) : Bool :=
  r.lines.any (fun l => match Tbl.find s.locks l with | some o => o != r.id | none => false)

/-- The agent number of a lane (Table 8-17). -/
def Req.agent (r : Req) : Nat := r.core * 4096 + r.wave % 128 * 32 + r.lane

/-- MODEL: the numbers under which agents that are no lanes wait at a line, apart from the numbers of requests: a core's fetch
of an instruction line for its walk, Dusk for a crew, the Orrery for a queue's HELD successor, and the reader of the command
ring. -/
def fetchNum (c line : Nat) : Nat := 2 ^ 120 + c * 2 ^ 64 + line
def duskNum (uid : Nat) : Nat := 2 ^ 121 + uid
def heldNum (queue : Nat) : Nat := 2 ^ 122 + queue
def ringNum : Nat := 2 ^ 123

/-- A core waits for an instruction line that its cache does not hold. -/
def Core.wantsLine (k : Core) (line : Nat) : Bool :=
  k.waves.any (fun e => e.2.splits.any (fun p => p.st == .ready && lineOf p.pc == line)
    && !k.icache.any (fun x => x.asid == e.2.asid && x.line == line))

/-- The agent that waits under one of those numbers still does. -/
def State.agentWaits (s : State) (num : Nat) : Bool :=
  if num < 2 ^ 120 then false
  else if num < 2 ^ 121 then (s.core ((num - 2 ^ 120) / 2 ^ 64)).wantsLine ((num - 2 ^ 120) % 2 ^ 64)
  else if num < 2 ^ 122 then
    let here := fun (c : Option Crew) => match c with | some k => k.uid == num - 2 ^ 121 | none => false
    s.cores.any (fun e => here e.2.crew) || s.frames.any (fun e => here e.2.crew)
  else if num < 2 ^ 123 then
    match Tbl.find s.objs (num - 2 ^ 122) with
    | some o => match o.body with | .queue q => !q.held.isEmpty | _ => false
    | none => false
  else s.fab.ewccmd.getLsbD 0

/-- The request, command, call, walk, write-back, commit or access of another agent still waits. -/
def State.stillWaits (s : State) (num : Nat) : Bool :=
  s.reqs.any (fun r => r.id == num && r.waits) || s.calls.any (fun x => x.id == num) || s.held.any (fun x => x.k.op == num)
    || s.cores.any (fun e => (Tbl.find e.2.cmds num).isSome) || s.writeBacks.any (fun w => w.id == num)
    || s.commits.any (fun m => m.id == num) || s.svc.rings.any (fun e => e.id == num) || s.fab.hostQ.any (fun x => x.id == num)
    || s.agentWaits num

/-- The request that comes first of two that wait for a line: the older, or on a tie the one of the lower agent number,
or of the earlier number. -/
def LineWait.before (x y : LineWait) : Bool :=
  decide (x.age < y.age) || (x.age == y.age && (decide (x.agent < y.agent) || (x.agent == y.agent && decide (x.num ≤ y.num))))

/-- The home serves the request next: those that waited for an unlock go before any that arrives later (R218). -/
def State.mayServe (s : State) (line num : Nat) : Bool :=
  let q := s.lineQ.filter (fun x => x.line == line && s.stillWaits x.num)
  match q.find? (fun x => x.num == num) with
  | some me => q.all (fun x => me.before x)
  | none => q.isEmpty

/-- A request that arrives at a locked line is queued there. -/
def State.queueAt (s : State) (line age agent num : Nat) : State :=
  if (Tbl.find s.locks line).isNone || s.lineQ.any (fun x => x.line == line && x.num == num) then s
  else { s with lineQ := s.lineQ.filter (fun x => s.stillWaits x.num) ++ [{ line := line, age := age, agent := agent, num := num }] }

/-- A request has been served at a line. -/
def State.served (s : State) (line num : Nat) : State :=
  if s.lineQ.isEmpty then s else { s with lineQ := s.lineQ.filter (fun x => !(x.line == line && x.num == num)) }

/-- A line lies in n bytes from an address of one of the ranges. -/
def lineIn (rs : List (Nat × Nat)) (line : Nat) : Bool :=
  rs.any (fun e => decide (line * 128 < e.1 + e.2) && decide (e.1 < (line + 1) * 128))

/-- An agent that is no lane is to access ranges of memory as number `num`: a line of them is locked by another, or requests
that waited for it go first (R218). -/
def State.agentBusy (s : State) (rs : List (Nat × Nat)) (num : Nat) : Bool :=
  s.locks.any (fun e => e.2 != num && lineIn rs e.1) || s.lineQ.any (fun e => lineIn rs e.line && !s.mayServe e.line num)

/-- It is queued at the locked lines. -/
def State.agentWait (s : State) (rs : List (Nat × Nat)) (agent num : Nat) : State :=
  ((s.locks.filter (fun e => lineIn rs e.1)).map (·.1)).foldl (fun t l => t.queueAt l s.clock agent num) s

/-- It has been served. -/
def State.agentServed (s : State) (num : Nat) : State := { s with lineQ := s.lineQ.filter (fun e => e.num != num) }

/-- An access `num` of an agent to ranges of memory, which makes `f` of the state, waits its turn (R218). -/
def State.asAgent (s : State) (rs : List (Nat × Nat)) (agent num : Nat) (f : State → State) : State :=
  if s.agentBusy rs num then s.agentWait rs agent num else f (s.agentServed num)

/-- The agent numbers of a walker, and of the Orrery, the Transit agent and Dusk of a die, Lodestar and the service cores
(Table 8-17). -/
def walkerAgent (cluster : Nat) : Nat := 4199424 + cluster
def orreryAgent (die : Nat) : Nat := 4199552 + 4 * die
def transitAgent (die : Nat) : Nat := 4199552 + 4 * die + 1
def duskAgent (die : Nat) : Nat := 4199552 + 4 * die + 2
def lodestarAgent : Nat := 4199584
def serviceAgent (sc : Nat) : Nat := 4199600 + sc

/-- A load of a MANUAL line awaits its core's own write-backs of it, which the fill would miss. -/
def State.fillBusy (s : State) (r : Req) : Bool :=
  (r.kind == .load || r.kind == .scale) && r.place == .mem && r.pageKind == 2 && (s.manualCopy r).isNone
    && s.writeBacks.any (fun w => w.core == r.core && w.line == lineNo r.addr)

/-- Nothing but its lines keeps the request from its home. -/
def State.mayAsk (s : State) (r : Req) : Bool :=
  r.waits && s.ownOrder r && s.arrivalOrder r && !s.needsCommit r && !s.fillBusy r

/-- Whether the request can be performed now. -/
def State.canPerform (s : State) (r : Req) : Bool :=
  s.mayAsk r && (!s.toHome r || (!s.lockedFor r && r.lines.all (fun l => s.mayServe l r.id)))

/-- A request that meets a locked line is queued at it. -/
def State.queueUp (s : State) (r : Req) : State :=
  if s.locks.isEmpty || !(s.mayAsk r && s.toHome r) then s
  else r.lines.foldl (fun t l => t.queueAt l r.age r.agent r.id) s

/-- The bytes of a buffer. -/
def Core.bufBytes (k : Core) (p : Place) (a n : Nat) : List Byte :=
  match p with
  | .abuf => Memory.bytes k.abuf a n
  | .wbuf => Memory.bytes k.wbuf a n
  | _ => bytesOf n ((List.range (n / 4)).foldl (fun x i => x + (Bits.rd k.cbuf (a / 4 + i)).toNat * 2 ^ (32 * i)) 0)

/-- The bytes that satisfy a load, with what the access does to copies, leases and times; the thread's own stores and
the crew's version are still to be laid over them. -/
def State.sourceBytes (s : State) (r : Req) : State × List Byte :=
  match r.place with
  | .host => (s.seeStrict true r, Memory.bytes s.hostMem r.addr r.size)
  | .mem =>
    let line := lineNo r.addr
    if s.allForwarded r then (s, List.replicate r.size 0)
    else match r.pageKind with
    | 1 =>
      match s.copyFor r.core line (s.bypassFor r) with
      | some x => ((s.advance r.core x.wts).seeLine r, overlay (s.versionBytes r.core) r.addr (copyBytes x.data r.addr r.size))
      | none =>
        let g := s.grantLease r.core line true
        ((g.1.advance r.core g.2.wts).seeLine r,
          overlay (s.versionBytes r.core) r.addr (copyBytes g.2.data r.addr r.size))
    | 2 =>
      let t := if (s.manualCopy r).isSome then s.onManual r.core r.asid line r.va id else s.manualFill r.core r.asid r.addr r.va
      match Tbl.find (t.core r.core).l1 (l1Key line true) with
      | some x => (t.seeTime r x.wts, copyBytes x.data r.addr r.size)
      | none => (t, List.replicate r.size 0)
    | _ => (s.seeStrict false r, Memory.bytes s.mem r.addr r.size)
  | p => (s, (s.core r.core).bufBytes p r.addr r.size)

/-- The copy that serves an access to memory below its home. -/
def State.servedBy (s : State) (r : Req) : Option Copy :=
  match r.kind, r.pageKind with
  | .load, 1 | .scale, 1 => s.copyFor r.core (lineNo r.addr) (s.bypassFor r)
  | .atom _, 1 | .red _, 1 => s.copyFor r.core (lineNo r.addr) (max (s.bypassFor r) r.scope)
  | .load, 2 | .scale, 2 => s.manualCopy r
  | _, _ => none

/-- An uncorrectable error lies under the bytes that a request reads: in the copy that serves it, or at the home or in the
buffer (R429); or its data was spoilt on its way from another die (R402). The bytes of the crew's own version are sound. -/
def State.poisoned (s : State) (r : Req) : Bool :=
  s.poison.any (fun e => e.place == .link r.id && r.place == .mem)
    || (match r.place with
      | .host => false
      | .mem =>
        let v := if r.pageKind = 1 then s.versionBytes r.core else []
        let own := fun (i : Nat) => (Tbl.find v (r.addr + i)).isSome
        (List.range r.size).any (fun i => !own i && (match s.servedBy r with
          | some x => x.badAt ((r.addr + i) % 128) 1
          | none => s.poisonAt r.core .mem (r.addr + i) 1))
      | p => s.poisonAt r.core p r.addr r.size)

/-- Removes the requests of the lane's access and reports a cause to the lane (R27, R429). -/
def State.failReq (s : State) (r : Req) (cause : Nat) : State :=
  ({ s with reqs := s.reqs.filter (fun x => !(x.op == r.op && x.core == r.core && x.lane == r.lane)) } : State).postTrap r.asid r.core r.wave (laneBit r.lane) cause 0 r.pc
    r.va ((s.wave? r.core r.wave).bind (fun w => w.chanOf r.op)) none none r.op

/-- The copy of its core's own L1 serves the load. -/
def State.hitsL1 (s : State) (r : Req) : Bool :=
  let k := s.core r.core
  match r.pageKind with
  | 1 => s.bypassFor r == 0 && (match Tbl.find k.l1 (l1Key (lineNo r.addr) false) with | some x => x.valid k.time s.clock | none => false)
  | 2 => (s.manualCopy r).isSome
  | _ => true

/-- Counts a load, or an atomic at a unit below the home, that misses the L1 (event 6), and one that misses the cluster cache as
well (event 7). -/
def State.noteMiss (s : State) (r : Req) : State :=
  let atomic := match r.kind with | .atom _ | .red _ => true | _ => false
  let l1 := !atomic || r.scope == 0
  if r.place != .mem || (atomic && (r.pageKind != 1 || decide (2 ≤ r.scope))) || s.allForwarded r || (l1 && s.hitsL1 r) then s
  else
    let both := r.pageKind == 1 && (s.servedBy r).isNone
    s.modCore r.core (fun k => (if l1 then k.countEv 6 1 else k).countEv 7 (if both then 1 else 0))

/-- The load binds its value. -/
def State.bindOne (s : State) (r : Req) : State :=
  if s.poisoned r && !s.allForwarded r then s.failReq r 0x51
  else
    let t := if s.toHome r || r.place == .host then s.countMoved r.asid r.size else s
    let x := (t.noteMiss r).sourceBytes r
    x.1.setReq r.id (fun y => { y with st := .bound (ofBytes (forwardBytes (s.forwards r) r.addr x.2)) })

/-- The loads of one instruction that read the same unit bind together (R239): the request with its fellows. -/
def State.fellows (s : State) (r : Req) : List Req :=
  s.reqs.filter (fun x => x.op == r.op && x.core == r.core && x.reads && x.waits && x.place == r.place && x.addr == r.addr
    && x.size == r.size)

/-- Binds a load and its fellows if all of them can be performed. -/
def State.bindGroup (s : State) (r : Req) : State :=
  let g := s.fellows r
  if g.all (fun x => s.canPerform x) then g.foldl State.bindOne s else s.queueUp r

end Sys2Proof.Machine
end

