-- ==== Sys2Proof/Machine/Memory.lean ====
section
/-! DEFINITION. The memory instructions (opcodes 0x80 to 0x91, R236 to R262): at its issue each finds its lanes' faults
and sends the lanes' requests, which the steps of Machine/MemEvents.lean perform. -/

namespace Sys2Proof.Machine

/-! ## Addresses and data (R50, R237, R241) -/

/-- The effective address of lane l. -/
def Ctx.ea (k : Ctx) (o : FmtM) (l : Nat) : Nat := truncTo 64 ((k.u64 o.a l : Int) + sintOf 20 o.ofs.toNat)

/-- The buffer address of lane l, at unbounded width. -/
def Ctx.bufAddr (k : Ctx) (o : FmtM) (l : Nat) : Int := (k.u32 o.a l : Int) + sintOf 20 o.ofs.toNat

/-- The operand i registers above o. -/
def Opnd.up (o : Opnd) (i : Nat) : Opnd :=
  match o with
  | .v n => .v (n + BitVec.ofNat 8 i)
  | .s n => .s (n + BitVec.ofNat 6 i)
  | x => x

/-- Element i of a store's data: a constant stands in every element. -/
def Ctx.elem (k : Ctx) (d : Opnd) (t : Ty) (i l : Nat) : Nat := k.opnd (Opnd.up d (i * t.regs)) t l % 2 ^ t.bits

/-- `w` registers from o as one number. -/
def Ctx.words (k : Ctx) (o : Opnd) (w l : Nat) : Nat :=
  ((List.range w).map (fun i => k.u32 (Opnd.up o i) l * 2 ^ (32 * i))).foldl (fun a b => a + b) 0

/-! ## Requests -/

/-- A request of lane l as it is sent at the issue; `addReqs` numbers it. -/
def Ctx.req (k : Ctx) (kind : ReqKind) (l op : Nat) : Req :=
  { id := 0, uid := k.uid, asid := k.asid, core := k.core, wave := k.wave, lane := l, op := op, kind := kind, place := .mem,
    pageKind := 0, addr := 0, size := 0, va := 0, elem := 0, off := 0, ord := .rlx, scope := 0, ty := .none,
    data := 0, data2 := 0, age := k.clock, st := .waiting, pc := k.pc, lodged := none }

/-- Numbers the requests in order and sends them. -/
def State.addReqs (s : State) (rs : List Req) : State :=
  rs.foldl (fun t r => { t with reqs := t.reqs ++ [{ r with id := t.nextId }], nextId := t.nextId + 1 }) s

/-- The indivisible units of `size` bytes at `va` (R211): the whole if it is naturally aligned and not MANUAL, and
otherwise its bytes. -/
def unitsOf (va size : Nat) (manual : Bool) : List (Nat × Nat) :=
  if va % size = 0 ∧ !manual then [(0, size)] else (List.range size).map (fun i => (i, 1))

/-- The piece that holds an address. -/
def pieceAt (ps : List Piece) (a : Nat) : Option Piece := ps.find? (fun p => decide (p.va ≤ a) && decide (a < p.va + p.len))

/-- The requests of one element of a lane's access; `r` gives what they share. -/
def elemReqs (s : State) (tenant : Nat) (r : Req) (ps : List Piece) (va size : Nat) (data : Nat) : List Req :=
  let manual := match pieceAt ps va with | some p => leafKind p.leaf == 2 | none => false
  (unitsOf va size manual).filterMap (fun u =>
    (pieceAt ps (va + u.1)).bind (fun p =>
      match s.placeOf tenant p.leaf (p.pa + (va + u.1 - p.va)) u.2 with
      | .ok (pl, a) =>
        some { r with place := pl, pageKind := leafKind p.leaf, addr := a, size := u.2, va := va + u.1, off := u.1,
                      data := fieldOf data (8 * u.1) (8 * u.2) }
      | .error _ => none))

/-- What one lane does: its fault, or its requests. -/
abbrev LanePlan := Except (Nat × Nat) (List Req)

/-- The faults of the lanes' plans. -/
def planFaults (ps : List (Nat × LanePlan)) : List LaneFault :=
  ps.filterMap (fun e => match e.2 with | .error (c, a) => some (e.1, c, a) | .ok _ => none)

/-- The lanes whose plans have no fault, with their requests. -/
def planGood (ps : List (Nat × LanePlan)) : List (Nat × List Req) :=
  ps.filterMap (fun e => match e.2 with | .error _ => none | .ok rs => some (e.1, rs))

/-! ## Issue of loads and of other accesses -/

/-- An operation that waits for the answers of its lanes' requests: the poll record is that of the lowest passing lane
(R130). -/
def Ctx.out (k : Ctx) (op : Nat) (lanes : Lanes) (kind : OutKind) (acq : Bool) (addr : Nat → Nat) : OutOp :=
  { id := op, lanes := lanes, pc := k.pc, kind := kind, acq := acq && lanes.getLsbD k.low, pollLane := k.low,
    pollAddr := addr k.low, pollVal := none, fl := 0 }

/-- The access is satisfied by its core's L1 (R222). -/
def State.l1Hit (s : State) (r : Req) : Bool :=
  r.place == .mem && (match r.pageKind with
    | 1 => match Tbl.find (s.core r.core).l1 (l1Key (lineNo r.addr) false) with
      | some x => x.valid (s.core r.core).time s.clock && s.bypassFor r == 0
      | none => false
    | 2 => (s.manualCopy r).isSome
    | _ => false)

/-- Requests given to another operation. -/
def withOp (op : Nat) (rs : List Req) : List Req := rs.map (fun r => { r with op := op })

/-- Sends the requests of a value-returning instruction. With `ms`, lanes that hit and lanes that miss part (R222). -/
def sendLoads (k : Ctx) (kind : OutKind) (acq ms : Bool) (addr : Nat → Nat) (plans : List (Nat × LanePlan)) (s : State) :
    State :=
  let good := planGood plans
  let hit := good.filter (fun e => e.2.all (fun r => s.l1Hit { r with id := s.nextId }))
  let miss := good.filter (fun e => !(hit.map (·.1)).contains e.1)
  let parted := ms && !hit.isEmpty && !miss.isEmpty
  let own := if parted then hit else good
  let lanes := laneSet (own.map (fun e => e.1))
  let s1 :=
    if own.isEmpty then s.completeOp k.core k.wave k.op
    else
      (s.onWave k (fun y => { y with outs := y.outs ++ [k.out k.op lanes kind acq addr] })).addReqs
        (own.flatMap (fun e => e.2))
  let s2 :=
    if parted then
      let op := s1.nextId
      let ml := laneSet (miss.map (·.1))
      (({ s1 with nextId := op + 1 } : State).onWave k (fun y =>
        { y.moveTo ml (nextPc k.pc) (.suspended (.miss op)) k.clock with
          outs := y.outs ++ [k.out op ml kind acq addr] })).addReqs
        (miss.flatMap (fun e => withOp op e.2))
    else s1
  s2.laneFaults k (planFaults plans)

/-- Sends the requests of an instruction that returns no value. -/
def sendOthers (k : Ctx) (plans : List (Nat × LanePlan)) (s : State) : State :=
  (s.addReqs ((planGood plans).flatMap (·.2))).laneFaults k (planFaults plans)

/-- The plans of the passing lanes. -/
def plansOf (k : Ctx) (f : Nat → LanePlan) : List (Nat × LanePlan) := (lanesOf k.pass).map (fun l => (l, f l))

/-! ## ld, st (R242, R243) -/

/-- A plain access: its translation, then the causes of its physical address. -/
def plainAcc (k : Ctx) (s : State) (need va len : Nat) (f : List Piece → LanePlan) : LanePlan :=
  match k.acc s need va len with
  | .miss _ => .error (0x10, va)
  | .fault c a => .error (c, a)
  | .ok ps => f ps

/-- Rank 9 of R435, then the requests. -/
def thenPhys (s : State) (tenant : Nat) (ps : List Piece) (rs : List Req) : LanePlan :=
  match s.physFault tenant ps with
  | some x => .error x
  | none => .ok rs

def ldPlan (o : FmtM) (k : Ctx) (s : State) (l : Nat) : LanePlan :=
  let n := vecN o.mop
  let sz := o.ty.bits / 8
  let va := k.ea o l
  let ten := s.tenantOfAsid k.asid
  plainAcc k s rightR va (n * sz) (fun ps => thenPhys s ten ps ((List.range n).flatMap (fun i =>
    elemReqs s ten { k.req .load l k.op with elem := i, ord := o.ord, scope := o.scope.toNat, ty := o.ty } ps (va + i * sz) sz 0)))

def ldWait (need : Nat) (len : Nat) (o : FmtM) (k : Ctx) (s : State) : Option (List Nat) :=
  waitMisses ((lanesOf k.pass).map (fun l => k.acc s need (k.ea o l) len))

def ldBody (o : FmtM) (k : Ctx) (s : State) : State :=
  if k.pass = 0 then s
  else sendLoads k (.load o.d o.ty (vecN o.mop)) (o.ord == .acq) (decide (16 ≤ o.mop.toNat)) (k.ea o)
    (plansOf k (ldPlan o k s)) s

def execLd (h : Hdr) (o : FmtM) (s : State) : Out :=
  issueWhen (.ld h o) s (ldWait rightR (vecN o.mop * (o.ty.bits / 8)) o) (ldBody o)

/-- The requests of a store. DESIGN CHOICE (notes/assumptions/96): a vector store is judged for partial cells (R75) by the n × s
bytes of the lane, not by each element. -/
def stPlan (o : FmtM) (k : Ctx) (s : State) (l : Nat) : LanePlan :=
  let n := vecN o.mop
  let sz := o.ty.bits / 8
  let va := k.ea o l
  let ten := s.tenantOfAsid k.asid
  plainAcc k s rightW va (n * sz) (fun ps =>
    if ps.any Piece.partialCell then .error (0x17, va)
    else thenPhys s ten ps ((List.range n).flatMap (fun i =>
      elemReqs s ten { k.req .store l k.op with elem := i, ord := o.ord, scope := o.scope.toNat, ty := o.ty } ps (va + i * sz) sz
        (k.elem o.d o.ty i l))))

/-- FORMAT_ALIGN in one lane lets the instruction take effect in none (R75). -/
def noneIfPartial (plans : List (Nat × LanePlan)) : List (Nat × LanePlan) :=
  if plans.any (fun e => match e.2 with | .error (c, _) => c == 0x17 | .ok _ => false) then
    plans.map (fun e => match e.2 with | .error x => (e.1, .error x) | .ok _ => (e.1, .ok []))
  else plans

def stBody (o : FmtM) (k : Ctx) (s : State) : State := sendOthers k (noneIfPartial (plansOf k (stPlan o k s))) s

def execSt (h : Hdr) (o : FmtM) (s : State) : Out :=
  issueWhen (.st h o) s (ldWait rightW (vecN o.mop * (o.ty.bits / 8)) o) (stBody o)

/-! ## lde (R245) -/

/-- The address, length and index within its cell of element k (R245): c is the cell size of the format. -/
def ldeAt (fmtc a e : Nat) : Nat × Nat × Nat :=
  if fmtc = 8 then (a + 2 * (e / 4), 2, e % 4) else (a + e * cellSize fmtc, cellSize fmtc, 0)

/-- The scale byte's address of an element of an FQ4 cell at `va` (R69, R71). -/
def ldeScale (k : Ctx) (leaf : DWord) (va sub : Nat) : Nat :=
  scaleAddr (k.x.rdWin k.fc k.clock (leafSws leaf)).toNat va (va % 65536 / 2 * 4 + sub) (leafGeo leaf)

/-- What lane l of an `lde` touches: first the page of A for its format, then the elements, then the scale bytes. -/
def ldeAccs (o : FmtM) (k : Ctx) (s : State) (l : Nat) : List Acc :=
  let a := k.ea o l
  match k.acc s 0 a 1 with
  | .ok (p :: _) =>
    let f := leafFmtc p.leaf
    if cellSize f = 0 then []
    else
      let es := (List.range (ldeN o.mop)).map (fun i => ldeAt f a (k.u32 o.b l + i))
      es.flatMap (fun e =>
        match k.acc s rightR e.1 e.2.1 with
        | .ok (q :: qs) =>
          if f = 8 ∧ leafFmtc q.leaf = 8 then [.ok (q :: qs), k.acc s rightR (ldeScale k q.leaf e.1 e.2.2) 1] else [.ok (q :: qs)]
        | x => [x])
  | x => [x]

/-- The first error of a list of checks. -/
def firstErr (l : List (Option (Nat × Nat))) : Option (Nat × Nat) := (l.filterMap id).head?

/-- The fault of an access. -/
def Acc.err : Acc → Option (Nat × Nat)
  | .fault c a => some (c, a)
  | _ => none

def Acc.pieces : Acc → List Piece
  | .ok ps => ps
  | _ => []

/-- One lane of an `lde` in the order of R435. -/
def ldePlan (o : FmtM) (k : Ctx) (s : State) (l : Nat) : LanePlan :=
  let a := k.ea o l
  let ten := s.tenantOfAsid k.asid
  match k.acc s 0 a 1 with
  | .miss _ => .error (0x10, a)
  | .fault c x => .error (c, x)
  | .ok pa =>
    let f := (pa.head?.map (fun p => leafFmtc p.leaf)).getD 0
    let es := (List.range (ldeN o.mop)).map (fun i => ldeAt f a (k.u32 o.b l + i))
    let accs := es.map (fun e => k.acc s rightR e.1 e.2.1)
    let rng := (es.find? (fun e => outside e.1 e.2.1)).map (fun e => (0x12, e.1))
    let fmtErr := if cellSize f = 0 then some (0x16, a)
      else ((es.zip accs).find? (fun e => e.2.pieces.any (fun p => leafFmtc p.leaf != f))).map (fun e => (0x16, e.1.1))
    let alignErr := (es.find? (fun e => e.1 % e.2.1 != 0)).map (fun e => (0x14, e.1))
    let scales := if f = 8 then (es.zip accs).map (fun e =>
      match e.2.pieces with
      | p :: _ => k.acc s rightR (ldeScale k p.leaf e.1.1 e.1.2.2) 1
      | [] => .ok []) else []
    let scErr := firstErr (scales.map (fun x => match x.err with
      | some y => some y
      | none => s.physFault ten x.pieces))
    let dataErr := firstErr (accs.map (fun x => s.physFault ten x.pieces))
    let early := if cellSize f = 0 then [(k.acc s rightR a 1).err] else [rng, firstErr (accs.map Acc.err)]
    match firstErr (early ++ [fmtErr, alignErr, scErr, dataErr]) with
    | some e => .error e
    | none =>
      .ok ((List.range (ldeN o.mop)).flatMap (fun i =>
        let e := es.getD i (0, 0, 0)
        let r := { k.req .load l k.op with elem := i, ord := o.ord, scope := o.scope.toNat, ty := o.ty }
        elemReqs s ten r ((accs.getD i (.ok [])).pieces) e.1 e.2.1 0
          ++ (match (scales.getD i (.ok [])).pieces with
            | p :: _ => elemReqs s ten { r with kind := .scale, ord := .rlx, scope := 0 } [p] p.va 1 0
            | [] => [])))

/-- The decoding of each element. -/
def ldeElems (o : FmtM) (k : Ctx) (s : State) : List LdeElem :=
  (lanesOf k.pass).flatMap (fun l =>
    let f := match k.acc s 0 (k.ea o l) 1 with | .ok (p :: _) => leafFmtc p.leaf | _ => 0
    (List.range (ldeN o.mop)).map (fun i => { lane := l, k := i, fmtc := f, sub := (k.u32 o.b l + i) % 4 }))

def ldeRnd (mop : BitVec 5) : Rnd := Rnd.ofCode (mop.toNat % 4)

def ldeWait (o : FmtM) (k : Ctx) (s : State) : Option (List Nat) := waitMisses ((lanesOf k.pass).flatMap (ldeAccs o k s))

def ldeBody (o : FmtM) (k : Ctx) (s : State) : State :=
  if k.pass = 0 then s
  else sendLoads k (.lde o.d o.ty (ldeRnd o.mop) (ldeElems o k s)) (o.ord == .acq) (decide (16 ≤ o.mop.toNat)) (k.ea o)
    (plansOf k (ldePlan o k s)) s

def execLde (h : Hdr) (o : FmtM) (s : State) : Out := issueWhen (.lde h o) s (ldeWait o) (ldeBody o)

/-! ## Typed buffers (R237, R246) -/

/-- A buffer access: range, then alignment of its whole size, and that it lies in one bank, slice or row. `base` and
`limit` are the region that the wave addresses from 0 (R220). -/
def bufPlan (k : Ctx) (o : FmtM) (place : Place) (base limit unit : Nat) (l size : Nat) (f : Nat → List Req) : LanePlan :=
  let a := k.bufAddr o l
  if a < 0 ∨ (limit : Int) < a + (size : Int) then .error (0x1A, truncTo 64 a)
  else
    let x := a.toNat
    if x % size ≠ 0 ∨ x / unit ≠ (x + size - 1) / unit then .error (0x14, x)
    else .ok ((f (base + x)).map (fun r => { r with place := place, va := x }))

/-- The A-buffer region of the wave. -/
def Ctx.aRegion (k : Ctx) : Nat × Nat := (k.x.abase, k.x.abytes)

def bufLoad (place : Place) (base limit : Ctx → Nat) (unit : Nat) (split : Bool) (o : FmtM) (k : Ctx) (s : State) : State :=
  if k.pass = 0 then s
  else
    let n := vecN o.mop
    let sz := o.ty.bits / 8
    sendLoads k (.load o.d o.ty n) (o.ord == .acq) false (fun l => truncTo 64 (k.bufAddr o l))
      (plansOf k (fun l => bufPlan k o place (base k) (limit k) unit l (n * sz) (fun a =>
        let r := { k.req .load l k.op with ord := o.ord, scope := o.scope.toNat, ty := o.ty }
        if split then (List.range n).map (fun i => { r with addr := a + i * sz, size := sz, elem := i })
        else [{ r with addr := a, size := n * sz }]))) s

def execLda (h : Hdr) (o : FmtM) (s : State) : Out :=
  issue (.lda h o) s (bufLoad .abuf (fun k => k.x.abase) (fun k => k.x.abytes) 16 false o)
def execLdw (h : Hdr) (o : FmtM) (s : State) : Out :=
  issue (.ldw h o) s (bufLoad .wbuf (fun _ => 0) (fun _ => Config.wbufBytes) 32768 false o)
def execLdc (h : Hdr) (o : FmtM) (s : State) : Out :=
  issue (.ldc h o) s (bufLoad .cbuf (fun _ => 0) (fun _ => Config.cbufBytes) 512 true o)

def execSta (h : Hdr) (o : FmtM) (s : State) : Out :=
  issue (.sta h o) s (fun k s =>
    let n := vecN o.mop
    let sz := o.ty.bits / 8
    sendOthers k (plansOf k (fun l => bufPlan k o .abuf k.x.abase k.x.abytes 16 l (n * sz) (fun a =>
      [{ k.req .store l k.op with
          addr := a, size := n * sz, ord := o.ord, ty := o.ty
          data := ((List.range n).map (fun i => k.elem o.d o.ty i l * 2 ^ (8 * sz * i))).foldl (fun x y => x + y) 0 }]))) s)

/-! ## atom, red (R247 to R249) -/

/-- Bytes of an atomic access. -/
def atomSize (op : Nat) (t : Ty) : Nat := if op = 11 then 16 else t.bits / 8

/-- An atomic access of lane l to memory: R and W, then alignment, partial cells and the physical address. -/
def atomPlan (o : FmtM) (k : Ctx) (s : State) (l : Nat) (r : Req) : LanePlan :=
  let op := o.mop.toNat % 16
  let size := atomSize op o.ty
  if 16 ≤ o.mop.toNat then bufPlan k o .abuf k.x.abase k.x.abytes 16 l size (fun a => [{ r with addr := a, size := size }])
  else
    let va := k.ea o l
    let ten := s.tenantOfAsid k.asid
    plainAcc k s (rightR + rightW) va size (fun ps =>
      if va % size ≠ 0 then .error (0x14, va)
      else if ps.any Piece.partialCell then .error (0x17, va)
      else match ps with
        | p :: _ =>
          match s.placeOf ten p.leaf p.pa size with
          | .error c => .error (c, va)
          | .ok (pl, a) => .ok [{ r with place := pl, pageKind := leafKind p.leaf, addr := a, size := size, va := va }]
        | [] => .ok [])

/-- The pages of an atomic; those of the A-buffer are none. -/
def atomWait (o : FmtM) (k : Ctx) (s : State) : Option (List Nat) :=
  if 16 ≤ o.mop.toNat then none else ldWait (rightR + rightW) (atomSize (o.mop.toNat % 16) o.ty) o k s

/-- Operand and expected value of an `atom` (Table 9-3): the group of `.cas` holds the expected value first. -/
def atomData (o : FmtM) (k : Ctx) (l : Nat) : Nat × Nat :=
  match o.mop.toNat % 16 with
  | 7 => (k.words (Opnd.up o.b o.ty.regs) o.ty.regs l, k.words o.b o.ty.regs l)
  | 11 => (k.words (Opnd.up o.b 4) 4 l, k.words o.b 4 l)
  | _ => (k.opnd o.b o.ty l, 0)

def atomBody (o : FmtM) (k : Ctx) (s : State) : State :=
  if k.pass = 0 then s
  else
    let op := o.mop.toNat % 16
    sendLoads k (.atom o.d (atomSize op o.ty / 4)) (o.ord == .acq || o.ord == .ar) false
      (fun l => if 16 ≤ o.mop.toNat then truncTo 64 (k.bufAddr o l) else k.ea o l)
      (noneIfPartial (plansOf k (fun l => atomPlan o k s l
        { k.req (.atom op) l k.op with
          ord := o.ord, scope := o.scope.toNat, ty := o.ty, data := (atomData o k l).1, data2 := (atomData o k l).2 }))) s

def execAtom (h : Hdr) (o : FmtM) (s : State) : Out := issueWhen (.atom h o) s (atomWait o) (atomBody o)

def redBody (o : FmtM) (k : Ctx) (s : State) : State :=
  sendOthers k (noneIfPartial (plansOf k (fun l => atomPlan o k s l
    { k.req (.red (o.mop.toNat % 16)) l k.op with
      ord := o.ord, scope := o.scope.toNat, ty := o.ty, data := k.opnd o.d o.ty l }))) s

def execRed (h : Hdr) (o : FmtM) (s : State) : Out := issueWhen (.red h o) s (atomWait o) (redBody o)

/-! ## mcas (R250 to R252) -/

/-- A load that the thread makes at this moment, as a request. -/
def Ctx.nowReq (k : Ctx) (s : State) (l : Nat) (p : Piece) (pl : Place) (a va size : Nat) : Req :=
  { k.req .load l s.nextId with
    id := s.nextId, place := pl, pageKind := leafKind p.leaf, addr := a, size := size, va := va }

/-- The bytes of a range as the thread of lane l reads them now, with what the reads do to the caches, and whether an
uncorrectable error lies under them: none while the order of the thread's accesses does not let it read (R227). -/
def State.readNow (s : State) (k : Ctx) (l : Nat) (ps : List Piece) (va n : Nat) : Option (State × List Byte × Bool) :=
  (List.range (n / 8)).foldl (fun acc i =>
    acc.bind (fun st =>
      (pieceAt ps (va + 8 * i)).bind (fun p =>
        match st.1.placeOf (st.1.tenantOfAsid k.asid) p.leaf (p.pa + (va + 8 * i - p.va)) 8 with
        | .error _ => none
        | .ok (pl, a) =>
          let r := k.nowReq st.1 l p pl a (va + 8 * i) 8
          if st.1.canPerform r then
            let x := st.1.sourceBytes r
            some (x.1, st.2.1 ++ forwardBytes (st.1.forwards r) a x.2, st.2.2 || (st.1.poisoned r && !st.1.allForwarded r))
          else none))) (some (s, [], false))

/-- Bytes lo to lo + 7 of a block as a number. -/
def blockWord (b : List Byte) (lo : Nat) : Nat := ofBytes ((b.drop lo).take 8)

/-- How far an `mcas` lane gets: it waits for walks or for its thread, it faults, or its entries stand. -/
inductive McasStage where
  | wait (pages : List Nat)
  | fault (cause addr : Nat)
  | ready (after : State) (ents : List (Nat × Nat × Nat)) (ps : List Piece)
  deriving DecidableEq, Repr

/-- Reads the first `len` bytes of the block at `va`. -/
def mcasBlock (k : Ctx) (s : State) (l va len : Nat) (next : State → List Byte → McasStage) : McasStage :=
  match k.acc s rightR va len with
  | .miss ps => .wait ps
  | .fault c a => .fault c a
  | .ok ps =>
    if va % 64 ≠ 0 then .fault 0x14 va
    else match s.physFault (s.tenantOfAsid k.asid) ps with
      | some (c, a) => .fault c a
      | none =>
        match s.readNow k l ps va len with
        | none => .wait []
        | some (_, _, true) => .fault 0x51 va
        | some (t, b, false) => next t b

/-- The checks of R251 on lane l. DESIGN CHOICE (notes/assumptions/99): MCAS_SPAN of two entries that name one word carries the
address of the block. -/
def mcasStage (o : FmtM) (k : Ctx) (s : State) (l : Nat) : McasStage :=
  let va := k.ea o l
  mcasBlock k s l va 8 (fun _ hd =>
    let n := blockWord hd 0 % 8 + 1
    mcasBlock k s l va (8 + 24 * n) (fun t b =>
      let ents := (List.range n).map (fun i => (blockWord b (8 + 24 * i), blockWord b (16 + 24 * i), blockWord b (24 + 24 * i)))
      let accs := ents.map (fun e => k.acc s (rightR + rightW) e.1 8)
      let misses := accs.flatMap Acc.misses
      if misses ≠ [] then .wait misses
      else
        let ps := accs.map (fun x => x.pieces)
        let firsts := ps.filterMap List.head?
        let mis := (ents.find? (fun e => e.1 % 8 != 0)).map (fun e => (0x14, e.1))
        let span := ((ents.zip firsts).find? (fun e => leafKind e.2.leaf == 2 || leafHost e.2.leaf)).map (fun e => (0x18, e.1.1))
        let pas := firsts.map (·.pa)
        let dup := if pas.eraseDups.length < pas.length then some (0x18, va) else none
        match firstErr (accs.map Acc.err ++ [mis, span, dup] ++ accs.map (fun x => s.physFault (s.tenantOfAsid k.asid) x.pieces)) with
        | some (c, a) => .fault c a
        | none => .ready t ents firsts))

def mcasWait (o : FmtM) (k : Ctx) (s : State) : Option (List Nat) :=
  let ws := (lanesOf k.pass).filterMap (fun l => match mcasStage o k s l with | .wait ps => some ps | _ => none)
  if ws.isEmpty then none else some ws.flatten

/-- The plan of a lane whose block has been read. -/
def mcasPlan (o : FmtM) (k : Ctx) (s : State) (l : Nat) : LanePlan :=
  match mcasStage o k s l with
  | .ready _ ents ps =>
    .ok [{ k.req (.mcas ((ents.zip ps).map (fun e => { pa := e.2.pa, kind := leafKind e.2.leaf, exp := BitVec.ofNat 64 e.1.2.1, new := BitVec.ofNat 64 e.1.2.2 })) []) l k.op with
            ord := o.ord, scope := o.scope.toNat, size := 8, va := k.ea o l }]
  | .fault c a => .error (c, a)
  | .wait _ => .error (0x10, k.ea o l)

/-- What the lanes' block reads do to the caches. -/
def mcasReads (o : FmtM) (k : Ctx) (s : State) : State :=
  (lanesOf k.pass).foldl (fun t l => match mcasStage o k t l with | .ready t' _ _ => t' | _ => t) s

def mcasBody (o : FmtM) (k : Ctx) (s : State) : State :=
  if k.pass = 0 then s
  else sendLoads k (.mcas o.d) (o.ord == .acq || o.ord == .ar) false (k.ea o) (plansOf k (mcasPlan o k s)) (mcasReads o k s)

def execMcas (h : Hdr) (o : FmtM) (s : State) : Out := issueWhen (.mcas h o) s (mcasWait o) (mcasBody o)

/-! ## fence (R230, R255) -/

/-- The fence of lane l: nothing is left to order when the thread has no request in flight. -/
def fenceReq (o : FmtM) (k : Ctx) (s : State) (l : Nat) : List Req :=
  let r := { k.req (.fence (o.mop == 1)) l k.op with ord := o.ord, scope := o.scope.toNat, id := s.nextId }
  if (s.before r).isEmpty then [] else [r]

/-- The bypass that a `fence.sc` leaves to each passing lane, beside those of its earlier, wider ones (R230). -/
def Wave.scBypass (w : Wave) (pass : Lanes) (scope since : Nat) : Wave :=
  let new : ScBypass := { scope := scope, since := since, seen := [] }
  let add := fun (t : Tbl (List ScBypass)) (l : Nat) =>
    Tbl.put t l ((Tbl.getD t l []).filter (fun b => decide (scope < b.scope)) ++ [new])
  { w with scFence := (lanesOf pass).foldl add w.scFence }

def execFence (h : Hdr) (o : FmtM) (s : State) : Out :=
  issue (.fence h o) s (fun k s =>
    let s0 := if o.ord == .rel || k.pass = 0 then s else s.advance k.core (s.core k.core).seen
    let s1 := s0.addReqs ((lanesOf k.pass).flatMap (fenceReq o k s0))
    if o.mop = 1 then s1.onWave k (fun y => y.scBypass k.pass o.scope.toNat s1.nextId) else s1)

/-! ## wbr, invr (R256, R257) -/

/-- The pieces of a range before its first faulting page, and that fault. -/
def rangeAcc (k : Ctx) (s : State) (need va len : Nat) : List Piece × Option (Nat × Nat) :=
  if outside va len then ([], some (0x12, va))
  else
    match k.acc s need va len with
    | .ok ps => (ps, none)
    | .miss _ => ([], none)
    | .fault c a => (match k.acc s need va (a - va) with | .ok ps => if a = va then [] else ps | _ => [], some (c, a))

/-- A cache operation of lane l over a range. -/
def cacheOp (o : FmtM) (need : Nat) (mk : List (Nat × Nat × Nat) → ReqKind) (k : Ctx) (s : State) : State :=
  let xs := (lanesOf k.pass).filterMap (fun l =>
    if k.u32 o.b l = 0 then none else some (l, rangeAcc k s need (k.ea o l) (k.u32 o.b l)))
  let ten := s.tenantOfAsid k.asid
  let manual := fun (ps : List Piece) => ps.filter (fun p => leafKind p.leaf == 2)
  let reqs := xs.map (fun e =>
    let bad := match s.physFault ten (manual e.2.1) with | some _ => true | none => false
    { k.req (mk (if bad then [] else e.2.1.map (fun p => (p.pa, p.len, leafKind p.leaf)))) e.1 k.op with
      va := k.ea o e.1, size := (e.2.1.map (·.len)).foldl (fun x y => x + y) 0 })
  let faults := xs.filterMap (fun e =>
    (match e.2.2 with | some f => some f | none => s.physFault ten (manual e.2.1)).map (fun (f : Nat × Nat) => (e.1, f.1, f.2)))
  (s.addReqs (reqs.filter (fun r => r.size != 0))).laneFaults k faults

def cacheWait (need : Nat) (o : FmtM) (k : Ctx) (s : State) : Option (List Nat) :=
  waitMisses ((lanesOf k.pass).map (fun l =>
    if k.u32 o.b l = 0 then .ok [] else k.acc s need (k.ea o l) (k.u32 o.b l)))

def execWbr (h : Hdr) (o : FmtM) (s : State) : Out :=
  issueWhen (.wbr h o) s (cacheWait rightW o) (cacheOp o rightW ReqKind.wbr)
def execInvr (h : Hdr) (o : FmtM) (s : State) : Out :=
  issueWhen (.invr h o) s (cacheWait rightR o) (cacheOp o rightR ReqKind.invr)

/-! ## pref, ipref, ipin, iunpin (R259, R260) -/

/-- The request of a `pref` for the line at a lane's address; an address that would fault, and a line that is not loaded,
give none (R259). -/
def prefOne (o : FmtM) (k : Ctx) (s : State) (l : Nat) : List Req :=
  let va := k.ea o l
  if outside va 1 then []
  else match s.xlateNow k.core k.asid va with
    | .hit leaf pa =>
      if !leafGrants leaf rightR || leafHost leaf || !s.admits (s.tenantOfAsid k.asid) pa 1 || leafKind leaf = 0
          || (leafKind leaf = 2 && o.mop != 0) then []
      else [{ k.req (.pref (o.mop == 0)) l k.op with pageKind := leafKind leaf, addr := pa, va := va }]
    | _ => []

def execPref (h : Hdr) (o : FmtM) (s : State) : Out :=
  issue (.pref h o) s (fun k s => s.addReqs ((lanesOf k.pass).flatMap (prefOne o k s)))

/-- The 64 bytes of an instruction line as the cluster cache, or else the home, holds them (R61). -/
def State.fetchBits (s : State) (c pa : Nat) : BitVec 512 :=
  match s.copyFor c (lineNo pa) 1 with
  | some x => BitVec.ofNat 512 (ofBytes (copyBytes x.data pa 64))
  | none => BitVec.ofNat 512 (Memory.read s.mem pa 64)

/-- An uncorrectable error lies under an instruction line where it is fetched from (R429). -/
def State.fetchBad (s : State) (c pa : Nat) : Bool :=
  match s.copyFor c (lineNo pa) 1 with
  | some x => x.badAt (pa % 128) 64
  | none => s.poisonAt c .mem pa 64

/-- Puts a line into the instruction cache; beyond 2,048 lines the oldest that is not pinned goes
(notes/assumptions/11). -/
def Core.putILine (k : Core) (x : ILine) : Core :=
  let rest := k.icache.filter (fun y => !(y.asid == x.asid && y.line == x.line))
  let room := if rest.length < 2048 then rest
    else match rest.find? (fun y => !k.pins.contains (y.asid, y.line)) with
      | some v => rest.filter (fun y => y != v)
      | none => rest.drop 1
  { k with icache := room ++ [x] }

/-- The TLB of a core holds the translation of an address, if there is one (R206). -/
def State.fillTlb (s : State) (c asid va : Nat) : State :=
  match (s.core c).tlbFind asid va, s.walk asid va with
  | none, .ok (big, e) =>
    s.modCore c (fun k => k.tlbFill { asid := asid, page := va / (if big then 2 ^ 21 else 2 ^ 16), big := big, leaf := e })
  | _, _ => s

/-- Counts a fetch that misses the TLB (event 8). -/
def State.missTlb (s : State) (c asid va : Nat) : State :=
  if ((s.core c).tlbFind asid va).isSome then s else s.modCore c (fun k => k.countEv 8 1)

/-- Fetches an instruction line: the new state, or the cause that the fetch meets (R57, R205, R427). -/
def State.fetchLine (s : State) (c asid line : Nat) : Except Nat State :=
  match s.xlateNow c asid line with
  | .fault e => .error e
  | .miss => .error 0x10
  | .hit leaf pa =>
    if !leafGrants leaf rightX then .error 0x11
    else if !s.admits (s.tenantOfAsid asid) pa 64 then .error 0x1B
    else if s.fetchBad c pa then .error 0x51
    else .ok (((s.missTlb c asid line).fillTlb c asid line).modCore c (fun k =>
      k.putILine { asid := asid, line := line, bits := s.fetchBits c pa, bad := false }))

/-- The lines of an instruction-line range. -/
def iLines (a n : Nat) : List Nat := (List.range (min n 512)).map (fun i => a / 64 * 64 + 64 * i)

/-- `ipref` of one lane: lines that would fault are ignored. -/
def iprefOne (o : FmtM) (k : Ctx) (s : State) (l : Nat) : State :=
  (iLines (k.ea o l) (k.u32 o.b l)).foldl (fun t a =>
    if outside a 64 then t else match t.fetchLine k.core k.asid a with | .ok t' => t' | .error _ => t) s

def execIpref (h : Hdr) (o : FmtM) (s : State) : Out :=
  issue (.ipref h o) s (fun k s => (lanesOf k.pass).foldl (iprefOne o k) s)

/-- `ipin` of one lane, line by line, with the fault that ends it. -/
def ipinLines (k : Ctx) : List Nat → State → State × Option (Nat × Nat)
  | [], s => (s, none)
  | a :: t, s =>
    if outside a 64 then (s, some (0x12, a))
    else match s.fetchLine k.core k.asid a with
      | .error c => (s, some (c, a))
      | .ok s1 =>
        ipinLines k t (s1.modCore k.core (fun c =>
          if c.pins.contains (k.asid, a) || decide (512 ≤ c.pins.length) then c else { c with pins := c.pins ++ [(k.asid, a)] }))

def ipinBody (o : FmtM) (k : Ctx) (s : State) : State :=
  let r := (lanesOf k.pass).foldl (fun (acc : State × List LaneFault) l =>
    let x := ipinLines k (iLines (k.ea o l) (k.u32 o.b l)) acc.1
    (x.1, acc.2 ++ (match x.2 with | some f => [(l, f.1, f.2)] | none => []))) (s, [])
  r.1.laneFaults k r.2

/-- The pages of a pin range. -/
def ipinWait (o : FmtM) (k : Ctx) (s : State) : Option (List Nat) :=
  waitMisses ((lanesOf k.pass).map (fun l =>
    let n := min (k.u32 o.b l) 512
    if n = 0 then .ok [] else k.acc s 0 (k.ea o l / 64 * 64) (64 * n)))

def execIpin (h : Hdr) (o : FmtM) (s : State) : Out := issueWhen (.ipin h o) s (ipinWait o) (ipinBody o)
def execIunpin (h : Hdr) (o : FmtM) (s : State) : Out :=
  issue (.iunpin h o) s (fun k s => (lanesOf k.pass).foldl (fun t l =>
    t.modCore k.core (fun c => { c with pins := c.pins.filter (fun p => !(p.1 == k.asid && (iLines (k.ea o l) (k.u32 o.b l)).contains p.2)) })) s)

/-! ## watch (R261) -/

/-- The handle names an event counter of the process (R328, R353): otherwise the object cause. -/
def State.counterFault (s : State) (asid h : Nat) : Option Nat :=
  match s.owned asid h with
  | none => some 0x30
  | some o => match o.body with | .event _ => none | _ => some 0x31

def watchPlan (o : FmtM) (k : Ctx) (s : State) (l : Nat) : LanePlan :=
  let size := o.ty.bits / 8
  let va := k.ea o l
  let ten := s.tenantOfAsid k.asid
  let ctr := k.u64 o.b l
  plainAcc k s rightR va size (fun ps =>
    if va % size ≠ 0 then .error (0x14, va)
    else match ps with
      | p :: _ =>
        match s.placeOf ten p.leaf p.pa size with
        | .error c => .error (c, va)
        | .ok (pl, a) =>
          match s.counterFault k.asid ctr with
          | some c => .error (c, ctr)
          | none =>
            .ok [{ k.req (.watch ctr) l k.op with
                    place := pl, pageKind := leafKind p.leaf, addr := a, size := size, va := va, ty := o.ty,
                    data := k.elem o.d o.ty 0 l }]
      | [] => .ok [])

def watchBody (o : FmtM) (k : Ctx) (s : State) : State := sendOthers k (plansOf k (watchPlan o k s)) s

def execWatch (h : Hdr) (o : FmtM) (s : State) : Out :=
  issueWhen (.watch h o) s (ldWait rightR (o.ty.bits / 8) o) (watchBody o)

end Sys2Proof.Machine
end

