-- ==== Sys2Proof/Machine/MemEvents.lean ====
section
/-! DEFINITION. The steps of the memory engine: accesses performed at the homes and the units (R213, R217, R252),
acknowledgements, copies that expire or leave, walks and line fills, watches, and loads that complete. A step that
names nothing pending changes nothing. -/

namespace Sys2Proof.Machine

/-! ## Walks and fills (R37, R206) -/

/-- One walk answers every instruction of the cluster that waits for the page; a walk for an instruction that has ended
leaves nothing. -/
def walkAnswer (core asid page : Nat) (s : State) : State :=
  ((List.range 8).map (fun i => core / 8 * 8 + i)).foldl (fun t c =>
    let mine := (t.core c).walks.any (fun x => x.asid == asid && x.page == page && x.cause.isNone)
    if !mine then t
    else match s.walk asid (page * 65536) with
      | .ok _ =>
        (t.fillTlb c asid (page * 65536)).modCore c (fun k =>
          { k with walks := k.walks.filter (fun x => !(x.asid == asid && x.page == page)) })
      | .error e =>
        t.modCore c (fun k => { k with walks := (k.walks.map (fun x =>
          if x.asid = asid ∧ x.page = page ∧ x.cause = none then { x with cause := some e } else x)).filter (fun x =>
            t.held.any (fun y => y.k.op == x.op)) })) s

/-- The ranges of memory that a walk reads. -/
def State.walkRanges (s : State) (asid va : Nat) : List (Nat × Nat) := (s.walkReads asid va).map (fun a => (a, 8))

/-- The walker of a cluster reads the entries of a page at their homes, where it waits its turn (R218). -/
def tlbWalkComplete (core asid page : Nat) (s : State) : State :=
  match (s.core core).walks.find? (fun x => x.asid == asid && x.page == page && x.cause.isNone) with
  | none => s
  | some x => s.asAgent (s.walkRanges asid (page * 65536)) (walkerAgent (core / 8)) x.op (walkAnswer core asid page)

def execTlbWalkComplete (core asid page : Nat) (s : State) : Out := .next (tlbWalkComplete core asid page s)

/-- A fetch fault is taken by every READY split of the process whose PC lies in the line (R57, R208). -/
def State.fetchFault (s : State) (core asid line cause : Nat) : State :=
  ((s.core core).waves.filter (fun e => e.2.asid == asid)).foldl (fun t e =>
    (e.2.splits.filter (fun p => p.isReady && lineOf p.pc == line)).foldl (fun u p =>
      (u.takeTrap core e.1 p.mask cause 0 p.pc p.pc.toNat p.pc).modWave core e.1 (fun w => w.keepOrigin p)) t) s

/-- A line arrives in the instruction cache, unless it is there; its checks are made when a split issues from it. -/
def execIcacheLineFill (core asid line : Nat) (s : State) : Out :=
  let l := line / 64 * 64
  if !(s.core core).waves.any (fun e => e.2.asid == asid) ∨ (s.core core).icache.any (fun x => x.asid == asid && x.line == l) ∨ outside l 64 then .next s
  else
    let walks := if ((s.core core).tlbFind asid l).isSome then [] else s.walkRanges asid l
    .next (s.asAgent walks (walkerAgent (core / 8)) (fetchNum core l) (fun u =>
      match u.fetchLine core asid l with
      | .ok t => t
      | .error e => u.fetchFault core asid l e))

/-! ## Loads (R213, R239) -/

/-- The line of a `pref` is loaded, unless a valid copy stands where it goes (R259). -/
def State.prefLoad (s : State) (r : Req) (l1 : Bool) : State :=
  let line := lineNo r.addr
  if r.pageKind = 2 then
    (if (s.manualCopy { r with addr := line * 128, size := 128 }).isSome || s.l1Stuck r.core (l1Key line true) then s
     else s.manualFill r.core r.asid r.addr r.va)
  else if !l1 then (if (s.copyFor r.core line 1).isSome then s else (s.grantLease r.core line false).1)
  else
    let own := match Tbl.find (s.core r.core).l1 (l1Key line false) with
      | some x => x.valid (s.core r.core).time s.clock
      | none => false
    if own then s
    else match s.copyFor r.core line 1 with
      | some x => s.putL1 r.core line x
      | none => (s.grantLease r.core line true).1

/-- A `pref` is served at its line's home: a locked line has it wait. DEDUCED (notes/assumptions/34): it binds nothing, so its thread's
earlier acquires and fences do not hold it. -/
def State.prefServe (s : State) (r : Req) (l1 : Bool) : State :=
  let line := lineNo r.addr
  if (s.before r).any (fun x => x.holdsFor r)
      || (r.pageKind == 2 && s.writeBacks.any (fun w => w.core == r.core && w.line == line)) then s
  else if s.lockedFor r then s.queueAt line r.age r.agent r.id
  else if s.mayServe line r.id then (s.prefLoad r l1).dropReq r.id
  else s

/-- A load that no copy satisfies is performed at its home. A MANUAL fill follows the core's own write-backs. -/
def homeLoad (req : Nat) (s : State) : State :=
  match s.req? req with
  | none => s
  | some r =>
    match r.kind with
    | .pref l1 => s.prefServe r l1
    | .load | .scale => if r.place == .mem && !s.hits r then (s.bindGroup r).dropFences else s
    | _ => s

def execHomeLoad (req : Nat) (s : State) : Out := .next (homeLoad req s)

/-- The value of the requests of one element of one lane. -/
def joinBytes (rs : List Req) : Nat :=
  (rs.map (fun r => (match r.st with | .bound v => v | _ => 0) * 256 ^ r.off)).foldl (fun a b => a + b) 0

/-- Whether every request of a list is bound. -/
def boundAll (rs : List Req) : Bool := rs.all (fun r => match r.st with | .bound _ => true | _ => false)

/-- A loaded element as its registers hold it: n bytes at a type (R242). -/
def extend (t : Ty) (bytes x : Nat) : Nat :=
  if bytes < 4 then (if t.signed then truncTo 32 (sintOf (8 * bytes) x) else x) else x

/-- An element's registers and flags from what its requests brought. -/
def outValue (kind : OutKind) (l e : Nat) (rs : List Req) : Opnd × Nat × Nat × BitVec 6 :=
  let data := rs.filter (fun r => r.kind != .scale)
  let bytes := (data.map (·.size)).foldl (fun a b => a + b) 0
  let x := joinBytes data
  match kind with
  | .load d t _ => (Opnd.up d (e * t.regs), max 1 (bytes / 4), extend t bytes x, 0)
  | .lde d t rnd es =>
    match es.find? (fun y => y.lane == l && y.k == e) with
    | none => (d, 0, 0, 0)
    | some y =>
      let v := if y.fmtc = 8 then fq4Scaled x y.sub (joinBytes (rs.filter (fun r => r.kind == .scale))) else (pageElem y.fmtc x, false)
      let r := (fmtOf t).conv rnd false v.1
      (Opnd.up d (e * t.regs), t.regs, r.bits, r.fl ||| flIf v.2 flFI)
  | .atom d w => (d, w, x, 0)
  | .mcas d => (d, 1, x, 0)

/-- The operation's poll record waits for its retirement, or is made at once by an operation that posted none (R130). -/
def Wave.notePoll (w : Wave) (o : OutOp) : Wave :=
  match o.pollVal with
  | none => w
  | some v =>
    let p : Poll := { addr := o.pollAddr, value := v }
    if (w.chanOf o.id).isNone then w.polled p
    else { w with toks := w.toks.map (fun e => (e.1, e.2.map (fun t => if t.id = o.id then { t with poll := some p } else t))) }

/-- Operation `o` brings its last values: with the register writes it is complete and raises its flags (R78, R120), and its
acquire is noted. -/
def Wave.closeOut (w : Wave) (o : OutOp) : Wave :=
  let y := { w with outs := w.outs.filter (fun x => x.id != o.id) }
  if o.acq then y.notePoll o else y

/-- Makes the elements of operation `op` that are bound its pending writes of this cycle, each of which a read may meet or not
until it is made (R118), and has the operation complete with them when none is left. -/
def State.writeOut (s : State) (c w : Nat) (o : OutOp) : State :=
  let mine := s.reqs.filter (fun r => r.op == o.id && r.core == c && r.reads)
  let keys := (mine.map (fun r => (r.lane, r.elem))).eraseDups
  let isS := match o.kind with | .load d .. => d.isS | .lde d .. => d.isS | .atom d _ => d.isS | .mcas d => d.isS
  let ready := if isS && !boundAll mine then []
    else keys.filter (fun e => boundAll (mine.filter (fun r => r.lane == e.1 && r.elem == e.2)))
  let outs := ready.map (fun e => (e, outValue o.kind e.1 e.2 (mine.filter (fun r => r.lane == e.1 && r.elem == e.2))))
  let es := outs.map (fun e => wordsAt e.2.1 e.1.1 e.2.2.1 e.2.2.2.1)
  let fl := outs.foldl (fun m e => m ||| e.2.2.2.2) 0
  let pv := match outs.find? (fun e => e.1.1 == o.pollLane && e.1.2 == 0) with
    | some e => some (BitVec.ofNat 64 e.2.2.2.1)
    | none => o.pollVal
  let o' := { o with fl := o.fl ||| fl, pollVal := pv }
  let gone := fun (r : Req) => r.op == o.id && r.core == c && ready.contains (r.lane, r.elem)
  let s1 : State := { s with reqs := s.reqs.filter (fun r => !gone r) }
  let left : Bool := s1.reqs.any (fun r => r.op == o.id && r.core == c)
  let put : PWrite := { due := s.clock, early := s.clock, num := o.id, op := if left then none else some o.id, isDiv := false
                        v := es.flatMap (·.1), s := es.flatMap (·.2), p := [], sp := [], fl := if left then 0 else o'.fl }
  if ready.isEmpty && left then s1
  else s1.modWave c w (fun x =>
    let y := { x with pend := x.pend ++ [put] }
    if left then { y with outs := y.outs.map (fun z => if z.id = o.id then o' else z) } else y.closeOut o')

/-- The data of an operation returns: the accesses that copies, buffers or the thread's own stores satisfy are
performed, and what is bound is written (R114, R120). -/
def loadComplete (core wave op : Nat) (s : State) : State :=
  match (s.wave? core wave).bind (fun w => w.outs.find? (fun o => o.id == op)) with
  | none => s
  | some o =>
    let ids := (s.reqs.filter (fun r => r.op == op && r.core == core && (r.kind == .load || r.kind == .scale))).map (·.id)
    let s1 := ids.foldl (fun t i => match t.req? i with | some r => if t.hits r && r.waits then t.bindGroup r else t | none => t) s
    (s1.writeOut core wave o).dropFences

def execLoadComplete (core wave op : Nat) (s : State) : Out := .next (loadComplete core wave op s)

/-- The missing lanes of an `.ms` load go on once their data has been written (R222). -/
def execMissSplitWake (core wave op : Nat) (s : State) : Out :=
  match s.wave? core wave with
  | none => .next s
  | some w =>
    if w.outs.any (fun o => o.id == op) || w.pend.any (fun e => e.num == op) then .next s
    else .next (s.modWave core wave (fun y => y.wakeSusp s.clock (fun p => p.waitsFor (.miss op)) (fun p => p.pc)))

/-! ## Stores (R213, R216) -/

/-- A store is performed: at its home, in the L1 for a MANUAL page, in the buffer. -/
def homeStore (req : Nat) (s : State) : State :=
  match s.req? req with
  | none => s
  | some r =>
    if r.kind != .store then s
    else if !s.canPerform r then s.queueUp r
    else
      let bs := bytesOf r.size r.data
      match r.place with
      | .host => s
      | .mem =>
        if r.pageKind = 2 then ((s.manualStore r.core r.asid r.addr r.va bs).dropReq r.id).dropFences
        else
          let x := s.homeStore r.core r.pageKind r.addr bs
          let line := Memory.read x.1.mem (lineNo r.addr * 128) 128
          (x.1.countMoved r.asid r.size).setReq r.id (fun y => { y with st := .unacked x.2 s.clock, data2 := line })
      | _ => (((s.modCore r.core (fun k => { k with abuf := Memory.setBytes k.abuf r.addr bs })).cleanseRange r.core .abuf r.addr
          r.size).dropReq r.id).dropFences

def execHomeStore (req : Nat) (s : State) : Out := .next (homeStore req s)

/-- The acknowledgement returns: it refreshes the core's copies and advances its time. -/
def storeAck (req : Nat) (s : State) : State :=
  match s.req? req with
  | none => s
  | some r =>
    match r.st with
    | .unacked wts at_ =>
      let s1 := (s.advance r.core wts).dropReq r.id
      (if r.pageKind = 1 ∧ wts ≠ 0 then s1.refresh r.core (lineNo r.addr) (Memory.setBytes [] 0 (bytesOf 128 r.data2)) wts at_ else s1).dropFences
    | _ => s

def execStoreAck (req : Nat) (s : State) : Out := .next (storeAck req s)

/-! ## Copies (R213, R215, R216) -/

/-- A RELEASED copy whose 1,024 cycles have passed is dropped; `unit` is the core of an L1 or the cluster. -/
def execLeaseExpiry (inL1 : Bool) (unit line : Nat) (s : State) : Out :=
  let old := fun (x : Copy) => !x.manual && decide (x.filled + 1024 ≤ s.clock)
  if inL1 then
    match Tbl.find (s.core unit).l1 (l1Key line false) with
    | some x => .next (if old x then s.modCore unit (fun k => { k with l1 := Tbl.del k.l1 (l1Key line false) }) else s)
    | none => .next s
  else
    match Tbl.find (Tbl.getD s.clusters unit []) line with
    | some x => .next (if old x then { s with clusters := Tbl.mod s.clusters unit [] (fun t => Tbl.del t line) } else s)
    | none => .next s

/-- A line leaves its home slice: the slice's floor takes its read timestamp (R215). -/
def execLineLeavesSlice (line : Nat) (s : State) : Out :=
  .next (s.leaveSlice line)

/-- The lines of the open version of the crew on core `c`, in ascending order. -/
def State.versionSpan (s : State) (c : Nat) : List Nat :=
  sortBy (fun a b => decide (a ≤ b)) (((s.versionBytes c).map (fun e => lineNo e.1)).eraseDups)

/-- Takes the locks of lines in order for `num`, and waits in the queue of the first that another holds (R253). -/
def takeLocks (age agent num : Nat) : List Nat → State → State
  | [], s => s
  | l :: t, s =>
    match Tbl.find s.locks l with
    | some o => if o = num then takeLocks age agent num t s else s.queueAt l age agent num
    | none => if s.mayServe l num then takeLocks age agent num t (({ s with locks := Tbl.put s.locks l num } : State).served l num) else s

/-- The locks of a request are released. -/
def State.unlock (s : State) (id : Nat) : State := { s with locks := s.locks.filter (fun e => e.2 != id) }

/-- The open version of the crew on core `c` is merged into memory as one event (R383): every byte by mask, with the timestamps
of a store. -/
def State.mergeVersion (s : State) (c : Nat) : State :=
  let v := s.versionBytes c
  let s1 := s.modCrew c (fun k => { k with version := .committed })
  let s2 := ({ s1 with mem := Bits.wrs s1.mem v } : State).cleanse 0 .mem (fun b => (Tbl.find v b).isSome)
  (s.versionSpan c).foldl (fun t l =>
    let h := t.tsOf l
    let w := max (t.core c).time (h.rts + 1)
    (((t.putTs l { wts := w, rts := w }).touchLine false l).refresh c l (t.lineAt l) w s.clock).advance c w) s2

/-- A commit of the crew on core `c` begins, if none is under way: its age is the CLOCK value now (R383). -/
def State.beginCommit (s : State) (c : Nat) : State :=
  if s.committing c then s
  else { s with
    nextId := s.nextId + 1
    commits := s.commits ++ [{ id := s.nextId, uid := s.uidOf c, core := c, age := s.clock }] }

/-- The commit of the crew on core `c` begins, or goes on: it takes the locks of the version's lines in ascending order, waiting
at a line that another holds, and once it holds them all the version is merged and they are released (R383). Its agent
number is that of the crew's core (notes/assumptions/89). -/
def State.commitVersion (s : State) (c : Nat) : State :=
  if !s.versionOpen c then s
  else
    let s1 := s.beginCommit c
    match s1.commits.find? (fun m => m.uid == s.uidOf c) with
    | none => s
    | some m =>
      let ls := s.versionSpan c
      let s2 := takeLocks m.age (4096 * c) m.id ls s1
      if ls.all (fun l => Tbl.find s2.locks l == some m.id) then
        (({ s2 with commits := s2.commits.filter (fun x => x.id != m.id) } : State).mergeVersion c).unlock m.id
      else s2

/-- The L1 evicts a line, writing back dirty MANUAL bytes; an open version commits first (R383). -/
def execL1Eviction (core line : Nat) (s : State) : Out :=
  let s1 := s.modCore core (fun k => { k with l1 := Tbl.del k.l1 (l1Key line false) })
  if s1.dirtyLine core line && s1.versionOpen core then
    let s2 := s1.commitVersion core
    .next (if s2.versionOpen core then s2 else s2.sendBack core line 0 true)
  else .next (s1.sendBack core line 0 true)

/-- The home merges a write-back, in the order in which its core sent its write-backs of the line: it waits while the line is
locked, and for requests that have waited there longer (R216, R218). Table 8-17 gives it no number of its own: it has that of its
core (notes/assumptions/89). -/
def execManualWritebackMerge (wb : Nat) (s : State) : Out :=
  match s.writeBacks.find? (fun w => w.id == wb) with
  | none => .next s
  | some w =>
    if s.writeBacks.any (fun x => x.core == w.core && x.line == w.line && decide (x.id < w.id)) then .next s
    else if (Tbl.find s.locks w.line).isSome then .next (s.queueAt w.line w.age (4096 * w.core) w.id)
    else .next (if s.mayServe w.line w.id then s.mergeBack w else s)

/-- A `wbr` or `invr` first sends its write-backs and drops its copies, and completes for its lane when no write-back of its
lines is left of those sent by then (R256, R257). -/
def cacheOp1 (s : State) (r : Req) (rs : List (Nat × Nat × Nat)) (drop : Bool) : State :=
  let manual := rs.filter (fun e => e.2.2 == 2)
  let released := rs.filter (fun e => e.2.2 == 1)
  let lines := ((s.core r.core).l1.filter (fun e => e.2.manual && inRanges manual (e.1 / 2))).map (fun e => e.1 / 2)
  let s1 := lines.foldl (fun t l => t.sendBack r.core l r.id drop) s
  let s2 := if !drop then s1
    else s1.modCore r.core (fun k => { k with
      l1 := k.l1.filter (fun e => e.2.manual || !inRanges released (e.1 / 2))
      icache := k.icache.filter (fun x => !(decide (x.line < r.va + r.size) && decide (r.va < x.line + 64))) })
  s2.setReq r.id (fun y => { y with st := .unacked 0 s.clock, data := s2.nextId })

/-- Write-backs of the covered lines that the core had sent when the operation began are still on their way. -/
def State.rangeOpen (s : State) (r : Req) (rs : List (Nat × Nat × Nat)) : Bool :=
  s.writeBacks.any (fun w => w.core == r.core && decide (w.id < r.data) && inRanges (rs.filter (fun e => e.2.2 == 2)) w.line)

def cacheOpComplete (req : Nat) (s : State) : State :=
  match s.req? req with
  | none => s
  | some r =>
    match r.kind, r.st with
    | .wbr rs, .waiting => if s.canPerform r then cacheOp1 s r rs false else s
    | .invr rs, .waiting => if s.canPerform r then cacheOp1 s r rs true else s
    | .wbr rs, .unacked .. | .invr rs, .unacked .. => if s.rangeOpen r rs then s else (s.dropReq r.id).dropFences
    | _, _ => s

def execCacheOpComplete (req : Nat) (s : State) : Out := .next (cacheOpComplete req s)

/-! ## Atomics (R217, R248) -/

/-- The value that an atomic writes; none when a compare fails. -/
def atomNew (op : Nat) (t : Ty) (old b exp : Nat) : Option Nat :=
  let w := t.bits
  let flt := fun (f : FFmt → Nat → Nat → FRes) =>
    match t with
    | .f16x2 => (pairOp (fun x y _ => f (fmtOf .f16) x y) old b 0).bits
    | .bf16x2 => (pairOp (fun x y _ => f (fmtOf .bf16) x y) old b 0).bits
    | _ => (f (fmtOf t) old b).bits
  match op with
  | 0 => some (truncTo w (intVal t old + intVal t b))
  | 1 => some (Nat.land old b)
  | 2 => some (Nat.lor old b)
  | 3 => some (Nat.xor old b)
  | 4 => some (if intVal t b < intVal t old then b else old)
  | 5 => some (if intVal t old < intVal t b then b else old)
  | 6 => some b
  | 8 => some (flt (fun f x y => f.add .rne false x y))
  | 9 => some (flt (fun f x y => f.minmax false x y))
  | 10 => some (flt (fun f x y => f.minmax true x y))
  | _ => if old = exp then some b else none

/-- The request answers with a value, or goes if nothing waits for the value. -/
def State.answer (s : State) (r : Req) (v : Nat) : State :=
  let waits := match r.kind with
    | .red _ => false
    | _ => match s.wave? r.core r.wave with | some w => w.outs.any (fun o => o.id == r.op) | none => false
  (if waits then s.setReq r.id (fun y => { y with st := .bound v }) else s.dropReq r.id).dropFences

/-- The state in which an atomic or a `watch` reads the home: a MANUAL page's copy has been written back and dropped (R216). -/
def State.ownMerged (s : State) (r : Req) : State :=
  if r.place = .mem ∧ r.pageKind = 2 then (s.sendBack r.core (lineNo r.addr) 0 true).mergeLine r.core (lineNo r.addr) else s

/-- The old value of an atomic on memory at its unit, with what the read does to copies, leases and times (R217). -/
def State.atomRead (s : State) (r : Req) : State × Nat :=
  let line := lineNo r.addr
  let home := fun (t : State) => ofBytes (overlay (t.versionBytes r.core) r.addr (Memory.bytes t.mem r.addr r.size))
  if r.pageKind = 1 then
    if 2 ≤ r.scope then ((s.advance r.core (s.tsOf line).wts).seeLine r, home s)
    else
      match s.copyFor r.core line (max (s.bypassFor r) r.scope) with
      | some x =>
        ((s.advance r.core x.wts).seeLine r, ofBytes (overlay (s.versionBytes r.core) r.addr (copyBytes x.data r.addr r.size)))
      | none =>
        let g := s.grantLease r.core line (r.scope == 0)
        ((g.1.advance r.core g.2.wts).seeLine r, home g.1)
  else if r.pageKind = 2 then
    let t := s.ownMerged r
    (t.seeStrict false r, Memory.read t.mem r.addr r.size)
  else (s.seeStrict false r, Memory.read s.mem r.addr r.size)

/-- The write-through of an atomic's result as a store of its core (R217). -/
def State.atomWrite (s : State) (r : Req) (v : Nat) : State :=
  let x := s.homeStore r.core r.pageKind r.addr (bytesOf r.size v)
  if r.pageKind = 1 ∧ x.2 ≠ 0 then (x.1.advance r.core x.2).refresh r.core (lineNo r.addr) (x.1.lineAt (lineNo r.addr)) x.2 s.clock
  else x.1

def atomicOp (r : Req) : Nat := match r.kind with | .atom op => op | .red op => op | _ => 0

def atomicPerform (req : Nat) (s : State) : State :=
  match s.req? req with
  | none => s
  | some r =>
    let isAtom := match r.kind with | .atom _ | .red _ => true | _ => false
    if !isAtom then s
    else if !s.canPerform r then s.queueUp r
    else if (s.ownMerged r).poisoned r then (s.failReq r 0x51).dropFences
    else
      match r.place with
      | .abuf =>
        let old := Memory.read (s.core r.core).abuf r.addr r.size
        let s1 := match atomNew (atomicOp r) r.ty old r.data r.data2 with
          | some v => (s.modCore r.core (fun k => { k with abuf := Memory.write k.abuf r.addr r.size v })).cleanseRange r.core .abuf r.addr r.size
          | none => s
        s1.answer r old
      | .mem =>
        let x := (s.noteMiss r).atomRead r
        let s1 := match atomNew (atomicOp r) r.ty x.2 r.data r.data2 with
          | some v => x.1.atomWrite r v
          | none => x.1
        (s1.countMoved r.asid r.size).answer r x.2
      | _ => s

def execAtomicPerform (req : Nat) (s : State) : Out := .next (atomicPerform req s)

/-! ## mcas (R252, R253) -/

/-- The lines of an `mcas` in ascending order. -/
def mcasLines (ents : List McasEnt) : List Nat :=
  sortBy (fun a b => decide (a ≤ b)) ((ents.map (fun e => lineNo e.pa)).eraseDups)

/-- The line whose lock the request asks for, if its thread lets it ask; the lanes of one instruction that name a common word
ask in lane order (R239). -/
def State.wantsLock (s : State) (r : Req) : Option Nat :=
  match r.kind with
  | .mcas ents locked =>
    if r.waits && s.ownOrder r && !s.needsCommit r && (!locked.isEmpty || s.arrivalOrder r) then
      (mcasLines ents).find? (fun l => !locked.contains l)
    else none
  | _ => none

/-- A request for a lock waits for the unlock in the order of R253. -/
def execMcasLock (req : Nat) (s : State) : Out :=
  match s.req? req with
  | none => .next s
  | some r =>
    match s.wantsLock r, r.kind with
    | some line, .mcas ents locked =>
      if (Tbl.find s.locks line).isSome then .next (s.queueAt line r.age r.agent r.id)
      else if !s.mayServe line r.id then .next s
      else
        .next (({ s with locks := Tbl.put s.locks line r.id }.setReq r.id (fun y => { y with kind := .mcas ents (locked ++ [line]) })).served
          line r.id)
    | _, _ => .next s

/-- The entries whose word differs from what they expect, as a mask. -/
def mcasMask (s : State) : Nat → List McasEnt → Nat
  | _, [] => 0
  | i, e :: t => (if Memory.read s.mem e.pa 8 = e.exp.toNat then 0 else 2 ^ i) + mcasMask s (i + 1) t

/-- The writes of a successful `mcas`, one entry after another, each as its page's kind has it. -/
def mcasWrite (r : Req) (s : State) (e : McasEnt) : State :=
  let line := lineNo e.pa
  let x := s.homeStore r.core e.kind e.pa (bytesOf 8 e.new.toNat)
  if e.kind = 1 then (x.1.advance r.core x.2).refresh r.core line (x.1.lineAt line) x.2 s.clock else x.1

/-- What reading an entry does to the core's time (R213, R227). -/
def mcasSee (r : Req) (s : State) (e : McasEnt) : State :=
  if e.kind = 1 then s.advance r.core (s.tsOf (lineNo e.pa)).wts else s.seeStrict false { r with addr := e.pa }

def mcasComplete (req : Nat) (s : State) : State :=
  match s.req? req with
  | none => s
  | some r =>
    match r.kind with
    | .mcas ents locked =>
      if !r.waits || !(mcasLines ents).all (fun l => locked.contains l) then s
      else if ents.any (fun e => s.poisoned { r with kind := .load, place := .mem, addr := e.pa, size := 8 }) then
        ((s.unlock r.id).failReq r 0x51).dropFences
      else
        let mask := mcasMask s 0 ents
        let s1 := ents.foldl (mcasSee r) s
        let s2 := if mask = 0 then ents.foldl (mcasWrite r) s1 else s1
        ((s2.unlock r.id).countMoved r.asid (8 * ents.length)).answer r (if mask = 0 then 256 else mask)
    | _ => s

def execMcasComplete (req : Nat) (s : State) : Out := .next (mcasComplete req s)

/-! ## Watches (R261, R262, R415) -/

/-- The home has no room for a further watch. -/
def State.watchFull (s : State) (host : Bool) (line : Nat) : Bool :=
  if host then decide (1024 ≤ ((s.watches.filter (·.host)).map (·.line)).eraseDups.length) && !s.watches.any (fun w => w.host && w.line == line)
  else decide (4096 ≤ (s.watches.filter (fun w => !w.host && sliceOf w.line == sliceOf line)).length)

def watchArm (req : Nat) (s : State) : State :=
  match s.req? req with
  | none => s
  | some r =>
    match r.kind with
    | .watch ctr =>
      if r.place == .host && s.fab.portsUp.isEmpty then s
      else if !s.canPerform r then s.queueUp r
      else if (s.ownMerged r).poisoned r then (s.failReq r 0x51).dropFences
      else
        let host := r.place == .host
        let line := lineNo r.addr
        let s0 := s.ownMerged r
        let word := if host then Memory.read s0.hostMem r.addr r.size
          else ofBytes (overlay (s0.versionBytes r.core) r.addr (Memory.bytes s0.mem r.addr r.size))
        let s1 := s0.dropReq r.id
        if word ≠ r.data ∨ s1.watchFull host line then (s1.signal ctr 1 (s1.lineTime host line)).dropFences
        else
          ({ s1 with
            nextId := s1.nextId + 1
            watches := s1.watches ++ [{ id := s1.nextId, uid := r.uid, line := line, host := host, counter := ctr, fired := false }] } : State).dropFences
    | _ => s

def execWatchArm (req : Nat) (s : State) : Out := .next (watchArm req s)

/-- A watch that has seen a write signals its counter, with the time of the line's write, and is gone. -/
def execWatchFire (watch : Nat) (s : State) : Out :=
  match s.watches.find? (fun w => w.id == watch && w.fired) with
  | none => .next s
  | some w => .next (({ s with watches := s.watches.filter (fun x => x.id != watch) } : State).signal w.counter 1 (s.lineTime w.host w.line))

/-- The host invalidates a watched line (R415). -/
def execHostSnoopInvalidation (line : Nat) (s : State) : Out :=
  .next (if s.fab.portsUp.isEmpty then s else s.touchLine true line)

/-! ## Accesses to host memory (R415) -/

/-- Lodestar issues a host access, once the order of its thread's accesses lets it (R415). -/
def State.lodge (s : State) (req : Nat) : State :=
  match s.req? req with
  | none => s
  | some r => if r.place == .host && r.lodged.isNone && s.canPerform r then s.setReq req (fun y => { y with lodged := some s.clock }) else s

/-- A host access that Lodestar issued has stood unanswered for 1,000,000 cycles (R415). -/
def State.overdue (s : State) (t : Option Nat) : Bool := match t with | some t => decide (t + 1000000 ≤ s.clock) | none => false

/-- The host answers an access that Lodestar has issued in time: a load binds, a store is performed and acknowledged, an atomic is
performed. -/
def hostAccessComplete (req : Nat) (s : State) : State :=
  match s.req? req with
  | none => s
  | some r =>
    if r.place != .host || s.fab.portsUp.isEmpty || s.overdue r.lodged || !s.canPerform r then s
    else
      let write := fun (t : State) (v : Nat) =>
        (({ t with hostMem := Memory.write t.hostMem r.addr r.size v } : State).touchLine true (lineNo r.addr)).strictBy true r.core r.addr
      match r.kind with
      | .load | .scale => (s.bindGroup r).dropFences
      | .store => (((write s r.data).countMoved r.asid r.size).dropReq r.id).dropFences
      | .atom op | .red op =>
        let old := Memory.read s.hostMem r.addr r.size
        let t := s.seeStrict true r
        (match atomNew op r.ty old r.data r.data2 with | some v => write t v | none => t).countMoved r.asid r.size |>.answer r old
      | _ => s

def execHostAccessComplete (req : Nat) (s : State) : Out := .next (hostAccessComplete req s)

end Sys2Proof.Machine
end

