-- ==== Sys2Proof/Machine/Barrier.lean ====
section
/-! DEFINITION. Crew barriers and scratchpad queues (opcodes 0x92 to 0x95, R263 to R270): decided at issue against what every
earlier operation leaves, and performed at the control area or the A-buffer when the thread's earlier accesses let them. -/

namespace Sys2Proof.Machine

/-! ## Barriers (R265) -/

/-- What a `bar` does: it arrives with a count per lane, and it waits. -/
structure BarUse where
  arrive : Bool
  wait : Bool
  deriving DecidableEq, Repr

/-- BARRIER_MISMATCH applies. -/
def barBad (u : BarUse) (b : Nat) (x : Barrier) (counts : List Nat) : Bool :=
  decide (15 < b) || (u.arrive
    && (counts.any (fun c => c = 0 || decide (4096 < c)) || counts.any (fun c => c != counts.headD 0)
      || (x.cnt != 0 && counts.headD 0 != x.cnt.toNat)))

/-- The arrival of lanes `m`: the count is latched, ARR rises, and each lane holds W and Q. `late` of them are still to be
performed. -/
def Core.barArrive (k : Core) (w b cnt late : Nat) (m : Lanes) : Core :=
  let x := k.bar b
  let waves := match Tbl.find k.waves w with
    | some y =>
      let q := Bits.rd y.barQ b
      Tbl.put k.waves w { y with
        barW := Bits.wr y.barW b (Bits.rd y.barW b ||| m)
        barQ := Bits.wr y.barQ b (if x.parity then q ||| m else q &&& ~~~ m) }
    | none => k.waves
  let y := { x with
    cnt := if x.cnt = 0 then BitVec.ofNat 16 cnt else x.cnt
    arr := x.arr + BitVec.ofNat 16 (laneCount m)
    open_ := x.open_ + late }
  { k with bars := Tbl.put k.bars b y, waves := waves }

/-- The release of an arrival that lane l makes; none when nothing of its thread has still to be performed (R227). -/
def arriveReq (b : Nat) (k : Ctx) (s : State) (l : Nat) : List Req :=
  let r := { k.req (.arrive b) l k.op with place := .abuf, ord := .rel, id := s.nextId }
  if s.ownOrder r then [] else [r]

/-- An arrival is performed, and the phase may complete (R265). -/
def State.performArrival (s : State) (r : Req) (b : Nat) : State :=
  ((((s.dropReq r.id).modCore r.core (fun k =>
    let x := k.bar b
    { k with bars := Tbl.put k.bars b { x with open_ := x.open_ - 1 } })).barCheck r.core b)).dropFences

/-- The lanes of `m` with a pending arrival of the open phase wait at the barrier; the others go on, W := 0. -/
def Wave.barWait (y : Wave) (b : Nat) (parity : Bool) (m : Lanes) (pc : PC) (clock : Nat) : Wave :=
  let q := Bits.rd y.barQ b
  let wait := m &&& Bits.rd y.barW b &&& (if parity then q else ~~~ q)
  let go := m &&& ~~~ wait
  { (if wait = 0 then y else y.moveTo wait pc (.suspended (.barrier b)) clock) with
    barW := Bits.wr y.barW b (Bits.rd y.barW b &&& ~~~ go) }

def barBody (u : BarUse) (a : Opnd) (count : Ctx → Nat → Nat) (k : Ctx) (s : State) : State :=
  if k.pass = 0 then s
  else
    let b := k.u32 a k.low
    let counts := if u.arrive then (lanesOf k.pass).map (count k) else []
    if k.x.taskQueue.isSome || barBad u b ((s.core k.core).bar b) counts then s.takeTrap k.core k.wave k.lanes 0x40 0 k.pc 0 k.pc
    else
      let s1 := if u.arrive then
          let rs := (lanesOf k.pass).flatMap (arriveReq b k s)
          ((s.addReqs rs).modCore k.core (fun c => c.barArrive k.wave b (counts.headD 0) rs.length k.pass)).barCheck k.core b
        else s
      if u.wait then
        s1.onWave k (fun y => y.barWait b ((s1.core k.core).bar b).parity k.pass k.pc k.clock)
      else s1

def useArrive : BarUse := { arrive := true, wait := false }
def useWait : BarUse := { arrive := false, wait := true }
def useSync : BarUse := { arrive := true, wait := true }

def execBarArrive (h : Hdr) (o : FmtA) (s : State) : Out :=
  issue (.barArrive h o) s (barBody useArrive o.a (fun k l => k.u32 o.b l))
def execBarWait (h : Hdr) (o : FmtA) (s : State) : Out :=
  issue (.barWait h o) s (barBody useWait o.a (fun _ _ => 0))
def execBarSync (h : Hdr) (o : FmtA) (s : State) : Out :=
  issue (.barSync h o) s (barBody useSync o.a (fun k l => k.u32 o.b l))
def execBarArriveImm (h : Hdr) (o : FmtI) (s : State) : Out :=
  issue (.barArriveImm h o) s (barBody useArrive o.a (fun _ _ => o.imm.toNat))
def execBarSyncImm (h : Hdr) (o : FmtI) (s : State) : Out :=
  issue (.barSyncImm h o) s (barBody useSync o.a (fun _ _ => o.imm.toNat))

/-! ## Suspension (R106, R324) -/

/-- The post of operation `id` is taken back. -/
def Wave.unpost (w : Wave) (id : Nat) : Wave :=
  match w.chanOf id with
  | none => w
  | some (t, _) =>
    { w with posts := Tbl.put w.posts t (Tbl.getD w.posts t 0 - 1), toks := Tbl.put w.toks t ((w.tok t).filter (fun o => o.id != id)) }

/-- The passing lanes leave the split and wait to issue the instruction again: nothing is posted, and the checker has
recorded no post (R125, R324). -/
def suspendReplay (k : Ctx) (why : Susp) (s : State) : State :=
  s.onWave k (fun y => { (y.unpost k.op).moveTo k.pass k.pc (.suspended why) k.clock with chkTok := k.x.chkTok })

/-! ## Scratchpad queues (R267 to R270) -/

/-- A queue header (Table 9-6) at an A-buffer address. -/
structure SqHead where
  at_ : Nat
  head : Nat
  tail : Nat
  cap : Nat
  allow : Nat
  deriving DecidableEq, Repr

/-- The 16 bytes of a header as a number. -/
def Core.sqWord (k : Core) (z : Nat) : Nat := Memory.read k.abuf z 16

def sqDecode (z x : Nat) : SqHead :=
  { at_ := z, head := fieldOf x 0 32, tail := fieldOf x 32 32, cap := fieldOf x 64 16, allow := fieldOf x 80 16 }

def SqHead.word (x : SqHead) : Nat := x.head + x.tail * 2 ^ 32 + x.cap * 2 ^ 64 + x.allow * 2 ^ 80

/-- TAIL − HEAD modulo 2^32. -/
def SqHead.used (x : SqHead) : Nat := truncTo 32 ((x.tail : Int) - (x.head : Int))

/-- The header of the queue at z as every operation issued so far leaves it (R270): that of the last operation still to be
performed, or the A-buffer's. -/
def State.sqView (s : State) (c z : Nat) : Nat :=
  match ((s.reqs.filter (fun r => r.core == c && r.waits)).filterMap (fun r => match r.kind with
    | .squeue z' hdr _ => if z' = z then some hdr else none
    | _ => none)).getLast? with
  | some x => x
  | none => (s.core c).sqWord z

/-- The header of queue q, if q is bound and its header is valid (R267). -/
def State.sqHead (s : State) (c q : Nat) : Option SqHead :=
  match (if q < 32 then Tbl.find (s.core c).squeues q else none) with
  | none => none
  | some z =>
    let x := sqDecode z (s.sqView c z)
    if 2 ≤ x.cap ∧ x.cap ≤ 1024 ∧ x.used ≤ x.cap ∧ x.allow ≤ x.cap then some x else none

/-- The address of the slot of HEAD or TAIL value i of the ring: a value modulo 2^32 (R269). -/
def SqHead.slot (x : SqHead) (i : Nat) : Nat := x.at_ + 16 + 8 * (i % 2 ^ 32 % x.cap)

/-- Every passing lane takes a cause. -/
def passTrap (k : Ctx) (cause addr : Nat) (s : State) : State :=
  (s.onWave k (fun y => y.unpost k.op)).takeTrap k.core k.wave k.pass cause 0 k.pc addr k.pc

/-- The splits that wait on queue q replay. -/
def Core.sqWake (k : Core) (q clock : Nat) (sel : Nat → Bool) : Core :=
  { k with waves := k.waves.map (fun e => (e.1, e.2.wakeSusp clock
      (fun p => match p.st with | .suspended (.squeue n seen) => n == q && sel seen | _ => false) (fun p => p.pc))) }

/-- The request of one lane of a queue operation that leaves the header `hdr` at z: with `size` 8 it writes or reads the
slot at `addr` (R270). -/
def sqReq (k : Ctx) (z hdr : Nat) (pop : Bool) (ord : Ord) (addr size data l : Nat) : Req :=
  { k.req (.squeue z hdr pop) l k.op with place := .abuf, addr := addr, size := size, va := addr, ord := ord, data := data }

/-- A queue operation whose lanes may all go on, and which no earlier operation on its queue holds, is performed at the
A-buffer: the slots and the header are written, and a pop binds what it reads (R270). -/
def State.performSq (s : State) (c op : Nat) : State :=
  let mine := s.reqs.filter (fun r => r.core == c && r.op == op && r.waits && (match r.kind with | .squeue .. => true | _ => false))
  let zOf := fun (r : Req) => match r.kind with | .squeue z _ _ => some z | _ => none
  let earlier := fun (r : Req) => s.reqs.any (fun x => x.core == c && x.op != op && x.waits && decide (x.id < r.id)
    && (zOf x).isSome && zOf x == zOf r)
  if mine.isEmpty || !mine.all (fun r => s.canPerform r && !earlier r) then s
  else
    (mine.foldl (fun (t : State) r => match r.kind with
      | .squeue z hdr pop =>
        let v := Memory.read (t.core c).abuf r.addr r.size
        let t1 := t.modCore c (fun k =>
          { k with abuf := Memory.write (if pop then k.abuf else Memory.write k.abuf r.addr r.size r.data) z 16 hdr })
        if pop then t1.setReq r.id (fun y => { y with st := .bound v }) else t1.dropReq r.id
      | _ => t) s).dropFences

/-- The queue operation of the context with one request per passing lane, performed at once where it may be. -/
def sendSq (k : Ctx) (rs : List Req) (s : State) : State := (s.addReqs rs).performSq k.core k.op

def sqinitBody (o : FmtA) (k : Ctx) (s : State) : State :=
  if k.pass = 0 then s
  else
    let q := k.u32 o.a k.low
    let z := k.u32 o.b k.low
    let cap := k.u32 o.c k.low
    if 31 < q ∨ k.x.taskQueue.isSome then passTrap k 0x41 0 s
    else if z % 16 ≠ 0 then passTrap k 0x14 z s
    else if cap < 2 ∨ 1024 < cap then passTrap k 0x41 0 s
    else if k.x.abytes < z + 16 + 8 * cap then passTrap k 0x1A z s
    else
      let x : SqHead := { at_ := k.x.abase + z, head := 0, tail := 0, cap := cap, allow := cap }
      sendSq k ((lanesOf k.pass).map (sqReq k x.at_ x.word false .rlx x.at_ 0 0))
        (s.modCore k.core (fun c => ({ c with squeues := Tbl.put c.squeues q x.at_ }).sqWake q k.clock (fun _ => true)))

def execSqinit (h : Hdr) (o : FmtA) (s : State) : Out := issue (.sqinit h o) s (sqinitBody o)

/-- An operation on the queue that a names: QUEUE_INVALID for an unbound queue or a bad header, its address 0
(notes/assumptions/39). DESIGN CHOICE (notes/assumptions/98): a v register names the queue by its lowest passing lane. -/
def onQueue (o : FmtA) (k : Ctx) (s : State) (f : Nat → SqHead → State) : State :=
  if k.pass = 0 then s
  else
    let q := k.u32 o.a k.low
    match s.sqHead k.core q with
    | none => passTrap k 0x41 0 s
    | some x => f q x

/-- A slot that the operation uses lies outside the wave's allocation (R220). -/
def slotsOut (k : Ctx) (x : SqHead) (start n : Nat) : Bool :=
  (List.range n).any (fun i => decide (k.x.abase + k.x.abytes < x.slot (start + i) + 8))

def sqpushBody (o : FmtA) (k : Ctx) (s : State) : State :=
  onQueue o k s (fun q x =>
    let ls := lanesOf k.pass
    let n := ls.length
    if x.cap < n then passTrap k 0x41 0 s
    else if x.cap < x.used + n ∨ x.allow < n then suspendReplay k (.squeue q (s.sqView k.core x.at_)) s
    else if slotsOut k x x.tail n then passTrap k 0x1A x.at_ s
    else
      let y := { x with tail := (x.tail + n) % 2 ^ 32, allow := x.allow - n }
      sendSq k (ls.zipIdx.map (fun e => sqReq k x.at_ y.word false .rel (x.slot (x.tail + e.2)) 8 (k.elem o.d .b64 0 e.1) e.1)) s)

def execSqpush (h : Hdr) (o : FmtA) (s : State) : Out := issue (.sqpush h o) s (sqpushBody o)

/-- `sqpush.credit`, which has no handle, only raises ALLOW. -/
def sqcreditBody (o : FmtA) (k : Ctx) (s : State) : State :=
  onQueue o k s (fun _ x =>
    let y := { x with allow := min (x.allow + laneCount k.pass) x.cap }
    sendSq k ((lanesOf k.pass).map (sqReq k x.at_ y.word false .rel x.at_ 0 0)) s)

def execSqpushCredit (h : Hdr) (o : FmtA) (s : State) : Out := issue (.sqpushCredit h o) s (sqcreditBody o)

def sqpopBody (free : Bool) (o : FmtA) (k : Ctx) (s : State) : State :=
  onQueue o k s (fun q x =>
    let ls := lanesOf k.pass
    let n := ls.length
    if x.cap < n then passTrap k 0x41 0 s
    else if x.used < n then suspendReplay k (.squeue q (s.sqView k.core x.at_)) s
    else if slotsOut k x x.head n then passTrap k 0x1A x.at_ s
    else
      let y := { x with head := (x.head + n) % 2 ^ 32, allow := if free then min (x.allow + n) x.cap else x.allow }
      sendSq k (ls.zipIdx.map (fun e => sqReq k x.at_ y.word true .acq (x.slot (x.head + e.2)) 8 0 e.1))
        (s.onWave k (fun w => { w with outs := w.outs ++ [k.out k.op k.pass (.load o.d .b64 1) false (fun _ => 0)] })))

def execSqpop (h : Hdr) (o : FmtA) (s : State) : Out := issue (.sqpop h o) s (sqpopBody false o)
def execSqpopFree (h : Hdr) (o : FmtA) (s : State) : Out := issue (.sqpopFree h o) s (sqpopBody true o)

/-- What the control area and the A-buffer owe a core is performed when its thread's accesses let it: an arrival at a crew
barrier, an operation on a scratchpad queue (R265, R270). -/
def State.performLocal (s : State) (req : Nat) : State :=
  match s.req? req with
  | none => s
  | some r => match r.kind with
    | .arrive b => if s.canPerform r then s.performArrival r b else s
    | .squeue .. => s.performSq r.core r.op
    | _ => s

/-- A change of a queue's header wakes the splits that wait on it, to replay (R269). -/
def execSqHeaderWake (core q : Nat) (s : State) : Out :=
  .next (s.modCore core (fun k => k.sqWake q s.clock (fun seen =>
    match Tbl.find k.squeues q with
    | some z => s.sqView core z != seen
    | none => true)))

end Sys2Proof.Machine
end

