-- ==== Sys2Proof/Machine/Flags.lean ====
section
/-! DEFINITION. Carry, borrow, saturation and comparison of the integer group (R137, R138, R140, R151), and the
arithmetic results that the integer instructions share, as functions of operand bits. -/

namespace Sys2Proof.Machine

/-- Bits of an integer type: 32 or 64 (R135). -/
def tyW (t : Ty) : Nat := t.bits

/-- Sum or difference with a carry or borrow: the result and the predicate (R140). -/
def addSub (subtract : Bool) (t : Ty) (sat : Bool) (a b cin : Nat) : Nat × Bool :=
  let e : Int := if subtract then intVal t a - intVal t b - (cin : Int) else intVal t a + intVal t b + (cin : Int)
  let co := if subtract then decide (a < b + cin) else decide (2 ^ tyW t ≤ a + b + cin)
  if sat then (truncTo (tyW t) (clampTo t e), clampTo t e != e) else (truncTo (tyW t) e, co)

/-- A result truncated, or clamped under SAT (R138). -/
def narrow (t : Ty) (sat : Bool) (e : Int) : Nat := truncTo (tyW t) (if sat then clampTo t e else e)

/-- `mulh`: the high half of the exact product (R141). -/
def mulHigh (t : Ty) (a b : Nat) : Nat := truncTo (tyW t) (intVal t a * intVal t b / (2 : Int) ^ tyW t)

/-- Quotient and remainder (R142). -/
def divRem (t : Ty) (a b : Nat) : Nat × Nat :=
  let x := intVal t a
  let y := intVal t b
  if y = 0 then (truncTo (tyW t) (-1), truncTo (tyW t) x)
  else if t.signed ∧ x = intMin t ∧ y = -1 then (truncTo (tyW t) (intMin t), 0)
  else (truncTo (tyW t) (Int.tdiv x y), truncTo (tyW t) (Int.tmod x y))

/-- `min` and `max` (R143). -/
def lesser (t : Ty) (a b : Nat) : Nat := if intVal t a ≤ intVal t b then a else b
def greater (t : Ty) (a b : Nat) : Nat := if intVal t a < intVal t b then b else a

/-- Shifts and rotation (R145). -/
def shlW (w a n : Nat) : Nat := if w ≤ n then 0 else a * 2 ^ n % 2 ^ w
def shrW (w a n : Nat) : Nat := if w ≤ n then 0 else a / 2 ^ n
def shaW (w a n : Nat) : Nat :=
  if w ≤ n then (if 2 ^ (w - 1) ≤ a then 2 ^ w - 1 else 0) else truncTo w (sintOf w a / (2 : Int) ^ n)
def rotW (w a n : Nat) : Nat :=
  let k := n % w
  (a * 2 ^ k + a / 2 ^ (w - k)) % 2 ^ w

/-- `shf`: a window of {b:a} (R146). -/
def shfW (fill : Bool) (a b c : Nat) : Nat :=
  let x := b * 2 ^ 32 + a
  if fill then x / 2 ^ (min c 64) % 2 ^ 32
  else
    let n := c % 64
    (x / 2 ^ n + x * 2 ^ (64 - n)) % 2 ^ 32

/-- Position and length of a bit field (R147). -/
def fieldSpec (w p : Nat) : Nat × Nat :=
  let pos := p % 256
  let len := p / 256 % 256
  (pos, if w ≤ pos then 0 else min len (w - pos))

/-- `bfe` (R147). -/
def bfeW (t : Ty) (a p : Nat) : Nat :=
  let f := fieldSpec (tyW t) p
  if f.2 = 0 then 0
  else
    let x := fieldOf a f.1 f.2
    if t.signed then truncTo (tyW t) (sintOf f.2 x) else x

/-- `bfi` (R147). -/
def bfiW (w a b p : Nat) : Nat :=
  let f := fieldSpec w p
  if f.2 = 0 then a else a - fieldOf a f.1 f.2 * 2 ^ f.1 + b % 2 ^ f.2 * 2 ^ f.1

/-- Counts and reversal (R148). -/
def popcW (w a : Nat) : Nat := onesOf w a
def clzW (w a : Nat) : Nat := w - bitLen a
def ctzW : Nat → Nat → Nat
  | 0, _ => 0
  | w + 1, a => if a % 2 = 1 then 0 else ctzW w (a / 2) + 1
def brevW : Nat → Nat → Nat
  | 0, _ => 0
  | w + 1, a => a % 2 * 2 ^ w + brevW w (a / 2)

/-- `perm`: byte i of the result (R149). -/
def permByte (x c i : Nat) : Nat :=
  let s := fieldOf c (4 * i) 4
  let b := fieldOf x (8 * (s % 8)) 8
  if 8 ≤ s then (if 128 ≤ b then 255 else 0) else b
def permW (a b c : Nat) : Nat :=
  let x := b * 2 ^ 32 + a
  permByte x c 0 + permByte x c 1 * 2 ^ 8 + permByte x c 2 * 2 ^ 16 + permByte x c 3 * 2 ^ 24

/-- A comparison condition (R151). -/
def cmpCond (sub : Nat) (a b : Int) : Bool :=
  match sub with
  | 0 => a == b | 1 => a != b | 2 => decide (a < b) | 3 => decide (a ≤ b) | 4 => decide (b < a) | _ => decide (b ≤ a)

/-- `plop`: entry of the truth table (R152). -/
def plopBit (lut : Nat) (a b c : Bool) : Bool := fieldOf lut (4 * bitOf a + 2 * bitOf b + bitOf c) 1 == 1

/-- `lea` (R153). -/
def leaW (a x sh : Nat) : Nat := (a + x * 2 ^ sh) % 2 ^ 64

/-- Sign or zero extension of the low bits to `n` registers (R155). -/
def extW (t : Ty) (n a : Nat) : Nat := if t.signed then truncTo (32 * n) (sintOf t.bits a) else a % 2 ^ t.bits

end Sys2Proof.Machine
end

