-- ==== Sys2Proof/Machine/Control.lean ====
section
/-! DEFINITION. The control instructions (opcodes 0x70 to 0x7F, R158 to R172), with the slot that has an unassigned
major opcode (R56). -/

namespace Sys2Proof.Machine

/-! ## Transfers (R36, R37, R117) -/

/-- The earliest cycle in which a transfer's target issues: a line other than the transfer's own and the next adds a
cycle (R117). -/
def transferAt (k : Ctx) (target : PC) : Nat :=
  k.clock + 1 + k.h.stall.toNat
    + (if lineOf target = lineOf k.pc ∨ lineOf target = lineOf k.pc + 64 then 0 else 1)

/-- The lanes of `m` go to `target` as a split of their own, whose BTM check is still to be made (R37, R106). -/
def Wave.transfer (w : Wave) (k : Ctx) (m : Lanes) (target : PC) : Wave :=
  (w.without m).addSplit
    { Split.fresh target m .ready k.clock with notBefore := transferAt k target, origin := some k.pc }

/-- Each passing lane goes to the address that `f` gives it; an address that breaks R35 takes MISALIGNED_PC in its
lanes (R37, R160). -/
def transferTo (k : Ctx) (f : Nat → Nat) (s : State) : State :=
  let ts := (lanesOf k.pass).map (fun l => (l, f l))
  let s1 := (groupLanes (ts.filter (fun e => pcOk e.2))).foldl (fun t g =>
    t.onWave k (fun y => y.transfer k g.2 (BitVec.ofNat 56 g.1))) s
  s1.laneFaults k ((ts.filter (fun e => !pcOk e.2)).map (fun e => (e.1, 0x04, e.2)))

/-- The target of format C: DISP lines from the line of the instruction, at SLOT (R51). -/
def branchTarget (o : FmtC) (pc : PC) : Nat :=
  (BitVec.ofNat 56 (lineOf pc + o.slot.toNat * 12) + (o.disp.signExtend 56) * 64).toNat

def execBra (h : Hdr) (o : FmtC) (s : State) : Out :=
  issue (.bra h o) s (fun k => transferTo k (fun _ => branchTarget o k.pc))
def execBrx (h : Hdr) (o : FmtC) (s : State) : Out :=
  issue (.brx h o) s (fun k => transferTo k (fun l => k.u64 o.a l))

/-- The link of R161: v58 and v59 := next(x) in each passing lane, readable from t + 2. -/
def linkWrite (k : Ctx) (s : State) : State :=
  fixed k Cls.c.latency (writesAt (.v 58) 2 ((lanesOf k.pass).map (fun l => (l, (nextPc k.pc).toNat)))) s

def execCall (h : Hdr) (o : FmtC) (s : State) : Out :=
  issue (.call h o) s (fun k s => transferTo k (fun _ => branchTarget o k.pc) (linkWrite k s))
def execCallx (h : Hdr) (o : FmtC) (s : State) : Out :=
  issue (.callx h o) s (fun k s => transferTo k (fun l => k.u64 o.a l) (linkWrite k s))
def execRet (h : Hdr) (o : FmtC) (s : State) : Out :=
  issue (.ret h o) s (fun k => transferTo k (fun l => k.u64 o.a l))

/-! ## Rejoins (R110, R112) -/

/-- REJOIN_MISMATCH: the whole issuing split takes it at the PC of the instruction. -/
def rejoinMismatch (k : Ctx) (s : State) : State := s.takeTrap k.core k.wave k.lanes 0x08 0 k.pc 0 k.pc

def joinBody (o : FmtC) (k : Ctx) (s : State) : State :=
  let r := k.x.jreg o.jx.toNat
  if k.pass = 0 then s
  else if r.v ∧ r.arr ≠ 0 then rejoinMismatch k s
  else s.onWave k (fun y => { y with j := Tbl.put y.j o.jx.toNat { r with exp := k.pass, arr := 0, v := true } })

def waitjBody (o : FmtC) (k : Ctx) (s : State) : State :=
  let n := o.jx.toNat
  let r := k.x.jreg n
  if k.pass = 0 then s
  else if !r.v then s.onWave k (fun y => y.moveTo k.pass (nextPc k.pc) .ready k.clock)
  else if r.arr ≠ 0 ∧ r.pcw ≠ k.pc then rejoinMismatch k s
  else
    let arr := r.arr ||| k.pass
    let r1 : JReg := { r with pcw := k.pc, arr := arr }
    if r.exp &&& ~~~ arr = 0 then
      s.onWave k (fun y =>
        { y.joinMerge n k.pass (nextPc k.pc) k.clock with j := Tbl.put y.j n { r1 with v := false } })
    else
      s.onWave k (fun y => { y.moveTo k.pass k.pc (.joinWait n) k.clock with j := Tbl.put y.j n r1 })

def execJoin (h : Hdr) (o : FmtC) (s : State) : Out := issue (.join h o) s (joinBody o)
def execWaitj (h : Hdr) (o : FmtC) (s : State) : Out := issue (.waitj h o) s (waitjBody o)

/-! ## The wave (R164 to R171) -/

def execExit (h : Hdr) (o : FmtC) (s : State) : Out :=
  issue (.exit h o) s (fun k s => if k.pass = 0 then s else s.exitLanes k.core k.wave k.pass)
def execNop (h : Hdr) (o : FmtC) (s : State) : Out := issue (.nop h o) s (fun _ s => s)
def execDelay (h : Hdr) (o : FmtC) (s : State) : Out :=
  issue (.delay h o) s (fun k s => s.onWave k (fun y => { y with notBefore := y.notBefore + o.cnt.toNat }))
def execYield (h : Hdr) (o : FmtC) (s : State) : Out :=
  issue (.yield h o) s (fun k s =>
    if k.pass = 0 then s else s.onWave k (fun y => { y with yieldUntil := some (k.clock + 64) }))
def execBackoff (h : Hdr) (o : FmtC) (s : State) : Out :=
  issue (.backoff h o) s (fun k s => if k.pass = 0 then s else s.onWave k (fun y => { y with level := y.level - 1 }))
def execTwait (h : Hdr) (o : FmtC) (s : State) : Out := issue (.twait h o) s (fun _ s => s)
def execTreset (h : Hdr) (o : FmtC) (s : State) : Out :=
  issue (.treset h o) s (fun k s =>
    s.onWave k (fun y => { y with gmark := Tbl.put y.gmark o.tk.toNat (Tbl.getD y.posts o.tk.toNat 0) }))

/-- One 32-bit value to a v register in each passing lane, or to an s register once (R158). -/
def controlResult (k : Ctx) (d : Opnd) (x : Nat) (s : State) : State :=
  fixed k Cls.c.latency (writesAt d 1 ((k.compute d.isS).map (fun l => (l, x)))) s

def execTread (h : Hdr) (o : FmtC) (s : State) : Out :=
  issue (.tread h o) s (fun k => controlResult k o.a (k.x.countBefore k.clock o.tk.toNat))

/-- The wave with quota n (R171, R172): a register gained is 0, and a register lost takes its pending writes with
it. -/
def Wave.setQuota (w : Wave) (n nextId : Nat) : Wave :=
  let low := min n w.quota
  { w with
    quota := n
    v := Bits.keep w.v (fun k => decide (k / 32 < low))
    bad := w.bad.filter (fun k => decide (k / 32 < low) || decide (8192 ≤ k))
    pend := w.pend.map (fun e => { e with v := e.v.filter (fun x => decide (x.1 / 32 < low)) })
    cuts := if n < w.quota then w.cuts ++ [(nextId, n)] else w.cuts }

/-- The quota that a request for n leaves (R171). -/
def regqGrant (k : Core) (w n quota : Nat) : Nat :=
  if n > quota then if n - quota ≤ k.freePool (quadOf w) then n else quota else n

def regqBody (o : FmtC) (k : Ctx) (s : State) : State :=
  if k.pass = 0 then s
  else
    let q := regqGrant (s.core k.core) k.wave (o.cnt.toNat * 8) k.x.quota
    controlResult k o.a q (s.onWave k (fun y => y.setQuota q s.nextId))

def execRegq (h : Hdr) (o : FmtC) (s : State) : Out := issue (.regq h o) s (regqBody o)

/-- R56: an unassigned major opcode takes ILLEGAL_OPCODE for the whole split. -/
def execUnassignedOpcode (_word : BitVec 96) (s : State) : Out := .next (decodeFault s 0x01)

end Sys2Proof.Machine
end

