-- ==== Sys2Proof/Machine/WaveEvents.lean ====
section
/-! DEFINITION. The steps of the wave engine besides issue: register writes (R114, R142), token retirement (R120), aged
and yielding waves (R131, R166), the retirement of a wave (R102, R336) and the delivery of traps (R27, R379). -/

namespace Sys2Proof.Machine

/-! ## Register writes (R114, R142, R157) -/

/-- The pending writes that `sel` picks are made at `clock`, in the order of their due cycles. -/
def Wave.landWhere (w : Wave) (clock : Nat) (sel : PWrite → Bool) : Wave :=
  (byDue (w.pend.filter sel)).foldl (Wave.land clock) { w with pend := w.pend.filter (fun e => !sel e) }

/-- R114: the fixed-latency writes whose cycle has come are made. DESIGN CHOICE (notes/assumptions/46): in that cycle an
issue may come before or after them, so a read of FPCTL may see their flags or not (R78). -/
def execFixedLatencyWrite (core wave : Nat) (s : State) : Out :=
  .next (s.modWave core wave (fun w => w.landWhere s.clock (fun e => !e.isDiv && decide (e.early ≤ s.clock))))

/-- R142: the divide unit writes the results of operation `op`. -/
def execDivideComplete (core wave op : Nat) (s : State) : Out :=
  .next (s.modWave core wave (fun w => w.landWhere s.clock (fun e => e.isDiv && e.op == some op && decide (e.due ≤ s.clock))))

/-! ## Tokens (R120) -/

/-- The number of operations of a list, oldest first, that retire in cycle `clock`: each retires when it and those before it
have completed. `t` is the latest completion so far. -/
def retireNow (clock : Nat) : Nat → List TokOp → Nat
  | _, [] => 0
  | t, o :: l => (if max t o.at_ = clock then 1 else 0) + retireNow clock (max t o.at_) l

/-- The flags of retiring operations, oldest first, are raised in the cycles of their retirements (R78). -/
def raiseRetired : Nat → List TokOp → Wave → Wave
  | _, [], w => w
  | t, o :: l, w => raiseRetired (max t o.at_) l (if o.fl = 0 then w else w.raise o.fl (max t o.at_))

/-- The completed operations at the front of a token retire: they raise their flags (R78), and the acquires among them make
their poll records (R130). -/
def Wave.retireTok (w : Wave) (clock k : Nat) : Wave :=
  let left := (w.tok k).dropWhile (·.done)
  let gone := (w.tok k).takeWhile (·.done)
  if gone.isEmpty then w
  else
    let n := retireNow clock 0 gone
    let before := w.countBefore clock k - w.count k
    let y := { w with toks := Tbl.put w.toks k left, falls := if n = 0 then w.falls else Tbl.put w.falls k (clock, before + n) }
    (gone.filterMap (·.poll)).foldl Wave.polled (raiseRetired 0 gone y)

def execTokenRetire (core wave tok : Nat) (s : State) : Out :=
  .next (s.modWave core wave (fun w => w.retireTok s.clock tok))

/-! ## Selection (R131, R166) -/

/-- The splits of a wave in the order in which R108 takes them: READY longest first, and on a tie the lowest lane. -/
def byReady (l : List Split) : List Split :=
  sortBy (fun a b => decide (a.since < b.since) || (a.since == b.since && decide (lowestLane a.mask ≤ lowestLane b.mask))) l

/-- R131: a wave that has been ready, or held only by a busy datapath, for 4,096 cycles becomes aged and claims the
datapath that it waits for, that of the split which it issues next (R108). -/
def waveAged (core wave : Nat) (s : State) : State :=
  match s.wave? core wave with
  | none => s
  | some w =>
    match ((byReady w.splits).filterMap (s.readyBut core w)).head? with
    | none => s
    | some r =>
      if w.agedAt.isSome || decide (s.clock < w.waitSince + 4096) then s
      else
        (s.setWave core wave { w with agedAt := some s.clock }).modCore core (fun k =>
          if r.path == .none then k else { k with agedFor := k.agedFor ++ [(quadOf wave * 8 + pathIndex r.path, wave)] })

def execWaveAged (core wave : Nat) (s : State) : Out := .next (waveAged core wave s)

/-- R166: the 64 cycles of a yield are over. -/
def execYieldExpiry (core wave : Nat) (s : State) : Out :=
  .next (s.modWave core wave (fun w => match w.yieldUntil with
    | some t => if t ≤ s.clock then { w with yieldUntil := none } else w
    | none => w))

/-! ## Guards (R290 to R292) -/

def Core.guardAt (k : Core) (n : Nat) : Guard := Tbl.getD k.guards n .unset

/-- The outcome that a slot gives a command guarded with polarity `gp`. -/
def guardOutcome (g : Guard) (gp : Bool) : Option Bool :=
  match g with
  | .unset => none
  | .set0 => some (gp == false)
  | .set1 => some (gp == true)

/-- What a command's guard resolves to against the slots as they stand. -/
def Core.guardSays (k : Core) (g : Option (Nat × Bool)) : Option Bool :=
  g.bind (fun x => guardOutcome (k.guardAt x.1) x.2)

/-- Every accepted command whose slot is SET resolves (R290, R308). -/
def Core.resolveAll (k : Core) : Core :=
  { k with
    cmds := k.cmds.map (fun e =>
      if e.2.accepted && e.2.resolved.isNone && (k.guardSays e.2.guard).isSome then
        (e.1, { e.2 with resolved := k.guardSays e.2.guard, after := e.2.guard.bind (fun g => Tbl.find k.guardBy g.1) })
      else e)
    mats := k.mats.map (fun m =>
      if m.st == .queued && m.resolved.isNone && (k.guardSays m.guard).isSome then
        { m with resolved := k.guardSays m.guard, after := m.guard.bind (fun g => Tbl.find k.guardBy g.1) }
      else m) }

/-- A `gset` or `gclr` is performed at the slots. -/
def Core.applyGuard (k : Core) (g : GuardWrite) : Core :=
  let ns := (List.range 32).filter (fun i => g.mask.getLsbD i)
  { k with
    guards := ns.foldl (fun t n => if g.value = .unset then Tbl.del t n else Tbl.put t n g.value) k.guards
    guardBy := ns.foldl (fun t n => if g.value = .unset then Tbl.del t n else Tbl.put t n g.by_) k.guardBy }

/-- The guard writes due by `clock` are performed in order, and commands resolve at the first cycle in which their slot
is SET. -/
def Core.settle (k : Core) (clock : Nat) : Core :=
  let due := k.guardWrites.filter (fun g => decide (g.due ≤ clock))
  (due.foldl (fun (y : Core) g => y.resolveAll.applyGuard g)
    { k with guardWrites := k.guardWrites.filter (fun g => decide (clock < g.due)) }).resolveAll

def State.settle (s : State) (c : Nat) : State := s.modCore c (fun k => k.settle s.clock)

/-- Once no wave is left on a core, its pins are released (R63), and guarded commands still unresolved are discarded
(R295, R315). -/
def Core.discardOpen (k : Core) : Core :=
  if !k.waves.isEmpty then k
  else
    { k with
      pins := []
      cmds := k.cmds.map (fun e => if e.2.guard.isSome && e.2.resolved.isNone then (e.1, { e.2 with resolved := some false }) else e)
      mats := k.mats.map (fun m => if m.guard.isSome && m.resolved.isNone then { m with resolved := some false } else m) }

/-- As `discardOpen`, for a core that holds a crew and no stage context. -/
def State.lastWave (s : State) (c : Nat) : State :=
  match s.crew? c with
  | some k => if k.stage.isSome then s else s.modCore c (fun y => (y.settle s.clock).discardOpen)
  | none => s

/-! ## Retirement (R102, R27, R336) -/

/-- A wave may retire: no lane is left and every token stands at zero. -/
def Wave.spent (w : Wave) : Bool := w.splits.isEmpty && w.toks.all (fun e => e.2.isEmpty)

/-- What a retired wave has in flight goes on under a number that no resident wave has (MODEL): its WAVE field still
reads as the slot's (Table 13-11). A load whose registers are gone is dropped. -/
def State.orphan (s : State) (c w n : Nat) : State :=
  let re := fun (x : Nat) => if x = w then w + 128 * n else x
  let gone := (s.held.filter (fun x => x.k.core == c && x.k.wave == w)).map (·.k.op)
  let keep := fun (r : Req) => !(r.core == c && r.wave == w && (r.kind == .load || r.kind == .scale))
  ({ s with
    held := s.held.filter (fun x => !gone.contains x.k.op)
    reqs := (s.reqs.filter keep).map (fun r => if r.core = c then { r with wave := re r.wave } else r)
    calls := s.calls.map (fun x => if x.core = c then { x with wave := re x.wave } else x)
    svc := { s.svc with rings := s.svc.rings.map (fun x => if x.core = c then { x with wave := re x.wave } else x) } } : State).modCore c
    (fun k => { k with
      cmds := k.cmds.map (fun e => (e.1, { e.2 with wave := re e.2.wave, after := e.2.after.map (fun a => (re a.1, a.2)) }))
      mats := k.mats.map (fun m => { m with wave := re m.wave, after := m.after.map (fun a => (re a.1, a.2)) })
      guardBy := k.guardBy.map (fun e => (e.1, (re e.2.1, e.2.2)))
      guardWrites := k.guardWrites.map (fun g => { g with by_ := (re g.by_.1, g.by_.2) })
      waves := Tbl.del k.waves w
      walks := k.walks.filter (fun x => !gone.contains x.op)
      agedFor := k.agedFor.filter (fun e => e.2 != w) })

/-- The task queue of a retired task wave runs one wave less (R352). -/
def State.taskWaveEnd (s : State) (q : Option Nat) : State :=
  match q with
  | none => s
  | some qi =>
    match Tbl.find s.objs qi with
    | some o => match o.body with | .queue x => s.setBody qi (.queue { x with waves := x.waves - 1 }) | _ => s
    | none => s

/-- The WAVE object becomes DONE, and the exit counter is signalled (R336). -/
def State.waveDone (s : State) (c : Nat) (w : Wave) : State :=
  let s1 := match w.waveObj with
    | some (i, g) =>
      match Tbl.find s.objs i with
      | some o => match o.body with
        | .wave _ x => if o.gen = g then s.setBody i (.wave true x) else s
        | _ => s
      | none => s
    | none => s
  if w.exitCtr = 0 then s1 else s1.signal w.exitCtr 1 (s1.core c).time

/-- The time that a stage context has worked since it was last charged (R373). -/
def Core.residence (k : Core) (z : Crew) (clock : Nat) : Nat := z.busy + (if k.waves.isEmpty then 0 else clock - z.startedAt)

/-- The last task wave of a stage context leaves: what it worked stands to be charged. -/
def State.noteBusy (s : State) (c wave : Nat) : State :=
  match s.crew? c with
  | some z =>
    if z.stage.isSome ∧ (s.core c).waves.map (·.1) = [wave] then s.modCrew c (fun y => { y with busy := (s.core c).residence z s.clock })
    else s
  | none => s

/-- Faults still held for the wave's channels go to the fault port only (R27). -/
def State.flushTraps (s : State) (c w : Nat) : State :=
  (s.traps.filter (fun t => t.core == c && t.wave == w && t.uid == s.uidOf c)).foldl (fun t x => t.deliver x x.lanes) s

def waveRetire (core wave : Nat) (s : State) : State :=
  match s.wave? core wave with
  | none => s
  | some w =>
    if !w.spent then s
    else ((((((s.flushTraps core wave).noteBusy core wave).orphan core wave s.nextId).fresh.2).taskWaveEnd w.taskQueue).waveDone core w).lastWave core

def execWaveRetire (core wave : Nat) (s : State) : Out := .next (waveRetire core wave s)

/-! ## Delivery of traps (R27, R379) -/

/-- Lanes of a trap wait in a split that an instruction holds, which has begun and has not made its effect (R434). -/
def Wave.holds (w : Wave) (m : Lanes) : Bool :=
  w.splits.any (fun p => (p.mask &&& m) != 0 && (match p.st with | .held _ => true | _ => false))

/-- The crew numbered `uid` is saved. -/
def State.isSaved (s : State) (uid : Nat) : Bool := s.frames.any (fun e => match e.2.crew with | some k => k.uid == uid | none => false)

/-- A trap without a channel is taken at the next boundary; a trap with one reaches here only in lanes that have
exited, which send the record alone. The traps of a saved crew stay for its restore (R389). -/
def trapDelivery (trap : Nat) (s : State) : State :=
  match s.traps.find? (fun t => t.id == trap) with
  | none => s
  | some t =>
    match (if t.uid = s.uidOf t.core then s.wave? t.core t.wave else none) with
    | none => if s.isSaved t.uid || s.gathers? t then s else s.deliver t t.lanes
    | some w =>
      if s.gathers? t then s
      else if !t.free then s.deliver t (t.lanes &&& ~~~ w.lanes)
      else if w.holds t.lanes then s
      else s.deliver t t.lanes

def execTrapDelivery (trap : Nat) (s : State) : Out := .next (trapDelivery trap s)

end Sys2Proof.Machine
end

