-- ==== Sys2Proof/Machine/Copy.lean ====
section
/-! DEFINITION. The copy engine (opcodes 0xA0 to 0xAA and its steps, R271 to R295): commands from issue to completion,
guard slots, batches, deferred arrivals and barrier byte counts. -/

namespace Sys2Proof.Machine

/-! ## Channels and commands -/

/-- An idle channel (R271). -/
def Chan.zero : Chan := { queue := [], iptr := 0, wptr := 0, halt := false, mcause := 0 }

def Core.chan (k : Core) (n : Nat) : Chan := Tbl.getD k.chans n Chan.zero

def Core.putChan (k : Core) (n : Nat) (x : Chan) : Core := { k with chans := Tbl.put k.chans n x }

/-- Bytes of a destination element: e of R277. -/
def CopyCmd.e (c : CopyCmd) : Nat := if c.dec then c.ty.bits / 8 else 1

/-- The row length W in destination bytes. -/
def CopyCmd.w (c : CopyCmd) : Nat := c.rb * c.e

/-- The stream positions that the command takes. -/
def CopyCmd.total (c : CopyCmd) : Nat := c.rn * c.w

/-- A source or destination address as an integer: a buffer address is a 32-bit value (R275). -/
def spaceAddr (x : DWord) (sp : Nat) : Int := if sp = 0 then (x.toNat : Int) else ((x.toNat % 2 ^ 32 : Nat) : Int)

/-- The first source byte of row r (R277). -/
def CopyCmd.srcRow (c : CopyCmd) (r : Nat) : Int :=
  let a := spaceAddr c.src c.ssp
  match c.op with
  | .cpy => a
  | .cpys | .cpym => a + (r : Int) * c.b2
  | .cpyg => a + c.rows.getD r 0 * c.b3
  | .cpyx => a + ((r * c.w : Nat) : Int)

/-- The first destination byte of row r (R277). -/
def CopyCmd.dstRow (c : CopyCmd) (r : Nat) : Int :=
  let d := spaceAddr c.dst c.dsp
  match c.op with
  | .cpy => d
  | .cpys | .cpym => d + (r : Int) * c.b3
  | .cpyg => d + ((r * c.w : Nat) : Int)
  | .cpyx => d + c.rows.getD r 0 * c.b3

/-- A core with command `id` changed. -/
def Core.setCmd (k : Core) (id : Nat) (f : CopyCmd → CopyCmd) : Core :=
  match Tbl.find k.cmds id with
  | some c => { k with cmds := Tbl.put k.cmds id (f c) }
  | none => k

/-! ## Accesses of the engines to memory (R282, R301) -/

/-- The pages that a command has reached, with their translations (R282). -/
abbrev Kept := List (Nat × DWord × Nat)

/-- The translation of an engine's access: that with which its command first reached the page, or a new one. -/
def State.engineXlate (s : State) (c asid va : Nat) (kept : Kept) : Tr :=
  match kept.find? (fun e => e.1 == va / 65536) with
  | some e => .hit e.2.1 (e.2.2 + va % 65536)
  | none => s.xlateNow c asid va

/-- Translates an engine's access for a process on core `c`: the leaf, the place and the address there, or the cause
and address of its fault. -/
def State.engineAt (s : State) (c asid need : Nat) (va : Int) (n : Nat) (kept : Kept) : Except (Nat × Nat) (DWord × Place × Nat) :=
  if va < 0 ∨ outside va.toNat n then .error (0x12, truncTo 64 va)
  else
    match s.engineXlate c asid va.toNat kept with
    | .fault e => .error (e, va.toNat)
    | .miss => .error (0x10, va.toNat)
    | .hit leaf pa =>
      if !leafGrants leaf need then .error (0x11, va.toNat)
      else match s.placeOf (s.tenantOfAsid asid) leaf pa n with
        | .error e => .error (e, va.toNat)
        | .ok (pl, a) => .ok (leaf, pl, a)

/-- The data of command `num` was spoilt between two dies (R402). -/
def State.spoiltLink (s : State) (num : Nat) : Bool := s.poison.any (fun e => e.place == .link num)

/-- An uncorrectable error lies under n bytes at the home as core `c` reads them: the bytes of its crew's version are sound
(R429). -/
def State.homeBad (s : State) (c kind a n : Nat) : Bool :=
  let v := if kind = 1 then s.versionBytes c else []
  !s.poison.isEmpty && (List.range n).any (fun i => (Tbl.find v (a + i)).isNone && s.poisonAt c .mem (a + i) 1)

/-- n bytes within one page as command `num` of core `c` reads them at their home (R282), with the leaf of their page. The
cause 0 stands for a wait: the line is locked, or requests that waited for an unlock go first (R218), or no port leads to the
host (R415). -/
def State.engineRead (s : State) (c asid num : Nat) (va : Int) (n : Nat) (kept : Kept) : Except (Nat × Nat) (DWord × List Byte) :=
  match s.engineAt c asid rightR va n kept with
  | .error e => .error e
  | .ok (leaf, pl, a) =>
    if s.spoiltLink num || (pl == .mem && s.homeBad c (leafKind leaf) a n) then .error (0x51, va.toNat)
    else match pl with
      | .host => if s.fab.portsUp.isEmpty then .error (0, va.toNat) else .ok (leaf, Memory.bytes s.hostMem a n)
      | _ =>
        let bs := Memory.bytes s.mem a n
        if (Tbl.find s.locks (lineNo a)).isSome || !s.mayServe (lineNo a) num then .error (0, va.toNat)
        else .ok (leaf, if leafKind leaf = 1 then overlay (s.versionBytes c) a bs else bs)

/-- What an engine's write to memory meets: a fault, a lock or a commit that it waits for, or the new state. -/
inductive EngineWrite where
  | fault (cause addr : Nat)
  | wait
  | done (t : State)
  deriving DecidableEq, Repr

/-- n bytes written at their home by command `num` of core `c` (R282, R383). -/
def State.engineWrite (s : State) (c asid num : Nat) (va : Int) (bs : List Byte) (kept : Kept) : EngineWrite :=
  match s.engineAt c asid rightW va bs.length kept with
  | .error (e, a) => .fault e a
  | .ok (leaf, pl, a) =>
    match pl with
    | .host =>
      if s.versionOpen c || s.fab.portsUp.isEmpty then .wait
      else .done ((({ s with hostMem := Memory.setBytes s.hostMem a bs } : State).touchLine true (lineNo a)).strictBy true c a)
    | _ =>
      if (Tbl.find s.locks (lineNo a)).isSome || !s.mayServe (lineNo a) num then .wait
      else if s.versionOpen c && (leafKind leaf != 1 || s.committing c || s.versionFull c (lineNo a)) then .wait
      else
        let x := s.homeStore c (leafKind leaf) a bs
        .done (x.1.advance c x.2)

/-! ## Barrier byte counts (R287) -/

/-- PB of barrier b of core `c` changes by `d`, with the completion check; a stage context has no barriers (R349). -/
def State.addPb (s : State) (c b : Nat) (d : Int) : State :=
  match s.crew? c with
  | some k =>
    if k.stage.isSome then s
    else (s.modCore c (fun k =>
      let x := k.bar b
      { k with bars := Tbl.put k.bars b { x with pb := BitVec.ofNat 32 (truncTo 32 ((x.pb.toNat : Int) + d)) } })).barCheck c b
  | none => s

/-- The cores that receive the command's bytes (R286). -/
def CopyCmd.dests (x : CopyCmd) (c : Nat) : List Nat :=
  match x.op with
  | .cpym => ((List.range 8).filter (fun i => x.mask / 2 ^ i % 2 == 1)).map (fun i => c / 8 * 8 + i)
  | _ => [c]

/-- Core `d` may receive a multicast of the crew on core `c` (R286). -/
def State.peerOk (s : State) (c d : Nat) : Bool :=
  d == c || (match s.crew? c, s.crew? d with
    | some x, some y => x.gang.isSome && x.gang == y.gang
    | _, _ => false)

/-- n bytes of a command are counted on the barriers of its destinations. -/
def State.countPb (s : State) (c : Nat) (x : CopyCmd) (n : Nat) : State :=
  if x.be && n != 0 then ((x.dests c).filter (s.peerOk c)).foldl (fun t d => t.addPb d x.bar (-(n : Int))) s else s

/-! ## Completion (R272, R284) -/

/-- Seal operations whose commands have all completed are complete. -/
def State.sweepSeals (s : State) (c : Nat) : State :=
  let k := s.core c
  let live := fun (x : SealOp) => x.cmds.any (fun i => (Tbl.find k.cmds i).isSome)
  let s1 := s.modCore c (fun k => { k with seals := k.seals.filter live })
  (k.seals.filter (fun x => !live x)).foldl (fun t x => t.completeOp c x.wave x.op) s1

/-- A cause reported to the thread of a command: held for a seal that posted, or for a `carr` of its thread, and
otherwise for the next boundary (R27). -/
def State.cmdTrap (s : State) (c : Nat) (x : CopyCmd) (cause secondary addr : Nat) (chan : Option Nat) : State :=
  let k := s.core c
  let tok := ((k.seals.filter (fun y => y.cmds.contains x.id)).filterMap (fun y =>
    (s.wave? c x.wave).bind (fun w => w.chanOf y.op))).head?
  let carr := if k.carrs.any (fun y => y.cmds.contains x.id) then some x.id else none
  s.postTrap x.asid c x.wave (laneBit x.lane) cause secondary x.pc addr tok carr chan 0

/-- WPTR of a channel that runs: the lowest stream position that has not been delivered (R281). -/
def Core.lowest (k : Core) (ch : Chan) : Nat :=
  match (ch.queue.filterMap (fun i => Tbl.find k.cmds i)).head? with
  | some y => y.start + y.done
  | none => ch.iptr

/-- The command leaves its queue and batch: its remaining bytes are counted, its flags are raised, WPTR passes over its
positions once everything below them is delivered, unless the channel has halted, and its seals may complete. -/
def State.endCmd (s : State) (c : Nat) (x : CopyCmd) : State :=
  let s1 := s.countPb c x (x.total - x.done)
  let s2 := s1.modWave c x.wave (fun w => w.raise x.flags s.clock)
  let s3 := s2.modCore c (fun k =>
    let k1 : Core := { k with cmds := Tbl.del k.cmds x.id }
    let ch := { k.chan x.chan with queue := (k.chan x.chan).queue.filter (fun i => i != x.id) }
    k1.putChan x.chan { ch with wptr := if ch.halt then ch.wptr else k1.lowest ch })
  s3.sweepSeals c

/-- The command completes as faulted. -/
def State.failCmd (s : State) (c : Nat) (x : CopyCmd) (cause secondary addr : Nat) (chan : Option Nat) : State :=
  (s.cmdTrap c x cause secondary addr chan).endCmd c x

/-! ## Checks at the start (R278, R282, R286, R289) -/

/-- The footprint of rows in a buffer region of `limit` bytes with granule g: the first failure. -/
def bufCheck (limit g : Nat) (base stride : Int) (strided : Bool) (rows w : Nat) : Option (Nat × Nat) :=
  let last := base + ((rows - 1 : Nat) : Int) * stride
  if min base last < 0 ∨ (limit : Int) < max base last + (w : Int) then some (0x1A, truncTo 64 base)
  else if base % (g : Int) ≠ 0 ∨ (strided ∧ stride % (g : Int) ≠ 0) ∨ w % g ≠ 0 then some (0x14, truncTo 64 base)
  else none

/-- The bytes of the A-buffer that an A-buffer destination on core `d` may use (R278). -/
def State.aLimit (s : State) (c d : Nat) (x : CopyCmd) : Nat :=
  if d = c then x.abytes else match s.crew? d with | some k => k.abytes | none => 0

/-- Whether the rows of the source and of the destination stand at a stride, and at which. -/
def CopyCmd.strides (x : CopyCmd) : (Int × Bool) × (Int × Bool) :=
  match x.op with
  | .cpy => ((0, false), (0, false))
  | .cpys | .cpym => ((x.b2, true), (x.b3, true))
  | .cpyg => ((0, false), (x.w, true))
  | .cpyx => ((x.w, true), (0, false))

/-- The buffer checks of R278. -/
def State.footprint (s : State) (c : Nat) (x : CopyCmd) : Option (Nat × Nat) :=
  let src := if x.ssp = 1 then [bufCheck x.abytes 16 (spaceAddr x.src 1) x.strides.1.1 x.strides.1.2 x.rn x.w] else []
  let dst := if x.dsp = 0 then [] else (x.dests c).map (fun d =>
    bufCheck (if x.dsp = 1 then s.aLimit c d x else Config.wbufBytes) (if x.dsp = 1 then 16 else 32)
      (spaceAddr x.dst 1) x.strides.2.1 x.strides.2.2 x.rn x.w)
  let la := x.b2.toNat
  let list := match x.op with
    | .cpyg | .cpyx =>
      [if x.abytes < la + 4 * x.rn then some (0x1A, la) else if la % 4 ≠ 0 then some (0x14, la) else none]
    | _ => []
  firstErr ((if 65536 < x.rn then some (0x1A, 0) else none) :: list ++ src ++ dst)

/-- FORMAT_ALIGN for the pages of a memory destination that translate at the start (R282). DESIGN CHOICE (notes/assumptions/90):
a page that translates only later, and takes part of a cell, faults when the command reaches it (`rowPartial`). -/
def State.partialCells (s : State) (c : Nat) (x : CopyCmd) : Option (Nat × Nat) :=
  if x.dsp ≠ 0 then none
  else ((List.range x.rn).filterMap (fun r =>
    let a := x.dstRow r
    if a < 0 ∨ outside a.toNat x.w then none
    else if (piecesOf a.toNat x.w).any (fun p => match s.xlateNow c x.asid p.1 with
      | .hit leaf pa => Piece.partialCell { va := p.1, len := p.2, leaf := leaf, pa := pa }
      | _ => false) then some (0x17, a.toNat) else none)).head?

/-- The format of the page that holds the first byte of a source row, if it translates. -/
def State.rowFormat (s : State) (c : Nat) (x : CopyCmd) (r : Nat) : Option Nat :=
  let a := x.srcRow r
  if a < 0 ∨ outside a.toNat 1 then none
  else match s.xlateNow c x.asid a.toNat with | .hit leaf _ => some (leafFmtc leaf) | _ => none

/-- The alignment of decoded elements (R289). -/
def State.decodeAlign (s : State) (c : Nat) (x : CopyCmd) : Option (Nat × Nat) :=
  if !x.dec then none
  else ((List.range x.rn).filterMap (fun r =>
    match s.rowFormat c x r with
    | some f =>
      let g := cellSize f
      if g ≠ 0 ∧ ((x.srcRow r).toNat % g ≠ 0 ∨ (f = 8 ∧ x.rb % 4 ≠ 0)) then some (0x14, (x.srcRow r).toNat) else none
    | none => none)).head?

/-- The failure that a command meets before any byte moves: its cause, secondary cause and address. -/
def State.copyBad (s : State) (c : Nat) (x : CopyCmd) : Option (Nat × Nat × Nat) :=
  let fault := fun (e : Nat × Nat) => (0x42, e.1, e.2)
  let stage := match s.crew? c with | some k => k.stage.isSome | none => false
  if x.op == .cpym && (x.dests c).any (fun d => !s.peerOk c d) then some (0x44, 0, 0)
  else if x.be && (stage || x.task) then some (0x42, 0x1A, 0)
  else match s.footprint c x with
    | some e => some (fault e)
    | none =>
      match s.partialCells c x with
      | some e => some (fault e)
      | none => (s.decodeAlign c x).map fault

/-- The row list (R277), read from the A-buffer at the start. -/
def Core.rowList (k : Core) (x : CopyCmd) : List Int :=
  match x.op with
  | .cpyg | .cpyx =>
    (List.range x.rn).map (fun r => sintOf 32 (Memory.read k.abuf (x.abase + x.b2.toNat + 4 * r) 4))
  | _ => []

/-! ## Moving bytes (R277, R281, R289) -/

/-- The scale byte's address of an element of an FQ4 page under the command's scale windows (R71). -/
def CopyCmd.scaleAt (x : CopyCmd) (leaf : DWord) (va sub : Nat) : Nat :=
  scaleAddr (Bits.rd x.scalewin (leafSws leaf)).toNat va (va % 65536 / 2 * 4 + sub) (leafGeo leaf)

/-- Decoded element n of a row at `row` whose first page has format f: its bits at the destination type and flags. -/
def State.copyDecode (s : State) (c : Nat) (x : CopyCmd) (row : Int) (f n : Nat) : Except (Nat × Nat) (Nat × BitVec 6) :=
  let g := cellSize f
  let va := if f = 8 then row + ((2 * (n / 4) : Nat) : Int) else row + ((n * g : Nat) : Int)
  if g = 0 then .error (0x16, truncTo 64 row)
  else if row.toNat % g ≠ 0 ∨ (f = 8 ∧ x.rb % 4 ≠ 0) then .error (0x14, truncTo 64 row)
  else match s.engineRead c x.asid x.id va g x.pages with
    | .error e => .error e
    | .ok (leaf, bs) =>
      let conv := fun (v : FV × Bool) =>
        let r := (fmtOf x.ty).conv x.rnd x.sat v.1
        (r.bits, r.fl ||| flIf v.2 flFI)
      if leafFmtc leaf ≠ f then .error (0x16, va.toNat)
      else if f = 8 then
        match s.engineRead c x.asid x.id (x.scaleAt leaf va.toNat (n % 4) : Nat) 1 x.pages with
        | .error e => .error e
        | .ok (_, sb) => .ok (conv (fq4Scaled (ofBytes bs) (n % 4) (ofBytes sb)))
      else .ok (conv (pageElem f (ofBytes bs), false))

/-- The bytes of the element at stream offset `p` of the command, with the flags that it raises. -/
def State.copySource (s : State) (c : Nat) (x : CopyCmd) (p : Nat) : Except (Nat × Nat) (List Byte × BitVec 6) :=
  let r := p / x.w
  let off := p % x.w
  let row := x.srcRow r
  if x.dec then
    match s.engineRead c x.asid x.id row 1 x.pages with
    | .error e => .error e
    | .ok (leaf, _) =>
      match s.copyDecode c x row (leafFmtc leaf) (off / x.e) with
      | .error e => .error e
      | .ok (b, fl) => .ok (bytesOf x.e b, fl)
  else if x.ssp = 0 then
    match s.engineRead c x.asid x.id (row + (off : Int)) 1 x.pages with
    | .error e => .error e
    | .ok (_, bs) => .ok (bs, 0)
  else
    let a := x.abase + (row + (off : Int)).toNat
    if s.poisonAt c .abuf a 1 then .error (0x51, (row + (off : Int)).toNat)
    else .ok ([Bits.rd (s.core c).abuf a], 0)

/-- Bytes written to a buffer of core `d`. -/
def State.bufWrite (s : State) (d dsp a : Nat) (bs : List Byte) : State :=
  s.modCore d (fun k => if dsp = 1 then { k with abuf := Memory.setBytes k.abuf a bs } else { k with wbuf := Memory.setBytes k.wbuf a bs })

/-- The page of a destination address, should it translate now, takes part of a cell from its row (R75, R282). -/
def State.rowPartial (s : State) (c : Nat) (x : CopyCmd) (r : Nat) (a : Int) : Bool :=
  (piecesOf (x.dstRow r).toNat x.w).any (fun p => decide ((p.1 : Int) ≤ a) && decide (a < (p.1 + p.2 : Nat))
    && (match s.engineXlate c x.asid p.1 x.pages with
      | .hit leaf pa => Piece.partialCell { va := p.1, len := p.2, leaf := leaf, pa := pa }
      | _ => false))

/-- The command reaches the pages at virtual addresses `vas`: those that translate keep the translation (R282). -/
def State.reachPages (s : State) (c : Nat) (x : CopyCmd) (vas : List Int) : CopyCmd :=
  vas.foldl (fun (y : CopyCmd) (va : Int) =>
    if va < 0 ∨ outside va.toNat 1 ∨ y.pages.any (fun e => e.1 == va.toNat / 65536) then y
    else match s.xlateNow c x.asid va.toNat with
      | .hit leaf pa => { y with pages := y.pages ++ [(va.toNat / 65536, leaf, pa - va.toNat % 65536)] }
      | _ => y) x

/-- The command reaches the element at stream offset `p`: its row's first source byte, whose page gives a decoded row's format
(R289), the element's, its scale byte and its destination. -/
def State.reach (s : State) (c : Nat) (x : CopyCmd) (p : Nat) : CopyCmd :=
  let row := x.srcRow (p / x.w)
  let off := p % x.w
  let f := match s.engineXlate c x.asid row.toNat x.pages with | .hit leaf _ => leafFmtc leaf | _ => 0
  let cell := if !x.dec then row + (off : Int)
    else if f = 8 then row + ((2 * (off / x.e / 4) : Nat) : Int) else row + ((off / x.e * cellSize f : Nat) : Int)
  let scale := if x.dec && f == 8 then
      (match s.engineXlate c x.asid cell.toNat x.pages with | .hit leaf _ => [(x.scaleAt leaf cell.toNat (off / x.e % 4) : Int)] | _ => [])
    else []
  s.reachPages c x ((if x.ssp = 0 then (if x.dec then [row, cell] else [cell]) ++ scale else [])
    ++ (if x.dsp = 0 then [x.dstRow (p / x.w) + (off : Int)] else []))

/-- Delivers the element at stream offset `p`; none while a lock or a commit is awaited. -/
def State.copyOne (s : State) (c : Nat) (x : CopyCmd) (p : Nat) : Except (Nat × Nat) (Option (State × BitVec 6)) :=
  match s.copySource c x p with
  | .error e => if e.1 = 0 then .ok none else .error e
  | .ok (bs, fl) =>
    let a := x.dstRow (p / x.w) + ((p % x.w : Nat) : Int)
    if x.dsp = 0 then
      if s.rowPartial c x (p / x.w) a then .error (0x17, truncTo 64 a)
      else match s.engineWrite c x.asid x.id a bs x.pages with
      | .fault e b => .error (e, b)
      | .wait => .ok none
      | .done t => .ok (some (t, fl))
    else
      .ok (some ((x.dests c).foldl (fun t d =>
        t.bufWrite d x.dsp (a.toNat + (if x.dsp = 1 ∧ d = c then x.abase else 0)) bs) s, fl))

/-- Delivers elements from offset `p` until `stop`, a fault or a wait: the state, the offset reached, the flags and the pages
reached. -/
def copyRun (c : Nat) (stop : Nat) : Nat → Nat → CopyCmd → State → BitVec 6 → State × Nat × BitVec 6 × Kept
  | 0, p, x, s, fl => (s, p, fl, x.pages)
  | n + 1, p, x, s, fl =>
    if stop ≤ p then (s, p, fl, x.pages)
    else
      let y := s.reach c x p
      match s.copyOne c y p with
      | .ok (some (t, f)) => copyRun c stop n (p + x.e) y t (fl ||| f)
      | _ => (s, p, fl, y.pages)

/-- The bytes that one delivery moves at most, so that PB counts them at least once for every 512 (R287). -/
def deliverMost : Nat := 480

/-- Where a delivery of `n` bytes ends: at the end of the destination's unit (R223, R282) or of the row. -/
def CopyCmd.stopAt (x : CopyCmd) (n : Nat) : Nat :=
  let g := match x.dsp with | 0 => 8 | 1 => 16 | _ => 32
  let p := x.done + n
  let a := x.dstRow (p / x.w) + ((p % x.w : Nat) : Int)
  let up := ((-a) % (g : Int)).toNat
  min x.total (min (p + up) ((p + x.w - 1) / x.w * x.w))

/-! ## Steps -/

/-- Commands issued earlier to the channel and not yet accepted come first: by cycle, then by quadrant (R280). -/
def acceptsBefore (y x : CopyCmd) : Bool :=
  !y.accepted && y.chan == x.chan && y.id != x.id
    && (decide (y.age < x.age) || (y.age == x.age && (decide (quadOf y.wave < quadOf x.wave)
      || (quadOf y.wave == quadOf x.wave && decide (y.id < x.id)))))

/-- R280: the command enters its channel's queue and takes its stream positions. -/
def copyAccept (core cmd : Nat) (s : State) : State :=
  match Tbl.find (s.core core).cmds cmd with
  | none => s
  | some x =>
    if x.accepted || decide (s.clock ≤ x.age) || (s.core core).cmds.any (fun e => acceptsBefore e.2 x) then s
    else
      let ch := (s.core core).chan x.chan
      let y := { x with accepted := true, start := ch.iptr }
      let s1 := (s.settle core).modCore core (fun k => (({ k with cmds := Tbl.put k.cmds cmd y } : Core).putChan x.chan
        { (k.chan x.chan) with queue := ch.queue ++ [cmd], iptr := ch.iptr + x.total }).resolveAll)
      if ch.halt then s1.failCmd core y 0x43 0 0 none
      else if x.total = 0 then s1.endCmd core y
      else s1

def execCopyAccept (core cmd : Nat) (s : State) : Out := .next (copyAccept core cmd s)

/-- R290: a guarded command resolves against its slot. -/
def execCopyGuardResolve (core cmd : Nat) (s : State) : Out :=
  .next (if (Tbl.find (s.core core).cmds cmd).isSome then s.settle core else s)

/-- Every access of thread (wave, lane) of core `c` issued before number `id` has been performed (R227, R283). -/
def State.releasedTo (s : State) (c wave lane id : Nat) : Bool :=
  s.ownOrder
    { id := id, uid := s.uidOf c, asid := 0, core := c, wave := wave, lane := lane, op := id, kind := .store, place := .abuf,
      pageKind := 0, addr := 0, size := 0, va := 0, elem := 0, off := 0, ord := .rel, scope := 0, ty := .none,
      data := 0, data2 := 0, age := 0, st := .waiting, pc := 0, lodged := none }

/-- The accesses that a command follows have been performed (R283, R290). -/
def State.cmdOrdered (s : State) (c wave lane id : Nat) (after : Option (Nat × Nat × Nat)) : Bool :=
  s.releasedTo c wave lane id && (match after with | some a => s.releasedTo c a.1 a.2.1 a.2.2 | none => true)

/-- A wave rests: at a hint, stopped by a forced save, or without a READY split (R384). -/
def Wave.rests (w : Wave) (forced : Bool) : Bool := 
  forced || w.rest.resting || !w.splits.any (fun p => match p.st with | .ready | .held _ => true | _ => false)

/-- The request that has reached a crew. -/
def State.preempted (s : State) (c : Nat) : Option Preempt := (s.crew? c).bind (fun k => k.preempt)

/-- Every wave of a crew that is being pre-empted rests: no command starts and no byte begins (R295, R316). -/
def State.enginesRest (s : State) (c : Nat) : Bool :=
  match s.preempted c with
  | some p => (s.core c).waves.all (fun e => e.2.rests p.forced)
  | none => false

/-- The first command of a channel that has not started. -/
def Core.nextCmd (k : Core) (chan : Nat) : Option Nat :=
  (k.chan chan).queue.find? (fun i => match Tbl.find k.cmds i with | some x => !x.started | none => false)

/-- R283: the channel starts its next command. -/
def copyStart (core chan : Nat) (s0 : State) : State :=
  let s := s0.settle core
  match (s.core core).nextCmd chan with
  | none => s
  | some i =>
    match Tbl.find (s.core core).cmds i with
    | none => s
    | some x =>
      if x.resolved == some false then (if ((s.core core).chan chan).queue.head? = some i then s.endCmd core x else s)
      else if s.enginesRest core || (x.guard.isSome && x.resolved.isNone) || !s.cmdOrdered core x.wave x.lane x.id x.after then s
      else
        let y := { x with started := true, rows := (s.core core).rowList x }
        match s.copyBad core y with
        | some (cause, sec, addr) => s.failCmd core x cause sec addr none
        | none => s.modCore core (fun k => k.setCmd i (fun _ => y))

def execCopyStart (core chan : Nat) (s : State) : Out := .next (copyStart core chan s)

/-- The head of its channel, started. -/
def Core.headCmd (k : Core) (cmd : Nat) : Option CopyCmd :=
  match Tbl.find k.cmds cmd with
  | some x => if x.started && (k.chan x.chan).queue.head? == some cmd then some x else none
  | none => none

/-- A version that the command's next bytes cannot enter commits first (R383). -/
def State.copyCommit (s : State) (c : Nat) (x : CopyCmd) : State :=
  if !s.versionOpen c || x.dsp != 0 then s
  else match s.engineAt c x.asid rightW (x.dstRow (x.done / x.w) + ((x.done % x.w : Nat) : Int)) 1 x.pages with
    | .ok (leaf, _, a) => if leafKind leaf != 1 || s.committing c || s.versionFull c (lineNo a) then s.commitVersion c else s
    | .error _ => s

/-- The physical line that a memory address of a command of core `c` lies on. -/
def State.engineLine (s : State) (c asid need : Nat) (va : Int) (kept : Kept) : List Nat :=
  match s.engineAt c asid need va 1 kept with
  | .ok (_, .mem, a) => [lineNo a]
  | _ => []

/-- The addresses in memory that the command touches next: source and destination. -/
def CopyCmd.nextAt (x : CopyCmd) : List (Nat × Int) :=
  let r := x.done / x.w
  (if x.ssp = 0 then [(rightR, x.srcRow r + ((if x.dec then 0 else x.done % x.w : Nat) : Int))] else [])
    ++ (if x.dsp = 0 then [(rightW, x.dstRow r + ((x.done % x.w : Nat) : Int))] else [])

/-- A command that meets a locked line is queued there as its channel's agent (R218, Table 8-17), and one that meets the host
without a port waits for its answer (R415). -/
def State.copyQueue (s : State) (c : Nat) (x : CopyCmd) : State :=
  let lines := x.nextAt.flatMap (fun e => s.engineLine c x.asid e.1 e.2 x.pages)
  let host := x.nextAt.any (fun e => match s.engineAt c x.asid e.1 e.2 1 x.pages with | .ok (_, .host, _) => true | _ => false)
  let t := if host && s.fab.portsUp.isEmpty && x.lodged.isNone then
      s.modCore c (fun k => k.setCmd x.id (fun y => { y with lodged := some s.clock }))
    else s
  lines.foldl (fun t l => t.queueAt l s.clock (4194304 + 4 * c + x.chan) x.id) t

/-- R281: bytes of the command are performed at their destination, WPTR advances and PB counts them. -/
def copyDeliver (core cmd bytes : Nat) (s0 : State) : State :=
  match (s0.core core).headCmd cmd with
  | none => s0
  | some x =>
    if x.total ≤ x.done ∨ s0.enginesRest core then s0
    else
      let s := s0.copyCommit core x
      let stop := x.stopAt (min bytes deliverMost)
      let r := copyRun core stop (stop - x.done) x.done x s x.flags
      let n := r.2.1 - x.done
      if n = 0 then s.copyQueue core x
      else
      let s1 := ({ r.1 with lineQ := r.1.lineQ.filter (fun e => e.num != cmd) } : State).modCore core (fun k =>
        let k1 := (k.setCmd cmd (fun y => { y with done := r.2.1, flags := r.2.2.1, pages := r.2.2.2, lodged := none })).countEv 10 n
        k1.putChan x.chan { (k1.chan x.chan) with wptr := x.start + r.2.1 })
      let s2 := if x.dsp = 0 then s1 else (x.dests core).foldl (fun t d => t.cleanseRange d (if x.dsp = 1 then .abuf else .wbuf)
        ((x.dstRow (x.done / x.w)).toNat + x.done % x.w + (if x.dsp = 1 ∧ d = core then x.abase else 0)) n) s1
      (s2.countMoved x.asid n).countPb core x n

def execCopyDeliver (core cmd bytes : Nat) (s : State) : Out := .next (copyDeliver core cmd bytes s)

/-- R272: a command all of whose bytes have been delivered completes. -/
def copyComplete (core cmd : Nat) (s : State) : State :=
  match (s.core core).headCmd cmd with
  | none => s
  | some x => if x.total ≤ x.done then s.endCmd core x else s

def execCopyComplete (core cmd : Nat) (s : State) : Out := .next (copyComplete core cmd s)

/-- R293: the command stops at the byte that cannot be moved, and its channel halts; every command that the channel
holds completes with COPY_HALTED. -/
def copyFaultHalt (core cmd : Nat) (s : State) : State :=
  match (s.core core).headCmd cmd with
  | none => s
  | some x =>
    if x.total ≤ x.done then s
    else match s.copyOne core (s.reach core x x.done) x.done with
      | .ok _ => s
      | .error (cause, addr) =>
        let s1 := s.modCore core (fun k => k.putChan x.chan { (k.chan x.chan) with halt := true, mcause := cause })
        let s2 := s1.failCmd core x 0x42 cause addr (some x.chan)
        let rest := ((s2.core core).chan x.chan).queue
        rest.foldl (fun t i => match Tbl.find (t.core core).cmds i with
          | some y => t.failCmd core y 0x43 0 0 none
          | none => t) s2

def execCopyFaultHalt (core cmd : Nat) (s : State) : Out := .next (copyFaultHalt core cmd s)

/-! ## Issue of the copy commands (R276) -/

/-- The elected lane of a command issued once for the split. -/
def Ctx.elected (k : Ctx) : Nat := lowestLane k.lanes

/-- The elected lane's guard passes. -/
def Ctx.electedOk (k : Ctx) : Bool := k.pass.getLsbD k.elected

/-- The scale windows as they govern the instruction. -/
def Ctx.windows (k : Ctx) : Bits 64 := Bits.wrs [] ((List.range 8).map (fun n => (n, k.x.rdWin k.fc k.clock n)))

/-- A register field of a copy command as its space reads it (R275). -/
def Ctx.spaceVal (k : Ctx) (o : Opnd) (sp l : Nat) : DWord :=
  if sp = 0 then BitVec.ofNat 64 (k.u64 o l) else BitVec.ofNat 64 (k.u32 o l)

/-- The command that the elected lane issues. -/
def copyCmdOf (op : CopyOp) (o : FmtX) (k : Ctx) : CopyCmd :=
  let l := k.elected
  let g := fun i => k.u32 (Opnd.up o.b i) l
  let list := op == .cpyg || op == .cpyx
  { id := k.op, asid := k.asid, op := op, wave := k.wave, lane := l, pc := k.pc, chan := o.ch.toNat,
    src := k.spaceVal o.a (cmdF o.cmd 21 2) l, dst := k.spaceVal o.d (cmdF o.cmd 19 2) l,
    ssp := cmdF o.cmd 21 2, dsp := cmdF o.cmd 19 2, rb := k.u32 o.b l, rn := if op == .cpy then 1 else g 1,
    b2 := if op == .cpy then 0 else if list then (g 2 : Int) else sintOf 32 (g 2),
    b3 := if op == .cpy then 0 else sintOf 32 (g 3),
    dec := cmdF o.cmd 18 1 == 1, rnd := Rnd.ofCode (cmdF o.cmd 16 2), sat := cmdF o.cmd 15 1 == 1, ty := o.ty,
    be := cmdF o.cmd 14 1 == 1, bar := cmdF o.cmd 10 4, mask := cmdF o.cmd 0 8,
    guard := o.guard.map (fun g => (g.1.toNat, g.2)), resolved := none, batch := none, scalewin := k.windows,
    accepted := false, started := false, rows := [], start := 0, done := 0, flags := 0, abase := k.x.abase,
    abytes := k.x.abytes, after := none, age := k.clock, task := k.x.taskQueue.isSome, pages := [], lodged := none }

def copyBody (op : CopyOp) (o : FmtX) (k : Ctx) (s : State) : State :=
  if !k.electedOk then s
  else s.modCore k.core (fun c => { c with cmds := Tbl.put c.cmds k.op (copyCmdOf op o k) })

def execCpy (h : Hdr) (o : FmtX) (s : State) : Out := issue (.cpy h o) s (copyBody .cpy o)
def execCpym (h : Hdr) (o : FmtX) (s : State) : Out := issue (.cpym h o) s (copyBody .cpym o)
def execCpys (h : Hdr) (o : FmtX) (s : State) : Out := issue (.cpys h o) s (copyBody .cpys o)
def execCpyg (h : Hdr) (o : FmtX) (s : State) : Out := issue (.cpyg h o) s (copyBody .cpyg o)
def execCpyx (h : Hdr) (o : FmtX) (s : State) : Out := issue (.cpyx h o) s (copyBody .cpyx o)

/-! ## seal, carr, cinit, gset, gclr, cptr -/

/-- A command names a guard that has not resolved, or stands in its channel behind a command that has not (R284). -/
def Core.guardOpen (k : Core) (x : CopyCmd) : Bool :=
  let open_ := fun (y : CopyCmd) => y.guard.isSome && y.resolved.isNone
  let queue := (k.chan x.chan).queue
  open_ x || k.cmds.any (fun e => e.2.chan == x.chan && open_ e.2
    && (if x.accepted then (queue.takeWhile (fun i => i != x.id)).contains e.1 else e.2.accepted || acceptsBefore e.2 x))

/-- The commands in the open set of a thread. -/
def Core.openSet (k : Core) (w l : Nat) : List CopyCmd :=
  (k.cmds.filter (fun e => e.2.wave == w && e.2.lane == l && e.2.batch.isNone)).map (·.2)

/-- The commands in batch n of a thread that have not completed. -/
def Core.batchOf (k : Core) (w l n : Nat) : List Nat :=
  (k.cmds.filter (fun e => e.2.wave == w && e.2.lane == l && e.2.batch == some n)).map (·.1)

def sealBody (o : FmtA) (k : Ctx) (s0 : State) : State :=
  if k.pass = 0 then s0
  else
    let s := s0.settle k.core
    let n := k.u32 o.a k.low
    let ls := lanesOf k.pass
    let c := s.core k.core
    if ls.any (fun l => (c.openSet k.wave l).any c.guardOpen) then
      (s.onWave k (fun y => y.unpost k.op)).takeTrap k.core k.wave k.lanes 0x45 0 k.pc 0 k.pc
    else
      let s1 := s.modCore k.core (fun c => { c with cmds := c.cmds.map (fun e =>
        if e.2.wave = k.wave ∧ k.pass.getLsbD e.2.lane ∧ e.2.batch = none then (e.1, { e.2 with batch := some n }) else e) })
      if k.tok.isNone then s1
      else
        let ids := ls.flatMap (fun l => (s1.core k.core).batchOf k.wave l n)
        (s1.modCore k.core (fun c => { c with seals := c.seals ++ [{ op := k.op, wave := k.wave, cmds := ids }] })).sweepSeals k.core

def execSeal (h : Hdr) (o : FmtA) (s : State) : Out := issue (.seal h o) s (sealBody o)

/-- BARRIER_MISMATCH ends the whole split (R265, R349). -/
def barrierMismatch (k : Ctx) (s : State) : State := s.takeTrap k.core k.wave k.lanes 0x40 0 k.pc 0 k.pc

def carrBody (o : FmtA) (k : Ctx) (s : State) : State :=
  if k.pass = 0 then s
  else
    let b := k.u32 o.a k.low
    let counts := (lanesOf k.pass).map (fun l => k.u32 o.c l)
    if k.x.taskQueue.isSome || barBad useArrive b ((s.core k.core).bar b) counts then barrierMismatch k s
    else
      s.modCore k.core (fun c =>
        let arrived := (c.barArrive k.wave b (counts.headD 0) 0 k.pass).bar b
        let c1 := c.barArrive k.wave b (counts.headD 0) 0 k.pass
        { c1 with
          bars := Tbl.put c1.bars b { arrived with arr := (c.bar b).arr }
          carrs := c1.carrs ++ (lanesOf k.pass).map (fun l =>
            { id := k.op, wave := k.wave, lane := l, bar := b, cmds := c.batchOf k.wave l (k.u32 o.b k.low) }) })

def execCarr (h : Hdr) (o : FmtA) (s : State) : Out := issue (.carr h o) s (carrBody o)

/-- R285: the deferred arrival of a lane whose batch has completed. A fault that waits for it is taken first (R27). -/
def carrArrival (core wave lane : Nat) (s : State) : State :=
  match (s.core core).carrs.find? (fun r => r.wave == wave && r.lane == lane
      && r.cmds.all (fun i => (Tbl.find (s.core core).cmds i).isNone)) with
  | none => s
  | some r =>
    if !s.releasedTo core wave lane r.id then s
    else match s.traps.find? (fun t => t.core == core && t.wave == wave && t.uid == s.uidOf core && t.lanes.getLsbD lane
        && (match t.carr with | some i => r.cmds.contains i | none => false)) with
      | some t => s.deliver t (laneBit lane)
      | none =>
        (s.modCore core (fun k => { k with
          carrs := k.carrs.filter (fun y => y != r)
          bars := Tbl.put k.bars r.bar { (k.bar r.bar) with arr := (k.bar r.bar).arr + 1 } })).barCheck core r.bar

def execCarrDeferredArrival (core wave lane : Nat) (s : State) : Out := .next (carrArrival core wave lane s)

def cinitBody (o : FmtA) (k : Ctx) (s : State) : State :=
  if !k.electedOk then s
  else if k.x.taskQueue.isSome then barrierMismatch k s
  else s.modCore k.core (fun c => { c with cinits := c.cinits ++
    [{ id := k.op, bar := k.u32 o.a k.elected, amount := BitVec.ofNat 32 (k.u32 o.b k.elected), due := k.clock + 8 }] })

def execCinit (h : Hdr) (o : FmtA) (s : State) : Out := issue (.cinit h o) s (cinitBody o)

/-- R287: a `cinit`'s amount is added to PB. -/
def execCinitPerform (core op : Nat) (s : State) : Out :=
  match (s.core core).cinits.find? (fun x => x.id == op) with
  | none => .next s
  | some x =>
    .next ((s.modCore core (fun k => { k with cinits := k.cinits.filter (fun y => y.id != op) })).addPb core x.bar
      (sintOf 32 x.amount.toNat))

/-- The slots of `mask` take `v` at t + 2. -/
def guardBody (mask : Ctx → Nat) (v : Ctx → Guard) (k : Ctx) (s : State) : State :=
  if !k.electedOk then s
  else s.modCore k.core (fun c => { c with guardWrites := c.guardWrites ++
    [{ due := k.clock + 2, mask := BitVec.ofNat 32 (mask k), value := v k, by_ := (k.wave, k.elected, k.op) }] })

/-- SET1 or SET0 by bit 0 of an operand. -/
def guardVal (o : Opnd) (k : Ctx) : Guard := if k.u32 o k.elected % 2 = 1 then .set1 else .set0

def execGset (h : Hdr) (o : FmtA) (s : State) : Out :=
  issue (.gset h o) s (guardBody (fun k => k.u32 o.b k.elected) (guardVal o.a))
def execGsetImm (h : Hdr) (o : FmtI) (s : State) : Out :=
  issue (.gsetImm h o) s (guardBody (fun _ => o.imm.toNat) (guardVal o.a))
def execGclr (h : Hdr) (o : FmtA) (s : State) : Out :=
  issue (.gclr h o) s (guardBody (fun k => k.u32 o.b k.elected) (fun _ => .unset))
def execGclrImm (h : Hdr) (o : FmtI) (s : State) : Out :=
  issue (.gclrImm h o) s (guardBody (fun _ => o.imm.toNat) (fun _ => .unset))

/-- A value of a channel, completed 12 cycles after the issue (R294). -/
def cptrBody (o : FmtA) (n : Nat) (f : Chan → Nat) (k : Ctx) (s : State) : State :=
  let x := f ((s.core k.core).chan (k.u32 o.a k.low))
  tokenWrite k (k.clock + 12) false (writesAt o.d n ((k.compute o.s).map (fun l => (l, x)))) s

/-- The status word of Table 10-6. -/
def Chan.status (x : Chan) : Nat := (if x.halt then 2 ^ 31 else 0) + x.mcause % 256 * 256 + x.queue.length % 128

def execCptr (h : Hdr) (o : FmtA) (s : State) : Out := issue (.cptr h o) s (cptrBody o 2 (fun x => x.wptr % 2 ^ 64))
def execCptrIptr (h : Hdr) (o : FmtA) (s : State) : Out := issue (.cptrIptr h o) s (cptrBody o 2 (fun x => x.iptr % 2 ^ 64))
def execCptrStat (h : Hdr) (o : FmtA) (s : State) : Out := issue (.cptrStat h o) s (cptrBody o 1 Chan.status)

end Sys2Proof.Machine
end

