-- ==== Sys2Proof/Machine/Matrix.lean ====
section
/-! DEFINITION. The matrix engine (opcodes 0xB0 to 0xB7 and its steps, R296 to R323): the queue, the tile scoreboard,
the array, the tile unit and the wave port. -/

namespace Sys2Proof.Machine

/-! ## C tiles and operands (R297) -/

/-- The C-buffer element of row i and column j of tile t. -/
def tileKey (t i j : Nat) : Nat := t * 16384 + i * 128 + j

def Core.tile (k : Core) (t i j : Nat) : Nat := (Bits.rd k.cbuf (tileKey t i j)).toNat

/-- A value times 2^(E − 127); E = 255 gives 0 and FI (R70). -/
def scaleBy (v : FV × Bool) (e : Option Nat) : FV × Bool :=
  match e with
  | none => v
  | some 255 => (.num false 0 0, true)
  | some x => match v.1 with | .num n m ex => (.num n m (ex + (x : Int) - 127), v.2) | y => (y, v.2)

/-- Element k of an operand run that begins at `base` of a buffer, at a format (R297, R303). -/
def operandElem (buf : Bits 8) (t : Ty) (base k : Nat) (scale : Option Nat) : FV × Bool :=
  match t with
  | .fq4 => scaleBy (fq4Elem (Memory.read buf (base + 2 * (k / 4)) 2) (k % 4)) scale
  | .i8 => (intFV (sintOf 8 (Memory.read buf (base + k) 1)), false)
  | .bf16 => ((fmtOf .bf16).dec ((fmtOf .bf16).flush (Memory.read buf (base + 2 * k) 2)), false)
  | .f16 => ((fmtOf .f16).dec (Memory.read buf (base + 2 * k) 2), false)
  | _ => scaleBy ((fmtOf t).dec (Memory.read buf (base + k) 1), false) scale

/-- Element widths in bits. -/
def elemBits (t : Ty) : Nat := match t with | .fq4 => 4 | _ => t.bits

/-- ⌈K × w / 8⌉. -/
def runBytes (t : Ty) (k : Nat) : Nat := ceilDiv (k * elemBits t) 8

/-- Table 11-1: the k that the array consumes per cycle for a pair of formats; 0 for a pair that it does not list. -/
def kpc (a b : Ty) : Nat :=
  let f8 := fun (t : Ty) => t == .e4m3 || t == .e5m2
  if (a == .bf16 && b == .bf16) || (a == .f16 && b == .f16) then 1
  else if a == .fq4 && b == .fq4 then 4
  else if (f8 a && f8 b) || (a == .i8 && b == .i8) || (a == .fq4 && f8 b) || (f8 a && b == .fq4) then 2
  else 0

/-! ## The parameter block (R301, R302) -/

/-- The reserved bits of a block are zero (Table 11-4). -/
def blockRsvOk (x : Nat) : Bool :=
  fieldOf x 49 15 == 0 && fieldOf x 85 11 == 0 && fieldOf x 112 16 == 0 && fieldOf x 149 11 == 0
    && fieldOf x 176 16 == 0 && fieldOf x 207 1 == 0 && decide (x < 2 ^ 223)

def blockOf (x : Nat) : MmaBlock :=
  { ct := fieldOf x 0 7, acc := fieldOf x 7 1 == 1, m := fieldOf x 8 8 + 1, n := fieldOf x 16 8 + 1, k := fieldOf x 24 13 + 1,
    afmt := Ty.ofCode (fieldOf x 37 5), bfmt := Ty.ofCode (fieldOf x 42 5), ase := fieldOf x 47 1 == 1,
    bse := fieldOf x 48 1 == 1, abase := fieldOf x 64 21, astr := fieldOf x 96 16, asc := fieldOf x 128 21,
    asstr := fieldOf x 160 16, wofs := fieldOf x 192 15, bsc := fieldOf x 208 15 }

/-- Scales are allowed on the format. -/
def scaleOk (t : Ty) : Bool := t == .e4m3 || t == .e5m2 || t == .fq4

/-- Checks 2 to 4 of R302; the bring-up service takes BF16 × BF16 only (Table 17-5). -/
def blockBad (abytes x : Nat) (bf16Only : Bool) : Option Nat :=
  let b := blockOf x
  if !blockRsvOk x || (bf16Only && !(b.afmt == .bf16 && b.bfmt == .bf16)) || decide (128 < b.m) || decide (128 < b.n) || decide (4096 < b.k) || kpc b.afmt b.bfmt == 0
      || (b.ase && !scaleOk b.afmt) || (b.bse && !scaleOk b.bfmt)
      || (!b.ase && (b.asc != 0 || b.asstr != 0)) || (!b.bse && b.bsc != 0)
      || ((b.afmt == .fq4 || b.bfmt == .fq4) && b.k % 4 != 0) then some 0x03
  else if b.abase % 16 ≠ 0 ∨ b.astr % 16 ≠ 0 ∨ b.asc % 16 ≠ 0 ∨ b.asstr % 16 ≠ 0 ∨ b.wofs % 32 ≠ 0 ∨ b.bsc % 32 ≠ 0 then
    some 0x14
  else if abytes < b.abase + (b.m - 1) * b.astr + runBytes b.afmt b.k
      ∨ (b.ase ∧ abytes < b.asc + (b.m - 1) * b.asstr + ceilDiv b.k 64)
      ∨ 32768 < b.wofs + runBytes b.bfmt b.k ∨ (b.bse ∧ 32768 < b.bsc + ceilDiv b.k 64) then some 0x1A
  else none

/-! ## Footprints (R305) -/

/-- What a command reads and writes (Table 11-5). -/
structure Footprint where
  reads : List Nat
  writes : List Nat
  readsA : Bool
  writesA : Bool
  deriving DecidableEq, Repr

def footprintOf (k : MatOp) : Footprint :=
  match k with
  | .mma _ none => { reads := List.range 128, writes := List.range 128, readsA := true, writesA := false }
  | .mma _ (some b) => { reads := if b.acc then [b.ct] else [], writes := [b.ct], readsA := true, writesA := false }
  | .mzero f n => { reads := [], writes := (List.range (min n 128)).map (f + ·), readsA := false, writesA := false }
  | .mred d s _ _ _ cmb => { reads := if cmb then [s, d] else [s], writes := [d], readsA := false, writesA := false }
  | .mmap op d v _ _ _ =>
    { reads := if 1 ≤ op ∧ op ≤ 3 then [d, v] else [d], writes := [d], readsA := false, writesA := false }
  | .mcvt _ s .. => { reads := [s], writes := [], readsA := false, writesA := true }
  | .mrd _ t .. => { reads := [t], writes := [], readsA := false, writesA := false }
  | .mwr t _ => { reads := [], writes := [t], readsA := false, writesA := false }

/-- The conflict test of R305. -/
def Footprint.conflicts (x y : Footprint) : Bool :=
  x.writes.any (fun t => y.reads.contains t || y.writes.contains t) || y.writes.any (fun t => x.reads.contains t)
    || (x.writesA && (y.readsA || y.writesA)) || (y.writesA && x.readsA)

/-- The three units (Table 11-6): 0 the array, 1 the tile unit, 2 the wave port. -/
def MatOp.unit : MatOp → Nat
  | .mma .. => 0
  | .mrd .. => 2
  | .mwr .. => 2
  | _ => 1

/-! ## Leaving the queue (R304, R308, R313) -/

/-- The command leaves the queue, and its operation completes. -/
def State.endMat (s : State) (c : Nat) (m : MatCmd) : State :=
  (s.completeOp c m.wave m.id).modCore c (fun k => { k with mats := k.mats.filter (fun x => x.id != m.id) })

/-- The command completes as faulted with MATRIX_FAULT, reported to its issuing threads (R313). -/
def State.failMat (s : State) (c : Nat) (m : MatCmd) (secondary addr : Nat) : State :=
  (s.postTrap m.asid c m.wave m.threads 0x46 secondary m.pc addr
    ((s.wave? c m.wave).bind (fun w => w.chanOf m.id)) none none m.id).endMat c m

/-- Guards resolve, and the matrix commands whose guards resolved against them are discarded (R308). -/
def State.settleMats (s : State) (c : Nat) : State :=
  let s1 := s.settle c
  ((s1.core c).mats.filter (fun m => m.resolved == some false && (match m.st with | .running _ => false | _ => true))).foldl
    (fun t m => t.endMat c m) s1

def Core.mat? (k : Core) (id : Nat) : Option MatCmd := k.mats.find? (fun m => m.id == id)

def Core.setMat (k : Core) (id : Nat) (f : MatCmd → MatCmd) : Core :=
  { k with mats := k.mats.map (fun m => if m.id = id then f m else m) }

/-- A command whose guard is still open. -/
def MatCmd.guardOpen (m : MatCmd) : Bool := m.guard.isSome && m.resolved.isNone

/-- The accepted commands before `m`. -/
def Core.olderMats (k : Core) (m : MatCmd) : List MatCmd :=
  (k.mats.takeWhile (fun x => x.id != m.id)).filter (fun x => x.st != .issued)

/-! ## Acceptance (R304, R309) -/

/-- Commands that are accepted before `x`: by cycle of issue, then by quadrant. -/
def matBefore (y x : MatCmd) : Bool :=
  y.st == .issued && y.id != x.id && (decide (y.at_ < x.at_) || (y.at_ == x.at_ && (decide (quadOf y.wave < quadOf x.wave)
    || (quadOf y.wave == quadOf x.wave && decide (y.id < x.id)))))

/-- The command enters the queue. Once Dusk has taken the crew the engine accepts nothing further (R316). -/
def matrixAccept (core cmd : Nat) (s : State) : State :=
  match (s.core core).mat? cmd with
  | none => s
  | some x0 =>
    if x0.st != .issued || (s.preempted core).isSome || decide (s.clock ≤ x0.at_) || (s.core core).mats.any (fun y => matBefore y x0) then s
    else
      let s1 := s.settleMats core
      let queue := (s1.core core).mats.filter (fun m => m.st != .issued)
      let x := { x0 with
        st := .queued, at_ := s.clock, resolved := (s1.core core).guardSays x0.guard,
        after := x0.guard.bind (fun g => Tbl.find (s1.core core).guardBy g.1) }
      if x.posted && (x.guardOpen || queue.any MatCmd.guardOpen) then
        (s1.postTrap x.asid core x.wave x.lanes 0x45 0 x.pc 0 none none none x.id).endMat core x
      else
        (s1.modCore core (fun k => { k with
          mats := k.mats.filter (fun m => m.st != .issued) ++ [x] ++ k.mats.filter (fun m => m.st == .issued && m.id != cmd) })).settleMats core

def execMatrixAccept (core cmd : Nat) (s : State) : Out := .next (matrixAccept core cmd s)

def execMatrixGuardResolve (core cmd : Nat) (s : State) : Out :=
  .next (if ((s.core core).mat? cmd).isSome then s.settleMats core else s)

/-! ## Poison (R429) -/

/-- The regions of the typed buffers that a command reads (Tables 11-5 and 11-7). -/
def matRegions (m : MatCmd) : List (Place × Nat × Nat) :=
  let cells := fun (t col n : Nat) => (List.range 128).map (fun i => (Place.cbuf, 4 * tileKey t i col, 4 * n))
  match m.kind with
  | .mma _ (some b) =>
    (List.range b.m).flatMap (fun i => (Place.abuf, m.abase + b.abase + i * b.astr, runBytes b.afmt b.k)
        :: (if b.ase then [(Place.abuf, m.abase + b.asc + i * b.asstr, ceilDiv b.k 64)] else []))
      ++ (List.range b.n).flatMap (fun j => (Place.wbuf, j * 32768 + b.wofs, runBytes b.bfmt b.k)
        :: (if b.bse then [(Place.wbuf, j * 32768 + b.bsc, ceilDiv b.k 64)] else []))
      ++ (if b.acc then (List.range b.m).map (fun i => (Place.cbuf, 4 * tileKey b.ct i 0, 4 * b.n)) else [])
  | .mred d t _ col n cmb => cells t 0 n ++ (if cmb then cells d col 1 else [])
  | .mmap op d v _ col n => cells d 0 n ++ (if 1 ≤ op ∧ op ≤ 3 then cells v col 1 else [])
  | .mcvt _ t _ _ _ _ rs n => (List.range rs).map (fun i => (Place.cbuf, 4 * tileKey t i 0, 4 * n))
  | .mrd _ t n es => es.map (fun e => (Place.cbuf, 4 * (tileKey t 0 0 + e.2), 4 * n))
  | _ => []

def State.matPoisoned (s : State) (c : Nat) (m : MatCmd) : Bool :=
  !s.poison.isEmpty && (matRegions m).any (fun r => s.poisonAt c r.1 r.2.1 r.2.2)

/-! ## The block read (R301) -/

/-- The accesses of its threads that the command follows have been performed (R310). -/
def State.matReleased (s : State) (c : Nat) (m : MatCmd) : Bool :=
  (lanesOf m.threads).all (fun l => s.releasedTo c m.wave l m.id)

/-- So have those that the `gset` on which its guard resolved follows (R290). -/
def State.matOrdered (s : State) (c : Nat) (m : MatCmd) : Bool :=
  s.matReleased c m && (match m.after with | some a => s.releasedTo c a.1 a.2.1 a.2.2 | none => true)

def mmaBlockRead (core cmd : Nat) (s0 : State) : State :=
  let s := s0.settleMats core
  match (s.core core).mat? cmd with
  | none => s
  | some m =>
    match m.kind with
    | .mma a none =>
      if m.st != .queued || decide (s.clock < m.at_ + 4) || !s.matReleased core m
          || ((s.core core).olderMats m).any (fun x => (footprintOf x.kind).writesA) then s
      else if a % 64 ≠ 0 then s.failMat core m 0x14 a
      else if m.abytes < a + 64 then s.failMat core m 0x1A a
      else if s.poisonAt core .abuf (m.abase + a) 64 then s.failMat core m 0x51 a
      else
        let x := Memory.read (s.core core).abuf (m.abase + a) 64
        match blockBad m.abytes x (s.svc.boot == .bringup) with
        | some e => s.failMat core m e a
        | none => s.modCore core (fun k => k.setMat cmd (fun y => { y with kind := .mma a (some (blockOf x)) }))
    | _ => s

def execMmaBlockRead (core cmd : Nat) (s : State) : Out := .next (mmaBlockRead core cmd s)

/-! ## What a command computes (R303, R317 to R321) -/

/-- The values that a command writes at its completion: tile elements, A-buffer bytes, registers, and flags. -/
structure MatOut where
  tiles : List (Nat × Word)
  abuf : List (Nat × Byte)
  regs : List (Nat × Word)
  flags : BitVec 6
  deriving DecidableEq, Repr

def MatOut.nil : MatOut := { tiles := [], abuf := [], regs := [], flags := 0 }

/-- One group of products added to the accumulator with one rounding (R84). -/
def macGroup (acc : FRes) (ps : List (FV × FV)) : FRes :=
  let f := fmtOf .f32
  let r := f.dot .rne false ps [f.dec acc.bits]
  ⟨r.bits, acc.fl ||| r.fl⟩

/-- Groups of eight in increasing k. -/
def macAll : Nat → FRes → List (FV × FV) → FRes
  | 0, acc, _ => acc
  | n + 1, acc, ps => if ps.isEmpty then acc else macAll n (macGroup acc (ps.take 8)) (ps.drop 8)

/-- The product of R303. -/
def mmaOut (k : Core) (abase : Nat) (b : MmaBlock) : MatOut :=
  let as := (List.range b.m).map (fun i => (List.range b.k).map (fun x =>
    operandElem k.abuf b.afmt (abase + b.abase + i * b.astr) x
      (if b.ase then some (Memory.read k.abuf (abase + b.asc + i * b.asstr + x / 64) 1) else none)))
  let bs := (List.range b.n).map (fun j => (List.range b.k).map (fun x =>
    operandElem k.wbuf b.bfmt (j * 32768 + b.wofs) x
      (if b.bse then some (Memory.read k.wbuf (j * 32768 + b.bsc + x / 64) 1) else none)))
  let fi := as.any (fun r => r.any (·.2)) || bs.any (fun r => r.any (·.2))
  let rs := (List.range b.m).flatMap (fun i => (List.range b.n).map (fun j =>
    (tileKey b.ct i j, macAll b.k ⟨if b.acc then k.tile b.ct i j else 0, 0⟩
      (((as.getD i []).zip (bs.getD j [])).map (fun p => (p.1.1, p.2.1))))))
  { MatOut.nil with
    tiles := rs.map (fun e => (e.1, BitVec.ofNat 32 e.2.bits))
    flags := rs.foldl (fun m e => m ||| e.2.fl) (flIf fi flFI) }

/-- A result of each of the first n columns of the 128 rows of a tile. -/
def tileMap (t n : Nat) (f : Nat → Nat → FRes) : MatOut :=
  let rs := (List.range 128).flatMap (fun i => (List.range n).map (fun j => (tileKey t i j, f i j)))
  { MatOut.nil with
    tiles := rs.map (fun e => (e.1, BitVec.ofNat 32 e.2.bits)), flags := rs.foldl (fun m e => m ||| e.2.fl) 0 }

def mredOut (k : Core) (d s : Nat) (sum : Bool) (dcol n : Nat) (cmb : Bool) : MatOut :=
  let rs := (List.range 128).map (fun i =>
    let xs := (List.range n).map (fun j => k.tile s i j) ++ (if cmb then [k.tile d i dcol] else [])
    (tileKey d i dcol, if sum then sumAll (fmtOf .f32) .rne false xs else foldMinmax (fmtOf .f32) true xs))
  { MatOut.nil with
    tiles := rs.map (fun e => (e.1, BitVec.ofNat 32 e.2.bits)), flags := rs.foldl (fun m e => m ||| e.2.fl) 0 }

/-- −∞ in FP32. -/
def negInf : Nat := (fmtOf .f32).inf true

def mmapOut (k : Core) (op d v : Nat) (scalar : Word) (vcol n : Nat) : MatOut :=
  let f := fmtOf .f32
  tileMap d n (fun i j =>
    let x := k.tile d i j
    let y := k.tile v i vcol
    match op with
    | 0 => f.mul .rne false x scalar.toNat
    | 1 => f.mul .rne false x y
    | 2 => f.sub .rne false x y
    | 3 =>
      if x = negInf then ⟨0, 0⟩
      else
        let z := f.fma .rne false x scalar.toNat (f.modify false true y)
        let e := Fn.exp2.eval .f32 false z.bits
        ⟨e.bits, z.fl ||| e.fl⟩
    | _ => ⟨if (i : Int) + sintOf 32 scalar.toNat < (j : Int) then negInf else x, 0⟩)

def mcvtOut (k : Core) (abase a s stride : Nat) (t : Ty) (rnd : Rnd) (sat : Bool) (m n : Nat) : MatOut :=
  let e := t.bits / 8
  let rs := (List.range m).flatMap (fun i => (List.range n).map (fun j =>
    (abase + a + i * stride + j * e, cvtRes t .f32 rnd sat (k.tile s i j))))
  { MatOut.nil with
    abuf := rs.flatMap (fun x => (List.range e).map (fun b => (x.1 + b, BitVec.ofNat 8 (x.2.bits / 256 ^ b))))
    flags := rs.foldl (fun m x => m ||| x.2.fl) 0 }

/-- The fault of a tile-unit command at its start, by secondary cause (R317 to R320). -/
def matBad (m : MatCmd) : Option Nat :=
  match m.kind with
  | .mzero f n => if n = 0 ∨ 128 < f + n then some 0x1A else none
  | .mred d s .. => if 127 < d ∨ 127 < s then some 0x1A else none
  | .mmap op d v .. => if 127 < d ∨ (1 ≤ op ∧ op ≤ 3 ∧ 127 < v) then some 0x1A else none
  | .mcvt a s stride t _ _ rs n =>
    if 127 < s then some 0x1A
    else if a % 16 ≠ 0 ∨ stride % 16 ≠ 0 then some 0x14
    else if m.abytes < a + (rs - 1) * stride + n * (t.bits / 8) then some 0x1A
    else none
  | _ => none

/-- The values that a command's start fixes. -/
def matCompute (k : Core) (m : MatCmd) : MatOut :=
  match m.kind with
  | .mma _ (some b) => mmaOut k m.abase b
  | .mma _ none => MatOut.nil
  | .mzero f n => { MatOut.nil with tiles := (List.range (n * 16384)).map (fun x => (f * 16384 + x, 0)) }
  | .mred d s sum dcol n cmb => mredOut k d s sum dcol n cmb
  | .mmap op d v sc vcol n => mmapOut k op d v sc vcol n
  | .mcvt a s stride t rnd sat rs n => mcvtOut k m.abase a s stride t rnd sat rs n
  | .mrd d t n es =>
    { MatOut.nil with regs := es.flatMap (fun e => (List.range n).flatMap (fun i =>
        (wordsAt (Opnd.up d i) e.1 1 (Bits.rd k.cbuf (tileKey t 0 0 + e.2 + i)).toNat).1)) }
  | .mwr t ws => { MatOut.nil with tiles := ws.map (fun e => (tileKey t 0 0 + e.1, e.2)) }

/-- Cycles from start to completion (Table 11-6). -/
def matLatency (m : MatCmd) : Nat :=
  match m.kind with
  | .mma _ (some b) => ceilDiv b.k (kpc b.afmt b.bfmt) + 32
  | .mma _ none => 32
  | .mzero .. => 128
  | .mrd .. => 12
  | .mwr .. => 12
  | _ => 144

/-! ## Starts (R306) -/

/-- The unit can take the command in this cycle. -/
def Core.unitFree (k : Core) (clock : Nat) (m : MatCmd) : Bool :=
  match m.kind.unit with
  | 0 => decide (k.arrayFree ≤ clock)
  | 1 => !k.mats.any (fun x => x.kind.unit == 1 && (match x.st with | .running _ => true | _ => false))
  | _ => !k.mats.any (fun x => x.kind.unit == 2 && x.st == .running (clock + 12))

/-- The command meets every condition of R306 but those of its unit. -/
def State.eligible (s : State) (c : Nat) (m : MatCmd) : Bool :=
  let older := (s.core c).olderMats m
  m.st == .queued && decide (m.at_ + 4 ≤ s.clock) && !m.guardOpen && !older.any MatCmd.guardOpen
    && (match m.kind with | .mma _ none => false | _ => true)
    && older.all (fun x => !(footprintOf x.kind).conflicts (footprintOf m.kind))
    && s.matOrdered c m && !s.enginesRest c

def matrixStart (core cmd : Nat) (s0 : State) : State :=
  let s := s0.settleMats core
  match (s.core core).mat? cmd with
  | none => s
  | some m =>
    let k := s.core core
    if !s.eligible core m || !k.unitFree s.clock m
        || (k.olderMats m).any (fun x => x.kind.unit == m.kind.unit && s.eligible core x) then s
    else match matBad m with
      | some e => s.failMat core m e 0
      | none =>
        if s.matPoisoned core m then s.failMat core m 0x51 0
        else
          let o := matCompute k m
          let d := matLatency m
          s.modCore core (fun k =>
            let k1 := k.setMat cmd (fun y => { y with
              st := .running (s.clock + d), tileOut := o.tiles, abufOut := o.abuf, regOut := o.regs, flags := o.flags })
            if m.kind.unit = 0 then { k1 with arrayFree := s.clock + (d - 32) } else k1)

def execMatrixStart (core cmd : Nat) (s : State) : Out := .next (matrixStart core cmd s)

/-! ## Completions (R307) -/

/-- A command of unit `u` that is running and due makes its writes, raises its flags and completes; the registers of an `mrd` are
pending writes of this cycle, which a read may meet or not until they are made, and with them it completes (R118). -/
def matrixComplete (u core cmd : Nat) (s : State) : State :=
  match (s.core core).mat? cmd with
  | none => s
  | some m =>
    match m.st with
    | .running due =>
      if m.kind.unit ≠ u ∨ s.clock < due then s
      else
        let s1 := s.modCore core (fun k => { k with cbuf := Bits.wrs k.cbuf m.tileOut, abuf := Bits.wrs k.abuf m.abufOut })
        let s2 := (s1.cleanse core .cbuf (fun b => m.tileOut.any (fun e => e.1 == b / 4))).cleanse core .abuf
          (fun b => m.abufOut.any (fun e => e.1 == b))
        let s3 := s2.modWave core m.wave (fun w => w.raise m.flags s.clock)
        if m.regOut.isEmpty then s3.endMat core m
        else (s3.modWave core m.wave (fun w => { w with pend := w.pend ++ [{ due := s.clock, early := s.clock, num := m.id, op := some m.id
                                                                             isDiv := false, v := m.regOut, s := [], p := [], sp := [], fl := 0 }] })).modCore
          core (fun k => { k with mats := k.mats.filter (fun x => x.id != m.id) })
    | _ => s

def execMmaComplete (core cmd : Nat) (s : State) : Out := .next (matrixComplete 0 core cmd s)
def execTileUnitComplete (core cmd : Nat) (s : State) : Out := .next (matrixComplete 1 core cmd s)
def execWavePortComplete (core cmd : Nat) (s : State) : Out := .next (matrixComplete 2 core cmd s)

/-! ## Issue (R300, R321, R323) -/

def matCmdOf (k : Ctx) (threads : Lanes) (kind : MatOp) (guard : Option (BitVec 5 × Bool)) : MatCmd :=
  { id := k.op, asid := k.asid, wave := k.wave, lanes := k.lanes, threads := threads, pc := k.pc, kind := kind,
    guard := guard.map (fun g => (g.1.toNat, g.2)), resolved := none, after := none, posted := k.h.post.isSome,
    abase := k.x.abase, abytes := k.x.abytes, at_ := k.clock, st := .issued, tileOut := [], abufOut := [], regOut := [],
    flags := 0 }

/-- A command issued by the elected thread. A post by a split whose elected lane does not pass is an empty operation
(R41, R122). -/
def matBody (o : FmtX) (kind : Ctx → Nat → MatOp) (k : Ctx) (s : State) : State :=
  if !k.electedOk then s.completeOp k.core k.wave k.op
  else s.modCore k.core (fun c => { c with mats := c.mats ++ [matCmdOf k (laneBit k.elected) (kind k k.elected) o.guard] })

def execMma (h : Hdr) (o : FmtX) (s : State) : Out :=
  issue (.mma h o) s (matBody o (fun k l => .mma (k.u32 o.a l) none))
def execMzero (h : Hdr) (o : FmtX) (s : State) : Out :=
  issue (.mzero h o) s (matBody o (fun k l => .mzero (k.u32 o.a l) (k.u32 o.b l)))
def execMred (h : Hdr) (o : FmtX) (s : State) : Out :=
  issue (.mred h o) s (matBody o (fun k l =>
    .mred (k.u32 o.d l) (k.u32 o.a l) (cmdF o.cmd 0 1 == 1) (cmdF o.cmd 1 7) (cmdF o.cmd 8 7 + 1) (cmdF o.cmd 15 1 == 1)))
/-- The scalar b of `.mul` and `.exp2` is FP32, a constant in it being one of that type (R44); the offset of `.causal` is an
integer. -/
def execMmap (h : Hdr) (o : FmtX) (s : State) : Out :=
  issue (.mmap h o) s (matBody o (fun k l =>
    let op := cmdF o.cmd 0 3
    .mmap op (k.u32 o.d l) (k.u32 o.a l) (BitVec.ofNat 32 (k.opnd o.b (if op = 4 then .b32 else .f32) l)) (cmdF o.cmd 3 7)
      (cmdF o.cmd 10 7 + 1)))
def execMcvt (h : Hdr) (o : FmtX) (s : State) : Out :=
  issue (.mcvt h o) s (matBody o (fun k l =>
    .mcvt (k.u32 o.d l) (k.u32 o.a l) (k.u32 o.b l) o.ty (Rnd.ofCode (cmdF o.cmd 0 2)) (cmdF o.cmd 2 1 == 1)
      (cmdF o.cmd 10 7 + 1) (cmdF o.cmd 3 7 + 1)))

/-- The lanes of an `mrd` or `mwr` that take part, with their first elements, and the faults of the others (R321). -/
def portLanes (tile n : Nat) (idx : Nat → Nat) (pass : Lanes) : List (Nat × Nat) × List LaneFault :=
  let f := fun (l : Nat) =>
    let e := idx l
    if 127 < tile ∨ 16384 < e + n then some 0x1A else if e % n ≠ 0 then some 0x14 else none
  ((lanesOf pass).filterMap (fun l => if f l = none then some (l, idx l) else none),
   (lanesOf pass).filterMap (fun l => (f l).map (fun c => (l, c, idx l))))

/-- A wave-port command for the lanes that take part. -/
def portBody (o : FmtA) (kind : Nat → Nat → List (Nat × Nat) → MatOp) (k : Ctx) (s : State) : State :=
  if k.pass = 0 then s
  else
    let n := 2 ^ o.sub.toNat
    let t := k.u32 o.a k.low
    let ls := portLanes t n (fun l => k.u32 o.b l) k.pass
    let s1 := if ls.1.isEmpty then s.completeOp k.core k.wave k.op
      else s.modCore k.core (fun c => { c with mats := c.mats ++ [matCmdOf k (laneSet (ls.1.map (·.1))) (kind n t ls.1) none] })
    s1.laneFaults k ls.2

def execMrd (h : Hdr) (o : FmtA) (s : State) : Out :=
  issue (.mrd h o) s (portBody o (fun n t es => .mrd o.d t n es))
def execMwr (h : Hdr) (o : FmtA) (s : State) : Out :=
  issue (.mwr h o) s (fun k => portBody o (fun n t es =>
    .mwr t (es.flatMap (fun e => (List.range n).map (fun i => (e.2 + i, BitVec.ofNat 32 (k.u32 (Opnd.up o.d i) e.1)))))) k)

/-- The word of Table 11-9. -/
def mtileWord (k : Core) (t : Nat) : Nat :=
  if 127 < t then 0
  else
    let q := k.mats.filter (fun m => m.st != .issued)
    let wr := q.filter (fun m => (footprintOf m.kind).writes.contains t)
    let rd := q.filter (fun m => (footprintOf m.kind).reads.contains t)
    (if wr.isEmpty then 0 else 2 ^ 31) + (if rd.isEmpty then 0 else 2 ^ 30)
      + (if q.any MatCmd.guardOpen then 2 ^ 29 else 0)
      + (q.filter (fun m => wr.contains m || rd.contains m)).length

def execMtile (h : Hdr) (o : FmtA) (s : State) : Out :=
  issue (.mtile h o) s (fun k s0 =>
    let s := s0.settleMats k.core
    tokenWrite k (k.clock + 8) false (writesAt o.d 1 ((k.compute o.s).map (fun l =>
      (l, mtileWord (s.core k.core) (k.u32 o.a l))))) s)

end Sys2Proof.Machine
end

