-- ==== Sys2Proof/Machine/Frame.lean ====
section
/-! DEFINITION. Save frames in memory (R386, R387, Tables 15-3 to 15-5): the wave record as bytes, written from a wave
and read back into one, and the events that reach a saved crew, which are applied to its frame (R389). -/

namespace Sys2Proof.Machine

/-! ## Sections (Table 15-3) -/

def frameBytesLen : Nat := 0x1000000
def recordAt (pa w : Nat) : Nat := pa + 0x1000 + 2048 * w
def regsAt (pa : Nat) : Nat := pa + 0x41000
def abufAt (pa : Nat) : Nat := pa + 0x151000
def cbufAt (pa : Nat) : Nat := pa + 0x351000
def wbufAt (pa : Nat) : Nat := pa + 0xB51000

/-! ## The wave record (Table 15-5) -/

/-- The state code of a split; no split is held while its crew is saved (R134). -/
def splitCode (x : SplitSt) : Nat :=
  match x with
  | .ready => 1
  | .joinWait _ => 2
  | .parked .. => 3
  | .suspended _ => 4
  | .stopped _ => 5
  | .held _ => 1

/-- The detail byte of a split. -/
def splitDetail (x : SplitSt) : Nat :=
  match x with
  | .joinWait j => j
  | .parked _ _ _ r => if r then 1 else 0
  | _ => 0

/-- The 16 bytes of a split. -/
def Split.bytes (p : Split) : List Byte :=
  bytesOf 8 p.pc.toNat ++ bytesOf 4 p.mask.toNat ++ bytesOf 1 (splitCode p.st) ++ bytesOf 1 (splitDetail p.st) ++ bytesOf 2 0

/-- The 16 bytes of what a PARKED split waits for. -/
def Split.faultBytes (p : Split) : List Byte :=
  match p.st with
  | .parked c sec a _ => bytesOf 8 a ++ bytesOf 1 c ++ bytesOf 1 sec ++ bytesOf 6 0
  | _ => bytesOf 16 0

/-- A rejoin register as Table 5-4 lays it out. -/
def JReg.word (r : JReg) : Nat :=
  (if r.v then 2 ^ 120 else 0) + r.pcw.toNat * 2 ^ 64 + r.arr.toNat * 2 ^ 32 + r.exp.toNat

/-- The predicates of lane l in one byte. -/
def Wave.predByte (w : Wave) (l : Nat) : Nat :=
  ((List.range 7).map (fun i => if (Bits.rd w.p i).getLsbD l then 2 ^ i else 0)).foldl (fun a b => a + b) 0

/-- The marks of a token: bit i for the i-th oldest operation. -/
def tokMarks (l : List TokOp) : Nat :=
  ((List.range l.length).zip l).foldl (fun n e => if e.2.done then n + 2 ^ e.1 else n) 0

/-- The bytes of 32 entries made from a list. -/
def pad32 {α : Type} (f : α → List Byte) (l : List α) : List Byte :=
  (List.range 32).flatMap (fun i => match l[i]? with | some x => f x | none => bytesOf 16 0)

/-- The 2,048 bytes of a wave's record. -/
def Wave.record (w : Wave) : List Byte :=
  pad32 Split.bytes w.splits
    ++ (List.range 64).flatMap (fun i => bytesOf 4 (Bits.rd w.s i).toNat)
    ++ (List.range 8).flatMap (fun i => bytesOf 16 (w.jreg i).word)
    ++ (List.range 16).flatMap (fun b => bytesOf 4 (Bits.rd w.barW b).toNat)
    ++ (List.range 16).flatMap (fun b => bytesOf 4 (Bits.rd w.barQ b).toNat)
    ++ (List.range 32).flatMap (fun l => bytesOf 1 (w.predByte l))
    ++ bytesOf 4 w.fpctl.toNat ++ bytesOf 4 w.chkctl.toNat ++ bytesOf 4 w.quota
    ++ bytesOf 20 ((if w.rt then 128 else 0) + w.base * 4 + w.level)
    ++ (List.range 8).flatMap (fun i => bytesOf 8 (Bits.rd w.scalewin i).toNat)
    ++ (match w.poll with | some p => bytesOf 8 p.addr ++ bytesOf 8 p.value.toNat | none => bytesOf 16 0)
    ++ bytesOf 8 (if w.rest.resting && w.rest.hinted then 1 else 0)
    ++ bytesOf 8 (if w.rest.resting && w.rest.hinted then w.rest.hintPc.toNat else 0) ++ bytesOf 96 0
    ++ (List.range 16).flatMap (fun k => bytesOf 8 (w.count k) ++ bytesOf 8 (tokMarks (w.tok k)))
    ++ pad32 Split.faultBytes w.splits

/-- n bytes of a record at an offset. -/
def recAt (m : Memory) (at_ off n : Nat) : Nat := Memory.read m (at_ + off) n

/-- Split k of a record; `old` is the split that the save found in its place. -/
def splitFrom (m : Memory) (at_ clock k : Nat) (old : Option Split) : Option Split :=
  let det := recAt m at_ (16 * k + 13) 1
  let st := match recAt m at_ (16 * k + 12) 1 with
    | 1 => some SplitSt.ready
    | 2 => some (.joinWait det)
    | 3 => some (.parked (recAt m at_ (0x608 + 16 * k) 1) (recAt m at_ (0x609 + 16 * k) 1) (recAt m at_ (0x600 + 16 * k) 8) (det == 1))
    | 4 => some (match old.map (fun (o : Split) => o.st) with | some (.suspended w) => .suspended w | _ => .suspended (.waiter 0))
    | 5 => some (match old.map (fun (o : Split) => o.st) with | some (.stopped c) => .stopped c | _ => .stopped 0x0A)
    | _ => none
  st.map (fun x =>
    let pc : PC := BitVec.ofNat 56 (recAt m at_ (16 * k) 8)
    { pc := pc, mask := BitVec.ofNat 32 (recAt m at_ (16 * k + 8) 4), st := x, since := clock, notBefore := 0
      stepOne := match old with | some o => o.stepOne | none => false
      stop := match old with | some o => o.stop | none => none
      origin := match old with | some o => if o.pc = pc then o.origin else none | none => none })

/-- A rejoin register from its word. -/
def jregFrom (n : Nat) : JReg :=
  { v := decide (fieldOf n 120 1 = 1), pcw := BitVec.ofNat 56 (n / 2 ^ 64), arr := BitVec.ofNat 32 (n / 2 ^ 32), exp := BitVec.ofNat 32 n }

/-- The operations of token k: those that the save found, as many as the count, with the marks of the record. They are
the last that were posted. P_k, which R134 sets to 0, is kept as `posts`: only differences of post numbers are ever looked at, and
a held trap goes on naming its post (R27). -/
def tokFrom (m : Memory) (at_ k posts clock : Nat) (old : List TokOp) : List TokOp :=
  let n := recAt m at_ (0x500 + 16 * k) 1 % 64
  let marks := recAt m at_ (0x508 + 16 * k) 8
  (List.range n).map (fun i => 
    { id := ((old[i]?).map (·.id)).getD 0, q := posts + i + 1 - n, done := decide (fieldOf marks i 1 = 1), at_ := clock,
      poll := (old[i]?).bind (·.poll), fl := ((old[i]?).map (·.fl)).getD 0 })

/-- Predicate i of the 32 lanes of a record. -/
def predFrom (m : Memory) (at_ i : Nat) : Word :=
  laneSet ((List.range 32).filter (fun l => decide (fieldOf (recAt m at_ (0x400 + l) 1) i 1 = 1)))

/-- The wave of a record; `w` holds what the record does not. -/
def Wave.fromRecord (w : Wave) (m : Memory) (at_ clock : Nat) : Wave :=
  let cls := recAt m at_ 0x42C 1
  let addr := recAt m at_ 0x480 8
  let val := recAt m at_ 0x488 8
  let table := fun {k : Nat} (n off b : Nat) => Bits.wrs [] ((List.range n).map (fun i => (i, BitVec.ofNat k (recAt m at_ (off + b * i) b))))
  { w with
    splits := (List.range 32).filterMap (fun k => splitFrom m at_ clock k w.splits[k]?)
    s := table 64 0x200 4
    j := (List.range 8).map (fun i => (i, jregFrom (recAt m at_ (0x300 + 16 * i) 16)))
    barW := table 16 0x380 4
    barQ := table 16 0x3C0 4
    p := Bits.wrs [] ((List.range 7).map (fun i => (i, predFrom m at_ i)))
    fpctl := BitVec.ofNat 32 (recAt m at_ 0x420 4)
    chkctl := BitVec.ofNat 32 (recAt m at_ 0x424 4)
    quota := recAt m at_ 0x428 4 % 512
    rt := decide (fieldOf cls 7 1 = 1)
    base := fieldOf cls 2 2
    level := fieldOf cls 0 2
    scalewin := table 8 0x440 8
    poll := if addr = 0 ∧ val = 0 ∧ w.poll = none then none else some { addr := addr, value := BitVec.ofNat 64 val }
    toks := (List.range 16).map (fun k => (k, tokFrom m at_ k (Tbl.getD w.posts k 0) clock (w.tok k))) }

/-- Bits of a record that are reserved, as offsets in bits and widths (R398). -/
def recordReserved : List (Nat × Nat) :=
  (List.range 32).map (fun k => (128 * k + 112, 16)) ++ (List.range 8).map (fun i => (0x300 * 8 + 128 * i + 121, 7))
    ++ (List.range 32).map (fun l => (0x400 * 8 + 8 * l + 7, 1))
    ++ [(0x420 * 8 + 6, 26), (0x424 * 8 + 1, 7), (0x424 * 8 + 9, 23), (0x428 * 8 + 9, 23), (0x42C * 8 + 4, 3), (0x42D * 8, 152)]
    ++ (List.range 8).flatMap (fun i => [(0x440 * 8 + 64 * i, 11), (0x440 * 8 + 64 * i + 56, 2)])
    ++ [(0x490 * 8 + 1, 63), (0x498 * 8 + 56, 8), (0x4A0 * 8, 768)]
    ++ (List.range 16).map (fun k => (0x500 * 8 + 128 * k + 6, 58)) ++ (List.range 32).map (fun k => (0x600 * 8 + 128 * k + 80, 48))

/-! ## Events for a saved crew (R389) -/

/-- A reserved frame that holds no crew (R387). -/
def Frame.idle (die : Nat) : Frame :=
  { state := 0, crew := none, die := die, order := 0, resume := false, corePos := 0, engine := none, check := 0, area := (0, 0), written := [], hold := false,
    target := none, time := 0, due := 0, cost := 0 }

/-- The frame that holds the crew numbered `uid`. -/
def State.frameOf (s : State) (uid : Nat) : Option Nat :=
  (s.frames.find? (fun e => match e.2.crew with | some k => k.uid == uid | none => false)).map (·.1)

/-- Wave w of the frame at `pa`. -/
def State.savedWave (s : State) (pa w : Nat) : Option Wave :=
  ((Tbl.find s.frames pa).bind (fun f => f.engine)).bind (fun g => (Tbl.find g.statics w).map (fun x => x.fromRecord s.mem (recordAt pa w) s.clock))

/-- What of a wave its record does not hold. -/
def Wave.static (w : Wave) : Wave := { w with v := [], s := [], p := [], j := [], barW := [], barQ := [], scalewin := [] }

/-- Changes the engine area of a frame. -/
def State.modEngine (s : State) (pa : Nat) (f : EngineArea → EngineArea) : State :=
  match Tbl.find s.frames pa with
  | some x => { s with frames := Tbl.put s.frames pa { x with engine := x.engine.map f } }
  | none => s

/-- Writes wave w of the frame at `pa`. -/
def State.putSaved (s : State) (pa w : Nat) (x : Wave) : State :=
  ({ s with mem := Memory.setBytes s.mem (recordAt pa w) x.record } : State).modEngine pa (fun g =>
    { g with statics := Tbl.put g.statics w x.static })

/-- An event changes wave w of the frame at `pa`. -/
def State.onSaved (s : State) (pa w : Nat) (f : Wave → Wave) : State :=
  match s.savedWave pa w with
  | some x => s.putSaved pa w (f x)
  | none => s

/-- An event changes wave w of the crew numbered `uid`: on its core, or in its frame. -/
def State.onCrewWave (s : State) (uid w : Nat) (f : Wave → Wave) : State :=
  match s.coreOf uid, s.frameOf uid with
  | some c, _ => s.modWave c w f
  | none, some pa => s.onSaved pa w f
  | none, none => s

/-- The first of a wave's register slots in the frame: the sum of the quotas of the waves before it (R387). -/
def regBase (ws : List (Nat × Wave)) (w : Nat) : Nat := ((ws.filter (fun e => decide (e.1 < w))).map (fun e => e.2.quota)).foldl (fun a b => a + b) 0

/-- Registers that operation `op` writes in wave w of a crew: on its core, where they are pending writes of this cycle, or in its
frame, where of the v registers only those stand that the save kept. -/
def State.onCrewRegs (s : State) (uid w op : Nat) (vs ss : List (Nat × Word)) : State :=
  match s.coreOf uid, s.frameOf uid with
  | some c, _ => s.modWave c w (fun y => { y with pend := y.pend ++ [{ due := s.clock, early := s.clock, num := op, op := none, isDiv := false
                                                                       v := vs, s := ss, p := [], sp := [], fl := 0 }] })
  | none, some pa =>
    match (Tbl.find s.frames pa).bind (fun f => f.engine) with
    | some g =>
      let base := regBase g.statics w
      let quota := match Tbl.find g.statics w with | some x => x.quota | none => 0
      let put := fun (m : Memory) (e : Nat × Word) =>
        if e.1 / 32 < quota ∧ fieldOf (Tbl.getD g.kept w 0) (e.1 / 32) 1 = 1 then
          Memory.write m (regsAt pa + 128 * (base + e.1 / 32) + 4 * (e.1 % 32)) 4 e.2.toNat
        else m
      ({ s with mem := vs.foldl put s.mem } : State).onSaved pa w (fun y => y.putS ss)
    | none => s
  | none, none => s

/-- The saved waves of a frame. -/
def Frame.waves (f : Frame) : List Nat := match f.engine with | some g => g.statics.map (·.1) | none => []

end Sys2Proof.Machine
end

