-- ==== Sys2Proof/Machine/Orrery.lean ====
section
/-! DEFINITION. The Orrery's calls at their issue (opcodes 0xC0 to 0xD3, R327 to R334, R344, R355): records are checked
(R334), each passing lane, or the split, makes its call, and lanes of a call that may wait are suspended (R324). With
them the parts that every call shares: the thread's accesses to its records, the answer, the fault, the wait, and the
Catalogue's free indices. -/

namespace Sys2Proof.Machine

/-! ## Causes and statuses (Tables 13-4, 13-5) -/

def objHandle : Nat := 0x30
def objType : Nat := 0x31
def objArg : Nat := 0x32

def stOk : Nat := 0
def stEmpty : Nat := 1
def stFull : Nat := 2
def stTrunc : Nat := 3
def stNoPage : Nat := 4
def stPeerLost : Nat := 5
def stNotFound : Nat := 6
def stExists : Nat := 7
def stNoSlot : Nat := 8
def stBusy : Nat := 9
def stTaken : Nat := 10
def stNoRoom : Nat := 11
def stNoFrame : Nat := 12
def stDead : Nat := 13

/-- The result of a creating call that fails (R329). -/
def failWord (status : Nat) : Nat := 0xFFFFFFFF * 2 ^ 32 + status

/-! ## Issue (R331, R332, R334) -/

/-- The operand values of one lane's call: a, b and c. -/
abbrev CallArgs := Nat → Nat × Nat × Nat

/-- An operand written as code 320. -/
def isZeroCode (o : Opnd) : Bool := o == .int 0

/-- The depth of a task that lane l enqueues: none beyond depth 8 (R347). -/
def Ctx.taskDepth (k : Ctx) (l : Nat) : Nat := match k.task l with | some t => t.depth + 1 | none => 0

/-- The call of lanes `m`, with the values of lane l. -/
def Ctx.call (k : Ctx) (tenant : Nat) (kind : CallOp) (d a b c : Opnd) (v : Nat × Nat × Nat) (susp : Bool) (l : Nat)
    (m : Lanes) : Call :=
  { id := 0, uid := k.uid, core := k.core, asid := k.asid, tenant := tenant, wave := k.wave, lane := l, lanes := m,
    op := k.op, pc := k.pc, kind := kind, d := d, writes := !d.isS || l == k.low,
    a := BitVec.ofNat 64 v.1, b := BitVec.ofNat 64 v.2.1, c := BitVec.ofNat 64 v.2.2,
    noA := isZeroCode a, noB := isZeroCode b, noC := isZeroCode c,
    maker := {
      sregs := (List.range 4).map k.s, argp := BitVec.ofNat 64 (k.special .argp l)
      windows := Bits.wrs [] ((List.range 8).map (fun n => (n, k.x.rdWin k.fc k.clock n)))
      rt := k.x.rt, crewNo := k.x.crewNo, abase := k.x.abase, abytes := k.x.abytes, queue := k.x.taskQueue }
    susp := susp, recs := [], tok := k.tok, depth := k.taskDepth l, sent := none, lodged := none
    lost := k.x.replays.any (fun e => e.2.2 && e.2.1 == k.pc && (e.1 &&& m) != 0) }

/-- Sends calls in order. -/
def State.addCalls (s : State) (cs : List Call) : State :=
  cs.foldl (fun t x => { t with calls := t.calls ++ [{ x with id := t.nextId }], nextId := t.nextId + 1 }) s

/-- The lanes that make a call: those without a fault at issue. -/
def callLanes (k : Ctx) (fs : List LaneFault) : List Nat := (lanesOf k.pass).filter (fun l => !fs.any (fun f => f.1 == l))

/-- A call of the Orrery or of Transit, and not of Dusk (Table 17-4). -/
def CallOp.isOrrery (k : CallOp) : Bool :=
  match k with
  | .csave | .crest | .ptinv _ => false
  | _ => true

/-- The issue of calls: lanes with a fault take it; with `susp` the others wait for the answer in a SUSPENDED split
(R324); an operation without a call is complete. The calls of the Orrery and of Transit count as event 11 (R428). -/
def sendCalls (k : Ctx) (susp : Bool) (fs : List LaneFault) (cs : List Call) (s : State) : State :=
  let m := laneSet (callLanes k fs)
  let s1 := (s.addCalls cs).modCore k.core (fun c => c.countEv 11 (cs.filter (fun x => x.kind.isOrrery)).length)
  let s2 := if susp && m != 0 then s1.onWave k (fun y => y.moveTo m k.pc (.suspended (.call k.op)) k.clock) else s1
  let s3 := if cs.isEmpty && k.pass != 0 then s2.completeOp k.core k.wave k.op else s2
  s3.laneFaults k fs

/-- One call for each passing lane. -/
def laneCalls (kind : CallOp) (o : FmtK) (args : Ctx → CallArgs) (susp : Bool) (faults : Ctx → State → List LaneFault)
    (k : Ctx) (s : State) : State :=
  let fs := faults k s
  sendCalls k susp fs ((callLanes k fs).map (fun l =>
    k.call (s.tenantOfAsid k.asid) kind o.d o.a o.b o.c (args k l) susp l (laneBit l))) s

def noFaults (_ : Ctx) (_ : State) : List LaneFault := []

/-- The length of the record that a lane's call reads. -/
abbrev RecLen := Ctx → State → Nat → Nat

/-- A record of one length. -/
def fixedLen (n : Nat) : RecLen := fun _ _ _ => n

/-- A task record: RECSZ bytes of the queue that operand `a` names (R347, R350), or 64 where it names none. -/
def taskLen (a : Opnd) : RecLen := fun k s l =>
  match s.owned k.asid (k.u64 a l) with
  | some o => match o.body with | .queue q => q.recsz | _ => 64
  | none => 64

/-- A record at operand b: what it waits for, and its faults in the order of R435. -/
def recAcc (n : RecLen) (need : Nat) (b : Opnd) (k : Ctx) (s : State) (l : Nat) : Acc := k.acc s need (k.u64 b l) (n k s l)

def recWait (n : RecLen) (need : Nat) (b : Opnd) (k : Ctx) (s : State) : Option (List Nat) :=
  waitMisses ((lanesOf k.pass).map (recAcc n need b k s))

def recFaults (n : RecLen) (need : Nat) (b : Opnd) (k : Ctx) (s : State) : List LaneFault :=
  (lanesOf k.pass).filterMap (fun l =>
    let x := recAcc n need b k s l
    let va := k.u64 b l
    (firstErr [x.err, if va % 64 ≠ 0 then some (0x14, va) else none, s.physFault (s.tenantOfAsid k.asid) x.pieces]).map
      (fun e => (l, e.1, e.2)))

/-! ### Operand kinds of Table 13-6: pairs and 32-bit operands -/

def argsPPP (o : FmtK) (k : Ctx) : CallArgs := fun l => (k.u64 o.a l, k.u64 o.b l, k.u64 o.c l)
def argsPPR (o : FmtK) (k : Ctx) : CallArgs := fun l => (k.u64 o.a l, k.u64 o.b l, k.u32 o.c l)
def argsPR (o : FmtK) (k : Ctx) : CallArgs := fun l => (k.u64 o.a l, k.u32 o.b l, 0)
def args0RP (o : FmtK) (k : Ctx) : CallArgs := fun l => (0, k.u32 o.b l, k.u64 o.c l)
def argsPP (o : FmtK) (k : Ctx) : CallArgs := fun l => (k.u64 o.a l, k.u64 o.b l, 0)
def argsP (o : FmtK) (k : Ctx) : CallArgs := fun l => (k.u64 o.a l, 0, 0)

/-! ## The instructions -/

/-- MISALIGNED_PC of an entry operand, checked at the issue (R336). -/
def entryFaults (o : Opnd) (k : Ctx) (_ : State) : List LaneFault :=
  (lanesOf k.pass).filterMap (fun l => if pcOk (k.u64 o l) then none else some (l, 0x04, k.u64 o l))

def execWcreate (h : Hdr) (o : FmtK) (s : State) : Out :=
  issue (.wcreate h o) s (laneCalls .wcreate o (argsPPR o) false (entryFaults o.b))

/-- SUB[0] of a call. -/
def subBit (o : FmtK) : Bool := o.sub.getLsbD 0

/-- A call with a record at b: its length and rights. -/
def recordCall (kind : CallOp) (susp : Bool) (n : RecLen) (need : Nat) (o : FmtK) (args : Ctx → CallArgs) : Ctx → State → State :=
  laneCalls kind o args susp (recFaults n need o.b)

def psendBody (o : FmtK) : Ctx → State → State :=
  recordCall (.psend (subBit o)) (subBit o) (fixedLen 64) (rightR + rightW) o (argsPP o)
def precvBody (o : FmtK) : Ctx → State → State :=
  recordCall (.precv (subBit o)) (subBit o) (fixedLen 64) (rightR + rightW) o (argsPP o)

def execPsend (h : Hdr) (o : FmtK) (s : State) : Out :=
  issueWhen (.psend h o) s (recWait (fixedLen 64) (rightR + rightW) o.b) (psendBody o)
def execPrecv (h : Hdr) (o : FmtK) (s : State) : Out :=
  issueWhen (.precv h o) s (recWait (fixedLen 64) (rightR + rightW) o.b) (precvBody o)
def execWsadd (h : Hdr) (o : FmtK) (s : State) : Out :=
  issue (.wsadd h o) s (laneCalls (.wsadd o.imm.toNat) o (argsPPP o) false noFaults)
def execWsdel (h : Hdr) (o : FmtK) (s : State) : Out :=
  issue (.wsdel h o) s (laneCalls (.wsdel o.imm.toNat) o (argsP o) false noFaults)
def execTarm (h : Hdr) (o : FmtK) (s : State) : Out :=
  issue (.tarm h o) s (laneCalls .tarm o (argsPPR o) false noFaults)
def execTdisarm (h : Hdr) (o : FmtK) (s : State) : Out :=
  issue (.tdisarm h o) s (laneCalls .tdisarm o (argsP o) false noFaults)
def execEcsig (h : Hdr) (o : FmtK) (s : State) : Out := issue (.ecsig h o) s (laneCalls .ecsig o (argsPR o) false noFaults)
def execEcread (h : Hdr) (o : FmtK) (s : State) : Out := issue (.ecread h o) s (laneCalls .ecread o (argsP o) false noFaults)
def qenqBody (o : FmtK) : Ctx → State → State := recordCall (.qenq (subBit o)) (subBit o) (taskLen o.a) rightR o (argsPP o)
def dcinitBody (o : FmtK) : Ctx → State → State := recordCall .dcinit false (taskLen o.a) rightR o (argsPPR o)

def execQenq (h : Hdr) (o : FmtK) (s : State) : Out := issueWhen (.qenq h o) s (recWait (taskLen o.a) rightR o.b) (qenqBody o)
def execDcinit (h : Hdr) (o : FmtK) (s : State) : Out := issueWhen (.dcinit h o) s (recWait (taskLen o.a) rightR o.b) (dcinitBody o)
def execDcdec (h : Hdr) (o : FmtK) (s : State) : Out := issue (.dcdec h o) s (laneCalls .dcdec o (argsP o) false noFaults)

/-- `objnew.queue` reads a record at c (R346). -/
def newWait (o : FmtK) (k : Ctx) (s : State) : Option (List Nat) :=
  if o.sub = 5 ∧ !isZeroCode o.c then recWait (fixedLen 64) rightR o.c k s else none

def newFaults (o : FmtK) (k : Ctx) (s : State) : List LaneFault :=
  if o.sub = 5 ∧ !isZeroCode o.c then recFaults (fixedLen 64) rightR o.c k s else []

def objnewBody (o : FmtK) : Ctx → State → State := laneCalls (.objnew o.sub.toNat) o (args0RP o) false (newFaults o)

def execObjnew (h : Hdr) (o : FmtK) (s : State) : Out := issueWhen (.objnew h o) s (newWait o) (objnewBody o)
def execObjdel (h : Hdr) (o : FmtK) (s : State) : Out := issue (.objdel h o) s (laneCalls .objdel o (argsP o) false noFaults)
def execObjinfo (h : Hdr) (o : FmtK) (s : State) : Out :=
  issue (.objinfo h o) s (laneCalls .objinfo o (argsP o) false noFaults)
def execNslook (h : Hdr) (o : FmtK) (s : State) : Out := issue (.nslook h o) s (laneCalls .nslook o (argsPP o) false noFaults)
def execNsbind (h : Hdr) (o : FmtK) (s : State) : Out :=
  issue (.nsbind h o) s (laneCalls (.nsbind (subBit o)) o (argsPP o) false noFaults)
def execGrantrev (h : Hdr) (o : FmtK) (s : State) : Out :=
  issue (.grantrev h o) s (laneCalls .grantrev o (argsP o) false noFaults)

/-! ### suspend (R344) -/

/-- The instruction line at `line` for core `c`: from its cache, or fetched now. -/
def State.lineFor (s : State) (c asid line : Nat) : Except Nat (State × BitVec 512) :=
  let find := fun (t : State) => (t.core c).icache.find? (fun x => x.asid == asid && x.line == line)
  match find s with
  | some x => .ok (s, x.bits)
  | none =>
    match s.fetchLine c asid line with
    | .error e => .error e
    | .ok t => match find t with | some x => .ok (t, x.bits) | none => .ok (t, 0)

/-- Both checks of R37 on a target: its line may be fetched for them. DESIGN CHOICE (notes/assumptions/97): where it cannot be
fetched, the check reports the fetch's memory cause. -/
def State.entryCheck (s : State) (c asid pc : Nat) : State × Option Nat :=
  if !pcOk pc then (s, some 0x04)
  else match s.lineFor c asid (pc / 64 * 64) with
    | .error e => (s, some e)
    | .ok (t, bits) => (t, if lineBtm (lineWord bits) (pc % 64 / 12) then none else some 0x05)

/-- The continuation of a PC-relative `suspend` (R344). -/
def suspendTarget (o : FmtK) (pc : PC) : Nat :=
  truncTo 56 ((lineOf pc : Int) + sintOf 13 (o.imm.toNat / 8) * 64 + 12 * ((o.imm.toNat % 8 : Nat) : Int))

/-- The call of the split, with the values of its lowest passing lane. -/
def suspendBody (o : FmtK) (cont : Ctx → Nat) (k : Ctx) (s : State) : State :=
  if k.pass = 0 then s
  else
    let pc := cont k
    let r := s.entryCheck k.core k.asid pc
    match r.2 with
    | some cause => passTrap k cause pc r.1
    | none =>
      sendCalls k true [] [k.call (s.tenantOfAsid k.asid) (.suspend (BitVec.ofNat 56 pc)) o.d o.a o.b o.c
        (argsPP o k k.low) true k.low k.pass] r.1

def execSuspend (h : Hdr) (o : FmtK) (s : State) : Out :=
  issue (.suspend h o) s (suspendBody o (fun k => suspendTarget o k.pc))
def execSuspendX (h : Hdr) (o : FmtK) (s : State) : Out :=
  issue (.suspendX h o) s (suspendBody o (fun k => k.u64 o.c k.low))

/-! ### syscall (R355) -/

/-- What the bitmap word of a `syscall` meets. -/
def mapAcc (o : FmtK) (k : Ctx) (s : State) : Acc :=
  if isZeroCode o.a then .ok [] else k.acc s (rightR + rightW) (k.u64 o.a k.low) 4

def syscallWait (o : FmtK) (k : Ctx) (s : State) : Option (List Nat) :=
  if k.pass = 0 then none
  else waitMisses (mapAcc o k s :: (lanesOf k.pass).map (recAcc (fixedLen 128) (rightR + rightW) o.b k s))

/-- The fault of the bitmap word: a page that is neither STRICT nor RELEASED breaks a limit of the operand. -/
def mapFault (o : FmtK) (k : Ctx) (s : State) : Option (Nat × Nat) :=
  let x := mapAcc o k s
  let va := k.u64 o.a k.low
  if isZeroCode o.a then none
  else firstErr [x.err, if va % 4 ≠ 0 then some (0x14, va) else none,
    if x.pieces.any (fun p => leafKind p.leaf == 2) then some (objArg, va) else none,
    s.physFault (s.tenantOfAsid k.asid) x.pieces]

def syscallBody (o : FmtK) (k : Ctx) (s : State) : State :=
  if k.pass = 0 then s
  else
    let fs := match mapFault o k s with
      | some e => (lanesOf k.pass).map (fun l => (l, e.1, e.2))
      | none => recFaults (fixedLen 128) (rightR + rightW) o.b k s
    let ls := callLanes k fs
    let x := k.call (s.tenantOfAsid k.asid) (.syscall o.imm.toNat) o.d o.a o.b o.c (argsPP o k k.low) true (lowestLane (laneSet ls)) (laneSet ls)
    sendCalls k true fs (if ls.isEmpty then [] else [{ x with writes := true, recs := ls.map (fun l => (l, k.u64 o.b l)) }]) s

def execSyscall (h : Hdr) (o : FmtK) (s : State) : Out := issueWhen (.syscall h o) s (syscallWait o) (syscallBody o)

/-! ## The life of a call (R324, R332) -/

/-- Operation `op` of a wave completes: with the writes of its results that are still to be made, if there are any (R118,
R120). -/
def Wave.completeAfter (w : Wave) (op clock : Nat) : Wave :=
  if w.pend.any (fun e => e.num == op) then { w with pend := w.pend.map (fun e => if e.num = op then { e with op := some op } else e) }
  else w.complete op clock

/-- Operation `op` is complete once none of its calls is left. -/
def State.opDone (s : State) (c w op : Nat) : State :=
  if s.calls.any (fun y => y.core == c && y.op == op) then s else s.modWave c w (fun y => y.completeAfter op s.clock)

/-- The call is over. -/
def State.dropCall (s : State) (id : Nat) : State :=
  { s with calls := s.calls.filter (fun y => y.id != id), lineQ := s.lineQ.filter (fun y => y.num != id) }

/-- Changes a call that is not over. -/
def State.modCall (s : State) (id : Nat) (f : Call → Call) : State :=
  { s with calls := s.calls.map (fun y => if y.id = id then f y else y) }

/-- Lanes `m` of a wave become READY at `pc` out of a SUSPENDED split, and the level returns to base (R130). -/
def Wave.wakeLanes (w : Wave) (m : Lanes) (pc : PC) (clock : Nat) : Wave :=
  if m = 0 then w else { w.moveTo m pc .ready clock with level := w.base }

/-- The lanes that are SUSPENDED for the reason `r`. -/
def Wave.waitLanes (w : Wave) (r : Susp) : Lanes := (w.splits.filter (fun p => p.waitsFor r)).foldl (fun m p => m ||| p.mask) 0

/-- A call of operation `op` is still to be decided: to be performed, or to wait (R324). -/
def State.undecided (s : State) (op : Nat) : Bool := s.calls.any (fun y => y.op == op && y.susp)

/-- Some lanes together. -/
def allLanes (l : List Lanes) : Lanes := l.foldl (fun m x => m ||| x) 0

/-- R324: the outcome of the calls of the SUSPENDED split of operation `op` is decided once it is of every lane. Then the
lanes whose calls have been performed become READY at next(x), as one split; those whose calls would have to wait stay in one
SUSPENDED split at the instruction; and those that fault await their trap there. DESIGN CHOICE (notes/assumptions/79): the
rule speaks of one call for the split. -/
def State.callSettle (s : State) (c w op : Nat) (pc : PC) : State :=
  if s.undecided op then s
  else
    let waits := allLanes ((s.waiters.filter (fun v => v.id == op)).map (·.lanes))
    let traps := allLanes ((s.traps.filter (fun t => t.op == op)).map (·.lanes))
    s.modWave c w (fun y =>
      let m := y.waitLanes (.call op)
      let y1 := if m &&& waits = 0 then y else y.moveTo (m &&& waits) pc (.suspended (.waiter op)) s.clock
      y1.wakeLanes (m &&& ~~~ waits &&& ~~~ traps) (nextPc pc) s.clock)

/-- The call has been performed: lanes that wait SUSPENDED for its answer go on (R324). -/
def State.callGo (s : State) (x : Call) : State :=
  if x.susp then (s.modCall x.id (fun y => { y with susp := false })).callSettle x.core x.wave x.op x.pc else s

/-- The result of a call in the d of lane l: a pending write of this cycle (R118). -/
def State.callWrite (s : State) (x : Call) (l n v : Nat) : State :=
  if x.writes then
    let ws := wordsAt x.d l n v
    s.modWave x.core x.wave (fun w => { w with pend := w.pend ++ [{ due := s.clock, early := s.clock, num := x.op, op := none, isDiv := false
                                                                    v := ws.1, s := ws.2, p := [], sp := [], fl := 0 }] })
  else s

/-- The call completes with the value `v` in `n` registers. -/
def State.reply (s : State) (x : Call) (n v : Nat) : State :=
  (((s.dropCall x.id).callWrite x x.lane n v).callGo x).opDone x.core x.wave x.op

/-- A call of several lanes completes with a status for each of them (R331, R355). -/
def State.replyLanes (s : State) (x : Call) (rs : List (Nat × Nat)) : State :=
  ((rs.foldl (fun (t : State) r => t.callWrite x r.1 1 r.2) (s.dropCall x.id)).callGo x).opDone x.core x.wave x.op

/-- The call faults (R27, R324): lanes that wait SUSPENDED for its answer take the trap where they stand, at once, since they
issue no wait for its token; the lanes of one instruction share a trap (R378). -/
def State.failCall (s : State) (x : Call) (cause addr : Nat) : State :=
  let s1 := (s.dropCall x.id).postTrap x.asid x.core x.wave x.lanes cause 0 x.pc addr (if x.susp then none else x.tok) none none x.op
  (s1.callGo x).opDone x.core x.wave x.op

/-- The checker's records of the writes that a call will not make (R125). -/
def Call.keys (x : Call) : List Nat :=
  match x.d with
  | .v r => (lanesOf x.lanes).flatMap (fun l => [keyV r.toNat l, keyV (r.toNat + 1) l])
  | .s r => if x.writes then [keyS r.toNat, keyS (r.toNat + 1)] else []
  | _ => []

/-- The call would have to wait: its operation ends with no effect, its replay making a new post, and its lanes stay SUSPENDED
at the instruction until `on` changes (R324). The waiters of one instruction have its number. -/
def State.waitCall (s : State) (x : Call) (on : WaitOn) : State :=
  let s1 : State := { s.dropCall x.id with
    waiters := s.waiters ++ [{ id := x.op, uid := x.uid, wave := x.wave, lanes := x.lanes, on := on, cont := x.pc, d := x.d, writes := x.writes
                               fired := none, time := 0 }] }
  ((s1.modWave x.core x.wave (fun w => { w with chkTok := w.chkTok.filter (fun e => !(x.tok == some e.2 && x.keys.contains e.1)) })).callGo
    x).opDone x.core x.wave x.op

/-- The call waits for an answer under number `n`. -/
def State.markSent (s : State) (x : Call) (n : Nat) : State :=
  s.modCall x.id (fun y => { y with sent := some n, lodged := none })

/-- The call that waits for the answer numbered `n`. -/
def State.sentCall (s : State) (n : Nat) : Option Call := s.calls.find? (fun y => y.sent == some n)

/-- The time of the calling core. -/
def State.callTime (s : State) (x : Call) : Nat := (s.core x.core).time

/-! ## The calling thread's accesses (R334) -/

/-- The parts of a piece within the 128-byte lines. -/
def linesOfPiece (p : Piece) : List Piece :=
  (List.range (p.len / 128 + 2)).filterMap (fun i =>
    let lo := if i = 0 then p.va else (p.va / 128 + i) * 128
    let hi := min (p.va + p.len) ((p.va / 128 + i + 1) * 128)
    if lo < hi then some { p with va := lo, len := hi - lo, pa := p.pa + (lo - p.va) } else none)

/-- What an access of a call meets: a fault, lines at which it waits (R218), or none of these where it waits for the host
(R415); or else its result. -/
inductive CallAcc (α : Type) where
  | fault (cause addr : Nat)
  | wait (lines : List Nat)
  | ok (x : α)
  deriving DecidableEq, Repr

/-- A line is locked, or requests that waited for its unlock go before call `num` (R218). -/
def State.lineBusy (s : State) (line num : Nat) : Bool := (Tbl.find s.locks line).isSome || !s.mayServe line num

/-- The lines of the table entries that a call's translations read and that are busy (R218). -/
def State.walkBusy (s : State) (x : Call) (va n : Nat) : List Nat :=
  (((List.range ((va % 65536 + n + 65535) / 65536)).flatMap (fun i =>
    let a := va + 65536 * i
    if ((s.core x.core).tlbFind x.asid a).isSome then [] else (s.walkReads x.asid a).map lineNo)).filter (fun l => s.lineBusy l x.id)).eraseDups

/-- The pieces of a range that the thread of a call may access, or its fault; a write of part of a cell faults. -/
def State.threadAcc (s : State) (x : Call) (need va n : Nat) : CallAcc (List Piece) :=
  if n = 0 then .ok []
  else match s.walkBusy x va n with
    | l :: ls => .wait (l :: ls)
    | [] =>
      match accOf (fun a => s.xlateNow x.core x.asid a) need va n with
      | .miss _ => .fault 0x10 va
      | .fault c a => .fault c a
      | .ok ps =>
        if Nat.land need rightW ≠ 0 ∧ ps.any Piece.partialCell then .fault 0x17 va
        else match s.physFault x.tenant ps with
          | some e => .fault e.1 e.2
          | none => .ok (ps.flatMap linesOfPiece)

/-- A line part as a request of the call's thread. -/
def Call.req (x : Call) (p : Piece) (pl : Place) (a : Nat) : Req :=
  { id := x.id, uid := x.uid, asid := x.asid, core := x.core, wave := x.wave, lane := x.lane, op := x.id, kind := .load, place := pl,
    pageKind := leafKind p.leaf, addr := a, size := p.len, va := p.va, elem := 0, off := 0, ord := .rlx, scope := 0,
    ty := .none, data := 0, data2 := 0, age := 0, st := .waiting, pc := x.pc, lodged := none }

/-- What keeps a line part from being accessed now: its line, or the host, which no port reaches. -/
def State.partWaits (s : State) (x : Call) (pl : Place) (a : Nat) : Option (List Nat) :=
  match pl with
  | .host => if s.fab.portsUp.isEmpty then some [] else none
  | _ => if s.lineBusy (lineNo a) x.id then some [lineNo a] else none

/-- Reads the parts in order. -/
def threadReadParts (x : Call) : List Piece → State → List Byte → CallAcc (State × List Byte)
  | [], s, bs => .ok (s, bs)
  | p :: t, s, bs =>
    match s.placeOf x.tenant p.leaf p.pa p.len with
    | .error e => .fault e p.va
    | .ok (pl, a) =>
      let r := x.req p pl a
      match s.partWaits x pl a with
      | some ls => .wait ls
      | none =>
        if s.poisoned r then .fault 0x51 p.va
        else
          let y := ((s.served (lineNo a) x.id).countMoved x.asid p.len).sourceBytes r
          threadReadParts x t y.1 (bs ++ y.2)

/-- n bytes at `va` as the call's thread reads them. -/
def State.threadRead (s : State) (x : Call) (va n : Nat) : CallAcc (State × List Byte) :=
  match s.threadAcc x rightR va n with
  | .fault c a => .fault c a
  | .wait ls => .wait ls
  | .ok ps => threadReadParts x ps s []

/-- A write of the call's thread to one line part. -/
def threadPut (x : Call) (s : State) (p : Piece) (bs : List Byte) : State :=
  match s.placeOf x.tenant p.leaf p.pa p.len with
  | .error _ => s
  | .ok (pl, a) =>
    match pl with
    | .host => (({ s with hostMem := Memory.setBytes s.hostMem a bs } : State).touchLine true (lineNo a)).strictBy true x.core a
    | _ =>
      if leafKind p.leaf = 2 then s.manualStore x.core x.asid a p.va bs
      else
        let y := s.homeStore x.core (leafKind p.leaf) a bs
        if leafKind p.leaf = 1 then (y.1.advance x.core y.2).refresh x.core (lineNo a) (y.1.lineAt (lineNo a)) y.2 s.clock else y.1

def threadPutParts (x : Call) : List Piece → List Byte → State → State
  | [], _, s => s
  | p :: t, bs, s => threadPutParts x t (bs.drop p.len) ((threadPut x s p (bs.take p.len)).countMoved x.asid p.len)

/-- Bytes written at `va` by the call's thread, once every part can be. -/
def State.threadWrite (s : State) (x : Call) (va : Nat) (bs : List Byte) : CallAcc State :=
  match s.threadAcc x rightW va bs.length with
  | .fault c a => .fault c a
  | .wait ls => .wait ls
  | .ok ps =>
    let at_ := ps.filterMap (fun p => match s.placeOf x.tenant p.leaf p.pa p.len with | .ok y => some y | .error _ => none)
    match at_.filterMap (fun y => s.partWaits x y.1 y.2) with
    | ls :: t => .wait (ls ++ t.flatMap id)
    | [] =>
      let lines := (at_.filter (fun y => y.1 == .mem)).map (fun y => lineNo y.2)
      .ok (threadPutParts x ps bs (lines.foldl (fun (t : State) l => t.served l x.id) s))

/-- Goes on with an access of a call: its fault is the call's; a locked line leaves the call as it is, queued at the
line's home by its Orrery, and so does a host that no port reaches, whose time begins (R415). -/
def CallAcc.bind {α : Type} (r : CallAcc α) (s : State) (x : Call) (f : α → State) : State :=
  match r with
  | .fault c a => s.failCall x c a
  | .wait [] => s.modCall x.id (fun y => if y.lodged.isNone then { y with lodged := some s.clock } else y)
  | .wait ls => ls.foldl (fun t l => t.queueAt l s.clock (orreryAgent (dieOf x.core)) x.id) s
  | .ok y => f y

/-- A store of the Orrery's own at its home at time t, beyond every lease granted (R213). -/
def State.orreryStoreAt (s : State) (t pa : Nat) (bs : List Byte) : State :=
  let line := lineNo pa
  let w := max t ((s.tsOf line).rts + 1)
  (s.homeBytes pa bs).putTs line { wts := w, rts := w }

def State.orreryStore (s : State) (pa : Nat) (bs : List Byte) : State := s.orreryStoreAt 0 pa bs

/-! ## Accesses to a process's memory that no thread makes -/

/-- The parts of n bytes at `va` within the 128-byte lines: address and length. -/
def lineParts (va n : Nat) : List (Nat × Nat) :=
  (List.range (n / 128 + 2)).filterMap (fun i =>
    let lo := if i = 0 then va else (va / 128 + i) * 128
    let hi := min (va + n) ((va / 128 + i + 1) * 128)
    if lo < hi then some (lo, hi - lo) else none)

/-- Where a process's page holds n bytes within a line, with the page's kind, or the cause that forbids the access: records are
checked against the tenant's firewall slots too (R427). -/
def State.procPlace (s : State) (asid need va n : Nat) : Except Nat (Nat × Place × Nat) :=
  match s.walk asid va with
  | .error c => .error c
  | .ok (big, e) =>
    if !leafGrants e need then .error 0x11
    else (s.placeOf (s.tenantOfAsid asid) e (leafPa big e va) n).map (fun x => (leafKind e, x.1, x.2))

/-- The ranges of memory in which n bytes at `va` of a process lie. -/
def State.procRanges (s : State) (asid va n : Nat) : List (Nat × Nat) :=
  (lineParts va n).filterMap (fun p => match s.procPlace asid 0 p.1 p.2 with
    | .ok (_, .mem, a) => some (a, p.2)
    | _ => none)

/-- n bytes of a process's memory, as they stand at their homes; none where a page does not admit the read. -/
def State.procRead (s : State) (asid va n : Nat) : Option (List Byte) :=
  let ps := (lineParts va n).map (fun p => match s.procPlace asid rightR p.1 p.2 with
    | .ok (_, .host, a) => some (Memory.bytes s.hostMem a p.2)
    | .ok (_, _, a) => some (Memory.bytes s.mem a p.2)
    | .error _ => none)
  if ps.any (·.isNone) then none else some (ps.flatMap (fun p => p.getD []))

/-- Bytes are written to a process's pages at time t, line by line; a page that does not admit the write keeps its bytes. -/
def State.procWrite (s : State) (asid t va : Nat) (bs : List Byte) : State :=
  (lineParts va bs.length).foldl (fun (u : State) p =>
    let xs := (bs.drop (p.1 - va)).take p.2
    match s.procPlace asid rightW p.1 p.2 with
    | .ok (_, .host, a) => (({ u with hostMem := Memory.setBytes u.hostMem a xs } : State).touchLine true (lineNo a)).noteStrict true a t
    | .ok (kind, _, a) => if kind = 1 then u.orreryStoreAt t a xs else (u.homeBytes a xs).noteStrict false a t
    | .error _ => u) s

/-- The latest write time of the lines of n bytes at `va` in a process's memory. -/
def State.procTime (s : State) (asid va n : Nat) : Nat :=
  (lineParts va n).foldl (fun m p => match s.procPlace asid 0 p.1 p.2 with
    | .ok (_, pl, a) => max m (s.lineTime (pl == .host) (lineNo a))
    | .error _ => m) 0

/-! ## The Catalogue (R328 to R330) -/

/-- A free choice among 0 to n − 1 that `used` does not hold: the pick of Config if it is free, and the lowest
otherwise (notes/assumptions/6). -/
def pickFree (fc n : Nat) (used : List Nat) : Option Nat :=
  let p := Config.freePick fc % n
  if n = 0 then none
  else if !used.contains p then some p
  else ((List.range (min n (used.length + 1))).find? (fun i => !used.contains i))

/-- An index is free when it holds no live entry and its generation has not run out. -/
def State.takenIdx (s : State) (die : Nat) : List Nat :=
  let base := die * 2 ^ 21
  let here := fun (i : Nat) => decide (base ≤ i) && decide (i < base + 2 ^ 21)
  ((s.objs.map (·.1)).filter here ++ ((s.gens.filter (fun e => decide (2 ^ 24 ≤ e.2))).map (·.1)).filter here).map (· - base)

/-- Creates an object of process `asid` homed on a die: the state and the index, if one is free. -/
def State.newObj (s : State) (die asid : Nat) (b : ObjBody) : Option (State × Nat) :=
  (pickFree s.freeCtr (2 ^ 21) (s.takenIdx die)).map (fun i =>
    let idx := die * 2 ^ 21 + i
    ({ s with
        freeCtr := s.freeCtr + 1
        objs := Tbl.put s.objs idx { gen := Tbl.getD s.gens idx 0, owner := asid, time := 0, body := b } }, idx))

/-- The handle of the object at an index. -/
def State.handleAt (s : State) (idx : Nat) : Nat :=
  match Tbl.find s.objs idx with
  | some o => handleOf idx o.gen o.body.type
  | none => 0

/-- Frees an index: its generation rises, and one that would wrap is not used again. -/
def State.freeIdx (s : State) (idx : Nat) : State :=
  { s with objs := Tbl.del s.objs idx, gens := Tbl.put s.gens idx (Tbl.getD s.gens idx 0 + 1) }

/-- A creating call answers with the new handle, or with NOSLOT (R329). -/
def State.replyNew (s : State) (x : Call) (b : ObjBody) : State :=
  match s.newObj (dieOf x.core) x.asid b with
  | some (t, i) => t.reply x 2 (t.handleAt i)
  | none => s.reply x 2 (failWord stNoSlot)

end Sys2Proof.Machine
end

