-- ==== Sys2Proof/Machine/OrreryPorts.lean ====
section
/-! DEFINITION. Ports, messages and grants (R337 to R341, R404 to R410, R420) and names (R351, R411, R412), as the
Orrery performs the calls on them. -/

namespace Sys2Proof.Machine

/-! ## Pages that change hands (R338 to R341, R381) -/

/-- The pages of a grant with their addresses. -/
def pagesAt (gva : Nat) (ps : List GrantPage) : List (Nat × GrantPage) :=
  (List.range ps.length).zipWith (fun k p => (gva + 65536 * k, p)) ps

/-- Page addresses of `n` pages from `gva`. -/
def pageVas (gva n : Nat) : List Nat := (List.range n).map (fun k => gva + 65536 * k)

/-- A parked fault whose address lies in the range. -/
def SplitSt.parkedIn (st : SplitSt) (lo hi : Nat) : Bool :=
  match st with
  | .parked _ _ a _ => decide (lo ≤ a) && decide (a < hi)
  | _ => false

/-- A saved split whose fault has been resolved resumes at its restore. -/
def Split.resolve (p : Split) (lo hi : Nat) : Split :=
  match p.st with
  | .parked c d a r => { p with st := .parked c d a (r || (decide (lo ≤ a) && decide (a < hi))) }
  | _ => p

/-- R381: the PARKED splits of a process whose faulting addresses lie in the range become READY at the faulting
instruction, on its cores and in its save frames. -/
def State.resumeParked (s : State) (asid lo hi : Nat) : State :=
  let here := fun (c : Option Crew) => match c with | some k => k.asid == asid | none => false
  (s.frames.filter (fun e => here e.2.crew)).foldl (fun t e =>
      e.2.waves.foldl (fun u w => u.onSaved e.1 w (fun x => { x with splits := x.splits.map (fun p => p.resolve lo hi) })) t)
    { s with cores := s.cores.map (fun e => (e.1, { e.2 with waves := e.2.waves.map (fun w =>
      (w.1, if w.2.asid = asid then w.2.wakeIf s.clock (fun p => p.st.parkedIn lo hi) (fun p => p.pc) else w.2)) })) }

/-- A frame with three uncorrectable errors belongs to no pool (R429). -/
def State.wornOut (s : State) (f : Nat) : Bool := decide (3 ≤ Tbl.getD s.svc.uncorrected (f / 65536) 0)

/-- A frame joins a process's pool (R327). -/
def State.addFrame (s : State) (asid f : Nat) : State :=
  match (if s.wornOut f then none else Tbl.find s.procs asid) with
  | some p => { s with procs := Tbl.put s.procs asid { p with frames := p.frames ++ [f] } }
  | none => s

/-- A page returns to its sender: its leaf as it stood, or, where something is mapped now, its frame to the pool
(R341). -/
def State.restorePage (s : State) (asid va : Nat) (p : GrantPage) : State :=
  match s.leafAddr asid va with
  | some la => if s.pte la = 0 then s.orreryStore la (bytesOf 8 p.leaf.toNat) else s.addFrame asid p.frame
  | none => s.addFrame asid p.frame

/-- The pages of a grant return to their sender. -/
def State.restorePages (s : State) (asid gva : Nat) (ps : List GrantPage) : State :=
  ((pagesAt gva ps).foldl (fun t e => t.restorePage asid e.1 e.2) s).resumeParked asid gva (gva + 65536 * ps.length)

/-- The state of the GRANT that a handle names, if it still exists. -/
def State.setGrant (s : State) (h : Option Nat) (st : Nat) : State :=
  match h with
  | none => s
  | some x => match s.named x with
    | some o => match o.body with
      | .grant _ n port serial => s.setBody (handleIdx x) (.grant st n port serial)
      | _ => s
    | none => s

/-- A queued message of this package is withdrawn: its pages return to their sender (R341). -/
def State.returnMsg (s : State) (m : Msg) : State :=
  if m.grant.isSome then (s.restorePages m.asid m.gva m.pages).setGrant m.grant 2 else s

/-- A grant in flight to another package is returned (R407, R408). -/
def State.returnSent (s : State) (serial : Nat) : State :=
  match Tbl.find s.fab.sent serial with
  | none => s
  | some g =>
    ({ s with fab := { s.fab with sent := Tbl.del s.fab.sent serial } } : State).restorePages g.asid g.gva g.pages
      |>.setGrant (some g.handle) 2

/-! ## Sending to other packages (R404 to R407) -/

/-- A package cannot be reached: it has no route, or one of its streams has stalled; in the bring-up service every
other package is out of reach (Table 17-5). -/
def State.lost (s : State) (pkg : Nat) : Bool :=
  pkg != s.fab.pkgNo && pkg != 0xFFFE && (s.svc.boot == .bringup || s.fab.unreachable.contains pkg || (Tbl.find s.fab.routes pkg).isNone)

/-- Traffic leaves on the stream of a die. -/
def State.sendOut (s : State) (die pkg serial : Nat) (b : RemoteBody) : State :=
  { s with fab := { s.fab with outbox := s.fab.outbox ++ [{ pkg := pkg, die := die, serial := serial, body := b, at_ := s.clock, acked := false }] } }

/-- The port at `idx` is full. -/
def State.portFull (s : State) (idx : Nat) : Bool :=
  match Tbl.find s.objs idx with
  | some o => match o.body with | .port cap msgs _ => decide (cap ≤ msgs.length) | _ => true
  | none => true

/-- The flits of a message with n bytes of payload and p pages (R405). -/
def messageFlits (n p : Nat) : Nat := 1 + (n - 192 + 255) / 256 + 256 * p

/-- A message leaves a port: the notes of waiting senders of other packages are answered (R408), here, and at a port that
was never full but for the staging area (R409); calls that wait here replay (R324). -/
def State.portRoom (s : State) (idx : Nat) : State :=
  let room := fun (n : Nat × Nat × Nat) => n.1 == idx || !s.portFull n.1
  let mine := s.fab.notes.filter room
  let s1 : State := { s with fab := { s.fab with notes := s.fab.notes.filter (fun n => !room n) } }
  (mine.foldl (fun t n => t.sendOut (n.1 / 2 ^ 21) n.2.1 n.2.2 .room) s1).poke (.change idx)

/-! ## psend (R338, R339, R408, R420) -/

/-- A field of a record. -/
def recNum (b : List Byte) (lo n : Nat) : Nat := ofBytes ((b.drop lo).take n)

/-- The send descriptor (Table 13-7). -/
structure SendDesc where
  data : Nat
  len : Nat
  npg : Nat
  gva : Nat
  tag : Nat
  deriving DecidableEq, Repr

/-- The descriptor of 64 bytes, if it keeps its limits. -/
def sendDesc (b : List Byte) : Option SendDesc :=
  let d : SendDesc := { data := recNum b 0 8, len := recNum b 8 4, npg := recNum b 12 4, gva := recNum b 16 8, tag := recNum b 24 8 }
  if d.len ≤ 4096 ∧ d.npg ≤ 64 ∧ (d.npg ≠ 0 ∨ d.gva = 0) ∧ recNum b 32 8 = 0 ∧ recNum b 48 16 = 0 then some d else none

/-- Where a port leads. -/
inductive SendTo where
  | dead
  | lost
  | host (port : Nat)
  | here (idx : Nat)
  | remote (pkg index gen : Nat)
  deriving DecidableEq, Repr

/-- Where the port object at `idx` leads; none for an object that is no port. While a package cannot be reached, calls to it get
PEER_LOST (R407), and afterwards the proxies that died with it DEAD. -/
def State.sendTo (s : State) (idx : Nat) (b : ObjBody) : Option SendTo :=
  match b with
  | .port .. => some (.here idx)
  | .proxy pkg _ i g dead =>
    some (if s.lost pkg then .lost
      else if dead then .dead
      else if pkg = 0xFFFE then .host i
      else if pkg = s.fab.pkgNo then
        (match Tbl.find s.objs i with
          | some o => match o.body with | .port .. => if o.gen = g then .here i else .dead | _ => .dead
          | none => .dead)
      else .remote pkg i g)
  | _ => none

/-- A proxy becomes DEAD (R330); calls that wait on it replay. -/
def State.killProxy (s : State) (idx : Nat) : State :=
  match Tbl.find s.objs idx with
  | some o => match o.body with
    | .proxy p d i g _ => (s.setBody idx (.proxy p d i g true)).poke (.change idx)
    | _ => s
  | none => s

/-- The proxy that handle `h` names becomes DEAD, if it still exists. -/
def State.killNamed (s : State) (h : Nat) : State := if (s.named h).isSome then s.killProxy (handleIdx h) else s

/-- Every proxy of this package whose target is the port at `idx` with generation `gen` becomes DEAD (R330). -/
def State.killTarget (s : State) (idx gen : Nat) : State :=
  (s.objs.filter (fun (e : Nat × Obj) => match e.2.body with
    | .proxy p _ i g _ => p == s.fab.pkgNo && i == idx && g == gen
    | _ => false)).foldl (fun t e => t.killProxy e.1) s

/-- The leaf entries of a range to be granted: an error, none where some page is absent, or the entries with their
addresses (R338). -/
def State.grantLeaves (s : State) (asid gva n : Nat) : Except (Nat × Nat) (Option (List (Nat × DWord))) :=
  let es := (pageVas gva n).map (fun va => (va, (s.leafAddr asid va).map (fun la => (la, s.pte la))))
  let bad := es.filterMap (fun e => match e.2 with
    | some (_, l) =>
      if !l.getLsbD 0 then none
      else if !leafGnt l || leafPin l || leafHost l || l.getLsbD 4 then some (0x33, e.1)
      else if !leafGrants l (rightR + rightW) then some (0x11, e.1) else none
    | none => none)
  if n = 0 then .ok (some [])
  else if gva % 65536 ≠ 0 then .error (0x33, gva)
  else if outside gva (65536 * n) then .error (0x12, gva)
  else match bad with
    | e :: _ => .error e
    | [] =>
      let ls := es.filterMap (fun e => match e.2 with | some (la, l) => if l.getLsbD 0 then some (la, l) else none | none => none)
      .ok (if ls.length = n then some ls else none)

/-- What is recorded of a page at the send. -/
def grantPage (l : DWord) : GrantPage :=
  { kind := leafKind l, fmtc := leafFmtc l, geo := leafGeo l, sws := leafSws l, leaf := l, frame := leafPfn l * 65536, bytes := [] }

/-- Appends a message to a port of this package; its waiting receivers replay. -/
def State.append (s : State) (idx : Nat) (m : Msg) : State :=
  match Tbl.find s.objs idx with
  | some o => match o.body with
    | .port cap msgs lost => (s.setBody idx (.port cap (msgs ++ [m]) lost)).poke (.change idx)
    | _ => s
  | none => s

/-- The leaves of a granted range become 0 and its shootdown begins, for call x (R338). -/
def State.takePages (s : State) (x : Call) (d : SendDesc) (ls : List (Nat × DWord)) : State :=
  let s1 := ls.foldl (fun t e => t.orreryStore e.1 (bytesOf 8 0)) s
  { s1 with
    nextId := s1.nextId + 1
    shoots := s1.shoots ++ [{ id := s1.nextId, asid := x.asid, lo := d.gva, hi := d.gva + 65536 * d.npg, mode := 0, call := some x.id }] }

/-- The message of a send of this package. -/
def sendMsg (s : State) (x : Call) (d : SendDesc) (payload : List Byte) (grant : Option Nat) (ps : List GrantPage) : Msg :=
  { payload := payload, tag := BitVec.ofNat 64 d.tag, pkg := s.fab.pkgNo, asid := x.asid, grant := grant, gva := d.gva,
    pages := ps, serial := x.id, time := s.callTime x }

/-- The die that performs a call: the home of its object (R333, R402). -/
def Call.homeDie (x : Call) : Nat := fieldOf x.a.toNat 21 3

/-! ### The end of a send (R338, R408) -/

/-- A send whose status is known writes the GRANT field of its descriptor, as an access of the calling thread, and
completes; while the field's line is locked the call stays in this state. With `room` it was refused with FULL and waits for its note to be
answered, which may have happened meanwhile. -/
def performSendEnd (grant status : Nat) (room : Option (Nat × Bool)) (x : Call) (s : State) : State :=
  (s.threadWrite x (x.b.toNat + 40) (bytesOf 8 grant)).bind s x (fun t =>
    match room with
    | none => t.reply x 1 status
    | some (n, here) => let u := t.waitCall x (.room n); if here then u.poke (.room n) else u)

/-- The status of a send is known: it has been performed, unless it is to wait (R324), and its GRANT field is still to be
written. -/
def State.endSend (s : State) (x : Call) (grant status : Nat) (room : Option (Nat × Bool)) : State :=
  let y := { x with kind := .sendEnd grant status room, sent := none, lodged := none }
  let s1 := s.modCall x.id (fun _ => y)
  if room.isSome then performSendEnd grant status room y s1 else performSendEnd grant status room { y with susp := false } (s1.callGo y)

/-- The target of the note numbered `n` has room again (R408). -/
def State.roomFor (s : State) (n : Nat) : State :=
  ({ s with calls := s.calls.map (fun (y : Call) => match y.kind with
      | .sendEnd g st (some (k, _)) => if k = n then { y with kind := .sendEnd g st (some (k, true)) } else y
      | _ => y) } : State).poke (.room n)

/-- The send to a port of this package: without pages it is over; with pages the message stands in the queue, so that the call
has been performed and its lanes go on (R324), and it completes with the shootdown. -/
def psendHere (s : State) (x : Call) (d : SendDesc) (payload : List Byte) (ls : List (Nat × DWord)) (idx : Nat) (t : State) : State :=
  if d.npg = 0 then
    (t.threadWrite x (x.b.toNat + 40) (bytesOf 8 0)).bind s x (fun u => (u.append idx (sendMsg u x d payload none [])).reply x 1 stOk)
  else
    match t.newObj (dieOf x.core) x.asid (.grant 0 d.npg (some idx) x.id) with
    | none => t.reply x 1 stNoSlot
    | some (u, g) =>
      (((u.takePages x d ls).append idx (sendMsg u x d payload (some (u.handleAt g)) (ls.map (fun e => grantPage e.2)))).modCall x.id
        (fun y => { y with lodged := none })).callGo x

/-- The send to a port of another package (R408): the pages are taken first, and the message is forwarded. -/
def psendAway (s : State) (x : Call) (d : SendDesc) (payload : List Byte) (ls : List (Nat × DWord)) (wait : Bool)
    (pkg index gen : Nat) : State :=
  if d.npg = 0 then
    (((s.markSent x x.id).outBy x.core).countMoved x.asid (256 * messageFlits payload.length 0)).sendOut x.homeDie pkg x.id
      (.message index gen s.fab.pkgNo x.asid (BitVec.ofNat 64 d.tag) payload [] wait)
  else
    match s.newObj (dieOf x.core) x.asid (.grant 0 d.npg none x.id) with
    | none => s.reply x 1 stNoSlot
    | some (u, g) =>
      let v := (u.takePages x d ls).modCall x.id (fun y => { y with lodged := none })
      let e : SentGrant := { asid := x.asid, gva := d.gva, pages := ls.map (fun e => grantPage e.2), pkg := pkg, index := index, gen := gen
                             handle := u.handleAt g, tag := BitVec.ofNat 64 d.tag, payload := payload }
      { v with fab := { v.fab with sent := Tbl.put v.fab.sent x.id e } }

/-! ### The host's inbox (R417, R418, R420) -/

/-- The address of the ring that a DVSEC register names, if it is set up, and the log of its slot count (Table 16-2). -/
def State.ringOf (s : State) (reg : DWord) : Option (Nat × Nat) :=
  if reg.getLsbD 0 then some (s.sharedBase + fieldOf reg.toNat 12 28 * 4096, fieldOf reg.toNat 4 4) else none

/-- A record in the inbox: bytes 0 to 39, then TAIL. -/
def State.ringPut (s : State) (base logn fn flags : Nat) (args : List Nat) : State :=
  let tail := Memory.read s.mem base 4
  let slot := base + 256 + 64 * (tail % 2 ^ logn)
  ((s.homeBytes slot (bytesOf 4 tail ++ bytesOf 2 fn ++ bytesOf 2 flags ++ args.flatMap (bytesOf 8))).homeBytes base
    (bytesOf 4 ((tail + 1) % 2 ^ 32))).noteStrict false base s.outTime

/-- The ring holds as many records as slots. -/
def State.ringFull (s : State) (base logn : Nat) : Bool :=
  decide (2 ^ logn ≤ truncTo 32 ((Memory.read s.mem base 4 : Int) - (Memory.read s.mem (base + 128) 4 : Int)))

/-- The bytes of a ring of 2^logn slots. -/
def ringRange (base logn : Nat) : List (Nat × Nat) := [(base, 256 + 64 * 2 ^ logn)]

/-- The send to a port of the host. An inbox that is not set up is treated as an unreachable host. -/
def psendHost (s : State) (x : Call) (d : SendDesc) (wait : Bool) (port : Nat) : State :=
  if 16 < d.len ∨ d.npg ≠ 0 then s.failCall x objArg x.b.toNat
  else match s.ringOf s.fab.ewcinb with
    | none => s.reply x 1 stPeerLost
    | some (base, logn) =>
      (s.threadRead x d.data d.len).bind s x (fun p =>
        if s.ringFull base logn then (if wait then s.waitCall x (.ring 0xFFFE) else s.reply x 1 stFull)
        else if s.agentBusy (ringRange base logn) x.id then s.agentWait (ringRange base logn) lodestarAgent x.id
        else (p.1.threadWrite x (x.b.toNat + 40) (bytesOf 8 0)).bind s x (fun u =>
          ((u.outBy x.core).ringPut base logn 0x100 d.len [port, d.tag, ofBytes (p.2.take 8), ofBytes (p.2.drop 8)]).reply x 1 stOk))

/-- `psend` of one lane (R338); one that was outstanding when its host restarted or its package was lost gets PEER_LOST (R407,
R422). -/
def performPsend (wait : Bool) (x : Call) (s : State) : State :=
  if x.lost then s.reply x 1 stPeerLost
  else match s.owned x.asid x.a.toNat with
  | none => s.failCall x objHandle x.a.toNat
  | some o =>
    match s.sendTo (handleIdx x.a.toNat) o.body with
    | none => s.failCall x objType x.a.toNat
    | some dst =>
      (s.threadRead x x.b.toNat 64).bind s x (fun r =>
        match sendDesc r.2 with
        | none => r.1.failCall x objArg x.b.toNat
        | some d =>
          match dst with
          | .dead => (r.1.killProxy (handleIdx x.a.toNat)).reply x 1 stDead
          | .lost =>
            match r.1.grantLeaves x.asid d.gva d.npg with
            | .error e => r.1.failCall x e.1 e.2
            | .ok none => r.1.reply x 1 stNoPage
            | .ok (some _) => r.1.reply x 1 stPeerLost
          | .host p => psendHost r.1 x d wait p
          | .here idx =>
            match r.1.grantLeaves x.asid d.gva d.npg with
            | .error e => r.1.failCall x e.1 e.2
            | .ok none => r.1.reply x 1 stNoPage
            | .ok (some ls) =>
              if r.1.portFull idx then (if wait then r.1.waitCall x (.change idx) else r.1.reply x 1 stFull)
              else (r.1.threadAcc x rightW (x.b.toNat + 40) 8).bind s x (fun _ =>
                (r.1.threadRead x d.data d.len).bind s x (fun p => psendHere s x d p.2 ls idx p.1))
          | .remote pkg i g =>
            match r.1.grantLeaves x.asid d.gva d.npg with
            | .error e => r.1.failCall x e.1 e.2
            | .ok none => r.1.reply x 1 stNoPage
            | .ok (some ls) =>
              (r.1.threadAcc x rightW (x.b.toNat + 40) 8).bind s x (fun _ =>
                (r.1.threadRead x d.data d.len).bind s x (fun p => psendAway p.1 x d p.2 ls wait pkg i g)))

/-- The 65,536 bytes of a frame. -/
def State.frameBytes (s : State) (f : Nat) : List Byte := Memory.bytes s.mem f 65536

/-- A send whose pages have been taken is refused: they go back, its GRANT is freed and it ends with the status (R408). -/
def State.refuseGrant (s : State) (x : Call) (g : SentGrant) (status : Nat) : State :=
  ((s.returnSent x.id).freeIdx (handleIdx g.handle)).endSend x 0 status none

/-- The shootdown of a send has completed (R339): within the package the call completes; to another package the
message is forwarded with the pages' contents, unless the package has been lost meanwhile or the proxy has become DEAD. The
send goes on when its proxy is deleted (R352). -/
def State.grantShot (s : State) (call : Nat) : State :=
  match s.calls.find? (fun y => y.id == call) with
  | none => s
  | some x =>
    match Tbl.find s.fab.sent x.id with
    | none =>
      let h := (s.objs.find? (fun e => match e.2.body with | .grant _ _ (some _) n => n == x.id | _ => false)).map
        (fun e => s.handleAt e.1)
      s.endSend x (h.getD 0) stOk none
    | some g =>
      let ps := g.pages.map (fun p => { p with bytes := s.frameBytes p.frame })
      let s1 : State := { s with fab := { s.fab with sent := Tbl.put s.fab.sent x.id { g with pages := ps } } }
      let dead := match (s1.owned x.asid x.a.toNat).map (fun (o : Obj) => o.body) with | some (.proxy _ _ _ _ d) => d | _ => false
      if x.lost || s1.lost g.pkg then s1.refuseGrant x g stPeerLost
      else if dead then s1.refuseGrant x g stDead
      else
        let wait := match x.kind with | .psend w => w | _ => false
        (((s1.markSent x x.id).outBy x.core).countMoved x.asid (256 * messageFlits g.payload.length ps.length)).sendOut x.homeDie g.pkg x.id
          (.message g.index g.gen s.fab.pkgNo x.asid g.tag g.payload
            (ps.map (fun p => { kind := p.kind, fmtc := p.fmtc, geo := p.geo, sws := p.sws, bytes := p.bytes })) wait)

/-- The answer to a forwarded send (R408): OK leaves the grant in flight; a refusal returns the pages, frees the GRANT
and writes the descriptor's GRANT field as 0. -/
def State.psendAnswer (s : State) (x : Call) (wait : Bool) (status : Nat) : State :=
  let g := Tbl.find s.fab.sent x.id
  if status = stOk then s.endSend x ((g.map (·.handle)).getD 0) stOk none
  else
    let s1 := match g with
      | some y => (s.returnSent x.id).freeIdx (handleIdx y.handle)
      | none => s
    let s2 := if status = stDead then s1.killNamed x.a.toNat else s1
    s2.endSend x 0 status (if status = stFull ∧ wait then some (x.id, false) else none)

/-! ## precv (R340) -/

/-- The receive descriptor (Table 13-8). -/
structure RecvDesc where
  buf : Nat
  len : Nat
  maxpg : Nat
  lva : Nat
  deriving DecidableEq, Repr

def recvDesc (b : List Byte) : Option RecvDesc :=
  let d : RecvDesc := { buf := recNum b 0 8, len := recNum b 8 4, maxpg := recNum b 12 4, lva := recNum b 16 8 }
  if d.len ≤ 4096 ∧ d.maxpg ≤ 64 ∧ d.lva % 65536 = 0 ∧ (d.maxpg ≠ 0 ∨ d.lva = 0) ∧ recNum b 44 20 = 0 then some d else none

/-- The leaf entries of the landing range, if the range is free: every table present and no entry valid. -/
def State.landing (s : State) (asid lva n : Nat) : Option (List Nat) :=
  let las := (pageVas lva n).filterMap (fun va => (s.leafAddr asid va).bind (fun la => if (s.pte la).getLsbD 0 then none else some la))
  if las.length = n ∧ (n = 0 ∨ !outside lva (65536 * n)) then some las else none

/-- The leaf of a received page. -/
def recvLeaf (p : GrantPage) (frame : Nat) : DWord :=
  BitVec.ofNat 64 (7 + frame / 65536 * 2 ^ 12 + p.kind * 2 ^ 48 + p.fmtc * 2 ^ 50 + p.geo * 2 ^ 54 + p.sws * 2 ^ 55 + 2 ^ 58)

/-- Every cached copy of a frame is dropped on every core (R339). -/
def State.dropFrame (s : State) (f : Nat) : State :=
  let inF := fun (line : Nat) => line * 128 / 65536 == f / 65536
  { s with
    cores := s.cores.map (fun e => (e.1, { e.2 with l1 := e.2.l1.filter (fun y => !inF (y.1 / 2)) }))
    clusters := s.clusters.map (fun e => (e.1, e.2.filter (fun y => !inF y.1))) }

/-- Maps one received page: into its own frame, or, from another package, into a frame of the pool that takes its
contents. -/
def State.mapPage (s : State) (away : Bool) (asid la : Nat) (p : GrantPage) : State :=
  if away then
    match Tbl.find s.procs asid with
    | some pr => match pr.frames with
      | f :: rest =>
        let s1 : State := ({ s with procs := Tbl.put s.procs asid { pr with frames := rest } } : State).dropFrame f
        (s1.homeBytes f p.bytes).orreryStore la (bytesOf 8 (recvLeaf p f).toNat)
      | [] => s
    | none => s
  else (s.dropFrame p.frame).orreryStore la (bytesOf 8 (recvLeaf p p.frame).toNat)

/-- The frames in a process's pool. -/
def State.poolOf (s : State) (asid : Nat) : List Nat := match Tbl.find s.procs asid with | some p => p.frames | none => []

/-- `precv` of one lane. -/
def performPrecv (wait : Bool) (x : Call) (s : State) : State :=
  match s.owned x.asid x.a.toNat with
  | none => s.failCall x objHandle x.a.toNat
  | some o =>
    (s.threadRead x x.b.toNat 64).bind s x (fun r =>
      match recvDesc r.2 with
      | none => r.1.failCall x objArg x.b.toNat
      | some d =>
        match o.body with
        | .port cap msgs lost =>
          let idx := handleIdx x.a.toNat
          match msgs with
          | [] => if wait then r.1.waitCall x (.change idx) else r.1.reply x 1 stEmpty
          | m :: rest =>
            let n := m.pages.length
            let away := m.pkg != r.1.fab.pkgNo
            match (if d.maxpg < n then none else r.1.landing x.asid d.lva n) with
            | none => r.1.reply x 1 stNoRoom
            | some las =>
              if away && decide ((r.1.poolOf x.asid).length < n) then r.1.reply x 1 stNoFrame
              else
                (r.1.threadWrite x d.buf (m.payload.take d.len)).bind s x (fun t =>
                  (t.threadWrite x (x.b.toNat + 24)
                      (bytesOf 8 m.tag.toNat ++ bytesOf 4 m.payload.length ++ bytesOf 4 n
                        ++ bytesOf 4 (m.pkg % 65536 * 65536 + m.asid % 65536))).bind s x (fun u =>
                    let v := (las.zip m.pages).foldl (fun y e => y.mapPage away x.asid e.1 e.2) u
                    let w := ((v.setBody idx (.port cap rest lost)).portRoom idx).resumeParked x.asid d.lva (d.lva + 65536 * n)
                    let y := if away then (if n = 0 then w else w.sendOut (idx / 2 ^ 21) m.pkg m.serial .taken) else w.setGrant m.grant 1
                    (y.advance x.core m.time).reply x 1 (if d.len < m.payload.length then stTrunc else stOk)))
        | _ => r.1.failCall x objType x.a.toNat)

/-! ## grantrev (R341, R410) -/

def performGrantrev (x : Call) (s : State) : State :=
  match s.owned x.asid x.a.toNat with
  | none => s.failCall x objHandle x.a.toNat
  | some o =>
    match o.body with
    | .grant 0 _ (some idx) serial =>
      match (Tbl.find s.objs idx).map (fun (y : Obj) => y.body) with
      | some (.port cap msgs lost) =>
        match msgs.find? (fun m => m.serial == serial && m.pkg == s.fab.pkgNo) with
        | some m =>
          (((s.setBody idx (.port cap (msgs.filter (fun y => y != m)) lost)).returnMsg m).portRoom idx).reply x 1 stOk
        | none => s.reply x 1 stOk
      | _ => s.reply x 1 stOk
    | .grant 0 _ none serial =>
      match Tbl.find s.fab.sent serial with
      | some g => (s.markSent x serial).sendOut x.homeDie g.pkg serial (.revoke g.index)
      | none => s.reply x 1 stOk
    | .grant 1 _ _ _ => s.reply x 1 stTaken
    | .grant _ _ _ _ => s.reply x 1 stOk
    | _ => s.failCall x objType x.a.toNat

/-! ## Names (R351, R411, R412) -/

/-- The directory index of a name (R411). -/
def nameIndex (n : Nat) : Nat :=
  Nat.xor (Nat.xor (Nat.xor (fieldOf n 0 12) (fieldOf n 12 12)) (Nat.xor (fieldOf n 24 12) (fieldOf n 36 12)))
    (Nat.xor (fieldOf n 48 12) (fieldOf n 60 4))

/-- The package that holds the system binding of a name: 0xFFFF in MAP names this one. -/
def State.holderOf (s : State) (name : Nat) : Nat :=
  let p := Tbl.getD s.fab.map (nameIndex name) 0xFFFF
  if p = 0xFFFF then s.fab.pkgNo else p

def performNsbind (sys : Bool) (x : Call) (s : State) : State :=
  match s.owned x.asid x.a.toNat with
  | none => s.failCall x objHandle x.a.toNat
  | some o =>
    match o.body with
    | .port .. =>
      let name := x.b.toNat
      let b : Binding := { pkg := s.fab.pkgNo, index := handleIdx x.a.toNat, gen := o.gen }
      if name = 0 then s.failCall x objArg 0
      else if !sys then
        (if (Tbl.find s.fab.pkgBind name).isSome then s.reply x 1 stExists
         else ({ s with fab := { s.fab with pkgBind := Tbl.put s.fab.pkgBind name b } } : State).reply x 1 stOk)
      else if s.holderOf name = s.fab.pkgNo then
        (if (Tbl.find s.fab.sysBind name).isSome then s.reply x 1 stExists
         else ({ s with fab := { s.fab with sysBind := Tbl.put s.fab.sysBind name b } } : State).reply x 1 stOk)
      else if s.lost (s.holderOf name) then s.reply x 1 stPeerLost
      else (s.markSent x x.id).sendOut x.homeDie (s.holderOf name) x.id (.bind x.b b.index b.gen)
    | _ => s.failCall x objType x.a.toNat

/-- `nslook` has found a binding: a new proxy, unless its package cannot be reached. -/
def State.lookFound (s : State) (x : Call) (b : Binding) : State :=
  if s.lost b.pkg then s.reply x 2 (failWord stPeerLost)
  else s.replyNew x (.proxy b.pkg (b.index / 2 ^ 21) b.index b.gen false)

def performNslook (x : Call) (s : State) : State :=
  let name := x.b.toNat
  match Tbl.find s.fab.pkgBind name, Tbl.find s.fab.hostBind name with
  | some b, _ => s.lookFound x b
  | none, some b => s.lookFound x b
  | none, none =>
    let h := s.holderOf name
    if h = s.fab.pkgNo then
      match Tbl.find s.fab.sysBind name with
      | some b => s.lookFound x b
      | none => s.reply x 2 (failWord stNotFound)
    else if s.lost h then s.reply x 2 (failWord stPeerLost)
    else (s.markSent x x.id).sendOut (dieOf x.core) h x.id (.lookup x.b)

/-- The bindings of the port at `idx` are removed; a binding's holder in another package is told (R412). -/
def State.unbindPort (s : State) (idx gen : Nat) : State :=
  let keep := fun (e : Nat × Binding) => !(e.2.pkg == s.fab.pkgNo && e.2.index == idx && e.2.gen == gen)
  let away := s.fab.bound.filter (fun e => e.2.1 == idx && e.2.2.1 == gen)
  let s1 : State := { s with fab := { s.fab with
    pkgBind := s.fab.pkgBind.filter keep
    sysBind := s.fab.sysBind.filter keep
    bound := s.fab.bound.filter (fun e => !(e.2.1 == idx && e.2.2.1 == gen)) } }
  away.foldl (fun t e => t.sendOut (idx / 2 ^ 21) e.2.2.2 0 (.unbind (BitVec.ofNat 64 e.1))) s1

end Sys2Proof.Machine
end

