-- ==== Sys2Proof/Machine/OrreryCalls.lean ====
section
/-! DEFINITION. The Orrery's calls as they are performed: created waves (R336), counters, wait sets, suspension and
timers (R342 to R345), task queues and dependence counters (R346 to R350), creation, deletion and inspection (R329,
R352, R353) and the mailbox rings (R355). -/

namespace Sys2Proof.Machine

/-! ## Waves (R101, R102, R336) -/

/-- A wave of process `asid` that starts at `pc` with the lanes of `m` (Table 5-1). -/
def Wave.start (asid : Nat) (m : Lanes) (pc : PC) (clock quota level : Nat) : Wave where
  asid := asid
  launched := m
  v := []
  s := []
  p := []
  splits := [Split.fresh pc m .ready clock]
  j := []
  toks := []
  falls := []
  posts := []
  gmark := []
  fpctl := 0
  chkctl := 0
  quota := quota
  scalewin := []
  rt := false
  base := level
  level := level
  poll := none
  argp := 0
  crewNo := 0
  tasks := []
  taskQueue := none
  abase := 0
  abytes := 0
  waveObj := none
  exitCtr := 0
  pend := []
  outs := []
  notBefore := 0
  readySince := clock
  waitSince := clock
  replays := []
  agedAt := none
  yieldUntil := none
  chkLand := []
  chkTok := []
  barW := []
  barQ := []
  rest := { resting := false, hinted := false, block := none, hintPc := 0 }
  scFence := []
  made := []
  raised := (0, 0)
  cuts := []
  bad := []

/-- The lowest n lanes. -/
def lowLanes (n : Nat) : Lanes := BitVec.ofNat 32 (2 ^ n - 1)

/-- Wave numbers of a core that are not in use and whose quadrants have `regs` free registers. -/
def Core.freeWaves (k : Core) (regs : Nat) : List Nat :=
  (List.range 128).filter (fun w => (Tbl.find k.waves w).isNone && decide (regs ≤ k.freePool (quadOf w)))

/-- One more wave of a task queue runs. -/
def State.taskWaveMore (s : State) (q : Option Nat) : State :=
  match q.bind (fun i => (Tbl.find s.objs i).map (fun (o : Obj) => (i, o.body))) with
  | some (i, .queue x) => s.setBody i (.queue { x with waves := x.waves + 1 })
  | _ => s

/-- `wcreate` of one lane. -/
def performWcreate (x : Call) (s : State) : State :=
  let cfg := x.c.toNat
  let nl := fieldOf cfg 0 6
  let q8 := fieldOf cfg 8 6
  let lvl := fieldOf cfg 14 2
  if nl = 0 ∨ 32 < nl ∨ q8 = 0 ∨ 32 < q8 ∨ fieldOf cfg 6 2 ≠ 0 ∨ cfg / 2 ^ 16 ≠ 0 then s.failCall x objArg cfg
  else match (if x.noA then none else s.counterFault x.asid x.a.toNat) with
    | some c => s.failCall x c x.a.toNat
    | none =>
      let r := s.entryCheck x.core x.asid x.b.toNat
      match r.2 with
      | some c => r.1.failCall x c x.b.toNat
      | none =>
        match ((r.1.core x.core).freeWaves (q8 * 8)).head? with
        | none => r.1.reply x 2 (failWord stNoSlot)
        | some w =>
          match r.1.newObj (dieOf x.core) x.asid (.wave false (if x.noA then 0 else x.a.toNat)) with
          | none => r.1.reply x 2 (failWord stNoSlot)
          | some (t, i) =>
            let mk := x.maker
            let y := { Wave.start x.asid (lowLanes nl) (x.b.setWidth 56) s.clock (q8 * 8) lvl with
              s := Bits.wrs [] ((List.range 4).map (fun n => (n, mk.sregs.getD n 0)))
              argp := mk.argp, scalewin := mk.windows, rt := mk.rt, crewNo := mk.crewNo, abase := mk.abase
              abytes := mk.abytes, taskQueue := mk.queue, exitCtr := if x.noA then 0 else x.a.toNat
              waveObj := some (i, match Tbl.find t.objs i with | some o => o.gen | none => 0) }
            ((t.setWave x.core w y).taskWaveMore mk.queue).reply x 2 (t.handleAt i)

/-! ## Counters and wait sets (R342, R343) -/

/-- A call on an event counter of the process. -/
def onCounter (x : Call) (h : Nat) (s : State) (f : Nat → State) : State :=
  match s.owned x.asid h with
  | none => s.failCall x objHandle h
  | some o => match o.body with | .event v => f v | _ => s.failCall x objType h

def performEcsig (x : Call) (s : State) : State :=
  onCounter x x.a.toNat s (fun _ => (s.signal x.a.toNat (x.b.toNat % 2 ^ 32) (s.callTime x)).reply x 0 0)

/-- `ecread` reads an event counter, or the count of a dependence counter. -/
def performEcread (x : Call) (s : State) : State :=
  match s.owned x.asid x.a.toNat with
  | none => s.failCall x objHandle x.a.toNat
  | some o => match o.body with
    | .event v => s.reply x 2 v
    | .dep _ n _ _ => s.reply x 2 n
    | _ => s.failCall x objType x.a.toNat

/-- A call on a wait set of the process. -/
def onWaitset (x : Call) (s : State) (f : Tbl (Nat × Nat) → State) : State :=
  match s.owned x.asid x.a.toNat with
  | none => s.failCall x objHandle x.a.toNat
  | some o => match o.body with | .waitset ms => f ms | _ => s.failCall x objType x.a.toNat

def performWsadd (idx : Nat) (x : Call) (s : State) : State :=
  onWaitset x s (fun ms => onCounter x x.b.toNat s (fun _ =>
    ((s.setBody (handleIdx x.a.toNat) (.waitset (Tbl.put ms idx (handleIdx x.b.toNat, x.c.toNat)))).fireWaiters).reply x 1 stOk))

def performWsdel (idx : Nat) (x : Call) (s : State) : State :=
  onWaitset x s (fun ms => (s.setBody (handleIdx x.a.toNat) (.waitset (Tbl.del ms idx))).reply x 1 stOk)

/-! ## Suspension (R344) -/

/-- The suspend is performed: its lanes wait as a waiter, which fires at once if it is satisfied. -/
def performSuspend (cont : PC) (x : Call) (s : State) : State :=
  match s.owned x.asid x.a.toNat with
  | none => s.failCall x objHandle x.a.toNat
  | some o =>
    let idx := handleIdx x.a.toNat
    let go := fun (on : WaitOn) =>
      let t := s.waitCall x on
      ({ t with waiters := t.waiters.map (fun w => if w.id = x.op then { w with cont := cont } else w) } : State).fireWaiters
    match o.body with
    | .event _ => go (.counter idx x.b.toNat)
    | .waitset _ => if x.noB then go (.waitset idx) else s.failCall x objArg x.a.toNat
    | _ => s.failCall x objType x.a.toNat

/-! ## Timers (R345) -/

/-- A call on a timer of the process. -/
def onTimer (x : Call) (s : State) (f : Nat → Nat → State) : State :=
  match s.owned x.asid x.a.toNat with
  | none => s.failCall x objHandle x.a.toNat
  | some o => match o.body with | .timer c _ _ _ n => f c n | _ => s.failCall x objType x.a.toNat

def performTarm (x : Call) (s : State) : State :=
  let p := x.c.toNat % 2 ^ 32
  onTimer x s (fun c n =>
    if p ≠ 0 ∧ p < 1000 then s.failCall x objArg x.a.toNat
    else (s.setBody (handleIdx x.a.toNat) (.timer c (if p = 0 then 1 else 2) x.b.toNat p n)).reply x 1 stOk)

def performTdisarm (x : Call) (s : State) : State :=
  onTimer x s (fun c n => (s.setBody (handleIdx x.a.toNat) (.timer c 0 0 0 n)).reply x 1 stOk)

/-! ## Task queues (R346 to R350) -/

/-- A call on a task queue of the process. -/
def onQueueObj (x : Call) (s : State) (f : TaskQ → State) : State :=
  match s.owned x.asid x.a.toNat with
  | none => s.failCall x objHandle x.a.toNat
  | some o => match o.body with | .queue q => f q | _ => s.failCall x objType x.a.toNat

/-- A free general slot: none while a HELD successor waits for one (R350). -/
def TaskQ.general (q : TaskQ) (fc : Nat) : Option Nat :=
  if q.held.isEmpty then pickFree fc q.cap (q.used.filter (fun i => decide (i < q.cap))) else none

/-- The slot that a task of depth d takes (R347). -/
def TaskQ.slotFor (q : TaskQ) (fc d : Nat) : Option Nat :=
  match q.general fc with
  | some i => some i
  | none => if 0 < d ∧ d ≤ 8 ∧ !q.used.contains (q.cap + d - 1) then some (q.cap + d - 1) else none

/-- The queue with a task in a slot. -/
def TaskQ.enqueue (q : TaskQ) (slot depth : Nat) (record : List Byte) (time : Nat) : TaskQ :=
  { q with
    used := q.used ++ [slot]
    tasks := q.tasks ++ [{ slot := slot, depth := depth, entry := recNum record 0 8, reserved := decide (q.cap ≤ slot), time := time }] }

/-- `qenq` of one lane (R347). -/
def performQenq (wait : Bool) (x : Call) (s : State) : State :=
  onQueueObj x s (fun q =>
    let idx := handleIdx x.a.toNat
    if 8 < x.depth then s.failCall x 0x34 x.a.toNat
    else match q.slotFor s.freeCtr x.depth with
      | none => if wait then s.waitCall x (.change idx) else s.reply x 1 stFull
      | some slot =>
        (s.threadRead x x.b.toNat q.recsz).bind s x (fun r =>
          (r.1.threadWrite x (q.arena + slot * q.recsz) r.2).bind s x (fun t =>
            (({ t with freeCtr := t.freeCtr + 1 } : State).setBody idx (.queue (q.enqueue slot x.depth r.2 (t.callTime x)))).reply x 1 stOk)))

/-- `dcinit` of one lane (R350). -/
def performDcinit (x : Call) (s : State) : State :=
  onQueueObj x s (fun q =>
    let n := x.c.toNat % 2 ^ 32
    if n = 0 then s.failCall x objArg 0
    else (s.threadRead x x.b.toNat q.recsz).bind s x (fun r => r.1.replyNew x (.dep 0 n x.a.toNat r.2)))

/-- `dcdec` of one lane (R350). -/
def performDcdec (x : Call) (s : State) : State :=
  match s.owned x.asid x.a.toNat with
  | none => s.failCall x objHandle x.a.toNat
  | some o =>
    let idx := handleIdx x.a.toNat
    match o.body with
    | .dep 0 n qh rec =>
      if 1 < n then (s.setBody idx (.dep 0 (n - 1) qh rec)).reply x 1 (n - 1)
      else
        match (s.owned x.asid qh).map (fun (y : Obj) => y.body) with
        | some (.queue q) =>
          match q.general s.freeCtr with
          | some slot =>
            (s.threadWrite x (q.arena + slot * q.recsz) rec).bind s x (fun t =>
              ((({ t with freeCtr := t.freeCtr + 1 } : State).setBody (handleIdx qh) (.queue (q.enqueue slot 0 rec (t.callTime x)))).setBody idx
                (.dep 3 0 qh rec)).reply x 1 0)
          | none =>
            ((s.setBody (handleIdx qh) (.queue { q with held := q.held ++ [{ dep := idx, gen := o.gen, record := rec, time := s.callTime x }] })).setBody
              idx (.dep 2 0 qh rec)).reply x 1 0
        | _ => s.failCall x objHandle qh
    | .dep _ _ _ _ => s.reply x 1 0xFFFFFFFF
    | _ => s.failCall x objType x.a.toNat

/-- The queue descriptor (Table 13-9), if its fields keep their limits; with it the handle of its contract. -/
def queueDesc (b : List Byte) : Option (TaskQ × Nat) :=
  let q : TaskQ := { arena := recNum b 0 8, recsz := recNum b 8 2, cap := recNum b 10 2, q8 := recNum b 12 1, lvl := recNum b 13 1
                     stage := recNum b 14 1, abytes := recNum b 16 4, contract := none, tasks := [], used := [], held := [], waves := 0 }
  let c := recNum b 24 8
  if q.arena % 64 = 0 ∧ 64 ≤ q.recsz ∧ q.recsz ≤ 4096 ∧ q.recsz % 64 = 0 ∧ 1 ≤ q.cap ∧ q.cap ≤ 65527 ∧ 1 ≤ q.q8 ∧ q.q8 ≤ 32
      ∧ q.lvl ≤ 3 ∧ q.stage ≤ 63 ∧ recNum b 15 1 = 0 ∧ q.abytes % 256 = 0 ∧ recNum b 20 4 = 0
      ∧ recNum b 32 32 = 0 then
    some ({ q with contract := if c = 0 then none else some c }, c)
  else none

/-- The handle names a contract of the process: otherwise the object cause. -/
def State.contractFault (s : State) (asid h : Nat) : Option Nat :=
  match s.owned asid h with
  | none => some objHandle
  | some o => match o.body with | .contract _ => none | _ => some objType

/-- What the arena of a queue meets: its pages must be RELEASED and grant R and W (R346). -/
def State.arenaFault (s : State) (x : Call) (va n : Nat) : CallAcc Unit :=
  match s.walkBusy x va n with
  | l :: ls => .wait (l :: ls)
  | [] =>
    match accOf (fun a => s.xlateNow x.core x.asid a) (rightR + rightW) va n with
    | .miss _ => .fault 0x10 va
    | .fault c a => .fault c a
    | .ok ps =>
      if ps.any (fun p => leafKind p.leaf != 1) then .fault objArg va
      else match s.physFault x.tenant ps with | some e => .fault e.1 e.2 | none => .ok ()

/-- `objnew` of one lane (R337, R342, R343, R345, R346). -/
def performObjnew (ty : Nat) (x : Call) (s : State) : State :=
  let b := x.b.toNat % 2 ^ 32
  match ty with
  | 2 => if 1 ≤ b ∧ b ≤ 1024 ∧ x.noC then s.replyNew x (.port b [] 0) else s.failCall x objArg b
  | 3 => if b = 0 ∧ x.noC then s.replyNew x (.waitset []) else s.failCall x objArg b
  | 4 =>
    if b ≠ 0 ∨ x.noC then s.failCall x objArg b
    else match s.counterFault x.asid x.c.toNat with
      | some c => s.failCall x c x.c.toNat
      | none => s.replyNew x (.timer x.c.toNat 0 0 0 0)
  | 5 =>
    if b ≠ 0 ∨ x.noC then s.failCall x objArg b
    else (s.threadRead x x.c.toNat 64).bind s x (fun r =>
      match queueDesc r.2 with
      | none => r.1.failCall x objArg x.c.toNat
      | some (q, c) =>
        match (if c = 0 then none else r.1.contractFault x.asid c) with
        | some e => r.1.failCall x e c
        | none =>
          (r.1.arenaFault x q.arena ((q.cap + 8) * q.recsz)).bind r.1 x (fun _ => r.1.replyNew x (.queue q)))
  | _ => if b = 0 ∧ x.noC then s.replyNew x (.event 0) else s.failCall x objArg b

/-! ## Deletion and inspection (R352, R353, R372) -/

/-- The waiters of a deleted counter or wait set wake with s0 = 0xFFFF_FFFF. -/
def State.wakeAll (s : State) (idx : Nat) : State :=
  { s with waiters := s.waiters.map (fun w =>
      let here := match w.on with | .counter i _ => i == idx | .waitset i => i == idx | _ => false
      if here && w.fired.isNone then { w with fired := some 0xFFFFFFFF } else w) }

/-- Nothing names the counter of handle h any longer: wait-set members, timers and watches. -/
def State.forgetCounter (s : State) (h : Nat) : State :=
  { s with
    objs := s.objs.map (fun e => (e.1, match e.2.body with
      | .waitset ms => { e.2 with body := .waitset (ms.filter (fun m => m.2.1 != handleIdx h)) }
      | .timer c st d p n => if c = h then { e.2 with body := .timer c 0 0 0 n } else { e.2 with body := .timer c st d p n }
      | _ => e.2))
    watches := s.watches.filter (fun w => w.counter != h) }

/-- A wave of a demoted crew: normal class, at its base level (R371, R372). -/
def Wave.demote (w : Wave) : Wave := { w with rt := false, level := w.base }

/-- The crew of a core drops to normal class at its base level. -/
def Core.demote (k : Core) : Core :=
  { k with
    crew := k.crew.map (fun z => { z with rt := false })
    waves := k.waves.map (fun e => (e.1, e.2.demote)) }

/-- The class byte of wave w in the save frame at `pa` (Table 15-5). -/
def classByteAt (pa w : Nat) : Nat := pa + 0x1000 + 2048 * w + 0x42C

/-- A saved crew drops to normal class at its base level, in its frame. -/
def State.demoteFrame (s : State) (pa : Nat) : State :=
  match Tbl.find s.frames pa with
  | some f =>
    let ws := match f.engine with | some g => g.statics | none => []
    { s with
      frames := Tbl.put s.frames pa { f with crew := f.crew.map (fun z => { z with rt := false }) }
      mem := Bits.wrs s.mem (ws.map (fun e =>
        let b := (Bits.rd s.mem (classByteAt pa e.1)).toNat / 4 % 4
        (classByteAt pa e.1, BitVec.ofNat 8 (5 * b)))) }
  | none => s

/-- Every crew that `sel` picks, running or saved, drops to normal class at its base level. -/
def State.demoteWhere (s : State) (sel : Crew → Bool) : State :=
  let hit := fun (c : Option Crew) => match c with | some z => z.stage.isNone && sel z | none => false
  (s.frames.filter (fun e => hit e.2.crew)).foldl (fun t e => t.demoteFrame e.1)
    { s with cores := s.cores.map (fun e => if hit e.2.crew then (e.1, e.2.demote) else e) }

/-- Every index of a run has been claimed. -/
def Inst.exhausted (i : Inst) (count : Nat) : Bool := !i.claims || (decide (count ≤ i.next) && i.returned.isEmpty)

/-- A run is over: every index has been claimed and every crew has retired (R28). -/
def Inst.finished (i : Inst) (count : Nat) : Bool := i.exhausted count && i.live == 0

/-- A contract is deleted (R372): the launch that it bound opens no further instance and its crews drop to normal
class; with no instance left the launch is complete. -/
def State.dropContract (s : State) (idx : Nat) : State :=
  let hit := s.launches.filter (fun e => e.2.contract == some idx)
  hit.foldl (fun t e =>
    let l := { e.2 with contract := none, rt := false, complete := e.2.insts.all (fun i => i.finished e.2.count) }
    ({ t with launches := Tbl.put t.launches e.1 l } : State).demoteWhere (fun z => z.serial == e.1)) s

/-- `objdel` of one lane. -/
def performObjdel (x : Call) (s : State) : State :=
  match s.owned x.asid x.a.toNat with
  | none => s.failCall x objHandle x.a.toNat
  | some o =>
    let h := x.a.toNat
    let idx := handleIdx h
    let gone := fun (t : State) => (t.freeIdx idx).reply x 1 stOk
    match o.body with
    | .port _ msgs _ =>
      let s1 := msgs.foldl (fun t m =>
        if m.pkg = s.fab.pkgNo ∨ m.pages = [] then t.returnMsg m
        else t.sendOut (idx / 2 ^ 21) m.pkg m.serial (.revoked false)) (s.unbindPort idx o.gen)
      gone ((s1.portRoom idx).killTarget idx o.gen)
    | .event _ => gone ((s.wakeAll idx).forgetCounter h)
    | .waitset _ => gone (s.wakeAll idx)
    | .queue q => if q.tasks ≠ [] ∨ q.held ≠ [] ∨ q.waves ≠ 0 then s.reply x 1 stBusy else gone (s.poke (.change idx))
    | .contract _ => gone (s.dropContract idx)
    | .wave .. | .proxy .. | .timer .. | .dep .. | .grant .. => gone s

/-- STATE and COUNT of an object (Tables 13-3 and 13-10). -/
def objStateCount (b : ObjBody) : Nat × Nat :=
  match b with
  | .wave done _ => (if done then 1 else 0, 0)
  | .port _ msgs _ => (0, msgs.length)
  | .proxy _ _ _ _ dead => (if dead then 2 else 1, 0)
  | .waitset ms => (0, ms.length)
  | .timer _ st _ _ n => (st, n)
  | .queue q => (0, q.tasks.length)
  | .event v => (0, v)
  | .dep st n _ _ => (if st = 0 then 1 else st, n)
  | .contract c => (if c.active then 1 else 0, c.opened)
  | .grant st n _ _ => (st, n)

/-- The word of Table 13-10. -/
def infoWord (b : ObjBody) : Nat :=
  let x := objStateCount b
  b.type * 2 ^ 60 + x.1 * 2 ^ 56 + x.2 % 2 ^ 32

def performObjinfo (x : Call) (s : State) : State :=
  match s.owned x.asid x.a.toNat with
  | none => s.failCall x objHandle x.a.toNat
  | some o => s.reply x 2 (infoWord o.body)

/-! ## syscall (R355) -/

/-- The service core that serves a wave's calls. -/
def serviceCore (core wave : Nat) : Nat := core / 32 * 2 + wave % 2

/-- Entries of a mailbox ring. -/
def ringSlots : Nat := 256

/-- The entry joins the ring, or the call waits. A call without a bitmap stays until its replies are written. -/
def performSyscall (fn : Nat) (x : Call) (s : State) : State :=
  let sc := serviceCore x.core x.wave
  if ringSlots ≤ (s.svc.rings.filter (fun e => e.sc == sc)).length then s.waitCall x (.ring sc)
  else
    let id := s.nextId
    let e : RingEnt := { id := id, sc := sc, fn := fn, uid := x.uid, core := x.core, wave := x.wave, asid := x.asid
                         lanes := x.lanes, todo := x.lanes, recs := x.recs, bitmap := if x.noA then none else some x.a.toNat, call := x.id, answers := [] }
    let s1 : State := { s with nextId := id + 1, svc := { s.svc with rings := s.svc.rings ++ [e] } }
    if x.noA then
      (s1.modCall x.id (fun y => { y with sent := some id })).callGo x
    else s1.replyLanes x ((lanesOf x.lanes).map (fun l => (l, stOk)))

end Sys2Proof.Machine
end

