-- ==== Sys2Proof/Machine/OrreryEvents.lean ====
section
/-! DEFINITION. The Orrery's own steps: replays and wakes (R324, R344), Sidereal's expiries (R345), task waves (R347 to
R349, R373) and the successors of HELD dependence counters (R350). -/

namespace Sys2Proof.Machine

/-! ## Wakes (R324, R344) -/

/-- A waiter numbered `id` that has fired: the lanes of a `suspend` have one, and those of a call that waits one each. -/
def State.firedWaiter (s : State) (id : Nat) : Option (Waiter × Word) :=
  s.waiters.findSome? (fun w => if w.id = id then w.fired.map (fun x => (w, x)) else none)

/-- The waiters numbered `id` have gone. -/
def State.dropWaiter (s : State) (id : Nat) : State := { s with waiters := s.waiters.filter (fun w => w.id != id) }

/-- A waiter of a suspend, rather than one of a call that replays. -/
def WaitOn.isSuspend (w : WaitOn) : Bool :=
  match w with
  | .counter .. | .waitset _ => true
  | _ => false

/-- The T of a crew takes over a time (R335): that of its core, or that kept in its frame. -/
def State.crewTime (s : State) (uid t : Nat) : State :=
  match s.coreOf uid, s.frameOf uid with
  | some c, _ => s.advance c t
  | none, some pa => { s with frames := Tbl.mod s.frames pa (Frame.idle 0) (fun f => { f with time := max f.time t }) }
  | none, none => s

/-- A waiting call whose peer is lost completes with PEER_LOST (R407, R422), and its lanes go on. -/
def State.loseWaiter (s : State) (w : Waiter) : State :=
  let ws := if w.writes then wordsAt w.d (lowestLane w.lanes) 1 stPeerLost else ([], [])
  (({ s with waiters := s.waiters.filter (fun v => v != w) } : State).onCrewRegs w.uid w.wave w.id ws.1 ws.2).onCrewWave w.uid w.wave (fun y =>
    y.wakeLanes (w.lanes &&& y.waitLanes (.waiter w.id)) (nextPc w.cont) s.clock)

/-- R324: calls whose port, queue or ring has changed are issued again: the split in which they wait becomes READY at the
instruction, once all of its calls are decided. One that waited for the host is noted until it issues (R422). -/
def execSuspendReplayWake (waiter : Nat) (s : State) : Out :=
  match s.firedWaiter waiter with
  | none => .next s
  | some (w, _) =>
    if w.on.isSuspend || s.undecided waiter then .next s
    else if w.on = .lost then .next (s.loseWaiter w)
    else
      let host := allLanes ((s.waiters.filter (fun v => v.id == waiter && v.on == .ring 0xFFFE)).map (·.lanes))
      .next ((s.dropWaiter waiter).onCrewWave w.uid w.wave (fun y =>
        { y.wakeSusp s.clock (fun p => p.waitsFor (.waiter waiter)) (fun p => p.pc) with
          replays := if host = 0 then y.replays else y.replays ++ [(host, w.cont, false)] }))

/-- R344: s0 takes the result, and the lanes go on at the continuation, as an acquire at `.sys` (R335). -/
def execOrreryWake (waiter : Nat) (s : State) : Out :=
  match s.firedWaiter waiter with
  | none => .next s
  | some (w, x) =>
    if !w.on.isSuspend then .next s
    else .next (((s.dropWaiter waiter).crewTime w.uid w.time).onCrewWave w.uid w.wave (fun y =>
      (if y.waitLanes (.waiter waiter) = 0 then y else y.write s.clock waiter [] [(0, x)]).wakeSusp s.clock
        (fun p => p.waitsFor (.waiter waiter)) (fun _ => w.cont)))

/-! ## Sidereal (R345) -/

/-- The next expiry of a timer, if its CLOCK value has come, signals its counter. -/
def execSiderealExpiry (obj : Nat) (s : State) : Out :=
  match (Tbl.find s.objs obj).map (fun (o : Obj) => o.body) with
  | some (.timer c st d p n) =>
    if st = 0 ∨ s.clock < d then .next s
    else
      let b := if st = 1 then ObjBody.timer c 0 0 0 (n + 1) else ObjBody.timer c 2 (d + p) p (n + 1)
      .next ((s.setBody obj b).signal c 1 0)
  | _ => .next s

/-! ## Task waves (R347 to R349, R373) -/

/-- A core as it is when a crew or stage context begins on it: engines idle, buffers zero (R221, R271, R298). -/
def Core.begin (k : Core) (c : Crew) : Core :=
  { k with
    crew := some c, claim := none, waves := [], agedFor := [], walks := [], pins := [], abuf := [], wbuf := [], cbuf := []
    bars := [], squeues := [], chans := [], cmds := [], guards := [], guardWrites := [], guardBy := [], seals := []
    carrs := [], cinits := [], mats := [], arrayFree := 0 }

/-- The errors of a core's buffers go with their contents. -/
def State.freshBuffers (s : State) (c : Nat) : State :=
  { s with poison := s.poison.filter (fun e => match e.place with
    | .abuf k _ | .wbuf k _ | .cbuf k _ => k != c
    | _ => true) }

/-- A crew, or a stage context, that has just begun. -/
def Crew.fresh (uid asid tenant : Nat) (clock : Nat) : Crew where
  uid := uid
  asid := asid
  tenant := tenant
  serial := 0
  crewNo := 0xFFFFFFFF
  waves := 0
  abytes := 0
  gang := none
  version := .none
  rt := false
  base := 0
  inst := 0
  contract := none
  startedAt := clock
  busy := 0
  frame := 0
  asked := none
  preempt := none
  stage := none
  draining := false
  nextStage := none
  ending := false

/-- A core begins a crew or stage context. -/
def State.beginOn (s : State) (c : Nat) (k : Crew) : State := (s.freshBuffers c).modCore c (fun y => y.begin k)

/-- A core with no crew, no claim and no reservation (R361). -/
def Core.free (k : Core) : Bool := k.crew.isNone && k.claim.isNone && k.reservedFor.isNone

/-- The engines and waves of a core hold nothing of a process. -/
def Core.noWork (k : Core) : Bool := k.waves.isEmpty && k.cmds.isEmpty && k.mats.isEmpty

/-- The contract's set holds a core (Table 14-5). -/
def Contract.holds (k : Contract) (c : Nat) : Bool := k.clusters.getLsbD (c / 8)

/-- The MANUAL lines of a core's L1. -/
def State.manualLines (s : State) (c : Nat) : List Nat := ((s.core c).l1.filter (fun e => e.2.manual)).map (fun e => e.1 / 2)

/-- The MANUAL copies of core c go back to their homes (R258). -/
def State.manualBack (s : State) (c : Nat) : State := (s.manualLines c).foldl (fun t l => t.sendBack c l 0 true) s

/-- The contract that a handle names. -/
def State.contractOf (s : State) (h : Nat) : Option Contract :=
  match s.named h with
  | some o => match o.body with | .contract k => some k | _ => none
  | none => none

/-- The launch that the contract at an index binds. -/
def State.boundLaunch (s : State) (idx : Nat) : Option (Nat × Launch) := s.launches.find? (fun e => e.2.contract == some idx)

/-- The share of core c in the contract's current instance is spent (R371, R373). -/
def State.shareSpent (s : State) (idx c : Nat) : Bool :=
  match (s.boundLaunch idx).bind (fun e => e.2.insts.getLast?) with
  | some i => i.spent.contains c
  | none => false

/-- Core `c` is made ready for a task wave of queue `q` of process `asid`: it is a core of the queue's stage (R348), or for a
bound queue a core of the contract's set that is free, already serves it, or holds a crew of the process (R373). DESIGN CHOICE
(notes/assumptions/52): on a core that holds a crew, whose engines and buffers a task wave shares then, no task wave is formed
for another process, nor while the crew is being saved or ended. -/
def State.stageFor (s : State) (c asid : Nat) (q : TaskQ) : Option State :=
  let k := s.core c
  match q.contract, k.crew with
  | none, some z => if z.stage = some q.stage ∧ !z.draining ∧ z.contract = none then some s else none
  | none, none => none
  | some h, some z =>
    if z.contract = some (handleIdx h) ∧ z.stage.isSome ∧ !z.draining ∧ !s.shareSpent (handleIdx h) c then
      some (if k.waves.isEmpty then s.modCrew c (fun y => { y with startedAt := s.clock }) else s)
    else if z.stage.isNone && z.asid == asid && z.asked.isNone && z.preempt.isNone && !z.ending && !k.waves.isEmpty
        && ((s.contractOf h).map (fun (t : Contract) => t.holds c)).getD false && !s.shareSpent (handleIdx h) c then some s
    else none
  | some h, none =>
    match s.contractOf h with
    | some t =>
      if t.holds c ∧ k.free ∧ !s.shareSpent (handleIdx h) c then
        some (({ s with nextId := s.nextId + 1 } : State).beginOn c
          { Crew.fresh s.nextId asid (s.tenantOfAsid asid) s.clock with stage := some q.stage, contract := some (handleIdx h), rt := true, base := q.lvl })
      else none
    | none => none

/-- The A-buffer regions in use on a core, by first byte and length. -/
def Core.regions (k : Core) : List (Nat × Nat) :=
  k.waves.map (fun e => (e.2.abase, e.2.abytes)) ++ k.cmds.map (fun e => (e.2.abase, e.2.abytes)) ++ k.mats.map (fun m => (m.abase, m.abytes))

/-- The lowest place for n bytes of A-buffer. -/
def Core.placeFor (k : Core) (n : Nat) : Option Nat :=
  let rs := k.regions.filter (fun r => r.2 != 0)
  let ok := fun (b : Nat) => decide (b + n ≤ Config.abufBytes) && rs.all (fun r => decide (b + n ≤ r.1) || decide (r.1 + r.2 ≤ b))
  ((sortBy (fun a b => decide (a ≤ b)) (0 :: rs.map (fun r => r.1 + r.2))).find? ok)

/-- The tasks that a wave takes: the oldest in a reserved slot, or else the oldest, and then, of the first 64 queued,
those with its entry, up to 32 (R348). -/
def TaskQ.gather (q : TaskQ) : List Task :=
  match (match q.tasks.find? (·.reserved) with | some t => some t | none => q.tasks.head?) with
  | none => []
  | some t => t :: ((q.tasks.take 64).filter (fun y => y.entry == t.entry && y.slot != t.slot)).take 31

/-- A choice of Config among the elements of a list. -/
def pickFrom {α : Type} (fc : Nat) (l : List α) : Option α :=
  match l[Config.freePick fc % l.length]? with
  | some x => some x
  | none => l.head?

/-- The wave of a list of gathered tasks. `checked` tells that the entry's BTM has been looked at. -/
def taskWave (s : State) (asid : Nat) (q : TaskQ) (qi base : Nat) (ts : List Task) (checked : Bool) : Wave :=
  let n := ts.length
  let entry : PC := BitVec.ofNat 56 ((ts.head?.map (·.entry)).getD 0)
  { Wave.start asid (lowLanes n) entry s.clock (q.q8 * 8) q.lvl with
    splits := [{ Split.fresh entry (lowLanes n) .ready s.clock with origin := if checked then none else some entry }]
    s := Bits.wrs [] [(0, BitVec.ofNat 32 n)]
    rt := q.contract.isSome
    crewNo := 0xFFFFFFFF
    tasks := (List.range n).zipWith (fun l (t : Task) =>
      (l, { slot := t.slot, argp := BitVec.ofNat 64 (q.arena + t.slot * q.recsz), depth := t.depth })) ts
    taskQueue := some qi
    abase := base
    abytes := q.abytes }

/-- R348: a task wave of queue `obj` is formed on a core, if the core has the resources. Both checks of R37 are made first.
DESIGN CHOICE (notes/assumptions/44): a task whose entry fails one of them ends with its cause at the entry PC as its wave is
formed; where the entry's line cannot be fetched, the wave takes the fetch's cause when it issues, and BTM is looked at then. -/
def taskWaveForm (core obj : Nat) (s : State) : State :=
  match Tbl.find s.objs obj with
  | some o =>
    match o.body with
    | .queue q =>
      match q.gather, s.stageFor core o.owner q with
      | t :: ts, some s1 =>
        match pickFrom s.freeCtr ((s1.core core).freeWaves (q.q8 * 8)), (s1.core core).placeFor q.abytes with
        | some w, some base =>
          let all := t :: ts
          let slots := all.map (·.slot)
          let r := s1.entryCheck core o.owner t.entry
          let s2 := ({ r.1 with freeCtr := r.1.freeCtr + 1 } : State).setBody obj
            (.queue { q with tasks := q.tasks.filter (fun y => !slots.contains y.slot), waves := q.waves + 1 })
          let s3 := (s2.setWave core w (taskWave s o.owner q obj base all r.2.isNone)).advance core ((all.map (·.time)).foldl max 0)
          if r.2 = some 0x04 ∨ r.2 = some 0x05 then
            s3.takeTrap core w (lowLanes all.length) (r.2.getD 0) 0 (BitVec.ofNat 56 t.entry) t.entry (BitVec.ofNat 56 t.entry)
          else s3
        | _, _ => s
      | _, _ => s
    | _ => s
  | none => s

def execTaskWaveForm (core obj : Nat) (s : State) : Out := .next (taskWaveForm core obj s)

/-- R350: the oldest HELD successor of queue `obj` takes the general slot that is free. -/
def execHeldSuccessorEnqueue (obj : Nat) (s : State) : Out :=
  match Tbl.find s.objs obj with
  | some o =>
    match o.body with
    | .queue q =>
      match q.held with
      | h :: rest =>
        match ({ q with held := [] } : TaskQ).general s.freeCtr with
        | some slot =>
          let va := q.arena + slot * q.recsz
          .next (s.asAgent (s.procRanges o.owner va q.recsz) (orreryAgent (obj / 2 ^ 21)) (heldNum obj) (fun t =>
            let s0 := ({ t with freeCtr := t.freeCtr + 1 } : State).procWrite o.owner h.time va h.record
            let s1 := s0.setBody obj
              (.queue (({ q with held := rest } : TaskQ).enqueue slot 0 h.record (max h.time (s0.procTime o.owner va q.recsz))))
            (match Tbl.find s1.objs h.dep with
            | some d => match d.body with
              | .dep 2 n qh r => if d.gen = h.gen then s1.setBody h.dep (.dep 3 n qh r) else s1
              | _ => s1
            | none => s1).poke (.change obj)))
        | none => .next s
      | [] => .next s
    | _ => .next s
  | none => .next s

end Sys2Proof.Machine
end

