-- ==== Sys2Proof/Machine/TransitCalls.lean ====
section
/-! DEFINITION. Transit's calls (opcodes 0xE0 to 0xE2, R356 to R359, R367 to R369, R376), and the step that performs a
call of the Orrery or of Transit (R333). -/

namespace Sys2Proof.Machine

/-! ## Issue (R356) -/

def launchBody (o : FmtK) : Ctx → State → State := recordCall .launch false (fixedLen 64) rightR o (argsPP o)
def ctadmitBody (o : FmtK) : Ctx → State → State := recordCall .ctadmit false (fixedLen 64) rightR o (argsPP o)

def execLaunch (h : Hdr) (o : FmtK) (s : State) : Out :=
  issueWhen (.launch h o) s (recWait (fixedLen 64) rightR o.b) (launchBody o)
def execLstat (h : Hdr) (o : FmtK) (s : State) : Out := issue (.lstat h o) s (laneCalls .lstat o (argsPP o) false noFaults)
def execCtadmit (h : Hdr) (o : FmtK) (s : State) : Out :=
  issueWhen (.ctadmit h o) s (recWait (fixedLen 64) rightR o.b) (ctadmitBody o)

/-! ## Statuses (Table 14-2) -/

def stRecord : Nat := 14
def stShape : Nat := 15
def stReject : Nat := 16
def stBudget : Nat := 17

/-! ## Tenant budgets (R367) -/

/-- The budget entry of a tenant (Table 14-4). -/
def State.budget (s : State) (tenant : Nat) : DWord := Tbl.getD s.svc.budgets tenant 0xFFF0FFFF00000400

/-- CORES of a budget. -/
def budgetCores (b : DWord) : Nat := fieldOf b.toNat 0 11

/-- The contracts that stand in the Catalogue, with their indices. -/
def State.contracts (s : State) : List (Nat × Contract) :=
  s.objs.filterMap (fun e => match e.2.body with | .contract c => some (e.1, c) | _ => none)

/-- TENANT of a stage entry (Table 14-6). -/
def stageTenant (x : DWord) : Nat := fieldOf x.toNat 55 8

/-- The entry of a stage. -/
def State.stageEntry (s : State) (t : Nat) : DWord := Tbl.getD s.svc.stages t 0

/-- A core counts for a tenant. -/
def State.coreCounts (s : State) (tenant c : Nat) : Bool :=
  (match (s.core c).crew with
    | some k => match k.stage with
      | some t => k.contract.isNone && stageTenant (s.stageEntry t) == tenant
      | none => k.tenant == tenant
    | none => false)
  || (match (s.core c).claim with
    | some e => match Tbl.find s.launches e.serial with | some l => l.tenant == tenant | none => false
    | none => false)
  || (match (s.core c).reservedFor with
    | some (.move uid) => s.frames.any (fun e => match e.2.crew with | some k => k.uid == uid && k.tenant == tenant | none => false)
    | _ => false)
  || (s.contracts.any (fun e => e.2.tenant == tenant && e.2.holds c))

/-- The tenant's core count: each core once, whatever it holds. -/
def State.coreCount (s : State) (tenant : Nat) : Nat := ((List.range 1024).filter (s.coreCounts tenant)).length

/-- The core headroom H. -/
def State.headroom (s : State) (tenant : Nat) : Nat := budgetCores (s.budget tenant) - s.coreCount tenant

/-- The tenant takes no new claim. -/
def State.gated (s : State) (tenant : Nat) : Bool :=
  s.headroom tenant == 0 || s.svc.gatedBw.contains tenant || s.svc.gatedPower.contains tenant

/-! ## launch (R358, R359) -/

/-- The fields of a launch record (Table 4-3). -/
structure LaunchRec where
  entry : Nat
  argbase : Nat
  count : Nat
  waves : Nat
  quota8 : Nat
  gang : Nat
  lvl : Nat
  rt : Nat
  abytes : Nat
  tenant : Nat
  ver : Nat
  argsz : Nat
  contract : Nat
  done : Nat
  deriving DecidableEq, Repr

def launchRec (b : List Byte) : LaunchRec :=
  let f := fun lo w => fieldOf (ofBytes b) lo w
  { entry := f 0 64, argbase := f 64 64, count := f 128 32, waves := f 160 8, quota8 := f 168 8, gang := f 176 8, lvl := f 184 2
    rt := f 186 1, abytes := f 192 32, tenant := f 224 8, ver := f 232 1, argsz := f 240 16, contract := f 256 64, done := f 320 64 }

/-- The reserved fields of a launch record are zero. -/
def launchReserved (b : List Byte) : Bool :=
  let f := fun lo w => fieldOf (ofBytes b) lo w
  f 187 5 == 0 && f 233 7 == 0 && f 384 128 == 0

/-- The limits of Table 14-3 for a target process of a tenant. -/
def LaunchRec.ok (r : LaunchRec) (tenant : Nat) : Bool :=
  decide (1 ≤ r.count) && (r.gang != 1 || r.count % 8 == 0) && decide (1 ≤ r.waves) && decide (r.waves ≤ 128)
    && decide (1 ≤ r.quota8) && decide (r.quota8 ≤ 32) && r.abytes % 256 == 0 && decide (r.abytes ≤ Config.abufBytes)
    && r.argsz % 8 == 0 && decide (r.argsz ≤ 4096) && decide (r.gang ≤ 1) && (r.contract == 0 || r.gang == 0)
    && (r.rt == 1) == (r.contract != 0) && r.tenant == tenant

/-- Transit holds 8,192 launches that have not completed. -/
def launchSlots : Nat := 8192

/-- The table with room for one more: the oldest completed launch leaves a full table. -/
def roomForLaunch (t : Tbl Launch) : Tbl Launch :=
  if t.length < launchSlots then t
  else match t.find? (fun e => e.2.complete) with
    | some e => Tbl.del t e.1
    | none => t

/-- A run over the indices that nothing has claimed yet. -/
def Inst.fresh (k : Nat) : Inst := { k := k, next := 0, returned := [], live := 0, claims := true, charge := [], spent := [], time := 0, ended := none }

/-- The first instance whose start is at or after `clock` (R370). -/
def Contract.firstAt (c : Contract) (clock : Nat) : Nat := if clock ≤ c.start then 0 else ceilDiv (clock - c.start) c.period

/-- A launch identifier (R359). -/
def launchId (asid serial : Nat) : Nat := asid % 2 ^ 16 * 2 ^ 32 + serial % 2 ^ 32

/-- A nonzero handle of the record must name an event counter or a contract of the process. -/
def State.launchHandles (s : State) (asid : Nat) (r : LaunchRec) : Option (Nat × Nat) :=
  firstErr [if r.done = 0 then none else (s.counterFault asid r.done).map (fun c => (c, r.done)),
    if r.contract = 0 then none else (s.contractFault asid r.contract).map (fun c => (c, r.contract))]

/-- Opens a launch for a caller whose time is `time`: the state and the serial number. -/
def State.openLaunch (s : State) (asid : Nat) (r : LaunchRec) (time : Nat) : State × Nat :=
  let terms := if r.contract = 0 then none else s.contractOf r.contract
  let l : Launch := { asid := asid, entry := BitVec.ofNat 56 r.entry, argbase := BitVec.ofNat 64 r.argbase, count := r.count
                      waves := r.waves, quota8 := r.quota8, gang := r.gang == 1, lvl := r.lvl, rt := r.rt == 1
                      abytes := r.abytes, tenant := r.tenant, ver := r.ver == 1, argsz := r.argsz, terms := terms
                      contract := if r.contract = 0 then none else some (handleIdx r.contract)
                      firstK := match terms with | some c => c.firstAt s.clock | none => 0
                      done := r.done, insts := if r.contract = 0 then [Inst.fresh 0] else [], complete := false, time := time }
  let s1 : State := { s with launches := Tbl.put (roomForLaunch s.launches) s.nextSerial l, nextSerial := s.nextSerial + 1 }
  (match terms with
    | some c => s1.setBody (handleIdx r.contract) (.contract { c with active := true })
    | none => s1, s.nextSerial)

/-- The checks of `launch` after the entry has been checked, in their order: a status, or nothing. -/
def State.launchStatus (s : State) (asid : Nat) (r : LaunchRec) (reserved : Bool) : Option Nat :=
  if !reserved || !r.ok (s.tenantOfAsid asid) then some stRecord
  else if 2048 < ceilDiv r.waves 4 * r.quota8 * 8 then some stShape
  else
    match (if r.contract = 0 then none else s.contractOf r.contract) with
    | some c =>
      if c.active then some stBusy else if c.tenant ≠ r.tenant then some stRecord
      else if launchSlots ≤ (s.launches.filter (fun e => !e.2.complete)).length then some stNoSlot else none
    | none => if launchSlots ≤ (s.launches.filter (fun e => !e.2.complete)).length then some stNoSlot else none

/-- `launch` of one lane. -/
def performLaunch (x : Call) (s : State) : State :=
  (s.threadRead x x.b.toNat 64).bind s x (fun p =>
    let r := launchRec p.2
    let asid := if x.noA then x.asid else x.a.toNat % 2 ^ 16
    match p.1.launchHandles x.asid r with
    | some e => p.1.failCall x e.1 e.2
    | none =>
      if (Tbl.find s.procs asid).isNone then p.1.reply x 2 (failWord stNotFound)
      else
        let q := p.1.entryCheck x.core asid r.entry
        match q.2 with
        | some c => q.1.failCall x c r.entry
        | none =>
          match q.1.launchStatus asid r (launchReserved p.2) with
          | some st => q.1.reply x 2 (failWord st)
          | none =>
            let y := q.1.openLaunch asid r (s.callTime x)
            y.1.reply x 2 (launchId asid y.2))

/-! ## lstat (R376) -/

/-- The crews of a run that have started and not retired, those in save frames among them. -/
def State.running (s : State) (serial k : Nat) : Nat :=
  let here := fun (c : Option Crew) => match c with | some z => z.stage.isNone && z.serial == serial && z.inst == k | none => false
  (s.cores.filter (fun e => here e.2.crew)).length + (s.frames.filter (fun e => here e.2.crew)).length

/-! ### Free cores and clusters (R361, R364) -/

/-- The cores of a die. -/
def dieCores (die : Nat) : List Nat := (List.range 128).map (fun i => die * 128 + i)

/-- The dies that run: die 0 alone in the bring-up service (Table 17-5). -/
def State.dieRuns (s : State) (die : Nat) : Bool := decide (die < 8) && (s.svc.boot != .bringup || die == 0)

/-- The cores of a cluster. -/
def clusterCores (x : Nat) : List Nat := (List.range 8).map (fun i => x * 8 + i)

/-- The clusters of a die. -/
def dieClusters (die : Nat) : List Nat := (List.range 16).map (fun i => die * 16 + i)

/-- The free cores of a die, in increasing order. -/
def State.freeCores (s : State) (die : Nat) : List Nat := (dieCores die).filter (fun c => s.dieRuns die && (s.core c).free)

/-- The wholly free clusters of a die. -/
def State.freeClusters (s : State) (die : Nat) : List Nat :=
  (dieClusters die).filter (fun x => s.dieRuns die && (clusterCores x).all (fun c => (s.core c).free))

/-- Indices of a run that nothing has claimed. -/
def Inst.left (i : Inst) (count : Nat) : Nat := if i.claims then count - i.next + i.returned.length else 0

/-- A gang of the launch waits for a cluster (R365): one is being gathered for it, or no die has a wholly free one. -/
def State.gangWaits (s : State) (serial : Nat) (l : Launch) : Bool :=
  s.gathers.any (fun e => e.2.2 == serial)
    || (l.gang && !l.complete && l.insts.any (fun i => decide (0 < i.left l.count)) && !s.gated l.tenant && decide (8 ≤ s.headroom l.tenant)
      && (List.range 8).all (fun d => (s.freeClusters d).isEmpty))

/-- The word of Table 14-7. -/
def State.lstatWord (s : State) (asid id : Nat) : Nat :=
  let serial := id % 2 ^ 32
  match Tbl.find s.launches serial with
  | some l =>
    if l.asid ≠ fieldOf id 32 16 ∨ id / 2 ^ 48 ≠ 0 ∨ (asid ≠ 0 ∧ asid ≠ l.asid) then 15 * 2 ^ 60
    else
      let i := l.insts.getLast?.getD (Inst.fresh 0)
      let fin := l.complete || (l.terms.isSome && i.finished l.count)
      let st := if fin then 2 else if i.exhausted l.count then 1 else 0
      let bit := fun (b : Bool) (n : Nat) => if b then 2 ^ n else 0
      st * 2 ^ 60 + bit (s.headroom l.tenant == 0) 59 + bit (s.svc.gatedBw.contains l.tenant) 58
        + bit (s.svc.gatedPower.contains l.tenant) 57 + bit (s.gangWaits serial l) 56
        + min (s.running serial i.k) 1024 * 2 ^ 32 + (if fin then l.count else i.next)
  | none => 15 * 2 ^ 60

def performLstat (x : Call) (s : State) : State := s.reply x 2 (s.lstatWord x.asid x.b.toNat)

/-! ## ctadmit (R368, R369) -/

/-- Cores of a contract's set. -/
def Contract.cores (c : Contract) : Nat := 8 * ((List.range 128).filter (fun i => c.clusters.getLsbD i)).length

/-- The share per core in µs. -/
def Contract.share (c : Contract) : Nat := ceilDiv c.budget c.cores

/-- The term u of R369. -/
def Contract.term (c : Contract) : Nat := ceilDiv (2 ^ 20 * (1000 * c.share + 32768)) c.deadline

/-- The contract of a descriptor (Table 14-5), if its fields keep their limits. -/
def contractDesc (b : List Byte) (clock : Nat) : Option Contract :=
  let period := recNum b 0 4
  let deadline := recNum b 4 4
  let policy := recNum b 12 4
  let start := recNum b 16 8
  let c : Contract := { period := 1000 * period, deadline := 1000 * deadline, budget := recNum b 8 4, abort := policy % 2 == 1
                        tenant := fieldOf policy 8 8, start := if start = 0 then ceilDiv (clock + 1000) 1000 * 1000 else start
                        missCtr := recNum b 24 8, clusters := BitVec.ofNat 128 (recNum b 32 16), active := false, opened := 0 }
  if 100 ≤ period ∧ period ≤ 4000000 ∧ 100 ≤ deadline ∧ deadline ≤ period ∧ 1 ≤ c.budget ∧ c.budget ≤ c.cores * deadline
      ∧ fieldOf policy 1 7 = 0 ∧ policy / 2 ^ 16 = 0 ∧ c.clusters ≠ 0 ∧ recNum b 48 16 = 0 then some c else none

/-- The admission test: on every core of the set the terms sum to at most 0.9 × 2^20. -/
def State.admissible (s : State) (c : Contract) : Bool :=
  (List.range 128).all (fun x => !c.clusters.getLsbD x
    || decide (((s.contracts.filter (fun e => e.2.clusters.getLsbD x)).map (fun e => e.2.term)).foldl (fun a b => a + b) c.term ≤ 943718))

/-- The stage cores of a new contract's set drain (R369). -/
def State.drainSet (s : State) (c : Contract) : State :=
  { s with cores := s.cores.map (fun e => match e.2.crew with
    | some k => if k.stage.isSome ∧ k.contract = none ∧ c.holds e.1 then (e.1, { e.2 with crew := some { k with draining := true } }) else e
    | none => e) }

/-- `ctadmit` of one lane. -/
def performCtadmit (x : Call) (s : State) : State :=
  (s.threadRead x x.b.toNat 64).bind s x (fun p =>
    match contractDesc p.2 s.clock with
    | none => p.1.reply x 2 (failWord stRecord)
    | some c =>
      if x.asid ≠ 0 ∧ c.tenant ≠ s.tenantOfAsid x.asid then p.1.reply x 2 (failWord stRecord)
      else match (if c.missCtr = 0 then none else p.1.counterFault x.asid c.missCtr) with
        | some e => p.1.failCall x e c.missCtr
        | none =>
          if budgetCores (s.budget c.tenant) < c.cores then p.1.reply x 2 (failWord stBudget)
          else if s.svc.boot == .bringup || !s.admissible c then p.1.reply x 2 (failWord stReject)
          else match p.1.newObj (dieOf x.core) x.asid (.contract c) with
            | some (t, i) => (t.drainSet c).reply x 2 (t.handleAt i)
            | none => p.1.reply x 2 (failWord stNoSlot))

/-! ## Performing a call (R332, R333, R383) -/

/-- The call has been forwarded, or awaits the end of its shootdown. -/
def State.callAway (s : State) (x : Call) : Bool := x.sent.isSome || s.shoots.any (fun h => h.call == some x.id)

/-- A call on the object that another call holds until its shootdown has completed, or until the answer to a
`grantrev`. -/
def State.objHeld (s : State) (x : Call) : Bool :=
  let onIt := fun (y : Call) => y.a == x.a ||
    (match (Tbl.find s.objs (handleIdx y.a.toNat)).map (fun (o : Obj) => o.body) with
      | some (.proxy _ _ i _ _) => i == handleIdx x.a.toNat
      | _ => false)
  !x.noA && s.calls.any (fun y => y.id != x.id && !y.noA && onIt y && (match y.kind with | .ptinv _ => false | _ => true)
    && (s.shoots.any (fun h => h.call == some y.id) || (y.sent.isSome && y.kind == .grantrev)))

/-- The calls of an instruction on one object are performed in increasing lane order (R332). -/
def State.laneBefore (s : State) (x : Call) : Bool :=
  !x.noA && s.calls.any (fun y => y.core == x.core && y.op == x.op && y.a == x.a && decide (y.lane < x.lane) && !s.callAway y)

/-- The thread's earlier calls and accesses have been performed, and the object is free for the call (R333). -/
def State.callReady (s : State) (x : Call) : Bool :=
  !s.callAway x && !s.objHeld x && !s.laneBefore x
    && (lanesOf x.lanes).all (fun l => s.releasedTo x.core x.wave l x.id)

/-- Whether a call is a release for which an open version commits first (R383): `objinfo` and `ecread` read only. -/
def CallOp.commits (k : CallOp) : Bool :=
  match k with
  | .objinfo | .ecread => false
  | _ => true

/-- The performance of a call whose turn has come. -/
def performCall (x : Call) (s : State) : State :=
  match x.kind with
  | .wcreate => performWcreate x s
  | .psend w => performPsend w x s
  | .precv w => performPrecv w x s
  | .wsadd i => performWsadd i x s
  | .wsdel i => performWsdel i x s
  | .suspend c => performSuspend c x s
  | .tarm => performTarm x s
  | .tdisarm => performTdisarm x s
  | .ecsig => performEcsig x s
  | .ecread => performEcread x s
  | .qenq w => performQenq w x s
  | .dcinit => performDcinit x s
  | .dcdec => performDcdec x s
  | .objnew t => performObjnew t x s
  | .objdel => performObjdel x s
  | .objinfo => performObjinfo x s
  | .nslook => performNslook x s
  | .nsbind y => performNsbind y x s
  | .grantrev => performGrantrev x s
  | .syscall f => performSyscall f x s
  | .launch => performLaunch x s
  | .lstat => performLstat x s
  | .ctadmit => performCtadmit x s
  | .sendEnd g st room => performSendEnd g st room x s
  | .csave | .crest | .ptinv _ => s

/-- A `crest` that has released its frame is answered once the restore is done; when the frame proves LOST, or its crew ends before
that, with NOTFOUND (R398, notes/assumptions/51). -/
def State.crestAnswer (s : State) (x : Call) : State :=
  match x.sent with
  | none => s
  | some uid =>
    match s.coreOf uid, s.frameOf uid with
    | some c, _ => (match s.crew? c with | some k => if k.startedAt ≤ s.clock then s.reply x 1 stOk else s | none => s)
    | none, some _ => s
    | none, none => s.reply x 1 stNotFound

/-- R333: the call is performed, after the commit of an open version that it needs, which it begins or carries on. -/
def objectCallPerform (call : Nat) (s : State) : State :=
  match s.calls.find? (fun x => x.id == call) with
  | none => s
  | some x =>
    if x.kind == .crest then s.crestAnswer x
    else if !s.callReady x then s
    else
      let s1 := if x.kind.commits && s.versionOpen x.core then s.commitVersion x.core else s
      if x.kind.commits && s1.versionOpen x.core then s1 else performCall x s1

def execObjectCallPerform (call : Nat) (s : State) : Out := .next (objectCallPerform call s)

end Sys2Proof.Machine
end

