-- ==== Sys2Proof/Machine/Transit.lean ====
section
/-! DEFINITION. Transit's own steps (chapter 14): claims and placement (R360 to R362), gangs (R364, R365), the retirement
of crews and the completion of launches (R28, R29), contract instances (R370 to R372), tenant gating (R367) and
Precession (R374, R375). -/

namespace Sys2Proof.Machine

/-! ## Runs (R28, R360) -/

/-- Changes run `k` of a launch. A run that this brings to its end signals DONE, and the launch is complete when no run
of it is left and no contract can open another (R28, R372). -/
def State.setInst (s : State) (serial k : Nat) (f : Inst → Inst) : State :=
  match Tbl.find s.launches serial with
  | none => s
  | some l =>
    let fin := fun (i : Inst) => i.finished l.count
    let insts := l.insts.map (fun i =>
      if i.k = k then (let y := f i; { y with ended := if fin y && y.ended.isNone then some s.clock else y.ended }) else i)
    let ends := l.insts.any (fun i => i.k == k && !fin i && fin (f i))
    let time := (l.insts.map (fun i => if i.k = k then (f i).time else 0)).foldl max 0
    let l1 := { l with insts := insts, complete := l.complete || (l.contract.isNone && insts.all fin) }
    let s1 : State := { s with launches := Tbl.put s.launches serial l1 }
    if ends && l.done != 0 then s1.signal l.done 1 time else s1

/-- The indices of a claim of n: returned ones first, then from NEXT upwards (R360). -/
def Inst.taken (i : Inst) (count n : Nat) : List Nat :=
  let a := i.returned.take n
  a ++ (List.range (min (n - a.length) (count - i.next))).map (fun j => i.next + j)

/-- The run after a claim of n. -/
def Inst.claim (i : Inst) (count n : Nat) : Inst :=
  let a := (i.returned.take n).length
  { i with returned := i.returned.drop n, next := i.next + min (n - a) (count - i.next), live := i.live + (i.taken count n).length }

/-- The run after the return of claimed indices (R29); a run that has missed drops them (R372). -/
def Inst.giveBack (i : Inst) (ids : List Nat) : Inst :=
  { i with
    live := i.live - ids.length
    returned := if i.claims then sortBy (fun a b => decide (a ≤ b)) (i.returned ++ ids) else i.returned }

/-! ## Claims (R361, R364) -/

/-- The saved crews on a die's resume list, oldest first. -/
def State.resumeList (s : State) (die : Nat) : List (Nat × Frame) :=
  sortBy (fun a b => decide (a.2.order ≤ b.2.order))
    (s.frames.filter (fun e => e.2.resume && e.2.state == 2 && e.2.die == die && e.2.crew.isSome))

/-- The crew of a frame has a property. -/
def Frame.crewIs (f : Frame) (p : Crew → Bool) : Bool := match f.crew with | some k => p k | none => false

/-- The contract terms of a crew's launch. -/
def State.termsOf (s : State) (k : Crew) : Option Contract := (Tbl.find s.launches k.serial).bind (fun l => l.terms)

/-- Rule 1 of R361: the oldest real-time crew that a free core of its set can take, with that core. -/
def State.rtResume (s : State) (die : Nat) : Option (Nat × Nat) :=
  ((s.resumeList die).filterMap (fun e => match e.2.crew with
    | some k =>
      if k.rt then
        ((s.freeCores die).find? (fun c => match s.termsOf k with | some t => t.holds c | none => false)).map (fun c => (e.1, c))
      else none
    | none => none)).head?

/-- A core stands reserved for the saved crew numbered `uid`, and is empty. -/
def State.reservedOk (s : State) (c uid : Nat) : Bool :=
  (s.core c).crew.isNone && (s.core c).claim.isNone && (s.core c).reservedFor == some (.move uid)

/-- Rule 3 of R361: the normal crew, by level and age, that a free core, or for a gang a free cluster, can take; a crew saved
for a move takes the core that is reserved for it (R365). -/
def State.normalResume (s : State) (die : Nat) : Option (Nat × Nat) :=
  let l := (s.resumeList die).filter (fun e => e.2.crewIs (fun k => !k.rt))
  let byLevel := [3, 2, 1, 0].flatMap (fun v => l.filter (fun e => e.2.crewIs (fun k => k.base == v)))
  (byLevel.filterMap (fun e => match e.2.crew with
    | some k =>
      if k.gang.isSome then (s.freeClusters die).head?.map (fun x => (e.1, x * 8 + k.crewNo % 8))
      else match e.2.target with
        | some c => if s.reservedOk c k.uid then some (e.1, c) else (s.freeCores die).head?.map (fun c => (e.1, c))
        | none => (s.freeCores die).head?.map (fun c => (e.1, c))
    | none => none)).head?

/-- The share of a core, in cycles (R371). -/
def Contract.shareCycles (t : Contract) : Nat := 1000 * t.share

/-- The deadline of instance k (R370). -/
def Contract.deadlineOf (t : Contract) (k : Nat) : Nat := t.start + k * t.period + t.deadline

/-- Core c may claim an index of a run of a contract's launch (R370, R371): with its share unspent, as long as the contract
stands (R372). -/
def instanceFor (l : Launch) (c : Nat) (i : Inst) : Bool :=
  match l.terms with
  | some t => t.holds c && decide (0 < i.left l.count)
      && (l.contract.isNone || (!i.spent.contains c && decide (Tbl.getD i.charge c 0 < t.shareCycles)))
  | none => false

/-- The order of open instances: deadline, then handle index. -/
def instBefore (a b : Nat × Nat × Nat × Nat) : Bool := decide (a.1 < b.1) || (a.1 == b.1 && decide (a.2.1 ≤ b.2.1))

/-- Rule 2 of R361 for core c: deadline, handle index, launch and instance. -/
def State.instanceOn (s : State) (c : Nat) : Option (Nat × Nat × Nat × Nat) :=
  (sortBy instBefore (s.launches.flatMap (fun e => match e.2.terms with
    | some t => (e.2.insts.filter (instanceFor e.2 c)).map (fun i => (t.deadlineOf i.k, e.2.contract.getD (2 ^ 24), e.1, i.k))
    | none => []))).head?

/-- The work that rule 4 of R361 serves, in its order: normal launches with unclaimed indices whose tenant is not
gated; a gang launch needs a headroom of 8. -/
def State.normalWork (s : State) : List (Nat × Launch) :=
  let ok := fun (l : Launch) => !l.complete && l.terms.isNone && l.insts.any (fun i => decide (0 < i.left l.count))
    && !s.gated l.tenant && (!l.gang || decide (8 ≤ s.headroom l.tenant))
  let l := s.launches.filter (fun e => ok e.2)
  [3, 2, 1, 0].flatMap (fun v => l.filter (fun e => e.2.lvl == v))

/-- The unclaimed indices of a normal launch. -/
def Launch.left (l : Launch) : Nat := match l.insts.head? with | some i => i.left l.count | none => 0

/-- Claims n indices of a run, for the cores that `place` gives them, by position and index. -/
def State.claimFor (s : State) (serial k n : Nat) (place : Nat → Nat → Nat) : State :=
  match Tbl.find s.launches serial with
  | none => s
  | some l =>
    match l.insts.find? (fun i => i.k == k) with
    | none => s
    | some i =>
      let ids := i.taken l.count n
      ((List.range ids.length).zip ids).foldl (fun t e =>
        t.modCore (place e.1 e.2) (fun y => { y with claim := some { serial := serial, index := e.2, inst := k }, reservedFor := none }))
        (s.setInst serial k (fun i => i.claim l.count n))

/-- A claim of gangs on some clusters: crew 8g + k on the core with CORE[2:0] = k (R364). -/
def State.claimGangs (s : State) (serial : Nat) (l : Launch) (clusters : List Nat) : State :=
  let n := min (min 8 (ceilDiv l.left 128)) (min (s.headroom l.tenant / 8) clusters.length)
  s.claimFor serial 0 (8 * n) (fun j idx => clusters.getD (j / 8) 0 * 8 + idx % 8)

/-- The cluster that a die has gathered for a gang, once all of it is reserved and empty and its launch may place the
gang (R365). -/
def State.gathered (s : State) (die : Nat) : Option (Nat × Nat × Launch) :=
  match Tbl.find s.gathers die with
  | none => none
  | some (x, serial) =>
    if (clusterCores x).all (fun c => (s.core c).crew.isNone && (s.core c).claim.isNone && (s.core c).reservedFor == some (.gang serial)) then
      (s.normalWork.find? (fun e => e.1 == serial)).map (fun e => (x, serial, e.2))
    else none

/-- Rule 4 of R361. -/
def State.claimNormal (s : State) (die : Nat) : State :=
  let free := s.freeCores die
  match s.normalWork.find? (fun e => if e.2.gang then !(s.freeClusters die).isEmpty else !free.isEmpty) with
  | none => s
  | some (serial, l) =>
    if l.gang then s.claimGangs serial l (s.freeClusters die)
    else
      let n := min (min 64 free.length) (min (s.headroom l.tenant) (max 1 (ceilDiv l.left 16)))
      s.claimFor serial 0 n (fun j _ => free.getD j 0)

/-- R361: the die's agent makes one claim. Crews on its resume list go first under rules 1 and 3 and are restored by
CREW_RESTORE; after them the gang for which a cluster has been gathered takes it. -/
def dieAgentClaim (die : Nat) (s : State) : State :=
  if (s.rtResume die).isSome then s
  else match ((s.freeCores die).filterMap (fun c => (s.instanceOn c).map (fun i => (c, i)))).head? with
    | some (c, _, _, serial, k) => s.claimFor serial k 1 (fun _ _ => c)
    | none =>
      if (s.normalResume die).isSome then s
      else match s.gathered die with
        | some (x, serial, l) => ({ s with gathers := Tbl.del s.gathers die } : State).claimGangs serial l [x]
        | none => s.claimNormal die

def execDieAgentClaim (die : Nat) (s : State) : Out := .next (dieAgentClaim die s)

/-! ## The start of a crew (R29, R101, R362) -/

/-- Wave w of crew c of a launch as it starts. -/
def crewWave (l : Launch) (c k : Nat) (rt : Bool) (clock : Nat) : Wave :=
  { Wave.start l.asid (BitVec.allOnes 32) l.entry clock (l.quota8 * 8) l.lvl with
    s := Bits.wrs [] [(0, BitVec.ofNat 32 l.waves), (1, BitVec.ofNat 32 l.count), (2, BitVec.ofNat 32 k)]
    rt := rt
    argp := l.argbase + BitVec.ofNat 64 (c * l.argsz)
    crewNo := BitVec.ofNat 32 c
    abytes := l.abytes }

/-- The number of a gang: its launch and g of R364. -/
def gangId (serial index : Nat) : Nat := serial * 2 ^ 32 + index / 8

/-- One crew starts on a core with a frame. The launch synchronises with its first instructions (R359). -/
def State.startCrew (s : State) (c frame : Nat) (x : Claim) (l : Launch) : State :=
  let rt := l.rt && l.insts.any (fun i => i.k == x.inst && i.claims && !i.spent.contains c)
  let k : Crew := { Crew.fresh s.nextId l.asid l.tenant s.clock with
    serial := x.serial, crewNo := x.index, waves := l.waves, abytes := l.abytes
    gang := if l.gang then some (gangId x.serial x.index) else none
    version := if l.ver then .opened [] else .none, rt := rt, base := l.lvl, inst := x.inst, frame := frame }
  let s1 := ({ s with nextId := s.nextId + 1, frames := Tbl.put s.frames frame (Frame.idle (dieOf c)) } : State).beginOn c k
  (s1.modCore c (fun y => { y with
    waves := (List.range l.waves).map (fun w => (w, crewWave l x.index x.inst rt s.clock)) })).advance c l.time

/-- The cores that start together with core c: its cluster, for a gang (R364). -/
def startGroup (l : Launch) (c : Nat) : List Nat := if l.gang then clusterCores (c / 8) else [c]

/-- R362: the crews claimed for a core start, if their frames can be reserved; otherwise the indices go back (R29). -/
def crewStart (core : Nat) (s : State) : State :=
  match (s.core core).claim with
  | none => s
  | some x =>
    match Tbl.find s.launches x.serial with
    | none => s.modCore core (fun y => { y with claim := none })
    | some l =>
      let claims := (startGroup l core).filterMap (fun c => ((s.core c).claim).map (fun y => (c, y)))
      let frames := s.framePool.take claims.length
      if claims.any (fun e => e.2.serial != x.serial) || claims.length != (startGroup l core).length then s
      else if frames.length < claims.length then
        (claims.foldl (fun t e => t.modCore e.1 (fun y => { y with claim := none })) s).setInst x.serial x.inst
          (fun i => i.giveBack (claims.map (fun e => e.2.index)))
      else
        (claims.zip frames).foldl (fun t e => t.startCrew e.1.1 e.2 e.1.2 l)
          { s with framePool := s.framePool.drop claims.length }

def execCrewStart (core : Nat) (s : State) : Out := .next (crewStart core s)

/-! ## Retirement (R28, R29, R258, R262) -/

/-- The frame of a crew is released. -/
def State.releaseFrame (s : State) (f : Nat) : State :=
  { s with frames := Tbl.del s.frames f, framePool := s.framePool ++ [f] }

/-- What the memory side and the Orrery hold of a crew goes with it: watches that have not fired (R262), waiters, and the
core that was reserved for its move. -/
def State.forgetCrew (s : State) (uid : Nat) : State :=
  { s with
    watches := s.watches.filter (fun w => w.uid != uid || w.fired)
    waiters := s.waiters.filter (fun w => w.uid != uid)
    cores := s.cores.map (fun e => if e.2.reservedFor = some (.move uid) then (e.1, { e.2 with reservedFor := none }) else e) }

/-- Dusk's calls of one kind that wait for the crew numbered `uid`. -/
def State.duskCalls (s : State) (kind : CallOp) (uid : Nat) : List Call := s.calls.filter (fun y => y.kind == kind && y.sent == some uid)

/-- A `csave` that waits for the save of a crew that is gone finds none (R397). -/
def State.csaveLost (s : State) (uid : Nat) : State :=
  (s.duskCalls .csave uid).foldl (fun t x => t.reply x 2 (failWord stNotFound)) s

/-- A crew retires: its frame is released and its run counts it. `time` is its T (R28). -/
def State.crewGone (s : State) (k : Crew) (time : Nat) : State :=
  (((s.forgetCrew k.uid).releaseFrame k.frame).csaveLost k.uid).setInst k.serial k.inst
    (fun i => { i with live := i.live - 1, time := max i.time time })

/-- The time that a crew has held its core is charged to its instance (R371). -/
def State.chargeCore (s : State) (c : Nat) : State :=
  match s.crew? c with
  | some k => s.setInst k.serial k.inst (fun i =>
      { i with charge := Tbl.mod i.charge c 0 (fun n => n + (s.clock - k.startedAt)) })
  | none => s

/-- Core c no longer holds a crew or stage context; a core of a cluster that is being gathered stays reserved. -/
def State.emptyCore (s : State) (c : Nat) : State :=
  let r := match Tbl.find s.gathers (dieOf c) with
    | some (x, serial) => if x = c / 8 then some (Reserve.gang serial) else none
    | none => none
  s.modCore c (fun y => { y with crew := none, pins := [], cinits := [], carrs := [], seals := [], reservedFor := r })

/-- Nothing that the crew issued is left in an engine: its accesses, calls, commands and traps are over. -/
def State.crewQuiet (s : State) (c : Nat) (uid : Nat) : Bool :=
  (s.core c).noWork && !s.reqs.any (fun r => r.uid == uid) && !s.calls.any (fun x => x.uid == uid)
    && !s.traps.any (fun t => t.uid == uid)

/-- Write-backs of a crew are on their way. -/
def State.backsOpen (s : State) (uid : Nat) : Bool := s.writeBacks.any (fun w => w.uid == uid)

/-- R28: a crew whose waves, queues and engines are done retires, after the commit of its version and the write-back of
its MANUAL bytes. -/
def crewRetire (core : Nat) (s : State) : State :=
  match s.crew? core with
  | none => s
  | some k =>
    if k.stage.isSome || !s.crewQuiet core k.uid then s
    else
      let s0 := s.commitVersion core
      if s0.versionOpen core then s0
      else
        let s1 := s0.manualBack core
        if s1.backsOpen k.uid then s1
        else ((s1.chargeCore core).emptyCore core).crewGone k (s1.core core).time

def execCrewRetire (core : Nat) (s : State) : Out := .next (crewRetire core s)

/-! ## Pre-emption requests (R384) -/

/-- The cores of the crews that are saved together with the crew of core c: its gang. -/
def State.saveGroup (s : State) (c : Nat) : List Nat :=
  match s.crew? c with
  | some k => if k.gang.isSome then (clusterCores (c / 8)).filter (fun d => match s.crew? d with | some y => y.gang == k.gang | none => false) else [c]
  | none => []

/-- Two requests on one crew are one; a `csave` among them leaves the crew HELD, and a move gives it its destination (R365,
R384). -/
def Preempt.merge (x y : Preempt) : Preempt :=
  { x with hold := x.hold || y.hold, dest := if x.dest.isSome then x.dest else y.dest }

/-- A request on the crew of a core is made. -/
def Crew.ask (k : Crew) (p : Preempt) : Crew :=
  match k.preempt, k.asked with
  | some x, _ => { k with preempt := some (x.merge p) }
  | none, some x => { k with asked := some (x.merge p) }
  | none, none => { k with asked := some p }

/-- A request on the crew of core c, and on its whole gang; the destination is that of core c. -/
def State.askPreempt (s : State) (c reason : Nat) (hold : Bool) (dest : Option Nat) : State :=
  (s.saveGroup c).foldl (fun t d => t.modCrew d (fun k => k.ask
    { reason := reason, at_ := 0, forced := false, hold := hold, dest := if d = c then dest else none })) s

/-! ## Gathering for a gang (R365) -/

/-- A crew of a cluster that may be moved away for a gang of level `lvl`. -/
def Crew.movable (k : Crew) (lvl : Nat) : Bool := k.stage.isNone && !k.rt && k.gang.isNone && decide (k.base ≤ lvl)

/-- The crews of a cluster, by core. -/
def State.crewsOf (s : State) (x : Nat) : List (Nat × Crew) := (clusterCores x).filterMap (fun c => (s.crew? c).map (fun k => (c, k)))

/-- A cluster qualifies for a gang of a launch. -/
def State.qualifies (s : State) (die x lvl : Nat) : Bool :=
  (s.crewsOf x).all (fun e => e.2.movable lvl)
    && (clusterCores x).all (fun c => (s.core c).claim.isNone && (s.core c).reservedFor.isNone)
    && decide ((s.crewsOf x).length ≤ ((s.freeCores die).filter (fun c => c / 8 != x)).length)

/-- The qualifying cluster with the fewest crews. -/
def State.gatherAt (s : State) (die lvl : Nat) : Option Nat :=
  (sortBy (fun a b => decide ((s.crewsOf a).length ≤ (s.crewsOf b).length))
    ((dieClusters die).filter (fun x => s.qualifies die x lvl))).head?

/-- The free core to which a crew of core c moves: of its stack group first, lower CORE first. -/
def State.moveTarget (s : State) (die c : Nat) : Option Nat :=
  let l := (s.freeCores die).filter (fun d => d / 8 != c / 8)
  (l.filter (fun d => d / 32 == c / 32) ++ l.filter (fun d => d / 32 != c / 32)).head?

/-- The destination of the crew of core c that is to be saved. -/
def State.moveDest (s : State) (c : Nat) : Option Nat :=
  (s.crew? c).bind (fun k => match k.preempt with | some p => p.dest | none => k.asked.bind (·.dest))

/-- Dusk is asked to move the crew of core c away; its destination stays reserved for it. -/
def State.askMove (s : State) (die c : Nat) : State :=
  match s.crew? c, s.moveTarget die c with
  | some k, some d =>
    let t := s.askPreempt c 2 false (some d)
    if t.moveDest c = some d then t.modCore d (fun y => { y with reservedFor := some (.move k.uid) }) else t
  | _, _ => s

/-- A cluster is given back. -/
def State.dropGather (s : State) (die : Nat) : State :=
  match Tbl.find s.gathers die with
  | none => s
  | some (x, serial) =>
    { s with
      gathers := Tbl.del s.gathers die
      cores := s.cores.map (fun e => if e.1 / 8 = x ∧ e.2.reservedFor = some (.gang serial) then (e.1, { e.2 with reservedFor := none }) else e) }

/-- R365: the agent gathers a cluster for the gang launch that rule 4 would serve first. A gathering whose launch has no
more work, or whose tenant is gated, ends. -/
def gangGather (die : Nat) (s : State) : State :=
  match Tbl.find s.gathers die with
  | some (_, serial) => if s.normalWork.any (fun e => e.1 == serial) then s else s.dropGather die
  | none =>
    if !s.dieRuns die then s
    else match s.normalWork.head? with
    | some (serial, l) =>
      if !l.gang || !(s.freeClusters die).isEmpty then s
      else match s.gatherAt die l.lvl with
        | none => s
        | some x =>
          let s1 := (clusterCores x).foldl (fun t c =>
            if (t.core c).crew.isNone then t.modCore c (fun y => { y with reservedFor := some (.gang serial) }) else t)
            { s with gathers := Tbl.put s.gathers die (x, serial) }
          ((s.crewsOf x).map (·.1)).foldl (fun t c => t.askMove die c) s1
    | none => s

def execGangGather (die : Nat) (s : State) : Out := .next (gangGather die s)

/-! ## Contracts (R370 to R372) -/

/-- The contract at a Catalogue index. -/
def State.contractAt (s : State) (idx : Nat) : Option Contract :=
  match Tbl.find s.objs idx with
  | some o => match o.body with | .contract c => some c | _ => none
  | none => none

/-- The cores of a contract's set. -/
def Contract.coreList (t : Contract) : List Nat := ((List.range 128).filter (fun x => t.clusters.getLsbD x)).flatMap clusterCores

/-- The instance to which the work on core c is charged for the contract at `obj`: that of its crew, or for a context of
a bound task queue the latest (R371, R373). -/
def State.chargedTo (s : State) (obj c : Nat) : Option (Nat × Inst × Crew) :=
  match s.boundLaunch obj, s.crew? c with
  | some (serial, l), some k =>
    if k.stage.isNone then
      (if k.serial = serial then (l.insts.find? (fun i => i.k == k.inst)).map (fun i => (serial, i, k)) else none)
    else if k.contract = some obj then l.insts.getLast?.map (fun i => (serial, i, k)) else none
  | _, _ => none

/-- What core c holds that is still to be charged: a crew since its start or restore, a stage context what it has worked. -/
def State.uncharged (s : State) (c : Nat) (k : Crew) : Nat :=
  if k.stage.isSome then (s.core c).residence k s.clock else s.clock - k.startedAt

/-- The work of the stage contexts of the contract at `obj` is charged to the instance that has been running (R373). -/
def State.chargeStages (s : State) (obj : Nat) : State :=
  s.cores.foldl (fun (t : State) e => match t.chargedTo obj e.1 with
    | some (serial, i, k) =>
      if k.stage.isNone then t
      else
        let n := t.uncharged e.1 k
        (t.setInst serial i.k (fun y => { y with charge := Tbl.mod y.charge e.1 0 (fun m => m + n) })).modCrew e.1
          (fun z => { z with busy := 0, startedAt := t.clock })
    | none => t) s

/-- R371: the core's charge has reached the share. -/
def contractShareReached (obj core : Nat) (s : State) : State :=
  match s.contractAt obj, s.chargedTo obj core with
  | some t, some (serial, i, k) =>
    if i.spent.contains core || decide (Tbl.getD i.charge core 0 + s.uncharged core k < t.shareCycles) then s
    else
      (s.setInst serial i.k (fun y => { y with spent := y.spent ++ [core] })).modCore core (fun y =>
        let z := y.demote
        if k.stage.isSome then { z with crew := z.crew.map (fun w => { w with draining := true }) } else z)
  | _, _ => s

def execContractShareReached (obj core : Nat) (s : State) : Out := .next (contractShareReached obj core s)

/-- The lanes of a saved crew end and it retires without a restore (R389): its record is sent. -/
def State.abortSaved (s : State) (k : Crew) (f : Frame) : State :=
  let s1 := match Tbl.find s.procs k.asid with
    | some p => s.sendRecord (p.portFor 0x47) k.asid (fun lost => faultRecord 0x47 0x48 lost 0 0 0 f.corePos 0 k.crewNo)
    | none => s
  s1.crewGone k f.time

/-- A crew whose version has been committed is ended: its lanes end as by `exit`, and what it has written stands (R380). -/
def State.endCommitted (s : State) (c : Nat) (z : Crew) : State :=
  let s1 := s.record c 0 0 0x47 0x48 0 0 z.crewNo
  let s2 := ((s1.core c).waves.map (·.1)).foldl (fun (t : State) i =>
    match t.wave? c i with | some x => t.exitLanes c i x.lanes | none => t) s1
  let mine := s2.held.filter (fun x => x.k.uid == z.uid)
  let s3 := mine.foldl (fun (t : State) x => t.completeOp c x.k.wave x.k.op) s2
  { s3 with held := s3.held.filter (fun x => x.k.uid != z.uid) }

/-- An index that has been claimed and whose crew has not started is ended: its claim is over, and it is reported. -/
def State.abortClaim (s : State) (c : Nat) (x : Claim) (asid : Nat) : State :=
  let s1 := match Tbl.find s.procs asid with
    | some p => s.sendRecord (p.portFor 0x47) asid (fun lost => faultRecord 0x47 0x48 lost 0 0 0 c 0 x.index)
    | none => s
  (s1.modCore c (fun y => { y with claim := none })).setInst x.serial x.inst (fun i => { i with live := i.live - 1 })

/-- The crews of an instance that remain are ended (R372): those launched with VER = 1, wherever they are, and those still to
start. -/
def State.abortCrews (s : State) (serial k asid : Nat) : State :=
  let hit := fun (c : Option Crew) => match c with
    | some z => z.stage.isNone && z.serial == serial && z.inst == k && z.version != .none
    | none => false
  let s1 := (s.cores.filter (fun e => hit e.2.crew)).foldl (fun (t : State) e => match e.2.crew with
    | some z => (match z.version with
      | .opened _ => t.endCrew e.1 0 0 0x48 0 0
      | .committed => t.endCommitted e.1 z
      | _ => t)
    | none => t) s
  let s2 := (s.cores.filter (fun e => match e.2.claim with | some x => x.serial == serial && x.inst == k | none => false)).foldl
    (fun (t : State) e => match e.2.claim with | some x => t.abortClaim e.1 x asid | none => t) s1
  (s.frames.filter (fun e => hit e.2.crew)).foldl (fun t e => match e.2.crew with
    | some z => t.abortSaved z e.2
    | none => t) s2

/-- R372: an instance that had work left at its deadline misses, if this has not been noted yet. -/
def contractDeadline (obj inst : Nat) (s : State) : State :=
  match s.contractAt obj, s.boundLaunch obj with
  | some t, some (serial, l) =>
    match l.insts.find? (fun i => i.k == inst) with
    | none => s
    | some i =>
      let done := match i.ended with | some n => decide (n < t.deadlineOf inst) | none => false
      if s.clock < t.deadlineOf inst || !i.claims || done then s
      else
        let s1 := (s.setInst serial inst (fun y => { y with claims := false, returned := [] })).demoteWhere
          (fun z => z.serial == serial && z.inst == inst)
        let s2 := if t.missCtr = 0 then s1 else s1.signal t.missCtr 1 0
        if t.abort && l.ver then s2.abortCrews serial inst l.asid else s2
  | _, _ => s

def execContractDeadline (obj inst : Nat) (s : State) : Out := .next (contractDeadline obj inst s)

/-- At S_k the next instance opens, and crews of lower class on its set are asked to make room. -/
def State.openInstance (s : State) (obj : Nat) : State :=
  match s.contractAt obj, s.boundLaunch obj with
  | some t, some (serial, l) =>
    let k := l.firstK + t.opened
    if s.clock < t.start + k * t.period then s
    else
      let s0 := s.chargeStages obj
      let s1 := ({ s0 with launches := Tbl.mod s0.launches serial l (fun y => { y with insts := y.insts.filter (fun i => !i.finished l.count) ++ [Inst.fresh k] }) } : State).setBody obj
        (.contract { t with opened := t.opened + 1 })
      let set := t.coreList
      let free := (set.filter (fun c => (s1.core c).free)).length
      let lower := set.filter (fun c => match s1.crew? c with | some z => !z.rt && z.stage.isNone | none => false)
      (lower.take (min l.count set.length - free)).foldl (fun u c => u.askPreempt c 1 false none) s1
  | _, _ => s

/-- R370: at S_k the next instance opens, after the misses of those whose deadline has come (R372). -/
def contractInstanceOpen (obj : Nat) (s : State) : State :=
  let s1 := match s.boundLaunch obj with
    | some (_, l) => l.insts.foldl (fun (t : State) (i : Inst) => contractDeadline obj i.k t) s
    | none => s
  s1.openInstance obj

def execContractInstanceOpen (obj : Nat) (s : State) : Out := .next (contractInstanceOpen obj s)

/-! ## Budgets (R367) -/

/-- The list with or without a tenant. -/
def setMember (l : List Nat) (x : Nat) (on : Bool) : List Nat := if on then (if l.contains x then l else l ++ [x]) else l.filter (· != x)

/-- The 10 µs window numbered `win` closes for a tenant with the service cores' estimate of its power over the last 100 µs: its gating is
evaluated with the bytes that its accesses have moved in the window. A BW of n allows 40,000 n bytes. -/
def budgetWindowClose (tenant win watts : Nat) (s : State) : State :=
  let w := win + 1
  let m := (Tbl.getD s.svc.moved tenant Moved.zero).roll w
  if s.clock / s.tenMicros != w || w = m.closed then s
  else
    let b := (s.budget tenant).toNat
    let bw := fieldOf b 32 16
    let power := fieldOf b 52 12
    { s with svc := { s.svc with
      moved := Tbl.put s.svc.moved tenant { m with closed := w }
      gatedBw := setMember s.svc.gatedBw tenant (bw != 0xFFFF && decide (bw * 40000 < m.last))
      gatedPower := setMember s.svc.gatedPower tenant (power != 0xFFF && decide (power < watts)) } }

def execBudgetWindowClose (tenant win watts : Nat) (s : State) : Out := .next (budgetWindowClose tenant win watts s)

/-! ## Precession (R374, R375) -/

/-- The fields of a stage entry (Table 14-6). -/
def stageEn (x : DWord) : Bool :=
  let n := x.toNat
  x.getLsbD 63 && decide (fieldOf n 0 16 ≤ fieldOf n 16 16) && decide (fieldOf n 33 11 ≤ fieldOf n 44 11)
def stageLo (x : DWord) : Nat := fieldOf x.toNat 0 16
def stageHi (x : DWord) : Nat := fieldOf x.toNat 16 16
def stageMin (x : DWord) : Nat := fieldOf x.toNat 33 11
def stageMax (x : DWord) : Nat := fieldOf x.toNat 44 11

/-- The task queues of a stage, by Catalogue index. -/
def State.stageQueues (s : State) (t : Nat) : List (Nat × TaskQ) :=
  s.objs.filterMap (fun e => match e.2.body with | .queue q => if q.stage = t then some (e.1, q) else none | _ => none)

/-- The occupancy of a stage. -/
def State.occupancy (s : State) (t : Nat) : Nat := ((s.stageQueues t).map (fun e => e.2.tasks.length)).foldl (fun a b => a + b) 0

/-- The cores of a stage, with those that drain out of it. -/
def State.stageCores (s : State) (t : Nat) : List Nat :=
  (s.cores.filter (fun e => match e.2.crew with | some k => k.stage == some t && k.contract.isNone | none => false)).map (·.1)

/-- The cores that a stage has or is to have from another. -/
def State.stageCount (s : State) (t : Nat) : Nat :=
  (s.stageCores t).length
    + (s.cores.filter (fun e => match e.2.crew with | some k => k.nextStage == some t | none => false)).length

/-- The die that homes most of a stage's queued tasks. -/
def State.stageDie (s : State) (t : Nat) : Nat :=
  let on := fun (die : Nat) => ((s.stageQueues t).filter (fun e => e.1 / 2 ^ 21 == die)).foldl (fun n e => n + e.2.tasks.length) 0
  ((sortBy (fun a b => decide (on b ≤ on a)) (List.range 8)).head?).getD 0

/-- A core in no admitted contract's set. -/
def State.outOfSets (s : State) (c : Nat) : Bool := !s.contracts.any (fun e => e.2.holds c)

/-- A core becomes a stage's. -/
def State.joinStage (s : State) (c t : Nat) : State :=
  ({ s with nextId := s.nextId + 1 } : State).beginOn c
    { Crew.fresh s.nextId 0 (stageTenant (s.stageEntry t)) s.clock with stage := some t }

/-- The stage core with the fewest task waves that does not drain yet. -/
def State.fewestWaves (s : State) (t : Nat) : Option Nat :=
  (sortBy (fun a b => decide ((s.core a).waves.length ≤ (s.core b).waves.length))
    ((s.stageCores t).filter (fun c => match s.crew? c with | some k => !k.draining | none => false))).head?

/-- A stage core starts to drain, for another stage or to become free. -/
def State.drainCore (s : State) (c : Nat) (next : Option Nat) : State :=
  s.modCrew c (fun k => { k with draining := true, nextStage := next })

/-- A stage from which a core may be taken. -/
def State.giver (s : State) (t : Nat) : Bool :=
  let x := s.stageEntry t
  stageEn x && decide (s.occupancy t < 32 * stageLo x) && decide (stageMin x < s.stageCount t) && (s.fewestWaves t).isSome

/-- The evaluation of one stage. -/
def State.evalStage (s : State) (t : Nat) : State :=
  let x := s.stageEntry t
  let o := s.occupancy t
  let c := s.stageCount t
  if !stageEn x then s
  else if c < stageMin x ∨ (32 * stageHi x ≤ o ∧ c < stageMax x) then
    if s.gated (stageTenant x) then s
    else match (s.freeCores (s.stageDie t)).find? s.outOfSets with
      | some d => s.joinStage d t
      | none =>
        match ((List.range 64).filter (fun u => u != t && s.giver u)).head? with
        | some u => match s.fewestWaves u with | some d => s.drainCore d (some t) | none => s
        | none => s
  else if o < 32 * stageLo x ∧ stageMin x < c then
    match s.fewestWaves t with | some d => s.drainCore d none | none => s
  else s

/-- R375: every 10,000 cycles, each enabled stage changes by at most one core. -/
def execPrecessionEval (s : State) : Out :=
  if s.clock < s.svc.nextEval then .next s
  else .next ((List.range 64).foldl State.evalStage
    { s with svc := { s.svc with nextEval := s.svc.nextEval + 10000 } })

/-- Guarded commands that nothing can resolve any more are discarded on a core whose task waves have retired. -/
def Core.closeGuards (k : Core) (clock : Nat) : Core := (k.settle clock).discardOpen

/-- R375: a stage core that drains, or a context of a contract's set without work, leaves once its task waves have
retired and its MANUAL bytes are written back; the next stage takes it, if it drains for one. -/
def stageCoreLeave (core : Nat) (s : State) : State :=
  match s.crew? core with
  | none => s
  | some k =>
    if k.stage.isNone || !(k.draining || k.contract.isSome) || !(s.core core).waves.isEmpty then s
    else
      let s0 := s.modCore core (fun y => y.closeGuards s.clock)
      if !s0.crewQuiet core k.uid then s0
      else
        let s1 := s0.manualBack core
        if s1.backsOpen k.uid then s1
        else
          let s2 := match k.contract.bind (fun i => s1.chargedTo i core) with
            | some (serial, i, _) => s1.setInst serial i.k (fun y =>
                { y with charge := Tbl.mod y.charge core 0 (fun n => n + s1.uncharged core k) })
            | none => s1
          let s3 := (s2.emptyCore core).forgetCrew k.uid
          match k.nextStage with
          | some t => if stageEn (s3.stageEntry t) && s3.outOfSets core then s3.joinStage core t else s3
          | none => s3

def execStageCoreLeave (core : Nat) (s : State) : Out := .next (stageCoreLeave core s)

end Sys2Proof.Machine
end

