-- ==== Sys2Proof/Machine/DuskSave.lean ====
section
/-! DEFINITION. Dusk's saves and restores (R384 to R390, R134, R233, R295, R316): what a hint block keeps, the frame
written from a crew and read back, and the crews that end while they are saved. -/

namespace Sys2Proof.Machine

/-! ## Rest and drain (R134, R384, R385) -/

/-- An operation that a save keeps outstanding: that of an unstarted matrix command or of a `seal` (R134). -/
def Core.keepsOp (k : Core) (id : Nat) : Bool := k.mats.any (fun m => m.id == id) || k.seals.any (fun x => x.op == id)

/-- A wave has drained. -/
def Wave.drained (w : Wave) (k : Core) : Bool :=
  w.pend.isEmpty && w.outs.isEmpty
    && w.toks.all (fun e => e.2.all (fun o => o.done || k.keepsOp o.id) && !(match e.2.head? with | some o => o.done | none => false))
    && w.splits.all (fun p => match p.st with | .suspended (.miss _) | .held _ => false | _ => true)

/-- The engines of a core stand still: no copy command is on its way into a queue, none at the head of its channel is still to
complete, and no matrix command runs. -/
def Core.stands (k : Core) : Bool :=
  k.cmds.all (fun e => e.2.accepted
      && !((k.chan e.2.chan).queue.head? == some e.1 && (e.2.resolved == some false || (e.2.started && decide (e.2.total ≤ e.2.done))))) && k.cinits.isEmpty && k.guardWrites.isEmpty
    && k.mats.all (fun m => match m.st with | .running _ => false | _ => true)

/-- The crew of core c rests and has drained: nothing that it issued is in flight (R134, R295, R316). -/
def State.crewDrained (s : State) (c : Nat) : Bool :=
  match s.crew? c with
  | none => false
  | some k =>
    let y := s.core c
    k.preempt.isSome && !y.waves.isEmpty && s.enginesRest c && y.stands && y.waves.all (fun e => e.2.drained y)
      && !s.reqs.any (fun r => r.uid == k.uid) && !s.calls.any (fun x => x.uid == k.uid)
      && !s.held.any (fun x => x.k.uid == k.uid) && !s.committing c
      && !s.traps.any (fun t => t.uid == k.uid && t.tok.isNone && t.carr.isNone)

/-! ## Hint blocks (Table 15-2) -/

/-- A hint block. -/
structure HintBlock where
  vmask : Nat
  smask : Nat
  wkeep : Bool
  ranges : List (Nat × Nat)
  cmask : Nat
  deriving DecidableEq, Repr

/-- The block of a wave that rests at a hint, if it keeps its limits (R385). -/
def hintBlock (k : Core) (w : Wave) : Option HintBlock :=
  match w.rest.resting && w.rest.hinted, w.rest.block with
  | true, some a =>
    let at_ := w.abase + a
    let num := fun (o n : Nat) => Memory.read k.abuf (at_ + o) n
    let rs := (List.range 4).map (fun i => (num (48 + 8 * i) 4, num (52 + 8 * i) 4))
    if num 40 4 / 2 = 0 ∧ num 44 4 = 0 ∧ num 96 32 = 0
        ∧ rs.all (fun r => r.1 % 256 == 0 && r.2 % 256 == 0 && decide (r.1 + r.2 ≤ w.abytes)) then
      some { vmask := num 0 32, smask := num 32 8, wkeep := num 40 4 % 2 == 1, ranges := rs, cmask := num 80 16 }
    else none
  | _, _ => none

/-- What a save writes of a crew (R386). -/
structure SavePlan where
  hints : List (Nat × Option HintBlock)
  all : Bool
  units : List Nat
  tiles : List Nat
  wbuf : Bool
  deriving DecidableEq, Repr

def savePlan (k : Core) (abytes : Nat) : SavePlan :=
  let hs := k.waves.map (fun e => (e.1, hintBlock k e.2))
  let bs := hs.filterMap (·.2)
  let all := bs.length == hs.length
  { hints := hs, all := all
    units := (List.range (abytes / 256)).filter (fun u => !all || bs.any (fun b => b.ranges.any (fun r =>
      decide (r.1 ≤ 256 * u) && decide (256 * u < r.1 + r.2))))
    tiles := (List.range 128).filter (fun t => !all || bs.any (fun b => fieldOf b.cmask t 1 == 1))
    wbuf := !all || bs.any (fun b => b.wkeep) }

/-- The v registers of a wave that a save writes, as a mask. -/
def keptRegs (h : Option HintBlock) (quota : Nat) : Nat :=
  let all := 2 ^ quota - 1
  match h with
  | some b => Nat.land b.vmask all
  | none => all

/-- The wave as its record holds it: s registers that a hint leaves out are not kept. -/
def Wave.trimmed (w : Wave) (h : Option HintBlock) : Wave :=
  match h with
  | some b => { w with s := Bits.keep w.s (fun i => fieldOf b.smask i 1 == 1) }
  | none => w

/-! ## Writing a frame (R386 to R388) -/

/-- Memory with the bytes that `clear` names at 0 and then some cells written. -/
def Memory.image (m : Memory) (clear : Nat → Bool) (cells : List (Nat × Byte)) : Memory := Bits.wrs (Bits.keep m (fun a => !clear a)) cells

/-- The bytes of words at word-numbered keys, from an address. -/
def wordCells (base : Nat) (ws : List (Nat × Word)) : List (Nat × Byte) :=
  ws.flatMap (fun e => (List.range 4).map (fun i => (base + 4 * e.1 + i, BitVec.ofNat 8 (e.2.toNat / 256 ^ i))))

/-- The v registers of one wave in the frame. -/
def putRegs (m : Memory) (pa base kept : Nat) (w : Wave) : Memory :=
  let at_ := regsAt pa + 128 * base
  Memory.image m (fun a => decide (at_ ≤ a) && decide (a < at_ + 128 * w.quota) && fieldOf kept ((a - at_) / 128) 1 == 1)
    (wordCells at_ (w.v.filter (fun e => fieldOf kept (e.1 / 32) 1 == 1)))

/-- The buffer images. -/
def putImages (m : Memory) (pa : Nat) (k : Core) (p : SavePlan) (abytes : Nat) : Memory :=
  let inA := fun (a : Nat) => decide (abufAt pa ≤ a) && decide (a < abufAt pa + abytes) && p.units.contains ((a - abufAt pa) / 256)
  let m1 := Memory.image m inA (((Bits.keep k.abuf (fun a => p.units.contains (a / 256))).map (fun e => (abufAt pa + e.1, e.2))))
  let inC := fun (a : Nat) => decide (cbufAt pa ≤ a) && decide (a < cbufAt pa + Config.cbufBytes) && p.tiles.contains ((a - cbufAt pa) / 65536)
  let m2 := Memory.image m1 inC (wordCells (cbufAt pa) (k.cbuf.filter (fun e => p.tiles.contains (e.1 / 16384))))
  if p.wbuf then
    Memory.image m2 (fun a => decide (wbufAt pa ≤ a) && decide (a < wbufAt pa + Config.wbufBytes)) (k.wbuf.map (fun e => (wbufAt pa + e.1, e.2)))
  else m2

/-- The engine area holds commands or barriers in use. -/
def Core.engineEmpty (k : Core) : Bool := k.cmds.isEmpty && k.mats.isEmpty && k.carrs.isEmpty && k.seals.isEmpty

/-- The bytes of the engine area: 4,096 with empty queues; what others take is left open (R388). -/
def areaLen (k : Core) (free : Nat) : Nat := if k.engineEmpty then 4096 else 4096 + free % 61441

/-- The bytes of an engine area, which only Dusk reads and writes: free values (Table 15-3). -/
def areaBytes (fc n : Nat) : List Byte := (List.range n).map (fun i => (Config.freeWord (fc + i)).setWidth 8)

/-- SAVEBYTES (R388), with an engine area of `area` bytes. -/
def saveBytes (k : Core) (p : SavePlan) (area : Nat) : Nat :=
  let regs := (k.waves.map (fun e => laneCount256 (keptRegs ((p.hints.find? (fun h => h.1 == e.1)).bind (·.2)) e.2.quota))).foldl (fun a b => a + b) 0
  4096 + 2048 * k.waves.length + 128 * regs + area + 256 * p.units.length
    + 65536 * p.tiles.length + (if p.wbuf then Config.wbufBytes else 0)
where
  /-- The number of bits set in a mask of 256. -/
  laneCount256 (x : Nat) : Nat := ((List.range 256).filter (fun i => fieldOf x i 1 == 1)).length

/-- The set bits of a list of numbers. -/
def maskOf (l : List Nat) : Nat := l.foldl (fun m i => Nat.lor m (2 ^ i)) 0

/-- The header (Table 15-4). -/
def frameHeader (s : State) (c : Nat) (k : Crew) (q : Preempt) (p : SavePlan) (bytes : Nat) (check : DWord) : List Byte :=
  bytesOf 4 0 ++ bytesOf 4 (q.reason % 128 + (if q.forced then 128 else 0)) ++ bytesOf 8 (launchId k.asid k.serial)
    ++ bytesOf 4 k.crewNo ++ bytesOf 1 k.waves
    ++ bytesOf 3 ((if k.gang.isSome then 1 else 0) + (if k.version != .none then 2 else 0) + (if p.wbuf then 4 else 0) + (if p.all then 8 else 0))
    ++ bytesOf 4 k.abytes ++ bytesOf 4 c ++ bytesOf 8 s.clock ++ bytesOf 8 bytes ++ bytesOf 16 (maskOf p.tiles)
    ++ bytesOf 8 check.toNat ++ bytesOf 952 0 ++ bytesOf 1024 (maskOf p.units) ++ bytesOf 2048 0

/-- The ranges of a frame that a save writes (R386, Table 15-3). -/
def writtenRanges (pa : Nat) (ws : List (Nat × Wave)) (kept : Tbl Nat) (p : SavePlan) (area : Nat) : List (Nat × Nat) :=
  (pa, 4096) :: (pa + 0x141000, area) :: ws.map (fun e => (recordAt pa e.1, 2048))
    ++ ws.flatMap (fun e => ((List.range e.2.quota).filter (fun i => fieldOf (Tbl.getD kept e.1 0) i 1 == 1)).map (fun i =>
      (regsAt pa + 128 * (regBase ws e.1 + i), 128)))
    ++ p.units.map (fun u => (abufAt pa + 256 * u, 256)) ++ p.tiles.map (fun t => (cbufAt pa + 65536 * t, 65536))
    ++ (if p.wbuf then [(wbufAt pa, Config.wbufBytes)] else [])

/-- The 32-byte unit of memory lies in one of the ranges. -/
def unitIn (l : List (Nat × Nat)) (u : Nat) : Bool := l.any (fun r => decide (r.1 < u * 32 + 32) && decide (u * 32 < r.1 + r.2))

/-- The wave as a save writes it: one whose hint block is missing or breaks its limits is unhinted (R385). -/
def Wave.asSaved (w : Wave) (h : Option HintBlock) : Wave :=
  match h with
  | some _ => w.trimmed h
  | none => { w with rest := { w.rest with hinted := false } }

/-- An uncorrectable error in the data that a save reads (R390). -/
def State.saveSpoilt (s : State) (c : Nat) (k : Core) (p : SavePlan) : Bool :=
  s.poison.any (fun e => match e.place with
    | .abuf d u => d == c && p.units.contains (u * 8 / 256)
    | .cbuf d u => d == c && p.tiles.contains (u * 32 / 65536)
    | .wbuf d _ => d == c && p.wbuf
    | _ => false)
  || k.waves.any (fun e =>
    let h := (p.hints.find? (fun h => h.1 == e.1)).bind (·.2)
    e.2.bad.any (fun b =>
      if b < keyS 0 then fieldOf (keptRegs h e.2.quota) (b / 32) 1 == 1
      else match h with | some x => fieldOf x.smask (b - keyS 0) 1 == 1 | none => true))

/-- The core of a crew that has been written to its frame: it holds nothing, and stays taken until the save completes. -/
def Core.vacate (k : Core) (uid : Nat) : Core :=
  { k with
    crew := none, waves := [], agedFor := [], walks := [], pins := [], abuf := [], wbuf := [], cbuf := [], bars := []
    squeues := [], chans := [], cmds := [], guards := [], guardBy := [], seals := [], carrs := [], mats := [], l1 := []
    reservedFor := some (.move uid) }

/-- The record of a crew that is lost (R390). -/
def State.contextLost (s : State) (k : Crew) (core : Nat) : State :=
  match Tbl.find s.procs k.asid with
  | some p => s.sendRecord (p.portFor 0x52) k.asid (fun lost => faultRecord 0x52 0 lost 0 0 0 core 0 k.crewNo)
  | none => s

/-- The STATE word of a frame. -/
def State.setFrameState (s : State) (pa st : Nat) : State :=
  { s with mem := Memory.write s.mem pa 4 st, frames := Tbl.mod s.frames pa (Frame.idle 0) (fun f => { f with state := st }) }

/-- The ranges that a save writes no longer hold an error. -/
def State.cleanseFrame (s : State) (written : List (Nat × Nat)) : State :=
  { s with poison := s.poison.filter (fun e => match e.place with | .mem u => !unitIn written u | _ => true) }

/-- The crew of core c is written to its frame and leaves the core (R386). -/
def State.saveCrew (s : State) (c : Nat) : State :=
  match s.crew? c, s.preempted c with
  | some k, some q =>
    let y := s.core c
    let p := savePlan y k.abytes
    let ws := y.waves.map (fun e => (e.1, e.2.asSaved ((p.hints.find? (fun h => h.1 == e.1)).bind (·.2))))
    let kept := p.hints.map (fun h => (h.1, keptRegs h.2 (match Tbl.find y.waves h.1 with | some w => w.quota | none => 0)))
    let area := areaLen y (Config.freeWord s.freeCtr).toNat
    let bytes := saveBytes y p area
    let check := Config.freeWord (s.freeCtr + 1)
    let m0 := Memory.setBytes s.mem k.frame (frameHeader s c k q p bytes check)
    let m1 := ws.foldl (fun m e => Memory.setBytes m (recordAt k.frame e.1) e.2.record) m0
    let m2 := ws.foldl (fun m e => putRegs m k.frame (regBase ws e.1) (Tbl.getD kept e.1 0) e.2) m1
    let m3 := Memory.setBytes (putImages m2 k.frame y p k.abytes) (k.frame + 0x141000) (areaBytes (s.freeCtr + 2) area)
    let written := writtenRanges k.frame ws kept p area
    let g : EngineArea := { chans := y.chans, cmds := y.cmds.map (fun e => (e.1, { e.2 with pages := [], lodged := none }))
                            guards := y.guards, guardBy := y.guardBy, seals := y.seals, carrs := y.carrs
                            mats := y.mats, bars := y.bars, squeues := y.squeues, pins := y.pins
                            statics := ws.map (fun e => (e.1, e.2.static)), kept := kept }
    let cost := 64 + ceilDiv bytes 2048
    let f : Frame := { state := 0, crew := some { k with asked := none, preempt := none }, die := dieOf c, order := s.nextId, resume := false
                       corePos := c, engine := some g, check := check, area := (s.freeCtr + 2, area), written := written
                       hold := q.hold, target := q.dest, time := max y.time y.seen
                       due := s.clock + cost, cost := cost }
    let spoilt := s.saveSpoilt c y p
    let s1 : State := { s with
      mem := m3, freeCtr := s.freeCtr + 2 + area, nextId := s.nextId + 1, frames := Tbl.put s.frames k.frame f }
    let s2 := (((s1.cleanseFrame written).freshBuffers c).chargeCore c).modCore c (fun z => (z.countEv 12 1).vacate k.uid)
    if spoilt then ((((s2.emptyCore c).setFrameState k.frame 4).contextLost k c).crewGone k y.time) else s2
  | _, _ => s

/-! ## Reading a frame (R388, R134) -/

/-- The A-buffer, C-buffer and W-buffer of a frame: what the header names as saved. -/
def frameAbuf (m : Memory) (pa : Nat) : Bits 8 :=
  let map := Memory.read m (pa + 0x400) 1024
  (m.filter (fun e => decide (abufAt pa ≤ e.1) && decide (e.1 < abufAt pa + Config.abufBytes)
    && fieldOf map ((e.1 - abufAt pa) / 256) 1 == 1)).map (fun e => (e.1 - abufAt pa, e.2))

def frameCbuf (m : Memory) (pa : Nat) : Bits 32 :=
  let map := Memory.read m (pa + 0x30) 16
  let keys := ((m.filter (fun e => decide (cbufAt pa ≤ e.1) && decide (e.1 < cbufAt pa + Config.cbufBytes)
    && fieldOf map ((e.1 - cbufAt pa) / 65536) 1 == 1)).map (fun e => (e.1 - cbufAt pa) / 4)).eraseDups
  Bits.wrs [] (keys.map (fun i => (i, BitVec.ofNat 32 (Memory.read m (cbufAt pa + 4 * i) 4))))

def frameWbuf (m : Memory) (pa : Nat) : Bits 8 :=
  if fieldOf (Memory.read m (pa + 0x15) 1) 2 1 = 1 then
    (m.filter (fun e => decide (wbufAt pa ≤ e.1) && decide (e.1 < wbufAt pa + Config.wbufBytes))).map (fun e => (e.1 - wbufAt pa, e.2))
  else []

/-- The v registers of a wave with quota q: those that the save wrote. -/
def frameRegs (m : Memory) (pa base kept q : Nat) : Bits 32 :=
  Bits.wrs [] (((List.range q).filter (fun i => fieldOf kept i 1 == 1)).flatMap (fun i => (List.range 32).map (fun l =>
    (vkey i l, BitVec.ofNat 32 (Memory.read m (regsAt pa + 128 * (base + i) + 4 * l) 4)))))

/-- A wave as it goes on after a restore at `first`: no stall, no checker record, PARKED splits with a resolution READY. What a
shrunk QUOTA has cut from writes still to be made stays cut (R172). -/
def Wave.restored (w : Wave) (v : Bits 32) (clock first : Nat) : Wave :=
  { w with
    v := v
    splits := w.splits.map (fun p => match p.st with
      | .parked _ _ _ true => { p with st := .ready }
      | _ => p)
    gmark := [], falls := [], made := [], raised := (0, 0), pend := [], outs := [], notBefore := first, readySince := clock, waitSince := clock, agedAt := none, yieldUntil := none
    chkLand := [], chkTok := [], bad := []
    rest := { resting := false, hinted := false, block := none, hintPc := 0 } }

/-- The records of the STOPPED splits of core c are sent again (R389). -/
def State.stoppedAgain (s : State) (c : Nat) : State :=
  (s.core c).waves.foldl (fun t e => (e.2.splits.filter (fun p => match p.st with | .stopped _ => true | _ => false)).foldl (fun u p =>
    u.record c e.1 p.mask (match p.st with | .stopped x => x | _ => 0) 0 p.pc 0 (e.2.taskId p.mask)) t) s

/-- An uncorrectable error lies in what a restore of the frame reads (R390). -/
def State.frameSpoilt (s : State) (f : Frame) : Bool :=
  s.poison.any (fun e => match e.place with | .mem u => unitIn f.written u | _ => false)

/-- No core stays reserved for the crew numbered `uid`. -/
def State.unreserve (s : State) (uid : Nat) : State :=
  { s with cores := s.cores.map (fun e => if e.2.reservedFor = some (.move uid) then (e.1, { e.2 with reservedFor := none }) else e) }

/-- The share of core c in the instance of a crew is spent: there it goes on in normal class (R371). -/
def State.spentFor (s : State) (k : Crew) (c : Nat) : Bool :=
  match Tbl.find s.launches k.serial with
  | some l => l.insts.any (fun i => i.k == k.inst && i.spent.contains c)
  | none => false

/-- The crew of the frame at `pa` is restored on core c (R388): the engine area, the buffers, the registers and the
waves, then the completion check on every barrier, the acquire (R233), and its first issue after the restore's time. -/
def State.restoreCrew (s : State) (pa c : Nat) : State :=
  match Tbl.find s.frames pa with
  | none => s
  | some f =>
    match f.crew, f.engine with
    | some k, some g =>
      let first := s.clock + f.cost
      if s.frameSpoilt f then ((s.setFrameState pa 4).contextLost k f.corePos).crewGone k f.time
      else
        let s := s.unreserve k.uid
        let ws := g.statics.map (fun e => (e.1, e.2.fromRecord s.mem (recordAt pa e.1) s.clock))
        let spent := s.spentFor k c
        let waves := ws.map (fun e =>
          let w := e.2.restored (frameRegs s.mem pa (regBase ws e.1) (Tbl.getD g.kept e.1 0) e.2.quota) s.clock first
          (e.1, if spent then w.demote else w))
        let s1 := (s.freshBuffers c).modCore c (fun y =>
          { y.begin { k with startedAt := first, rt := k.rt && !spent } with
            reservedFor := none, waves := waves, abuf := frameAbuf s.mem pa, cbuf := frameCbuf s.mem pa, wbuf := frameWbuf s.mem pa
            bars := g.bars, squeues := g.squeues, chans := g.chans, cmds := g.cmds, guards := g.guards, guardBy := g.guardBy
            seals := g.seals, carrs := g.carrs, mats := g.mats, pins := g.pins })
        let s2 : State := { s1 with
          mem := Memory.write s1.mem pa 4 0
          frames := Tbl.put s1.frames pa (Frame.idle (dieOf c))
          traps := s1.traps.map (fun t => if t.uid = k.uid then { t with core := c } else t) }
        let s3 := g.pins.foldl (fun t a => match t.fetchLine c a.1 a.2 with | .ok u => u | .error _ => t) s2
        let s4 := (List.range 16).foldl (fun t b => t.barCheck c b) s3
        ((s4.advance c f.time).stoppedAgain c)
    | _, _ => s

/-! ## The frames that go together (R295, R364) -/

/-- The frames of the gang of a saved crew, or its own. -/
def State.frameGroup (s : State) (pa : Nat) : List Nat :=
  match (Tbl.find s.frames pa).bind (fun f => f.crew) with
  | some k =>
    if k.gang.isSome then (s.frames.filter (fun e => match e.2.crew with | some y => y.gang == k.gang | none => false)).map (·.1)
    else [pa]
  | none => []

/-- The crew of a frame. -/
def State.savedCrew (s : State) (pa : Nat) : Option Crew := (Tbl.find s.frames pa).bind (fun f => f.crew)

/-- The core for a frame of a group, when the group goes to core c. -/
def State.coreFor (s : State) (pa c : Nat) : Nat :=
  match s.savedCrew pa with
  | some k => if k.gang.isSome then c / 8 * 8 + k.crewNo % 8 else c
  | none => c

/-- Restores a frame with its group, for core c. -/
def State.restoreGroup (s : State) (pa c : Nat) : State :=
  (s.frameGroup pa).foldl (fun t f => match s.savedCrew f with
    | some _ => t.restoreCrew f (s.coreFor f c)
    | none => t) s

/-! ## The end of saved crews (R380, R389) -/

/-- The saved crew at `pa` retires without a restore; of the faults that are held for it the records are sent (R27). -/
def State.endSaved (s : State) (pa : Nat) : State :=
  match (Tbl.find s.frames pa) with
  | some f => match f.crew with
    | some k =>
      let s1 := (s.traps.filter (fun t => t.uid == k.uid)).foldl (fun (u : State) t => u.recordOf t t.lanes) s
      ({ s1 with traps := s1.traps.filter (fun t => t.uid != k.uid) } : State).crewGone k f.time
    | none => s
  | none => s

/-- A record for a saved crew. -/
def State.savedRecord (s : State) (pa w : Nat) (m : Lanes) (cause secondary : Nat) (pc : PC) (addr id : Nat) : State :=
  match Tbl.find s.frames pa with
  | some f => match f.crew with
    | some k => match Tbl.find s.procs k.asid with
      | some p => s.sendRecord (p.portFor cause) k.asid (fun lost => faultRecord cause secondary lost m pc addr f.corePos w id)
      | none => s
    | none => s
  | none => s

/-- The core that a frame stands for, with its waves read from their records: on it R111, R266 and R285 act as on a
core. -/
def State.frameCore (s : State) (pa : Nat) : Core :=
  match (Tbl.find s.frames pa).bind (fun f => f.engine) with
  | some g => { Core.idle with
      bars := g.bars, carrs := g.carrs
      waves := g.statics.map (fun e => (e.1, e.2.fromRecord s.mem (recordAt pa e.1) s.clock)) }
  | none => Core.idle

/-- Writes such a core back. -/
def State.putFrameCore (s : State) (pa : Nat) (k : Core) : State :=
  (k.waves.foldl (fun (t : State) e => t.putSaved pa e.1 e.2) s).modEngine pa (fun g => { g with bars := k.bars, carrs := k.carrs })

/-- Lanes of a saved wave end (R389). -/
def State.exitSaved (s : State) (pa w : Nat) (m : Lanes) : State :=
  let k := s.frameCore pa
  match Tbl.find k.waves w with
  | none => s
  | some x =>
    let x' := (List.range 8).foldl (fun y n => Wave.jexit y n m s.clock) (x.without m)
    s.putFrameCore pa (({ k with waves := Tbl.put k.waves w x' } : Core).leaveBarriers w m s.clock)

/-- No lane of a saved crew is left. -/
def State.savedEmpty (s : State) (pa : Nat) : Bool := (s.frameCore pa).waves.all (fun e => e.2.splits.isEmpty)

end Sys2Proof.Machine
end

