-- ==== Sys2Proof/Machine/DuskCalls.lean ====
section
/-! DEFINITION. The Dusk instructions (opcodes 0xE3 to 0xE9, R393 to R399): hints, traps, the debugger's resume, and the
supervisor's calls to save, restore and shoot down. -/

namespace Sys2Proof.Machine

/-! ## phint (R385, R394) -/

/-- The executing split of lanes `m` holds every lane of the wave but those that are SUSPENDED or PARKED (R385). -/
def Wave.hintPoint (w : Wave) (m : Lanes) : Bool :=
  w.splits.all (fun p => (p.mask &&& m) != 0 || (match p.st with | .suspended _ | .parked .. => true | _ => false))

/-- At a hint point the wave latches the block, none for `.full`, and with a request pending it rests; elsewhere a `phint` has no
effect (R385). -/
def hintNow (k : Ctx) (block : Option Nat) (s : State) : State :=
  s.onWave k (fun y =>
    let rest := (s.preempted k.core).isSome
    if y.hintPoint k.lanes then { y with rest := { resting := rest, hinted := rest && block.isSome, block := block, hintPc := k.pc } } else y)

/-- `phint a` acts whatever its guard gives; its faults are the whole split's. -/
def phintBody (o : FmtI) (k : Ctx) (s : State) : State :=
  let a := k.u32 o.a (lowestLane k.lanes)
  if a % 128 ≠ 0 then s.takeTrap k.core k.wave k.lanes 0x14 0 k.pc a k.pc
  else if k.x.abytes < a + 128 then s.takeTrap k.core k.wave k.lanes 0x1A 0 k.pc a k.pc
  else hintNow k (some a) s

def execPhint (h : Hdr) (o : FmtI) (s : State) : Out := issue (.phint h o) s (phintBody o)
def execPhintFull (h : Hdr) (o : FmtI) (s : State) : Out := issue (.phintFull h o) s (fun k s => hintNow k none s)

/-! ## trap, bkpt (R395) -/

def execTrap (h : Hdr) (o : FmtI) (s : State) : Out :=
  issue (.trap h o) s (fun k s => s.takeTrap k.core k.wave k.pass 0x09 0 k.pc (o.imm.toNat % 65536) (nextPc k.pc))
def execBkpt (h : Hdr) (o : FmtI) (s : State) : Out :=
  issue (.bkpt h o) s (fun k s => s.takeTrap k.core k.wave k.pass 0x0A 0 k.pc (o.imm.toNat % 65536) (nextPc k.pc))

/-! ## rett (R396) -/

/-- The part of a STOPPED split that resumes; the other lanes of the wave are as they were (R396). -/
def Wave.resumeSplit (w : Wave) (p : Split) (m : Lanes) (step : Bool) (clock : Nat) : Wave :=
  (w.without (p.mask &&& m)).addSplit { p with mask := p.mask &&& m, st := .ready, since := clock, notBefore := 0, stepOne := step }

/-- STOPPED lanes of `m` become READY at their splits' PCs. -/
def Wave.resumeStopped (w : Wave) (m : Lanes) (step : Bool) (clock : Nat) : Wave :=
  (w.splits.filter (fun p => (match p.st with | .stopped _ => true | _ => false) && (p.mask &&& m) != 0)).foldl
    (fun y p => y.resumeSplit p m step clock) w

/-- One lane's `rett` on the wave that a 64-bit value names; any other value has no effect. -/
def rettOne (asid x : Nat) (step : Bool) (s : State) : State :=
  let c := fieldOf x 0 10
  if fieldOf x 10 6 ≠ 0 ∨ fieldOf x 23 9 ≠ 0 ∨ (asid ≠ 0 ∧ s.asidOf c (fieldOf x 16 7) ≠ asid) then s
  else s.modWave c (fieldOf x 16 7) (fun w => w.resumeStopped (BitVec.ofNat 32 (x / 2 ^ 32)) step s.clock)

def rettBody (o : FmtC) (step : Bool) (k : Ctx) (s : State) : State :=
  (lanesOf k.pass).foldl (fun t l => rettOne k.asid (k.u64 o.a l) step t) s

def execRett (h : Hdr) (o : FmtC) (s : State) : Out := issue (.rett h o) s (rettBody o false)
def execRettStep (h : Hdr) (o : FmtC) (s : State) : Out := issue (.rettStep h o) s (rettBody o true)

/-! ## Supervisor calls -/

/-- The calls that instruction `op` has just made are begun, in lane order. -/
def State.beginCalls (s : State) (k : Ctx) (f : Call → State → State) : State :=
  (s.calls.filter (fun x => x.core == k.core && x.op == k.op)).foldl (fun t x => f x t) s

/-! ### csave (R397) -/

/-- The frame to which the crew of core c is being written. -/
def State.savingAt (s : State) (c : Nat) : Option (Nat × Crew) :=
  (s.frames.filterMap (fun e => match e.2.crew with
    | some k => if e.2.state == 0 && e.2.corePos == c then some (e.1, k) else none
    | none => none)).head?

/-- The crew of core u(a) is pre-empted and stays HELD; a crew whose save is under way is held with it (R384). -/
def beginCsave (x : Call) (s : State) : State :=
  let c := x.a.toNat
  match s.crew? c, s.savingAt c with
  | some k, _ =>
    if 1023 < c ∨ k.stage.isSome then s.reply x 2 (failWord stNotFound)
    else if s.clock < k.startedAt then s.reply x 2 (failWord stBusy)
    else (s.askPreempt c 3 true none).markSent x k.uid
  | none, some (pa, k) =>
    ((s.frameGroup pa).foldl (fun (t : State) f =>
      { t with frames := Tbl.mod t.frames f (Frame.idle 0) (fun y => { y with hold := true }) }) s).markSent x k.uid
  | none, none => s.reply x 2 (failWord stNotFound)

def execCsave (h : Hdr) (o : FmtA) (s : State) : Out :=
  issue (.csave h o) s (fun k s => (sendCalls k false [] ((lanesOf k.pass).map (fun l =>
    k.call (s.tenantOfAsid k.asid) .csave o.d o.a o.b o.c (k.u32 o.a l, 0, 0) false l (laneBit l))) s).beginCalls k beginCsave)

/-! ### crest (R398) -/

/-- Reserved bits of a frame's header, by offset and width. -/
def headerReserved : List (Nat × Nat) :=
  [(0x005 * 8, 24), (0x015 * 8 + 4, 4), (0x016 * 8, 16), (0x048 * 8, 952 * 8), (0x800 * 8, 2048 * 8)]

/-- The lane mask at an offset of a record names a lane that was not launched. -/
def badMask (m : Memory) (at_ : Nat) (launched : Lanes) (off : Nat) : Bool :=
  (BitVec.ofNat 32 (recAt m at_ off 4) &&& ~~~ launched) != 0

/-- A used split of a record breaks a limit: its PC (R35) or its lane mask. -/
def badSplit (m : Memory) (at_ : Nat) (launched : Lanes) (k : Nat) : Bool :=
  recAt m at_ (16 * k + 12) 1 != 0 && (!pcOk (recAt m at_ (16 * k) 8) || badMask m at_ launched (16 * k + 8))

/-- A PC or a lane mask of a record breaks its limits (Table 15-5): of a split, of a rejoin register (Table 5-4), of the W and Q of
a barrier, or of the hint. -/
def badRecord (m : Memory) (at_ : Nat) (launched : Lanes) : Bool :=
  (List.range 32).any (badSplit m at_ launched)
    || (List.range 8).any (fun i => !pcOk (recAt m at_ (0x308 + 16 * i) 8 % 2 ^ 56) || badMask m at_ launched (0x304 + 16 * i)
      || badMask m at_ launched (0x300 + 16 * i))
    || (List.range 32).any (fun b => badMask m at_ launched (0x380 + 4 * b))
    || !pcOk (recAt m at_ 0x498 8)

/-- The QUOTA of a record. -/
def recordQuota (m : Memory) (pa w : Nat) : Nat := recAt m (recordAt pa w) 0x428 4

/-- A field of a frame breaks its limits, or the check word does not match: it or the engine area has changed (R398). -/
def State.corrupt (s : State) (pa : Nat) : Bool :=
  match Tbl.find s.frames pa with
  | none => true
  | some f =>
    let ws := match f.engine with | some g => g.statics | none => []
    let head := Memory.read s.mem pa 4096
    let sum := fun (q : Nat) => ((ws.filter (fun e => quadOf e.1 == q)).map (fun e => recordQuota s.mem pa e.1)).foldl (fun a b => a + b) 0
    Memory.read s.mem (pa + 0x40) 8 != f.check.toNat
      || (List.range f.area.2).map (fun i => Bits.rd s.mem (pa + 0x141000 + i)) != areaBytes f.area.1 f.area.2
      || headerReserved.any (fun r => fieldOf head r.1 r.2 != 0)
      || ws.any (fun e =>
        let at_ := recordAt pa e.1
        let n := Memory.read s.mem at_ 2048
        let q := recordQuota s.mem pa e.1
        recordReserved.any (fun r => fieldOf n r.1 r.2 != 0) || badRecord s.mem at_ e.2.launched
          || q % 8 != 0 || q == 0 || decide (256 < q))
      || (List.range 4).any (fun q => decide (Config.quadrantRegs < sum q))

/-- Status CORRUPT. -/
def stCorrupt : Nat := 18

/-- The cores that a frame's group would take, when it goes to core c. -/
def State.groupCores (s : State) (pa c : Nat) : List Nat := (s.frameGroup pa).map (fun f => s.coreFor f c)

/-- A HELD frame's group goes to its resume list, or to the cores of a target. -/
def State.release (s : State) (pa : Nat) (target : Option Nat) : State :=
  (s.frameGroup pa).foldl (fun t f =>
    let d := target.map (fun c => s.coreFor f c)
    let t1 : State := { t.setFrameState f 2 with nextId := t.nextId + 1 }
    let t2 : State := { t1 with frames := Tbl.mod t1.frames f (Frame.idle 0) (fun y =>
      { y with hold := false, resume := target.isNone, target := d, order := t.nextId }) }
    match d, s.savedCrew f with
    | some c, some k => t2.modCore c (fun y => { y with reservedFor := some (.move k.uid) })
    | _, _ => t2) s

/-- `crest` of one lane. -/
def beginCrest (x : Call) (s : State) : State :=
  let pa := x.a.toNat
  let b := x.b.toNat % 2 ^ 32
  match Tbl.find s.frames pa with
  | none => s.reply x 1 stNotFound
  | some f =>
    match f.crew with
    | none => s.reply x 1 stNotFound
    | some k =>
      if f.state ≠ 3 then s.reply x 1 stNotFound
      else if b ≠ 0xFFFFFFFF ∧ (1023 < b ∨ !s.dieRuns (dieOf b) ∨ (k.gang.isSome ∧ b % 8 ≠ 0)
          ∨ !(if k.gang.isSome then (clusterCores (b / 8)).all (fun c => (s.core c).free) else (s.core b).free)) then s.reply x 1 stBusy
      else if (s.frameGroup pa).any (fun g => s.corrupt g) then s.reply x 1 stCorrupt
      else (s.release pa (if b = 0xFFFFFFFF then none else some b)).markSent x k.uid

def execCrest (h : Hdr) (o : FmtA) (s : State) : Out :=
  issue (.crest h o) s (fun k s => (sendCalls k false [] ((lanesOf k.pass).map (fun l =>
    k.call (s.tenantOfAsid k.asid) .crest o.d o.a o.b o.c (k.u64 o.a l, k.u32 o.b l, 0) false l (laneBit l))) s).beginCalls k beginCrest)

/-! ### ptinv (R399) -/

/-- ADDR_RANGE in the lanes whose range leaves the 56-bit space. -/
def ptinvFaults (o : FmtM) (k : Ctx) : List LaneFault :=
  (lanesOf k.pass).filterMap (fun l =>
    let a := k.ea o l
    let n := k.u32 o.b l
    if n ≠ 0 ∧ outside a n then some (l, 0x12, a) else none)

/-- The shootdown of one lane begins. -/
def beginPtinv (mode : Nat) (x : Call) (s : State) : State :=
  let asid := x.c.toNat % 65536
  let n := x.b.toNat % 2 ^ 32
  if n = 0 ∨ (Tbl.find s.procs asid).isNone then s.reply x 0 0
  else { s with
    nextId := s.nextId + 1
    shoots := s.shoots ++ [{ id := s.nextId, asid := asid, lo := x.a.toNat, hi := x.a.toNat + n, mode := mode, call := some x.id }] }

def ptinvBody (o : FmtM) (mode : Nat) (k : Ctx) (s : State) : State :=
  let fs := ptinvFaults o k
  (sendCalls k false fs ((callLanes k fs).map (fun l =>
    { k.call (s.tenantOfAsid k.asid) (.ptinv mode) o.d o.a o.b o.d (k.ea o l, k.u32 o.b l, k.u32 o.d l) false l (laneBit l) with writes := false })) s).beginCalls
    k (beginPtinv mode)

def execPtinv (h : Hdr) (o : FmtM) (s : State) : Out := issue (.ptinv h o) s (ptinvBody o 0)
def execPtinvRsm (h : Hdr) (o : FmtM) (s : State) : Out := issue (.ptinvRsm h o) s (ptinvBody o 1)
def execPtinvEnd (h : Hdr) (o : FmtM) (s : State) : Out := issue (.ptinvEnd h o) s (ptinvBody o 2)

end Sys2Proof.Machine
end

