-- ==== Sys2Proof/Machine/Dusk.lean ====
section
/-! DEFINITION. Dusk's own steps: pre-emption requests, saves, restores and moves (R366, R384 to R390), commits (R383), and
the completion of shootdowns with what follows them (R207, R339, R381, R399). -/

namespace Sys2Proof.Machine

/-! ## Pre-emption (R384, R386, R388) -/

/-- R384: a request that has been made reaches its crew. -/
def execPreemptRequest (core reason : Nat) (s : State) : Out :=
  match (s.crew? core).bind (fun k => k.asked) with
  | some p =>
    if p.reason = reason then .next (s.modCrew core (fun k => { k with asked := none, preempt := some { p with at_ := s.clock } }))
    else .next s
  | none => .next s

/-- R384: 8,192 cycles have passed and some wave does not rest: every wave stops. -/
def execForcedSaveTimeout (core : Nat) (s : State) : Out :=
  match s.preempted core with
  | some p =>
    if p.forced || s.enginesRest core || decide (s.clock < p.at_ + 8192) then .next s
    else .next (s.modCrew core (fun k => { k with preempt := some { p with forced := true } }))
  | none => .next s

/-- Dusk's access, for the crew numbered `uid` and from the die of a core, to the frames at some addresses waits its turn at locked
lines (R218). -/
def State.asDusk (s : State) (core uid : Nat) (frames : List Nat) (f : State → State) : State :=
  s.asAgent (frames.map (fun a => (a, frameBytesLen))) (duskAgent (dieOf core)) (duskNum uid) f

/-- R386: once every wave of the crew, or of its gang, rests and has drained, its MANUAL bytes are written back after the
commit that they need, and its frame is written. -/
def crewSave (core : Nat) (s : State) : State :=
  let group := s.saveGroup core
  if group.isEmpty || !group.all (fun c => s.crewDrained c) then s
  else
    let s1 := group.foldl (fun t c =>
      let t1 := if (t.manualLines c).any (fun l => t.dirtyLine c l) then t.commitVersion c else t
      if (t1.manualLines c).any (fun l => t1.dirtyLine c l) && t1.versionOpen c then t1 else t1.manualBack c) s
    if group.any (fun c => !(s1.manualLines c).isEmpty || s1.backsOpen (s1.uidOf c)) then s1
    else
      let frames := group.filterMap (fun c => (s1.crew? c).map (fun k => k.frame))
      s1.asDusk core (s1.uidOf core) frames (fun t => group.foldl (fun (u : State) c => u.saveCrew c) t)

def execCrewSave (core : Nat) (s : State) : Out := .next (crewSave core s)

/-- R388: the save of the crew of core `core`, with its gang, completes: each frame is SAVED or HELD and its core free.
A crew saved for a contract or a move joins its die's resume list, the latter with the core that is reserved for it. -/
def saveComplete (core : Nat) (s : State) : State :=
  match s.savingAt core with
  | none => s
  | some (pa, _) =>
    let group := s.frameGroup pa
    if group.any (fun f => match Tbl.find s.frames f with | some x => decide (s.clock < x.due) | none => true) then s
    else
      group.foldl (fun t f => match Tbl.find t.frames f with
        | some x =>
          let t1 := t.setFrameState f (if x.hold then 3 else 2)
          let t2 : State := { t1 with frames := Tbl.mod t1.frames f (Frame.idle 0) (fun y =>
            { y with resume := !x.hold, target := if x.hold then none else x.target }) }
          let t3 := t2.emptyCore x.corePos
          match x.crew with
          | some k =>
            let t4 := if x.hold then t3.unreserve k.uid else t3
            (t4.duskCalls .csave k.uid).foldl (fun u y => u.reply y 2 f) t4
          | none => t3
        | none => t) s

def execSaveComplete (core : Nat) (s : State) : Out := .next (saveComplete core s)

/-- Core c stands reserved for the saved crews of a frame's group, or is free for them. -/
def State.awaits (s : State) (pa c : Nat) : Bool :=
  (s.frameGroup pa).all (fun f =>
    let y := s.core (s.coreFor f c)
    y.crew.isNone && y.claim.isNone && (match y.reservedFor, s.savedCrew f with
      | some (.move u), some k => u == k.uid
      | none, _ => true
      | _, _ => false))

/-- Dusk restores a frame with its group, for core c, once it may read the frames. -/
def State.restoreAs (s : State) (pa c : Nat) : State :=
  match s.savedCrew pa with
  | some k => s.asDusk c k.uid (s.frameGroup pa) (fun t => t.restoreGroup pa c)
  | none => s

/-- R388, R361: a crew on the resume list goes to the free core that its agent gives it, and one that a `crest` has
released to its target. -/
def crewRestore (frame core : Nat) (s : State) : State :=
  match Tbl.find s.frames frame with
  | none => s
  | some f =>
    let die := dieOf core
    let picked := s.rtResume die == some (frame, core)
      || (!(s.rtResume die).isSome && !(s.freeCores die).any (fun c => (s.instanceOn c).isSome) && s.normalResume die == some (frame, core))
    if f.state = 2 ∧ ((f.resume && picked) || (f.target == some core && s.awaits frame core)) then s.restoreAs frame core else s

def execCrewRestore (frame core : Nat) (s : State) : Out := .next (crewRestore frame core s)

/-- R366: the crew saved from core `src` for a move is restored on core `dst`. -/
def crewMove (src dst : Nat) (s : State) : State :=
  match s.frames.find? (fun e => e.2.state == 2 && e.2.corePos == src && e.2.target == some dst && e.2.crew.isSome) with
  | some (pa, _) => if s.awaits pa dst then s.restoreAs pa dst else s
  | none => s

def execCrewMove (src dst : Nat) (s : State) : Out := .next (crewMove src dst s)

/-! ## Commits (R383) -/

/-- R383: the crew's version commits, if an access of it waits for that or the commit is under way. -/
def execVersionCommit (core : Nat) (s : State) : Out :=
  .next (if s.committing core || s.reqs.any (fun r => r.core == core && r.waits && s.needsCommit r) then s.commitVersion core else s)

/-! ## Shootdowns (R207, R339, R399) -/

/-- A virtual range meets a shootdown's. -/
def Shoot.meets (h : Shoot) (va n : Nat) : Bool := decide (h.lo < va + n) && decide (va < h.hi)

/-- An access of the process, translated in the range, is still to be performed or acknowledged, or a command has a page of the
range under its translation (R282). -/
def State.shootOpen (s : State) (h : Shoot) : Bool :=
  s.reqs.any (fun r => r.asid == h.asid
    && (match r.kind with
      | .fence _ => false
      | .mcas .. => true
      | .load | .scale | .atom _ => r.waits && h.meets r.va r.size
      | _ => h.meets r.va r.size))
  || s.cores.any (fun e => e.2.cmds.any (fun x => x.2.asid == h.asid && x.2.pages.any (fun p => h.meets (p.1 * 65536) 65536)))

/-- A MANUAL line was used through a page of the range. -/
def Shoot.ofPages (h : Shoot) (ps : List (Nat × Nat)) : Bool := ps.any (fun p => p.1 == h.asid && h.meets (p.2 * 65536) 65536)

/-- The MANUAL lines of the range on core c. -/
def State.shootLines (s : State) (h : Shoot) (c : Nat) : List Nat :=
  ((s.core c).l1.filter (fun e => e.2.manual && h.ofPages e.2.pages)).map (fun e => e.1 / 2)

/-- A MANUAL byte of the range is on its way to its home. -/
def Shoot.back (h : Shoot) (w : WriteBack) : Bool :=
  w.op == h.id || h.ofPages w.pages

/-- The cores drop the translations, the instruction lines and the pins of the range. -/
def State.shootDrop (s : State) (h : Shoot) : State :=
  { s with cores := s.cores.map (fun e => (e.1, { e.2 with
      tlb := e.2.tlb.filter (fun t => let size := if t.big then 2 ^ 21 else 2 ^ 16
        !(t.asid == h.asid && h.meets (t.page * size) size))
      icache := e.2.icache.filter (fun l => !(l.asid == h.asid && h.meets l.line 64))
      pins := e.2.pins.filter (fun a => !(a.1 == h.asid && h.meets a.2 64)) })) }

/-- The PARKED splits of a wave whose faults lie in the range. -/
def Wave.parkedIn (w : Wave) (h : Shoot) : List Split := w.splits.filter (fun p => p.st.parkedIn h.lo h.hi)

/-- Cause, secondary cause and address of a PARKED split. -/
def SplitSt.parkInfo (x : SplitSt) : Nat × Nat × Nat :=
  match x with
  | .parked c sec a _ => (c, sec, a)
  | _ => (0, 0, 0)

/-- `ptinv.end` on the cores: the splits end as by a fatal trap with the original cause (R381). -/
def State.endParked (s : State) (h : Shoot) : State :=
  s.cores.foldl (fun t e => (e.2.waves.filter (fun w => w.2.asid == h.asid)).foldl (fun u w => (w.2.parkedIn h).foldl (fun v p =>
      let i := p.st.parkInfo
      match v.wave? e.1 w.1 with
      | some y =>
        -- a crew with an open version has ended whole at its first split (R380)
        if p.mask &&& y.lanes = 0 then v
        else if v.versionOpen e.1 then v.endCrew e.1 w.1 p.mask i.1 p.pc i.2.2
        else (v.record e.1 w.1 p.mask i.1 i.2.1 p.pc i.2.2 (y.taskId p.mask)).exitLanes e.1 w.1 p.mask
      | none => v) u) t) s

/-- One saved wave under `ptinv.end`. -/
def State.endSavedParked (s : State) (pa w : Nat) (h : Shoot) : State :=
  match s.savedWave pa w with
  | none => s
  | some y => (y.parkedIn h).foldl (fun t p =>
      let i := p.st.parkInfo
      (t.savedRecord pa w p.mask i.1 i.2.1 p.pc i.2.2 0xFFFFFFFF).exitSaved pa w p.mask) s

/-- `ptinv.end` in the frames: a versioned crew ends whole, and a crew without a lane left retires (R389). -/
def State.endParkedSaved (s : State) (h : Shoot) : State :=
  (s.frames.filter (fun e => match e.2.crew with | some k => k.asid == h.asid | none => false)).foldl (fun t e =>
    let hit := e.2.waves.filterMap (fun w => (t.savedWave e.1 w).bind (fun y => (y.parkedIn h).head?.map (fun p => (w, p))))
    match hit, e.2.crew with
    | (w, p) :: _, some k =>
      match k.version with
      | .opened _ =>
        let i := p.st.parkInfo
        (t.savedRecord e.1 w p.mask 0x47 i.1 p.pc i.2.2 k.crewNo).endSaved e.1
      | _ =>
        let t1 := e.2.waves.foldl (fun u x => u.endSavedParked e.1 x h) t
        if t1.savedEmpty e.1 then t1.endSaved e.1 else t1
    | _, _ => t) s

/-- What follows a shootdown: the rest of a send (R339), or the effect of `ptinv` on PARKED splits (R399). -/
def State.afterShoot (s : State) (h : Shoot) : State :=
  match h.call with
  | none => s
  | some id =>
    match s.calls.find? (fun x => x.id == id) with
    | none => s
    | some x =>
      match x.kind with
      | .ptinv m =>
        (match m with
          | 1 => s.resumeParked h.asid h.lo h.hi
          | 2 => (s.endParked h).endParkedSaved h
          | _ => s).reply x 0 0
      | _ => s.grantShot id

/-- R207: the shootdown completes once every access under the old translation has been performed and every MANUAL byte of
the range has been written back. -/
def shootdownComplete (sd : Nat) (s : State) : State :=
  match s.shoots.find? (fun h => h.id == sd) with
  | none => s
  | some h =>
    if s.shootOpen h then s
    else
      let cs := (s.cores.map (·.1)).filter (fun c => !(s.shootLines h c).isEmpty)
      let s1 := cs.foldl (fun t c =>
        let dirty := (t.shootLines h c).any (fun l => t.dirtyLine c l)
        let t1 := if dirty then t.commitVersion c else t
        if dirty && t1.versionOpen c then t1
        else (t1.shootLines h c).foldl (fun u l => u.sendBack c l h.id true) t1) (s.shootDrop h)
      if s1.cores.any (fun e => !(s1.shootLines h e.1).isEmpty) || s1.writeBacks.any h.back then s1
      else ({ s1 with shoots := s1.shoots.filter (fun y => y.id != sd) } : State).afterShoot h

def execShootdownComplete (sd : Nat) (s : State) : Out := .next (shootdownComplete sd s)

end Sys2Proof.Machine
end

