-- ==== Sys2Proof/Machine/Fabric.lean ====
section
/-! DEFINITION. The steps of the fabric, of Lodestar and of the EWC command ring (chapter 16): traffic of Erwick Link
(R403 to R412), the host's accesses (R413 to R416), the calls of the host (R417 to R420) and its warm restart (R421,
R422). -/

namespace Sys2Proof.Machine

/-! ## Erwick Link (R406 to R410) -/

/-- The stream of a die of a package. -/
def streamOf (pkg die : Nat) : Nat := pkg * 8 + die

/-- The package takes traffic of Erwick Link from a die of another package. -/
def State.linkOn (s : State) (pkg die : Nat) : Bool :=
  s.svc.boot == .running && pkg != s.fab.pkgNo && decide (pkg < 0xFF00) && decide (die < 8)

/-- The answer to a call that a message names. -/
def State.answerTo (s : State) (m : RemoteMsg) (die : Nat) (b : RemoteBody) : State := s.sendOut die m.pkg m.serial b

/-- Bytes in the grant staging area (R409): those of the pages of queued messages of other packages. -/
def State.staged (s : State) : Nat :=
  (s.objs.map (fun (e : Nat × Obj) => match e.2.body with
    | .port _ msgs _ => ((msgs.filter (fun m => m.pkg != s.fab.pkgNo)).map (fun m => 65536 * m.pages.length)).foldl (fun a b => a + b) 0
    | _ => 0)).foldl (fun a b => a + b) 0

/-- The size of the grant staging area. -/
def stagingBytes : Nat := 0x200000000

/-- A page of another package as its message queues it. -/
def stagedPage (p : RemotePage) : GrantPage :=
  { kind := p.kind, fmtc := p.fmtc, geo := p.geo, sws := p.sws, leaf := 0, frame := 0, bytes := p.bytes }

/-- The traffic `m` has been dealt with. -/
def State.dropArrived (s : State) (m : RemoteMsg) : State :=
  { s with fab := { s.fab with arrived := s.fab.arrived.filter (fun x => x != m) } }

/-- The traffic of its stream that has arrived before `m` has been dealt with (R406). -/
def State.oldestOf (s : State) (m : RemoteMsg) : Bool := s.fab.arrived.find? (fun x => x.pkg == m.pkg && x.die == m.die) == some m

/-- A message. -/
def isMessage (m : RemoteMsg) : Bool := match m.body with | .message .. => true | _ => false

/-- R408: the oldest message of its stream reaches its port, which takes it or refuses it. -/
def remoteMessageArrival (pkg serial : Nat) (s : State) : State :=
  match s.fab.arrived.find? (fun m => m.pkg == pkg && m.serial == serial && isMessage m) with
  | none => s
  | some m =>
    if !s.oldestOf m then s
    else
      match m.body with
      | .message index gen sender asid tag payload pages waits =>
        let s1 := s.dropArrived m
        let die := index / 2 ^ 21
        match Tbl.find s1.objs index with
        | some o =>
          match o.body with
          | .port _ _ _ =>
            if o.gen ≠ gen then s1.answerTo m die (.answer stDead)
            else if s1.portFull index || decide (stagingBytes < s1.staged + 65536 * pages.length) then
              let s2 := s1.answerTo m die (.answer stFull)
              if waits then { s2 with fab := { s2.fab with notes := s2.fab.notes ++ [(index, pkg, serial)] } } else s2
            else
              (s1.append index { payload := payload, tag := tag, pkg := sender, asid := asid, grant := none, gva := 0
                                 pages := pages.map stagedPage, serial := serial, time := s1.outTime }).answerTo m die (.answer stOk)
          | _ => s1.answerTo m die (.answer stDead)
        | none => s1.answerTo m die (.answer stDead)
      | _ => s

def execRemoteMessageArrival (pkg serial : Nat) (s : State) : Out := .next (remoteMessageArrival pkg serial s)

/-- R409: the TAKEN notice of the GRANT at Catalogue index `obj` ends the reservation of its frames. -/
def grantTakenNotice (obj : Nat) (s : State) : State :=
  match s.fab.sent.find? (fun e => handleIdx e.2.handle == obj
      && s.fab.arrived.any (fun m => m.pkg == e.2.pkg && m.serial == e.1 && m.body == .taken && s.oldestOf m)) with
  | none => s
  | some (serial, g) =>
    let s1 : State := { s with fab := { s.fab with
      sent := Tbl.del s.fab.sent serial
      arrived := s.fab.arrived.filter (fun m => !(m.pkg == g.pkg && m.serial == serial && m.body == .taken)) } }
    (g.pages.foldl (fun t p => t.addFrame g.asid p.frame) s1).setGrant (some g.handle) 1

def execGrantTakenNotice (obj : Nat) (s : State) : Out := .next (grantTakenNotice obj s)

/-- The port that holds the message of another package. -/
def State.queuedFrom (s : State) (pkg serial : Nat) : Option (Nat × Nat × List Msg × Nat) :=
  (s.objs.filterMap (fun (e : Nat × Obj) => match e.2.body with
    | .port cap msgs lost => if msgs.any (fun m => m.pkg == pkg && m.serial == serial) then some (e.1, cap, msgs, lost) else none
    | _ => none)).head?

/-- R410: a forwarded `grantrev` removes the message that is still queued, or answers TAKEN. A message that went with its
port has been returned (R341, R352), and so has its grant. The answer leaves from the port's die, behind a TAKEN notice (R406). -/
def remoteGrantrev (pkg serial : Nat) (s : State) : State :=
  match s.fab.arrived.find? (fun m => m.pkg == pkg && m.serial == serial && (match m.body with | .revoke _ => true | _ => false)) with
  | none => s
  | some m =>
    if !s.oldestOf m then s
    else
      let s1 := s.dropArrived m
      let die := (match m.body with | .revoke i => i | _ => 0) / 2 ^ 21
      let gone := s.fab.outbox.any (fun e => e.pkg == pkg && e.serial == serial && e.body == .revoked false)
      match s1.queuedFrom pkg serial with
      | some (idx, cap, msgs, lost) =>
        ((s1.setBody idx (.port cap (msgs.filter (fun y => !(y.pkg == pkg && y.serial == serial))) lost)).portRoom idx).answerTo m
          die (.revoked false)
      | none => s1.answerTo m die (.revoked (!gone))

def execRemoteGrantrev (pkg serial : Nat) (s : State) : Out := .next (remoteGrantrev pkg serial s)

/-! ## The EWC command ring (R417 to R419) -/

/-- A record of the command ring (Table 16-4). -/
structure EwcRec where
  seq : Nat
  fn : Nat
  flags : Nat
  args : List Nat
  deriving DecidableEq, Repr

/-- The record in the slot of sequence number q of a ring. -/
def State.ewcRec (s : State) (base logn q : Nat) : EwcRec :=
  let slot := base + 256 + 64 * (q % 2 ^ logn)
  { seq := Memory.read s.mem slot 4, fn := Memory.read s.mem (slot + 4) 2, flags := Memory.read s.mem (slot + 6) 2
    args := (List.range 4).map (fun i => Memory.read s.mem (slot + 8 + 8 * i) 8) }

/-- RHEAD of a ring. -/
def State.ringHead (s : State) (base : Nat) : Nat := Memory.read s.mem (base + 128) 4

/-- What the service waves have seen: with the acquire of TAIL, what its write released (R418 step 3). -/
def State.ewcTime (s : State) (base : Nat) : Nat := max s.outTime (s.lineTime false (lineNo base))

/-- The reply of the record at RHEAD, and then RHEAD, with a release (R418 step 4). -/
def State.ewcReply (s : State) (status result : Nat) : State :=
  match s.ringOf s.fab.ewccmd with
  | none => s
  | some (base, logn) =>
    let q := s.ringHead base
    let slot := base + 256 + 64 * (q % 2 ^ logn)
    let s1 : State := { s with fab := { s.fab with ewcWait := none } }
    ((s1.homeBytes (slot + 40) (bytesOf 4 q ++ bytesOf 4 status ++ bytesOf 8 result ++ bytesOf 8 0)).homeBytes (base + 128)
      (bytesOf 4 ((q + 1) % 2 ^ 32))).noteStrict false (base + 128) (s.ewcTime base)

/-- SEQUENCE (Table 16-4). -/
def stSequence : Nat := 19

/-- The flags that a function allows (Table 16-5). -/
def EwcRec.flagsOk (r : EwcRec) : Bool := if r.fn = 3 then decide (r.flags ≤ 16) else r.flags == 0

/-- The service waves serve the record at RHEAD, if it is one of function `fn` (R418, R419); a record that no function
takes is answered whichever function is named. DEDUCED (notes/assumptions/91): after a host restart the ring is served when it
has been set up again (R422). -/
def serveEwc (fn : Nat) (s : State) (f : EwcRec → State) : State :=
  match s.ringOf s.fab.ewccmd with
  | none => s
  | some (base, logn) =>
    let q := s.ringHead base
    let r := s.ewcRec base logn q
    if s.fab.ewcWait.isSome ∨ !s.fab.ewcUp ∨ Memory.read s.mem base 4 = q then s
    else if s.agentBusy (ringRange base logn) ringNum then s.agentWait (ringRange base logn) (serviceAgent 0) ringNum
    else if r.seq ≠ q then s.ewcReply stSequence 0
    else if 5 < r.fn ∨ !r.flagsOk then s.ewcReply stRecord 0
    else if r.fn = fn then f r
    else s

/-- An argument of a record. -/
def EwcRec.arg (r : EwcRec) (i : Nat) : Nat := r.args.getD i 0

def execEwcNop (s : State) : Out := .next (serveEwc 0 s (fun r => s.ewcReply stOk (r.arg 0)))

/-- Both checks of R37 on a target in a process's space, made at once: its cause, if it fails. -/
def State.targetFault (s : State) (asid pc : Nat) : Option Nat :=
  if !pcOk pc then some 0x04
  else match s.walk asid (pc / 64 * 64) with
    | .error c => some c
    | .ok (big, e) =>
      if !leafGrants e rightX then some 0x11
      else if lineBtm (Memory.read s.mem (leafPa big e (pc / 64 * 64) + 60) 4) (pc % 64 / 12) then none
      else some 0x05

/-- LAUNCH: the supervisor opens a launch for the process that ARG1 names. A record that its wave could not read or
that would fault its `launch` is answered RECORD. The launch's first instructions follow what the ring's reader had observed
(R359). -/
def ewcLaunch (r : EwcRec) (s : State) : State :=
  let rs := s.procRanges 0 (r.arg 0) 64
  if s.agentBusy rs ringNum then s.agentWait rs (serviceAgent 0) ringNum
  else match (if r.arg 0 % 64 = 0 then s.procRead 0 (r.arg 0) 64 else none) with
  | none => s.ewcReply stRecord 0
  | some b =>
    let x := launchRec b
    let asid := r.arg 1 % 2 ^ 16
    if (s.launchHandles 0 x).isSome then s.ewcReply stRecord 0
    else if (Tbl.find s.procs asid).isNone then s.ewcReply stNotFound 0
    else if (s.targetFault asid x.entry).isSome then s.ewcReply stRecord 0
    else match s.launchStatus asid x (launchReserved b) with
      | some st => s.ewcReply st 0
      | none =>
        let y := s.openLaunch asid x (max (s.ewcTime ((s.ringOf s.fab.ewccmd).map (·.1) |>.getD 0)) (s.procTime 0 (r.arg 0) 64))
        y.1.ewcReply stOk (launchId asid y.2)

def execEwcLaunch (s : State) : Out := .next (serveEwc 1 s (fun r => ewcLaunch r s))
def execEwcLstat (s : State) : Out := .next (serveEwc 2 s (fun r => s.ewcReply stOk (s.lstatWord 0 (r.arg 0))))

/-- The payload of a SEND. -/
def EwcRec.payload (r : EwcRec) : List Byte := (bytesOf 8 (r.arg 2) ++ bytesOf 8 (r.arg 3)).take r.flags

/-- The message of a SEND goes to the port of a binding, with SENDER 0xFFFE. -/
def ewcSendTo (r : EwcRec) (b : Binding) (s : State) : State :=
  if b.pkg = 0xFFFE then
    match s.ringOf s.fab.ewcinb with
    | none => s.ewcReply stPeerLost 0
    | some (base, logn) =>
      if s.ringFull base logn then s.ewcReply stFull 0
      else (s.ringPut base logn 0x100 r.flags [b.index, r.arg 1, ofBytes (r.payload.take 8), ofBytes (r.payload.drop 8)]).ewcReply stOk 0
  else if b.pkg = s.fab.pkgNo then
    match Tbl.find s.objs b.index with
    | some o =>
      match o.body with
      | .port _ _ _ =>
        if o.gen ≠ b.gen then s.ewcReply stDead 0
        else if s.portFull b.index then s.ewcReply stFull 0
        else (s.append b.index { payload := r.payload, tag := BitVec.ofNat 64 (r.arg 1), pkg := 0xFFFE, asid := 0, grant := none, gva := 0
                                 pages := [], serial := 0
                                 time := s.ewcTime (((s.ringOf s.fab.ewccmd).map (·.1)).getD 0) }).ewcReply stOk 0
      | _ => s.ewcReply stDead 0
    | none => s.ewcReply stDead 0
  else if s.lost b.pkg then s.ewcReply stPeerLost 0
  else
    let n := s.nextId
    ({ s with nextId := n + 1, fab := { s.fab with ewcWait := some (.answer n) } } : State).sendOut 0 b.pkg n
      (.message b.index b.gen 0xFFFE 0 (BitVec.ofNat 64 (r.arg 1)) r.payload [] false)

/-- SEND: the name is resolved as `nslook` does (R412). -/
def ewcSend (r : EwcRec) (s : State) : State :=
  let name := r.arg 0
  match Tbl.find s.fab.pkgBind name, Tbl.find s.fab.hostBind name with
  | some b, _ => ewcSendTo r b s
  | none, some b => ewcSendTo r b s
  | none, none =>
    let h := s.holderOf name
    if h = s.fab.pkgNo then
      match Tbl.find s.fab.sysBind name with
      | some b => ewcSendTo r b s
      | none => s.ewcReply stNotFound 0
    else if s.lost h then s.ewcReply stPeerLost 0
    else
      let n := s.nextId
      ({ s with nextId := n + 1, fab := { s.fab with ewcWait := some (.lookup n) } } : State).sendOut 0 h n (.lookup (BitVec.ofNat 64 name))

def execEwcSend (s : State) : Out := .next (serveEwc 3 s (fun r => ewcSend r s))

/-- Binds a name to a host port in the host reach: the state and the status. -/
def State.hostBindTo (s : State) (name port : Nat) : State × Nat :=
  if name = 0 ∨ 1023 < port then (s, stRecord)
  else if (Tbl.find s.fab.hostBind name).isSome then (s, stExists)
  else ({ s with fab := { s.fab with hostBind := Tbl.put s.fab.hostBind name { pkg := 0xFFFE, index := port, gen := 0 } } }, stOk)

/-- Removes a name from the host reach. -/
def State.hostUnbind (s : State) (name : Nat) : State × Nat :=
  if (Tbl.find s.fab.hostBind name).isNone then (s, stNotFound)
  else ({ s with fab := { s.fab with hostBind := Tbl.del s.fab.hostBind name } }, stOk)

def execEwcHbind (s : State) : Out :=
  .next (serveEwc 4 s (fun r => let x := s.hostBindTo (r.arg 0) (r.arg 1); x.1.ewcReply x.2 0))
def execEwcHunbind (s : State) : Out :=
  .next (serveEwc 5 s (fun r => let x := s.hostUnbind (r.arg 0); x.1.ewcReply x.2 0))

/-! ## Answers from other packages (R406, R408, R410, R412) -/

/-- Traffic that asks for an answer. -/
def asksAnswer (b : RemoteBody) : Bool :=
  match b with
  | .message .. | .revoke _ | .lookup _ | .bind .. => true
  | _ => false

/-- An answer of package `pkg` to the traffic numbered `n` acknowledges that traffic and what its stream carried before
it (R406). -/
def State.ackUpTo (s : State) (pkg n : Nat) : State :=
  let q := s.fab.outbox.zip (List.range s.fab.outbox.length)
  match (q.filter (fun e => e.1.pkg == pkg && e.1.serial == n && asksAnswer e.1.body)).getLast? with
  | none => s
  | some (m, k) => { s with fab := { s.fab with
      outbox := q.map (fun e => if e.1.pkg = pkg ∧ e.1.die = m.die ∧ e.2 ≤ k then { e.1 with acked := true } else e.1) } }

/-- A call of this package that waits under a serial, if it is of a kind. -/
def State.waitingCall (s : State) (serial : Nat) (sel : CallOp → Bool) : Option Call :=
  (s.sentCall serial).filter (fun x => sel x.kind)

/-- The record at RHEAD of the command ring. -/
def State.ewcHead (s : State) : EwcRec :=
  match s.ringOf s.fab.ewccmd with
  | some (base, logn) => s.ewcRec base logn (s.ringHead base)
  | none => { seq := 0, fn := 0, flags := 0, args := [] }

/-- The answer to a `psend`, an `nsbind.sys` or a SEND. A port deleted meanwhile loses its new binding again. -/
def State.onAnswer (s : State) (m : RemoteMsg) (st : Nat) : State :=
  if s.fab.ewcWait = some (.answer m.serial) then s.ewcReply st 0
  else match s.sentCall m.serial with
    | none => s
    | some x =>
      match x.kind with
      | .psend w => s.psendAnswer x w st
      | .nsbind _ =>
        let idx := handleIdx x.a.toNat
        if st ≠ stOk then s.reply x 1 st
        else if (s.owned x.asid x.a.toNat).isNone then (s.sendOut (idx / 2 ^ 21) m.pkg 0 (.unbind x.b)).reply x 1 st
        else ({ s with fab := { s.fab with bound := s.fab.bound ++ [(x.b.toNat, idx, handleGen x.a.toNat, m.pkg)] } } : State).reply x 1 st
      | _ => s

/-- The answer to a lookup of an `nslook` or a SEND. -/
def State.onFound (s : State) (m : RemoteMsg) (b : Option (Nat × Nat × Nat)) : State :=
  let bind := b.map (fun x => ({ pkg := x.1, index := x.2.1, gen := x.2.2 } : Binding))
  if s.fab.ewcWait = some (.lookup m.serial) then
    match bind with
    | some y => ewcSendTo s.ewcHead y { s with fab := { s.fab with ewcWait := none } }
    | none => s.ewcReply stNotFound 0
  else match s.waitingCall m.serial (fun k => k == .nslook) with
    | none => s
    | some x => match bind with | some y => s.lookFound x y | none => s.reply x 2 (failWord stNotFound)

/-- The answer to a `grantrev`; without a call it is the notice that a grant is returned (R404). -/
def State.onRevoked (s : State) (m : RemoteMsg) (wasTaken : Bool) : State :=
  match s.waitingCall m.serial (fun k => k == .grantrev) with
  | some x => if wasTaken then s.reply x 1 stTaken else (s.returnSent m.serial).reply x 1 stOk
  | none => if wasTaken then s else s.returnSent m.serial

/-- A binding, a removal or a lookup at its holder (R412). -/
def State.atHolder (s : State) (m : RemoteMsg) : State :=
  match m.body with
  | .lookup name =>
    s.answerTo m (nameIndex name.toNat % 8) (.found ((Tbl.find s.fab.sysBind name.toNat).map (fun b => (b.pkg, b.index, b.gen))))
  | .bind name index gen =>
    let die := nameIndex name.toNat % 8
    if (Tbl.find s.fab.sysBind name.toNat).isSome then s.answerTo m die (.answer stExists)
    else ({ s with fab := { s.fab with sysBind := Tbl.put s.fab.sysBind name.toNat { pkg := m.pkg, index := index, gen := gen } } } : State).answerTo m
      die (.answer stOk)
  | .unbind name =>
    match Tbl.find s.fab.sysBind name.toNat with
    | some b => if b.pkg = m.pkg then { s with fab := { s.fab with sysBind := Tbl.del s.fab.sysBind name.toNat } } else s
    | none => s
  | _ => s

/-- R406: traffic of a stream is delivered in the order in which it was sent. Messages, revocations and TAKEN notices
then take effect in steps of their own, and what its stream carries after them is taken when they have. -/
def flitArrival (m : RemoteMsg) (s : State) : State :=
  let key := streamOf m.pkg m.die
  if !s.linkOn m.pkg m.die || m.seq != Tbl.getD s.fab.inSeq key 0 then s
  else
    let s1 : State := { s with fab := { s.fab with inSeq := Tbl.put s.fab.inSeq key (m.seq + 1) } }
    let later : Bool := s.fab.arrived.any (fun x => x.pkg == m.pkg && x.die == m.die)
    match m.body with
    | .message .. | .revoke _ | .taken => { s1 with fab := { s1.fab with arrived := s1.fab.arrived ++ [m] } }
    | body => if later then s else match body with
    | .message .. | .revoke _ | .taken => s
    | .answer st => (s1.ackUpTo m.pkg m.serial).onAnswer m st
    | .room => s1.roomFor m.serial
    | .revoked t => (s1.ackUpTo m.pkg m.serial).onRevoked m t
    | .found b => (s1.ackUpTo m.pkg m.serial).onFound m b
    | .lookup _ | .bind .. | .unbind _ => s1.atHolder m

def execFlitArrival (msg : RemoteMsg) (s : State) : Out := .next (flitArrival msg s)

/-! ## Loss of a package (R407) -/

/-- The serials of the calls sent to a package. -/
def State.sentTo (s : State) (pkg : Nat) : List Nat := (s.fab.outbox.filter (fun e => e.pkg == pkg && asksAnswer e.body)).map (·.serial)

/-- An outstanding call to a lost package completes. -/
def State.loseCall (s : State) (x : Call) : State :=
  match x.kind with
  | .psend w => s.psendAnswer x w stPeerLost
  | .sendEnd g _ (some _) =>
    { s with calls := s.calls.map (fun (y : Call) => if y.id = x.id then { y with kind := .sendEnd g stPeerLost none } else y) }
  | .grantrev => (match x.sent with | some n => s.returnSent n | none => s).reply x 1 stOk
  | .nslook => s.reply x 2 (failWord stPeerLost)
  | .nsbind _ => s.reply x 1 stPeerLost
  | _ => s

/-- Calls that wait to replay complete with PEER_LOST instead. -/
def State.loseWaiters (s : State) (sel : WaitOn → Bool) : State :=
  { s with waiters := s.waiters.map (fun w => if sel w.on then { w with on := .lost, fired := some 0 } else w) }

/-- Every proxy of a package becomes DEAD (R330). -/
def State.killProxies (s : State) (pkg : Nat) : State :=
  (s.objs.filter (fun (e : Nat × Obj) => match e.2.body with | .proxy p _ _ _ _ => p == pkg | _ => false)).foldl (fun t e => t.killProxy e.1) s

/-- Sends that have been issued and not performed, through a proxy of package `pkg`, are outstanding when it is lost or restarts:
they complete with PEER_LOST (R407, R422). -/
def State.markLost (s : State) (pkg : Nat) : State :=
  { s with calls := s.calls.map (fun (x : Call) => match x.kind with
      | .psend _ => (match (s.owned x.asid x.a.toNat).map (fun (o : Obj) => o.body) with
        | some (.proxy p _ _ _ _) => if p = pkg then { x with lost := true } else x
        | _ => x)
      | _ => x) }

/-- A package becomes unreachable: the outcomes of R407. A send whose pages are still being taken ends with its
shootdown. -/
def State.losePackage (s : State) (pkg : Nat) : State :=
  let ns := s.sentTo pkg
  let s1 := (s.calls.filter (fun (x : Call) => match x.sent, x.kind with
    | some n, _ => ns.contains n
    | none, .sendEnd _ _ (some (n, _)) => ns.contains n
    | none, _ => false)).foldl State.loseCall (s.markLost pkg)
  let s2 := (s1.loseWaiters (fun w => match w with | .room n => ns.contains n | _ => false)).killProxies pkg
  let s3 := (s2.fab.sent.filter (fun e => e.2.pkg == pkg && !s2.shoots.any (fun h => h.call == some e.1))).foldl (fun t e => t.returnSent e.1) s2
  let s4 : State := { s3 with fab := { s3.fab with
    sysBind := s3.fab.sysBind.filter (fun e => e.2.pkg != pkg)
    notes := s3.fab.notes.filter (fun n => n.2.1 != pkg) } }
  match s4.fab.ewcWait with
  | some (.lookup n) | some (.answer n) => if ns.contains n then s4.ewcReply stPeerLost 0 else s4
  | none => s4

/-- A stream to a package has held traffic that is not known to be acknowledged for 2,000,000 cycles. -/
def State.stalled (s : State) (pkg : Nat) : Bool :=
  s.fab.outbox.any (fun e => e.pkg == pkg && !e.acked && decide (e.at_ + 2000000 ≤ s.clock))

/-- R407: a stream to a package has held unacknowledged flits for 2,000,000 cycles. Whether a flit has been acknowledged
lies below the flit (R403): the event says that it has not, of traffic that no answer acknowledges. -/
def execStreamTimeout (pkg : Nat) (s : State) : Out :=
  if s.lost pkg || !s.stalled pkg then .next s
  else .next (({ s with fab := { s.fab with unreachable := s.fab.unreachable ++ [pkg] } } : State).losePackage pkg)

/-! ## The host (R413 to R416, R421, R422) -/

/-- A request for a host page that is not yet performed: of host memory, or of the device-shared region, which only
windows lead to. -/
def State.hostWaiting (s : State) (r : Req) : Bool :=
  r.waits && (r.place == .host || (r.place == .mem && r.pageKind == 0 && decide (s.sharedBase ≤ r.addr) && decide (s.fab.sharedSize ≠ 0)))

/-- Device accesses to host pages that are not performed fault HOST_GONE. -/
def State.failHostReqs (s : State) : State :=
  (s.reqs.filter s.hostWaiting).foldl (fun t r => match t.req? r.id with | some x => t.failReq x 0x19 | none => t) s

/-- The watches on host pages fire (R262). -/
def State.fireHostWatches (s : State) : State :=
  { s with watches := s.watches.map (fun w =>
      if w.host || (decide (s.sharedBase ≤ w.line * 128) && decide (s.fab.sharedSize ≠ 0)) then { w with fired := true } else w) }

/-- Waves whose lanes have been woken to replay a send to the host and have not issued it again: it is a call with the host that is
outstanding at the restart (R422). -/
def Wave.loseReplays (w : Wave) : Wave := { w with replays := w.replays.map (fun e => (e.1, e.2.1, true)) }

/-- The same, on cores and in frames. -/
def State.loseReplays (s : State) : State :=
  { s with
    cores := s.cores.map (fun e => (e.1, { e.2 with waves := e.2.waves.map (fun w => (w.1, w.2.loseReplays)) }))
    frames := s.frames.map (fun e => (e.1, { e.2 with engine := e.2.engine.map (fun g =>
      { g with statics := g.statics.map (fun w => (w.1, w.2.loseReplays)) }) })) }

/-- No access waits any longer for an answer of the host. -/
def State.unlodge (s : State) : State :=
  { s with
    calls := s.calls.map (fun (x : Call) => { x with lodged := none })
    cores := s.cores.map (fun e => (e.1, { e.2 with cmds := e.2.cmds.map (fun x => (x.1, { x.2 with lodged := none })) })) }

/-- A host warm restart, in the order of R422. The command ring's record in service is given up with it. -/
def State.warmRestart (s : State) : State :=
  let s1 : State := { s with fab := { s.fab with epoch := s.fab.epoch + 1, ewcWait := none, ewcUp := false } }
  let s2 := (((s1.failHostReqs.dropFences).unlodge).fireHostWatches).markLost 0xFFFE
  let s3 := (s2.killProxies 0xFFFE).loseReplays
  let s4 : State := { s3 with fab := { s3.fab with hostBind := [] } }
  (s4.loseWaiters (fun w => w == .ring 0xFFFE)).signal s4.fab.restartCtr.toNat 1 s4.outTime

/-- The request, call or copy command numbered `n` has an access with the host that stands unanswered too long. -/
def State.hostLate (s : State) (n : Nat) : Bool :=
  s.reqs.any (fun r => r.id == n && r.place == .host && r.waits && s.overdue r.lodged)
    || s.calls.any (fun x => x.id == n && s.overdue x.lodged)
    || s.cores.any (fun e => match Tbl.find e.2.cmds n with | some x => s.overdue x.lodged | none => false)

/-- R415: a host access that is unanswered 1,000,000 cycles after Lodestar's issue of it is a warm restart. -/
def execHostAccessTimeout (req : Nat) (s : State) : Out := .next (if s.hostLate req then s.warmRestart else s)

/-- R421: a CXL hot reset, or the loss of link, on every port that is up. -/
def execCxlLinkLoss (s : State) : Out :=
  if s.fab.portsUp.isEmpty then .next s
  else .next ({ s with fab := { s.fab with portsUp := [] } } : State).warmRestart

/-- The package runs, in full operation or in the bring-up service; otherwise it shows its configuration space alone (R432). -/
def State.booted (s : State) : Bool := s.svc.boot == .running || s.svc.boot == .bringup

/-- R421: a write of 1 to EWCCTL.RESTART. -/
def execEwcctlRestart (s : State) : Out := .next (if s.fab.portsUp.isEmpty || !s.booted then s else s.warmRestart)

/-- The link of a host port is lost; that of the last port that is up is a warm restart (R421). -/
def State.portDown (s : State) (port : Nat) : State :=
  if (Tbl.find s.fab.portsUp port).isNone then s
  else
    let s1 : State := { s with fab := { s.fab with portsUp := Tbl.del s.fab.portsUp port } }
    if s1.fab.portsUp.isEmpty then s1.warmRestart else s1

/-- R413: a host port trains, at most x16 at 64 GT/s; port 0 alone in the bring-up service (Table 17-5). A width of 0 is the loss of
the port's link. -/
def execCxlLinkUp (port rate width : Nat) (s : State) : Out :=
  if width = 0 then .next (s.portDown port)
  else if port < 2 ∧ 0 < rate ∧ rate ≤ 64 ∧ 0 < width ∧ width ≤ 16 ∧ (s.svc.boot ≠ .bringup ∨ port = 0) ∧ !s.svc.stopped then
    .next { s with fab := { s.fab with portsUp := Tbl.put s.fab.portsUp port (rate, width) } }
  else .next s

/-- The answer to a DOE request (R413, R431). DESIGN CHOICE (notes/assumptions/92): kind 1 is SPDM, which reads the package
identity, and kind 0 CDAT, whose bytes the spec leaves open; no other kind is answered. -/
def State.doeAnswer (s : State) (kind : Nat) : Option (List Byte × State) :=
  match kind with
  | 0 =>
    let n := (Config.freeWord s.freeCtr).toNat % 4096
    some (areaBytes (s.freeCtr + 1) n, { s with freeCtr := s.freeCtr + 1 + n })
  | 1 => some (s.svc.identity, s)
  | _ => none

/-- R431: a DOE request of the host is taken and answered. -/
def execDoeRequest (port kind : Nat) (s : State) : Out :=
  if (Tbl.find s.fab.portsUp port).isSome && s.booted then
    match s.doeAnswer kind with
    | some (b, t) => .next { t with fab := { t.fab with doeAnswered := t.fab.doeAnswered ++ [(port, kind, b)] } }
    | none => .next s
  else .next s

/-- The range lies in the device-shared region. -/
def State.inShared (s : State) (off n : Nat) : Bool := decide (off + n ≤ s.fab.sharedSize)

/-- Bytes of the region that the host reads: none for the poisoned response (R426, R429). -/
def State.hostRead (s : State) (off n : Nat) : List Byte :=
  let a := s.sharedBase + off
  if !s.inShared off n || s.poisonAt 0 .mem a n then []
  else Memory.bytes s.mem a n

/-- The host's writes follow whatever has left the package before them (R416). -/
def State.hostWrote (s : State) (host : Bool) (a n : Nat) : State :=
  (List.range ((a % 128 + n + 127) / 128)).foldl (fun t i => t.noteStrict host (a + 128 * i) s.outTime) s

/-- The Acolaotte DVSEC as the host reads it (Table 16-2, R432): reserved bits and EWCCTL.RESTART read as 0 (R7), a
package that has failed shows the status word alone, and one in reset nothing. -/
def State.dvsecRead (s : State) (off : Nat) : Option DWord :=
  if off = 0x28 then
    match s.svc.boot with
    | .running => some 0
    | .bringup => some (BitVec.ofNat 64 (1 + 256 * (s.svc.failingCheck % 256)))
    | .failed => some (BitVec.ofNat 64 (2 + 256 * (s.svc.failingCheck % 256)))
    | .held => none
  else if !s.booted then none
  else if off = 0x10 then some (s.fab.ewccmd &&& 0xFFFFFFF0F1)
  else if off = 0x18 then some (s.fab.ewcinb &&& 0xFFFFFFF0F1)
  else if off = 0x20 then some (BitVec.ofNat 64 (s.fab.epoch % 2 ^ 32 * 2 ^ 32))
  else none

/-- Lodestar's access for the host to n bytes of the device-shared region: it waits its turn at a locked line (R218). -/
def State.hostRegion (s : State) (acc : HostAccess) (off n : Nat) (f : State → State) : State :=
  let rs := if s.inShared off n then [(s.sharedBase + off, n)] else []
  match s.fab.hostQ.find? (fun x => x.acc == acc) with
  | some x => s.asAgent rs lodestarAgent x.id (fun t => f { t with fab := { t.fab with hostQ := t.fab.hostQ.filter (fun y => y.id != x.id) } })
  | none =>
    if s.agentBusy rs s.nextId then
      ({ s with nextId := s.nextId + 1, fab := { s.fab with hostQ := s.fab.hostQ ++ [{ id := s.nextId, acc := acc }] } } : State).agentWait rs
        lodestarAgent s.nextId
    else f s

/-- Bytes answered to the host. -/
def State.hostGets (s : State) (bs : List Byte) : State := { s with fab := { s.fab with hostReads := s.fab.hostReads ++ [bs] } }

/-- R416, R421: a host access is performed; a write to the inbox's RHEAD may make room in it (R420), and
a write of 1 to EWCCTL.RESTART is a warm restart. The host's stores to its own memory need no port. What a port's other
configuration space holds is left open. -/
def hostCxlMemAccess (acc : HostAccess) (s : State) : State :=
  let up := !s.fab.portsUp.isEmpty
  match acc with
  | .readShared off n => if up then s.hostRegion acc off n (fun t => t.hostGets (t.hostRead off n)) else s
  | .writeShared off bs =>
    if up && s.inShared off bs.length then
      s.hostRegion acc off bs.length (fun t =>
        ((t.homeBytes (t.sharedBase + off) bs).hostWrote false (t.sharedBase + off) bs.length).poke (.ring 0xFFFE))
    else s
  | .writeHost a bs =>
    (((List.range ((a % 128 + bs.length + 127) / 128)).foldl (fun (t : State) i => t.touchLine true (lineNo a + i))
      { s with hostMem := Memory.setBytes s.hostMem a bs })).hostWrote true a bs.length
  | .readReg off =>
    (match s.dvsecRead off with
    | some v => if up then s.hostGets (bytesOf 8 v.toNat) else s
    | none => s)
  | .writeReg off v =>
    -- every field but EWCCTL.RESTART is RO or RSV: its write is ignored (R7)
    if up ∧ off = 0x20 ∧ v.getLsbD 0 ∧ (s.dvsecRead off).isSome then s.warmRestart else s
  | .readConfig port _ =>
    if (Tbl.find s.fab.portsUp port).isSome && s.svc.boot != .held then
      ({ s with freeCtr := s.freeCtr + 1 } : State).hostGets (bytesOf 8 (Config.freeWord s.freeCtr).toNat)
    else s

def execHostCxlMemAccess (acc : HostAccess) (s : State) : Out := .next (hostCxlMemAccess acc s)

end Sys2Proof.Machine
end

