-- ==== Sys2Proof/Machine/FloatAlu.lean ====
section
/-! DEFINITION. The floating-point and conversion instructions (opcodes 0x40 to 0x57, R173 to R189). Each computes in
its passing lanes, or once under S = 1; results are written, and flags raised, at t + L − 1. -/

namespace Sys2Proof.Machine

/-! ## Operands (R174) and results -/

/-- Operands a, b and c of a scalar floating-point instruction after ABS and NEG. -/
def fltA (o : FmtA) (k : Ctx) (l : Nat) : Nat := (fmtOf o.ty).modify o.absA o.negA (k.opnd o.a o.ty l)
def fltB (o : FmtA) (k : Ctx) (l : Nat) : Nat := (fmtOf o.ty).modify o.absB o.negB (k.opnd o.b o.ty l)
def fltC (o : FmtA) (k : Ctx) (l : Nat) : Nat := (fmtOf o.ty).modify o.absC o.negC (k.opnd o.c o.ty l)

/-- ABS and NEG on both elements of a packed pair (R186). -/
def modify2 (f : FFmt) (abs neg : Bool) (x : Nat) : Nat :=
  f.modify abs neg (x % 2 ^ 16) + 2 ^ 16 * f.modify abs neg (fieldOf x 16 16)

/-- A fixed-latency floating-point result: n registers per lane and the union of the lanes' flags (R176). -/
def fltOut (k : Ctx) (d : Opnd) (sc : Bool) (n : Nat) (cls : Cls) (f : Nat → FRes) (s : State) : State :=
  let xs := (k.compute sc).map (fun l => (l, f l))
  fixed k cls.latency
    { writesAt d n (xs.map (fun e => (e.1, e.2.bits))) with fl := xs.foldl (fun m e => m ||| e.2.fl) 0 } s

/-- A binary operation in its two formats. -/
def fltBinA (o : FmtA) (c32 c64 : Cls) (f : FFmt → Rnd → Bool → Nat → Nat → FRes) (k : Ctx) (s : State) : State :=
  fltOut k o.d o.s o.ty.regs (clsF o.ty c32 c64) (fun l => f (fmtOf o.ty) o.rnd o.sat (fltA o k l) (fltB o k l)) s
def fltBinI (o : FmtI) (f : FFmt → Rnd → Bool → Nat → Nat → FRes) (k : Ctx) (s : State) : State :=
  fltOut k o.d o.s o.ty.regs (clsF o.ty .f .f64)
    (fun l => f (fmtOf o.ty) .rne false (k.opnd o.a o.ty l) (immAt o.ty o.imm)) s

/-! ## Arithmetic (R177 to R181) -/

def execFadd (h : Hdr) (o : FmtA) (s : State) : Out := issue (.fadd h o) s (fltBinA o .f .f64 FFmt.add)
def execFaddImm (h : Hdr) (o : FmtI) (s : State) : Out := issue (.faddImm h o) s (fltBinI o FFmt.add)
def execFsub (h : Hdr) (o : FmtA) (s : State) : Out := issue (.fsub h o) s (fltBinA o .f .f64 FFmt.sub)
def execFsubImm (h : Hdr) (o : FmtI) (s : State) : Out := issue (.fsubImm h o) s (fltBinI o FFmt.sub)
def execFmul (h : Hdr) (o : FmtA) (s : State) : Out := issue (.fmul h o) s (fltBinA o .f .f64 FFmt.mul)
def execFmulImm (h : Hdr) (o : FmtI) (s : State) : Out := issue (.fmulImm h o) s (fltBinI o FFmt.mul)
def execFfma (h : Hdr) (o : FmtA) (s : State) : Out :=
  issue (.ffma h o) s (fun k => fltOut k o.d o.s o.ty.regs (clsF o.ty .f .f64) (fun l =>
    (fmtOf o.ty).fma o.rnd o.sat (fltA o k l) (fltB o k l) (fltC o k l)))
def execFdiv (h : Hdr) (o : FmtA) (s : State) : Out := issue (.fdiv h o) s (fltBinA o .td .td FFmt.div)
def execFsqrt (h : Hdr) (o : FmtA) (s : State) : Out :=
  issue (.fsqrt h o) s (fun k => fltOut k o.d o.s o.ty.regs (clsF o.ty .t .td) (fun l =>
    (fmtOf o.ty).sqrt o.rnd o.sat (fltA o k l)))

/-- The lesser or greater operand, which no rounding or saturation touches. -/
def lesserF (f : FFmt) (_ : Rnd) (_ : Bool) (a b : Nat) : FRes := f.minmax false a b
def greaterF (f : FFmt) (_ : Rnd) (_ : Bool) (a b : Nat) : FRes := f.minmax true a b

def execFmin (h : Hdr) (o : FmtA) (s : State) : Out := issue (.fmin h o) s (fltBinA o .f .f64 lesserF)
def execFminImm (h : Hdr) (o : FmtI) (s : State) : Out := issue (.fminImm h o) s (fltBinI o lesserF)
def execFmax (h : Hdr) (o : FmtA) (s : State) : Out := issue (.fmax h o) s (fltBinA o .f .f64 greaterF)
def execFmaxImm (h : Hdr) (o : FmtI) (s : State) : Out := issue (.fmaxImm h o) s (fltBinI o greaterF)

def execFscale (h : Hdr) (o : FmtA) (s : State) : Out :=
  issue (.fscale h o) s (fun k => fltOut k o.d o.s o.ty.regs (clsF o.ty .f .f64) (fun l =>
    (fmtOf o.ty).scale o.rnd o.sat (fltA o k l) (sintOf 32 (k.u32 o.b l))))
def execFscaleImm (h : Hdr) (o : FmtI) (s : State) : Out :=
  issue (.fscaleImm h o) s (fun k => fltOut k o.d o.s o.ty.regs (clsF o.ty .f .f64) (fun l =>
    (fmtOf o.ty).scale .rne false (k.opnd o.a o.ty l) (sintOf 32 o.imm.toNat)))
def execFrnd (h : Hdr) (o : FmtA) (s : State) : Out :=
  issue (.frnd h o) s (fun k => fltOut k o.d o.s o.ty.regs (clsF o.ty .f .f64) (fun l =>
    (fmtOf o.ty).integral o.rnd (fltA o k l)))

/-! ## Compare and classify (R182, R183) -/

/-- The predicate of a comparison and the union of the lanes' flags. -/
def fcmpOut (k : Ctx) (t : Ty) (pd : BitVec 3) (f : Nat → Bool × BitVec 6) (s : State) : State :=
  let xs := (lanesOf k.pass).map (fun l => (l, f l))
  fixed k (clsF t .f .f64).latency
    { PWrite.nil with p := predAt pd (xs.map (fun e => (e.1, e.2.1))), fl := xs.foldl (fun m e => m ||| e.2.2) 0 } s

def execFcmp (h : Hdr) (o : FmtA) (s : State) : Out :=
  issue (.fcmp h o) s (fun k => fcmpOut k o.ty o.pd (fun l =>
    let r := (fmtOf o.ty).cmp o.sub.toNat (fltA o k l) (fltB o k l)
    (r.1 && k.p o.ps.toNat l, r.2)))
def execFcmpImm (h : Hdr) (o : FmtI) (s : State) : Out :=
  issue (.fcmpImm h o) s (fun k => fcmpOut k o.ty o.pd (fun l =>
    (fmtOf o.ty).cmp o.sub.toNat (k.opnd o.a o.ty l) (immAt o.ty o.imm)))
def execFclass (h : Hdr) (o : FmtA) (s : State) : Out :=
  issue (.fclass h o) s (fun k => fltOut k o.d o.s 1 (clsF o.ty .f .f64) (fun l =>
    ⟨(fmtOf o.ty).classOf (k.opnd o.a o.ty l), 0⟩))

/-! ## Approximated functions (R184, R185) -/

def fltFn (o : FmtA) (fn : Fn) (k : Ctx) (s : State) : State :=
  fltOut k o.d o.s o.ty.regs (clsF o.ty .t .td) (fun l => fn.eval o.ty o.sat (fltA o k l)) s

def execFrcp (h : Hdr) (o : FmtA) (s : State) : Out := issue (.frcp h o) s (fltFn o .rcp)
def execFrsq (h : Hdr) (o : FmtA) (s : State) : Out := issue (.frsq h o) s (fltFn o .rsq)
def execFexp2 (h : Hdr) (o : FmtA) (s : State) : Out := issue (.fexp2 h o) s (fltFn o .exp2)
def execFlog2 (h : Hdr) (o : FmtA) (s : State) : Out := issue (.flog2 h o) s (fltFn o .log2)
def execFsin (h : Hdr) (o : FmtA) (s : State) : Out := issue (.fsin h o) s (fltFn o .sin)
def execFcos (h : Hdr) (o : FmtA) (s : State) : Out := issue (.fcos h o) s (fltFn o .cos)
def execFtanh (h : Hdr) (o : FmtA) (s : State) : Out := issue (.ftanh h o) s (fltFn o .tanh)

/-! ## Packed pairs, dot products (R186, R187) -/

/-- The element format of a packed type. -/
def pairFmt (t : Ty) : FFmt := if t = .bf16x2 then fmtOf .bf16 else fmtOf .f16

/-- A packed operation on operands after their modifiers. -/
def packedOut (o : FmtA) (op : FFmt → Rnd → Bool → Nat → Nat → Nat → FRes) (k : Ctx) (s : State) : State :=
  let f := pairFmt o.ty
  fltOut k o.d o.s 1 .f (fun l =>
    pairOp (op f o.rnd o.sat) (modify2 f o.absA o.negA (k.opnd o.a o.ty l)) (modify2 f o.absB o.negB (k.opnd o.b o.ty l))
      (modify2 f o.absC o.negC (k.opnd o.c o.ty l))) s
def packedOutI (o : FmtI) (op : FFmt → Rnd → Bool → Nat → Nat → Nat → FRes) (k : Ctx) (s : State) : State :=
  fltOut k o.d o.s 1 .f (fun l => pairOp (op (pairFmt o.ty) .rne false) (k.opnd o.a o.ty l) (immAt o.ty o.imm) 0) s

def add2 (f : FFmt) (m : Rnd) (sat : Bool) (a b _c : Nat) : FRes := f.add m sat a b
def mul2 (f : FFmt) (m : Rnd) (sat : Bool) (a b _c : Nat) : FRes := f.mul m sat a b

def execHadd2 (h : Hdr) (o : FmtA) (s : State) : Out := issue (.hadd2 h o) s (packedOut o add2)
def execHadd2Imm (h : Hdr) (o : FmtI) (s : State) : Out := issue (.hadd2Imm h o) s (packedOutI o add2)
def execHmul2 (h : Hdr) (o : FmtA) (s : State) : Out := issue (.hmul2 h o) s (packedOut o mul2)
def execHmul2Imm (h : Hdr) (o : FmtI) (s : State) : Out := issue (.hmul2Imm h o) s (packedOutI o mul2)
def execHfma2 (h : Hdr) (o : FmtA) (s : State) : Out := issue (.hfma2 h o) s (packedOut o FFmt.fma)

/-- The format in which `dot4` reads b: the other FP8 format under `.mx` (R187). -/
def dot4Fmt (t : Ty) (mx : Bool) : FFmt := if mx then (if t = .e4m3 then fmtOf .e5m2 else fmtOf .e4m3) else fmtOf t

/-- The type of c and d of `dot4` (R187). -/
def dot4Ty (t : Ty) : Ty := if t.float then .f32 else if t.signed then .i32 else .n32

/-- `dot4` (R187). DESIGN CHOICE (notes/assumptions/49): a constant as a or b is the 32-bit word that the constant is at
TYPE, read as four elements, in `.mx` those of the other format. -/
def dot4Body (o : FmtA) (k : Ctx) (s : State) : State :=
  fltOut k o.d o.s 1 .f (fun l =>
    let a := k.opnd o.a o.ty l
    let b := k.opnd o.b o.ty l
    let c := k.opnd o.c (dot4Ty o.ty) l
    if o.ty.float then dot4Float (fmtOf o.ty) (dot4Fmt o.ty (o.sub == 1)) o.rnd o.sat a b c
    else ⟨dot4Int o.ty o.sat a b c, 0⟩) s

def execDot4 (h : Hdr) (o : FmtA) (s : State) : Out := issue (.dot4 h o) s (dot4Body o)

/-! ## Conversions (R188, R189) -/

/-- One source of `cvt` after ABS and NEG, which apply to floating-point sources. -/
def cvtIn (src : Ty) (abs neg : Bool) (x : Nat) : Nat := if src.isInt then x else (fmtOf src).modify abs neg x

def cvtBody (o : FmtA) (k : Ctx) (s : State) : State :=
  let src := cvtSrc o.c
  let cls : Cls := if src = .f64 ∨ o.ty = .f64 then .f64 else .f
  fltOut k o.d o.s o.ty.regs cls (fun l =>
    let a := cvtIn src o.absA o.negA (k.opnd o.a src l)
    if o.ty = .f16x2 ∨ o.ty = .bf16x2 then
      let t : Ty := if o.ty = .f16x2 then .f16 else .bf16
      let x := cvtRes t src o.rnd o.sat a
      let y := cvtRes t src o.rnd o.sat (cvtIn src o.absB o.negB (k.opnd o.b src l))
      ⟨x.bits + 2 ^ 16 * y.bits, x.fl ||| y.fl⟩
    else cvtRes o.ty src o.rnd o.sat a) s

def execCvt (h : Hdr) (o : FmtA) (s : State) : Out := issue (.cvt h o) s (cvtBody o)

end Sys2Proof.Machine
end

