-- ==== Sys2Proof/Machine/IntAlu.lean ====
section
/-! DEFINITION. The integer, address and predicate instructions (opcodes 0x00 to 0x27, chapter 06). Each computes in
its passing lanes, or once under S = 1, and its results are written at t + L − 1. -/

namespace Sys2Proof.Machine

/-- A fixed-latency result of n registers, computed per lane. -/
def aluOut (k : Ctx) (d : Opnd) (sc : Bool) (n : Nat) (cls : Cls) (f : Nat → Nat) (s : State) : State :=
  fixed k cls.latency (writesAt d n ((k.compute sc).map (fun l => (l, f l)))) s

/-- A fixed-latency result with a predicate (R137). -/
def aluPred (k : Ctx) (d : Opnd) (sc : Bool) (n : Nat) (cls : Cls) (pd : BitVec 3) (f : Nat → Nat × Bool) (s : State) :
    State :=
  let xs := (k.compute sc).map (fun l => (l, f l))
  fixed k cls.latency
    { writesAt d n (xs.map (fun e => (e.1, e.2.1))) with p := predAt pd (xs.map (fun e => (e.1, e.2.2))) } s

/-- A predicate result alone. -/
def predOut (k : Ctx) (cls : Cls) (pd : BitVec 3) (f : Nat → Bool) (s : State) : State :=
  fixed k cls.latency { PWrite.nil with p := predAt pd ((lanesOf k.pass).map (fun l => (l, f l))) } s

/-- Two typed operands of format A. -/
def opA (o : FmtA) (k : Ctx) (l : Nat) : Nat × Nat := (k.opnd o.a o.ty l, k.opnd o.b o.ty l)

/-- The operand and the widened immediate of format I. -/
def opI (o : FmtI) (k : Ctx) (l : Nat) : Nat × Nat := (k.opnd o.a o.ty l, immAt o.ty o.imm)

/-- Two operands and one typed result. -/
def binA (o : FmtA) (c32 c64 : Cls) (f : Nat → Nat → Nat) (k : Ctx) (s : State) : State :=
  aluOut k o.d o.s o.ty.regs (clsI o.ty c32 c64) (fun l => f (opA o k l).1 (opA o k l).2) s
def binI (o : FmtI) (c32 c64 : Cls) (f : Nat → Nat → Nat) (k : Ctx) (s : State) : State :=
  aluOut k o.d o.s o.ty.regs (clsI o.ty c32 c64) (fun l => f (opI o k l).1 (opI o k l).2) s

/-- One operand and a result of n registers. -/
def unA (o : FmtA) (n : Nat) (c32 c64 : Cls) (f : Nat → Nat) (k : Ctx) (s : State) : State :=
  aluOut k o.d o.s n (clsI o.ty c32 c64) (fun l => f (k.opnd o.a o.ty l)) s

/-! ## add, addc, sub, subb (R140) -/

def addBodyA (subtract carry : Bool) (o : FmtA) (k : Ctx) (s : State) : State :=
  aluPred k o.d o.s o.ty.regs (clsI o.ty .i1 .i2) o.pd
    (fun l => addSub subtract o.ty o.sat (opA o k l).1 (opA o k l).2 (bitOf (carry && k.p o.ps.toNat l))) s

def addBodyI (subtract carry : Bool) (o : FmtI) (k : Ctx) (s : State) : State :=
  aluPred k o.d o.s o.ty.regs (clsI o.ty .i1 .i2) o.pd
    (fun l => addSub subtract o.ty false (opI o k l).1 (opI o k l).2 (bitOf (carry && k.p o.pd.toNat l))) s

def execAdd (h : Hdr) (o : FmtA) (s : State) : Out := issue (.add h o) s (addBodyA false false o)
def execAddImm (h : Hdr) (o : FmtI) (s : State) : Out := issue (.addImm h o) s (addBodyI false false o)
def execAddc (h : Hdr) (o : FmtA) (s : State) : Out := issue (.addc h o) s (addBodyA false true o)
def execAddcImm (h : Hdr) (o : FmtI) (s : State) : Out := issue (.addcImm h o) s (addBodyI false true o)
def execSub (h : Hdr) (o : FmtA) (s : State) : Out := issue (.sub h o) s (addBodyA true false o)
def execSubImm (h : Hdr) (o : FmtI) (s : State) : Out := issue (.subImm h o) s (addBodyI true false o)
def execSubb (h : Hdr) (o : FmtA) (s : State) : Out := issue (.subb h o) s (addBodyA true true o)
def execSubbImm (h : Hdr) (o : FmtI) (s : State) : Out := issue (.subbImm h o) s (addBodyI true true o)

/-! ## mul, mulh, mad (R141) -/

def execMul (h : Hdr) (o : FmtA) (s : State) : Out :=
  issue (.mul h o) s (binA o .im .im64 (fun a b => narrow o.ty o.sat (intVal o.ty a * intVal o.ty b)))
def execMulImm (h : Hdr) (o : FmtI) (s : State) : Out :=
  issue (.mulImm h o) s (binI o .im .im64 (fun a b => narrow o.ty false (intVal o.ty a * intVal o.ty b)))
def execMulh (h : Hdr) (o : FmtA) (s : State) : Out := issue (.mulh h o) s (binA o .im .im64 (mulHigh o.ty))
def execMulhImm (h : Hdr) (o : FmtI) (s : State) : Out := issue (.mulhImm h o) s (binI o .im .im64 (mulHigh o.ty))
def execMad (h : Hdr) (o : FmtA) (s : State) : Out :=
  issue (.mad h o) s (fun k => aluOut k o.d o.s o.ty.regs (clsI o.ty .im .im64) (fun l =>
    narrow o.ty o.sat (intVal o.ty (opA o k l).1 * intVal o.ty (opA o k l).2 + intVal o.ty (k.opnd o.c o.ty l))))

/-! ## div, rem (R142) -/

/-- Cycles from the issue of a division to its completion. -/
def divCycles (t : Ty) : Nat := if t.wide then 34 else 18

def divOut (d : Opnd) (sc : Bool) (t : Ty) (f : Nat → Nat) (k : Ctx) (s : State) : State :=
  tokenWrite k (k.clock + divCycles t) true (writesAt d t.regs ((k.compute sc).map (fun l => (l, f l)))) s

def execDiv (h : Hdr) (o : FmtA) (s : State) : Out :=
  issue (.div h o) s (fun k => divOut o.d o.s o.ty (fun l => (divRem o.ty (opA o k l).1 (opA o k l).2).1) k)
def execDivImm (h : Hdr) (o : FmtI) (s : State) : Out :=
  issue (.divImm h o) s (fun k => divOut o.d o.s o.ty (fun l => (divRem o.ty (opI o k l).1 (opI o k l).2).1) k)
def execRem (h : Hdr) (o : FmtA) (s : State) : Out :=
  issue (.rem h o) s (fun k => divOut o.d o.s o.ty (fun l => (divRem o.ty (opA o k l).1 (opA o k l).2).2) k)
def execRemImm (h : Hdr) (o : FmtI) (s : State) : Out :=
  issue (.remImm h o) s (fun k => divOut o.d o.s o.ty (fun l => (divRem o.ty (opI o k l).1 (opI o k l).2).2) k)

/-! ## min, max, abs, neg (R143) -/

def execMin (h : Hdr) (o : FmtA) (s : State) : Out := issue (.min h o) s (binA o .i1 .i2 (lesser o.ty))
def execMinImm (h : Hdr) (o : FmtI) (s : State) : Out := issue (.minImm h o) s (binI o .i1 .i2 (lesser o.ty))
def execMax (h : Hdr) (o : FmtA) (s : State) : Out := issue (.max h o) s (binA o .i1 .i2 (greater o.ty))
def execMaxImm (h : Hdr) (o : FmtI) (s : State) : Out := issue (.maxImm h o) s (binI o .i1 .i2 (greater o.ty))
def execAbs (h : Hdr) (o : FmtA) (s : State) : Out :=
  issue (.abs h o) s (unA o o.ty.regs .i1 .i2 (fun a => narrow o.ty o.sat ((intVal o.ty a).natAbs : Int)))
def execNeg (h : Hdr) (o : FmtA) (s : State) : Out :=
  issue (.neg h o) s (unA o o.ty.regs .i1 .i2 (fun a => narrow o.ty o.sat (-(intVal o.ty a))))

/-! ## Logic (R144) -/

/-- a AND NOT b at w bits. -/
def andNot (w a b : Nat) : Nat := Nat.land a (2 ^ w - 1 - b % 2 ^ w)

def execAnd (h : Hdr) (o : FmtA) (s : State) : Out := issue (.and h o) s (binA o .i1 .i2 Nat.land)
def execAndImm (h : Hdr) (o : FmtI) (s : State) : Out := issue (.andImm h o) s (binI o .i1 .i2 Nat.land)
def execOr (h : Hdr) (o : FmtA) (s : State) : Out := issue (.or h o) s (binA o .i1 .i2 Nat.lor)
def execOrImm (h : Hdr) (o : FmtI) (s : State) : Out := issue (.orImm h o) s (binI o .i1 .i2 Nat.lor)
def execXor (h : Hdr) (o : FmtA) (s : State) : Out := issue (.xor h o) s (binA o .i1 .i2 Nat.xor)
def execXorImm (h : Hdr) (o : FmtI) (s : State) : Out := issue (.xorImm h o) s (binI o .i1 .i2 Nat.xor)
def execAndn (h : Hdr) (o : FmtA) (s : State) : Out := issue (.andn h o) s (binA o .i1 .i2 (andNot (tyW o.ty)))
def execAndnImm (h : Hdr) (o : FmtI) (s : State) : Out := issue (.andnImm h o) s (binI o .i1 .i2 (andNot (tyW o.ty)))
def execNot (h : Hdr) (o : FmtA) (s : State) : Out :=
  issue (.not h o) s (unA o o.ty.regs .i1 .i2 (fun a => 2 ^ tyW o.ty - 1 - a))

/-! ## Shifts and windows (R145, R146) -/

def shiftA (o : FmtA) (f : Nat → Nat → Nat → Nat) (k : Ctx) (s : State) : State :=
  aluOut k o.d o.s o.ty.regs (clsI o.ty .i1 .i2) (fun l => f (tyW o.ty) (k.opnd o.a o.ty l) (k.u32 o.b l)) s
def shiftI (o : FmtI) (f : Nat → Nat → Nat → Nat) (k : Ctx) (s : State) : State :=
  aluOut k o.d o.s o.ty.regs (clsI o.ty .i1 .i2) (fun l => f (tyW o.ty) (k.opnd o.a o.ty l) o.imm.toNat) s

def execShl (h : Hdr) (o : FmtA) (s : State) : Out := issue (.shl h o) s (shiftA o shlW)
def execShlImm (h : Hdr) (o : FmtI) (s : State) : Out := issue (.shlImm h o) s (shiftI o shlW)
def execShr (h : Hdr) (o : FmtA) (s : State) : Out := issue (.shr h o) s (shiftA o shrW)
def execShrImm (h : Hdr) (o : FmtI) (s : State) : Out := issue (.shrImm h o) s (shiftI o shrW)
def execSha (h : Hdr) (o : FmtA) (s : State) : Out := issue (.sha h o) s (shiftA o shaW)
def execShaImm (h : Hdr) (o : FmtI) (s : State) : Out := issue (.shaImm h o) s (shiftI o shaW)
def execRot (h : Hdr) (o : FmtA) (s : State) : Out := issue (.rot h o) s (shiftA o rotW)
def execRotImm (h : Hdr) (o : FmtI) (s : State) : Out := issue (.rotImm h o) s (shiftI o rotW)
def execShf (h : Hdr) (o : FmtA) (s : State) : Out :=
  issue (.shf h o) s (fun k => aluOut k o.d o.s 1 .i2 (fun l =>
    shfW (o.sub == 1) (k.u32 o.a l) (k.u32 o.b l) (k.u32 o.c l)))

/-! ## Bit fields, counts, bytes (R147 to R149) -/

def execBfe (h : Hdr) (o : FmtA) (s : State) : Out :=
  issue (.bfe h o) s (fun k => aluOut k o.d o.s o.ty.regs .i2 (fun l =>
    bfeW o.ty (k.opnd o.a o.ty l) (k.u32 o.b l)))
def execBfeImm (h : Hdr) (o : FmtI) (s : State) : Out :=
  issue (.bfeImm h o) s (fun k => aluOut k o.d o.s o.ty.regs .i2 (fun l =>
    bfeW o.ty (k.opnd o.a o.ty l) o.imm.toNat))
def execBfi (h : Hdr) (o : FmtA) (s : State) : Out :=
  issue (.bfi h o) s (fun k => aluOut k o.d o.s o.ty.regs .i2 (fun l =>
    bfiW (tyW o.ty) (k.opnd o.a o.ty l) (k.opnd o.b o.ty l) (k.u32 o.c l)))
def execPopc (h : Hdr) (o : FmtA) (s : State) : Out := issue (.popc h o) s (unA o 1 .i2 .i2 (popcW (tyW o.ty)))
def execClz (h : Hdr) (o : FmtA) (s : State) : Out := issue (.clz h o) s (unA o 1 .i2 .i2 (clzW (tyW o.ty)))
def execCtz (h : Hdr) (o : FmtA) (s : State) : Out := issue (.ctz h o) s (unA o 1 .i2 .i2 (ctzW (tyW o.ty)))
def execBrev (h : Hdr) (o : FmtA) (s : State) : Out := issue (.brev h o) s (unA o o.ty.regs .i2 .i2 (brevW (tyW o.ty)))
def execPerm (h : Hdr) (o : FmtA) (s : State) : Out :=
  issue (.perm h o) s (fun k => aluOut k o.d o.s 1 .i2 (fun l =>
    permW (k.u32 o.a l) (k.u32 o.b l) (k.u32 o.c l)))
def execPermImm (h : Hdr) (o : FmtI) (s : State) : Out :=
  issue (.permImm h o) s (fun k => aluOut k o.d o.s 1 .i2 (fun l => permW (k.u32 o.a l) 0 o.imm.toNat))

/-! ## Selection, comparison, predicates (R150 to R152) -/

/-- `sel` (R150). DESIGN CHOICE (notes/assumptions/48): under S = 1 the select predicate is that of the lowest passing
lane. -/
def execSel (h : Hdr) (o : FmtA) (s : State) : Out :=
  issue (.sel h o) s (fun k => aluOut k o.d o.s o.ty.regs (clsI o.ty .i1 .i2) (fun l =>
    if k.p o.ps.toNat l then (opA o k l).1 else (opA o k l).2))
def execSelImm (h : Hdr) (o : FmtI) (s : State) : Out :=
  issue (.selImm h o) s (fun k => aluOut k o.d o.s o.ty.regs (clsI o.ty .i1 .i2) (fun l =>
    if k.p o.pd.toNat l then (opI o k l).1 else (opI o k l).2))
def execCmp (h : Hdr) (o : FmtA) (s : State) : Out :=
  issue (.cmp h o) s (fun k => predOut k (clsI o.ty .i1 .i2) o.pd (fun l =>
    cmpCond o.sub.toNat (intVal o.ty (opA o k l).1) (intVal o.ty (opA o k l).2) && k.p o.ps.toNat l))
def execCmpImm (h : Hdr) (o : FmtI) (s : State) : Out :=
  issue (.cmpImm h o) s (fun k => predOut k (clsI o.ty .i1 .i2) o.pd (fun l =>
    cmpCond o.sub.toNat (intVal o.ty (opI o k l).1) (intVal o.ty (opI o k l).2)))
def execPlop (h : Hdr) (o : FmtA) (s : State) : Out :=
  issue (.plop h o) s (fun k => predOut k .i1 o.pd (fun l =>
    plopBit o.d.code (k.p o.a.code l) (k.p o.b.code l) (k.p o.c.code l)))

/-! ## Addresses and moves (R153 to R155) -/

/-- X of `lea`: b extended to 64 bits by the type. -/
def leaIdx (t : Ty) (b : Nat) : Nat := if t.signed then truncTo 64 (sintOf 32 b) else b

def execLea (h : Hdr) (o : FmtA) (s : State) : Out :=
  issue (.lea h o) s (fun k => aluOut k o.d o.s 2 (clsI o.ty .i1 .i2) (fun l =>
    leaW (k.u64 o.a l) (leaIdx o.ty (if o.ty.wide then k.u64 o.b l else k.u32 o.b l)) o.sub.toNat))
def execLeaImm (h : Hdr) (o : FmtI) (s : State) : Out :=
  issue (.leaImm h o) s (fun k => aluOut k o.d o.s 2 (clsI o.ty .i1 .i2) (fun l =>
    leaW (k.u64 o.a l) (leaIdx o.ty (immAt o.ty o.imm)) o.sub.toNat))
def execMov (h : Hdr) (o : FmtA) (s : State) : Out := issue (.mov h o) s (unA o o.ty.regs .i1 .i2 (fun a => a))
def execMovi (h : Hdr) (o : FmtI) (s : State) : Out :=
  issue (.movi h o) s (fun k => aluOut k o.d o.s o.ty.regs (clsI o.ty .i1 .i2) (fun l =>
    if o.sub = 1 then k.opnd o.d o.ty l % 2 ^ 32 + 2 ^ 32 * o.imm.toNat else immAt o.ty o.imm))
def execSxt (h : Hdr) (o : FmtA) (s : State) : Out :=
  issue (.sxt h o) s (fun k => aluOut k o.d o.s (o.sub.toNat + 1) .i1 (fun l =>
    extW o.ty (o.sub.toNat + 1) (k.u32 o.a l)))
def execZxt (h : Hdr) (o : FmtA) (s : State) : Out :=
  issue (.zxt h o) s (fun k => aluOut k o.d o.s (o.sub.toNat + 1) .i1 (fun l =>
    extW o.ty (o.sub.toNat + 1) (k.u32 o.a l)))

/-! ## Between lanes and the wave (R156, R157) -/

def execSread (h : Hdr) (o : FmtA) (s : State) : Out :=
  issue (.sread h o) s (fun k s =>
    let l := if o.sub = 1 then k.low else k.u32 o.b k.low % 32
    let ok := k.pass.getLsbD l
    fixed k Cls.sp.latency
      { (if ok then writesAt o.d o.ty.regs [(l, k.opnd o.a o.ty l)] else PWrite.nil) with
        p := predAt o.pd ((lanesOf k.pass).map (fun l => (l, ok))) } s)

/-- The special that `swrite` names: FPCTL is replaced at issue, with the flags of operations that retire in that cycle
ORed in; the others are written as R157 allows, from t + 1 to t + 4. -/
def swriteBody (o : FmtA) (k : Ctx) (s : State) : State :=
  if k.pass = 0 then s
  else
    let x := k.opnd o.a o.ty k.low
    let late := fun (key : Nat) => s.onWave k (fun y => { y with pend := y.pend ++
      [{ PWrite.nil with due := k.clock + Cls.sp.latency - 1, early := k.clock + 1, sp := [(key, BitVec.ofNat 64 x)] }] })
    match o.d with
    | .sp .fpctl => s.onWave k (fun y => { y with
        fpctl := (BitVec.ofNat 32 x &&& 0x3F) ||| (if y.raised.1 = k.clock then y.raised.2.zeroExtend 32 else 0) })
    | .sp .chkctl => late 0
    | .sp (.scalewin n) => late (n.toNat + 1)
    | _ => s

def execSwrite (h : Hdr) (o : FmtA) (s : State) : Out := issue (.swrite h o) s (swriteBody o)

end Sys2Proof.Machine
end

