-- ==== Sys2Proof/Machine/Lanes.lean ====
section
/-! DEFINITION. The lane-exchange instructions (opcodes 0x60 to 0x65, R190 to R197). The active lanes are the passing
lanes of the executing split (R113, R191); results are written in active lanes only. -/

namespace Sys2Proof.Machine

/-- Whether lane l is active. -/
def Ctx.active (k : Ctx) (l : Nat) : Bool := decide (l < 32) && k.pass.getLsbD l

/-- A result of n registers and a predicate in every active lane. -/
def exchOut (k : Ctx) (d : Opnd) (n : Nat) (cls : Cls) (pd : BitVec 3) (f : Nat → Nat × Bool) (s : State) : State :=
  let xs := (lanesOf k.pass).map (fun l => (l, f l))
  fixed k cls.latency
    { writesAt d n (xs.map (fun e => (e.1, e.2.1))) with p := predAt pd (xs.map (fun e => (e.1, e.2.2))) } s

/-- The source lane of `shfl` for reader l with selector n; 32 or more when there is none (R192). -/
def shflLane (sub n l : Nat) : Nat :=
  match sub with
  | 0 => n % 32
  | 1 => let e : Int := (l : Int) + sintOf 32 n; if e < 0 then 32 else e.toNat
  | 2 => Nat.xor l (n % 32)
  | _ => (l + n % 32) % 32

def shflBody (d a : Opnd) (t : Ty) (sub : Nat) (pd : BitVec 3) (sel : Ctx → Nat → Nat) (other : Ctx → Nat → Nat)
    (k : Ctx) (s : State) : State :=
  exchOut k d t.regs .x pd (fun l =>
    let src := shflLane sub (sel k l) l
    if k.active src then (k.opnd a t src, true) else (other k l, false)) s

def execShfl (h : Hdr) (o : FmtA) (s : State) : Out :=
  issue (.shfl h o) s (shflBody o.d o.a o.ty o.sub.toNat o.pd (fun k l => k.u32 o.c l) (fun k l => k.opnd o.b o.ty l))
def execShflImm (h : Hdr) (o : FmtI) (s : State) : Out :=
  issue (.shflImm h o) s (shflBody o.d o.a o.ty o.sub.toNat o.pd (fun _ _ => o.imm.toNat) (fun k l => k.opnd o.a o.ty l))

/-- The active lanes whose predicate p is true. -/
def Ctx.voted (k : Ctx) (p : Nat) : Lanes := laneSet ((lanesOf k.pass).filter (fun l => k.p p l))

/-- The outcome of a vote (R193). -/
def voteRes (sub : Nat) (active voted : Lanes) : Bool :=
  match sub with
  | 0 => voted == active
  | 1 => voted != 0
  | _ => voted == active || voted == 0

def execVote (h : Hdr) (o : FmtA) (s : State) : Out :=
  issue (.vote h o) s (fun k => predOut k .x o.pd (fun _ => voteRes o.sub.toNat k.pass (k.voted o.ps.toNat)))
def execBallot (h : Hdr) (o : FmtA) (s : State) : Out :=
  issue (.ballot h o) s (fun k => exchOut k o.d 1 .x 7 (fun _ => ((k.voted o.ps.toNat).toNat, false)))

/-- The active lanes whose a equals x (R195). -/
def Ctx.peers (k : Ctx) (a : Opnd) (t : Ty) (x : Nat) : Lanes := laneSet ((lanesOf k.pass).filter (fun l => k.opnd a t l == x))

def execMatchLanes (h : Hdr) (o : FmtA) (s : State) : Out :=
  issue (.matchLanes h o) s (fun k => exchOut k o.d 1 .xm o.pd (fun l =>
    let m := k.peers o.a o.ty (k.opnd o.a o.ty l)
    if o.sub = 0 then (m.toNat, false) else if m = k.pass then (m.toNat, true) else (0, false)))

/-- The result of `redux` over the active values (Table 7-7). -/
def reduxRes (sub : Nat) (t : Ty) (m : Rnd) (sat : Bool) (xs : List Nat) : FRes :=
  match sub with
  | 0 => ⟨narrow t sat (xs.foldl (fun e x => e + intVal t x) 0), 0⟩
  | 1 => ⟨xs.tail.foldl (lesser t) (xs.headD 0), 0⟩
  | 2 => ⟨xs.tail.foldl (greater t) (xs.headD 0), 0⟩
  | 3 => ⟨xs.tail.foldl Nat.land (xs.headD 0), 0⟩
  | 4 => ⟨xs.foldl Nat.lor 0, 0⟩
  | 5 => ⟨xs.foldl Nat.xor 0, 0⟩
  | 6 => sumAll (fmtOf .f32) m sat xs
  | 7 => foldMinmax (fmtOf .f32) false xs
  | _ => foldMinmax (fmtOf .f32) true xs

def reduxBody (o : FmtA) (k : Ctx) (s : State) : State :=
  let r := reduxRes o.sub.toNat o.ty o.rnd o.sat ((lanesOf k.pass).map (fun l => k.opnd o.a o.ty l))
  fixed k Cls.xm.latency
    { writesAt o.d o.ty.regs ((lanesOf k.pass).map (fun l => (l, r.bits))) with fl := r.fl } s

def execRedux (h : Hdr) (o : FmtA) (s : State) : Out := issue (.redux h o) s (reduxBody o)

/-- The source lane of `laneperm` (R197). -/
def permLane (pattern l : Nat) : Nat := l / 8 * 8 + fieldOf pattern (3 * (l % 8)) 3

def permBody (d a : Opnd) (t : Ty) (pat : Nat) (k : Ctx) (s : State) : State :=
  exchOut k d t.regs .x 7 (fun l => (k.opnd a t (if k.active (permLane pat l) then permLane pat l else l), false)) s

/-- DESIGN CHOICE (notes/assumptions/95): the pattern is one 32-bit operand at `.b64` too. -/
def execLaneperm (h : Hdr) (o : FmtA) (s : State) : Out :=
  issue (.laneperm h o) s (fun k => permBody o.d o.a o.ty (k.u32 o.b 0) k)
def execLanepermImm (h : Hdr) (o : FmtI) (s : State) : Out :=
  issue (.lanepermImm h o) s (fun k => permBody o.d o.a o.ty o.imm.toNat k)

end Sys2Proof.Machine
end

