-- ==== Sys2Proof/Machine/Service.lean ====
section
/-! DEFINITION. The service cores (chapter 17): the functions of `syscall` (R423 to R428), errors (R429), power (R430)
and boot (R431 to R433). -/

namespace Sys2Proof.Machine

/-! ## Records and replies (R355, R424, R425) -/

/-- DENIED (R425). -/
def stDenied : Nat := 20

/-- The functions that Table 17-2 lists. -/
def listedFn (fn : Nat) : Bool := (decide (1 ≤ fn) && decide (fn ≤ 4)) || (decide (0x100 ≤ fn) && decide (fn ≤ 0x10A))

/-- A supervisor function. -/
def supFn (fn : Nat) : Bool := decide (0x100 ≤ fn) && decide (fn ≤ 0x10A)

/-- The thread whose record is accessed, on core c. -/
def svcThread (s : State) (e : RingEnt) (c l : Nat) : Call :=
  { id := e.id, uid := e.uid, core := c, asid := e.asid, tenant := s.tenantOfAsid e.asid, wave := e.wave, lane := l, lanes := laneBit l, op := 0
    pc := 0, kind := .syscall e.fn, d := .int 0, writes := false, a := 0, b := 0, c := 0, noA := true, noB := true, noC := true
    maker := { sregs := [], argp := 0, windows := [], rt := false, crewNo := 0, abase := 0, abytes := 0, queue := none }
    susp := false, recs := [], tok := none, depth := 0, sent := none, lodged := none, lost := false }

/-- The record address of a lane of an entry. -/
def RingEnt.recOf (e : RingEnt) (l : Nat) : Nat := ((e.recs.find? (fun r => r.1 == l)).map (·.2)).getD 0

/-- The 128 bytes of a lane's record, as its thread reads them, or as they stand at their homes when the thread has left
or may read them no longer. A record that cannot be read counts as one with nonzero reserved bytes. -/
def State.svcRead (s : State) (e : RingEnt) (l : Nat) : CallAcc (State × List Byte) :=
  let home := CallAcc.ok (s, (s.procRead e.asid (e.recOf l) 128).getD (List.replicate 128 0xFF))
  match s.coreOf e.uid with
  | some c => match s.threadRead (svcThread s e c l) (e.recOf l) 128 with
    | .fault _ _ => home
    | r => r
  | none => home

/-- The time of the crew that called, on its core or in its save frame. -/
def State.uidTime (s : State) (uid : Nat) : Nat :=
  match s.coreOf uid with
  | some c => (s.core c).time
  | none => match s.frames.find? (fun f => match f.2.crew with | some k => k.uid == uid | none => false) with
    | some f => f.2.time
    | none => 0

/-- Bytes written to a lane's record. -/
def State.svcWrite (s : State) (e : RingEnt) (l off : Nat) (bs : List Byte) : CallAcc State :=
  let home := CallAcc.ok (s.procWrite e.asid (s.uidTime e.uid) (e.recOf l + off) bs)
  match s.coreOf e.uid with
  | some c => match s.threadWrite (svcThread s e c l) (e.recOf l + off) bs with
    | .fault _ _ => home
    | r => r
  | none => home

/-- The atomic OR of a lane's bit into the bitmap word, at its home: a release at `.sys` of the reply and of what its writer has
seen (R355, R424). -/
def State.svcBit (s : State) (e : RingEnt) (l : Nat) : State :=
  match e.bitmap with
  | none => s
  | some va =>
    match s.procRead e.asid va 4 with
    | some b =>
      s.procWrite e.asid (max (s.uidTime e.uid) (max (s.procTime e.asid (e.recOf l) 128) (s.procTime e.asid va 4))) va
        (bytesOf 4 (Nat.lor (ofBytes b) (2 ^ l)))
    | none => s

/-- The call of an entry without a bitmap completes with the statuses of its lanes. -/
def State.svcDone (s : State) (e : RingEnt) : State :=
  match s.calls.find? (fun x => x.id == e.call && x.sent == some e.id) with
  | none => s
  | some x =>
    s.replyLanes x (if x.d.isS then e.answers.filter (fun r => r.1 == x.lane) else e.answers)

/-- The reply of a lane has been written: its bit is set, and the last reply removes the entry (R355). -/
def State.svcReplied (s : State) (e : RingEnt) (l st : Nat) : State :=
  let e1 := { e with todo := e.todo &&& ~~~ laneBit l, answers := e.answers ++ [(l, st)] }
  let s1 := s.svcBit e l
  if e1.todo = 0 then
    (({ s1 with svc := { s1.svc with rings := s1.svc.rings.filter (fun x => x.id != e.id) } } : State).svcDone e1).poke (.ring e.sc)
  else { s1 with svc := { s1.svc with rings := s1.svc.rings.map (fun x => if x.id = e.id then e1 else x) } }

/-- What a function does: the state, the status and the bytes from +8 on. -/
abbrev SvcRes := State × Nat × List Byte

/-- A field outside its limits. -/
def badField (s : State) : SvcRes := (s, stRecord, [])

/-- The entry's turn has come: the oldest of its ring, or for a supervisor function, which service core 0 performs, the
oldest of all of them (R424). -/
def State.svcTurn (s : State) (e : RingEnt) : Bool :=
  let sup := supFn e.fn
  (s.svc.rings.find? (fun x => if sup then supFn x.fn else x.sc == e.sc && !supFn x.fn)) == some e

/-- The memory that the reply of a lane touches, at its home: its record and the bitmap word. -/
def State.svcRanges (s : State) (e : RingEnt) (l : Nat) : List (Nat × Nat) :=
  s.procRanges e.asid (e.recOf l) 128 ++ (match e.bitmap with | some va => s.procRanges e.asid va 4 | none => [])

/-- The bitmap word lies in host memory, which no port reaches. -/
def State.svcOut (s : State) (e : RingEnt) : Bool :=
  s.fab.portsUp.isEmpty && (match e.bitmap with
    | some va => (match s.procPlace e.asid 0 va 4 with | .ok (_, .host, _) => true | _ => false)
    | none => false)

/-- A service core serves lane `lane` of entry `entry`, if it calls function `fn`; a function that Table 17-2 does not
list is answered in the place of LOG. The service core waits its turn at a locked line (R218). -/
def serve (fn entry lane : Nat) (s : State) (body : RingEnt → List Byte → State → SvcRes) : State :=
  match s.svc.rings.find? (fun e => e.id == entry) with
  | none => s
  | some e =>
    let listed := listedFn e.fn
    if !s.svcTurn e || lane != lowestLane e.todo || !(e.fn == fn || (!listed && fn == 1)) || s.svcOut e then s
    else s.asAgent (s.svcRanges e lane) (serviceAgent e.sc) e.id (fun s =>
      match s.svcRead e lane with
      | .ok (t, b) =>
        let r :=
          if !listed then badField t
          else if supFn fn && e.asid != 0 then (t, stDenied, [])
          else if recNum b 4 4 ≠ 0 then badField t
          else body e b t
        match r.1.svcWrite e lane 8 r.2.2 with
        | .ok u => match u.svcWrite e lane 0 (bytesOf 4 r.2.1) with
          | .ok v => v.svcReplied e lane r.2.1
          | _ => s
        | _ => s
      | _ => s)

/-! ## Functions of any process -/

/-- The handle names an OPEN port of the process. -/
def State.ownPort (s : State) (asid h : Nat) : Bool :=
  match s.owned asid h with
  | some o => match o.body with | .port .. => true | _ => false
  | none => false

/-- The ports of a record are a fault port and a pager port, or no pager port. -/
def State.portsOk (s : State) (asid fault pager : Nat) : Bool := s.ownPort asid fault && (pager == 0 || s.ownPort asid pager)

def svcLog (e : RingEnt) (b : List Byte) (s : State) : SvcRes :=
  let n := recNum b 8 8
  if n = 0 ∨ 112 < n then badField s
  else ({ s with svc := { s.svc with texts := s.svc.texts ++ [{ asid := e.asid, core := e.core, text := (b.drop 16).take n }] } }, stOk, [])

def execLog (entry lane : Nat) (s : State) : Out := .next (serve 1 entry lane s svcLog)

/-- The core of the entry's lanes (R428). -/
def State.svcCore (s : State) (e : RingEnt) : Nat := (s.coreOf e.uid).getD e.core

def svcEvread (e : RingEnt) (_ : List Byte) (s : State) : SvcRes :=
  (s, stOk, (List.range 8).flatMap (fun k => bytesOf 8 (Bits.rd (s.core (s.svcCore e)).evCnt k).toNat))

def execEvread (entry lane : Nat) (s : State) : Out := .next (serve 2 entry lane s svcEvread)

def svcEvsel (e : RingEnt) (b : List Byte) (s : State) : SvcRes :=
  let xs := (List.range 8).map (fun k => recNum b (8 + k) 1)
  if xs.any (fun x => decide (14 < x)) then badField s
  else (s.modCore (s.svcCore e) (fun k =>
    { k with evSel := Bits.wrs [] ((List.range 8).map (fun i => (i, BitVec.ofNat 8 (xs.getD i 0)))), evCnt := [] }), stOk, [])

def execEvsel (entry lane : Nat) (s : State) : Out := .next (serve 3 entry lane s svcEvsel)

def svcOwnports (e : RingEnt) (b : List Byte) (s : State) : SvcRes :=
  let fault := recNum b 8 8
  let pager := recNum b 16 8
  match Tbl.find s.procs e.asid with
  | some p =>
    if s.portsOk e.asid fault pager then
      ({ s with procs := Tbl.put s.procs e.asid { p with faultPort := BitVec.ofNat 64 fault, pagerPort := BitVec.ofNat 64 pager } }, stOk, [])
    else badField s
  | none => badField s

def execOwnports (entry lane : Nat) (s : State) : Out := .next (serve 4 entry lane s svcOwnports)

/-! ## Processes and frames -/

/-- The process has a live crew: on a core, claimed for one, or saved; or task waves that run. -/
def State.crewsLive (s : State) (asid : Nat) : Bool :=
  s.cores.any (fun e => (match e.2.crew with | some k => k.asid == asid && k.stage.isNone | none => false)
    || e.2.waves.any (fun w => w.2.asid == asid) || e.2.cmds.any (fun x => x.2.asid == asid)
    || (match e.2.claim with | some x => (match Tbl.find s.launches x.serial with | some l => l.asid == asid | none => false) | none => false))
  || s.frames.any (fun e => match e.2.crew with | some k => k.asid == asid | none => false)

def svcProc (_ : RingEnt) (b : List Byte) (s : State) : SvcRes :=
  let op := recNum b 8 4
  let asid := recNum b 12 4
  let root := recNum b 16 8
  let tenant := recNum b 24 8
  let fault := recNum b 32 8
  let pager := recNum b 40 8
  if asid = 0 ∨ 0xFFFF < asid then badField s
  else if op = 0 then
    if (Tbl.find s.procs asid).isSome ∨ root % 0x20000 ≠ 0 ∨ s.hbmEnd < root + 0x20000 ∨ 255 < tenant ∨ !s.portsOk 0 fault pager then badField s
    else ({ s with procs := Tbl.put s.procs asid { root := root, tenant := tenant, faultPort := BitVec.ofNat 64 fault
                                                   pagerPort := BitVec.ofNat 64 pager, frames := [] } }, stOk, bytesOf 8 asid)
  else if op = 1 then
    if (Tbl.find s.procs asid).isNone then badField s
    else if s.crewsLive asid then (s, stBusy, [])
    else ({ s with procs := Tbl.del s.procs asid }, stOk, bytesOf 8 asid)
  else badField s

def execProc (entry lane : Nat) (s : State) : Out := .next (serve 0x100 entry lane s svcProc)

/-- The frame lies in firmware memory: the firmware region, or a save frame. -/
def State.firmwareFrame (s : State) (f : Nat) : Bool :=
  s.svc.firmware.any (fun r => decide (r.1 < f + 65536) && decide (f < r.1 + r.2))
  || (s.frames.map (·.1) ++ s.framePool).any (fun a => decide (a < f + 65536) && decide (f < a + frameBytesLen))

/-- The frame is in the pool of a process other than `asid`, or reserved for a grant of one. -/
def State.otherPool (s : State) (asid f : Nat) : Bool :=
  s.procs.any (fun e => e.1 != asid && e.2.frames.contains f)
  || s.fab.sent.any (fun e => e.2.asid != asid && e.2.pages.any (fun p => p.frame == f))

/-- The frame stays reserved for a grant in flight of the process (R409): it is in the process's pool already. -/
def State.grantHolds (s : State) (asid f : Nat) : Bool :=
  s.fab.sent.any (fun e => e.2.asid == asid && e.2.pages.any (fun p => p.frame == f))

def svcFrames (_ : RingEnt) (b : List Byte) (s : State) : SvcRes :=
  let asid := recNum b 8 4
  let n := recNum b 12 4
  let fs := (List.range n).map (fun i => recNum b (16 + 8 * i) 8)
  match Tbl.find s.procs asid with
  | none => badField s
  | some p =>
    if n = 0 ∨ 13 < n then badField s
    else if fs.any (fun f => f % 65536 != 0 || decide (s.sharedBase < f + 65536) || s.firmwareFrame f || s.otherPool asid f) then badField s
    else
      let new := fs.eraseDups.filter (fun f => !p.frames.contains f && !s.grantHolds asid f)
      (new.foldl (fun t f => t.addFrame asid f) s, stOk, [])

def execFrames (entry lane : Nat) (s : State) : Out := .next (serve 0x101 entry lane s svcFrames)

/-! ## Tenants and stages -/

/-- TENANT (Table 17-2). DESIGN CHOICE (notes/assumptions/42): reserved bits that are not 0 answer RECORD. -/
def svcTenant (_ : RingEnt) (b : List Byte) (s : State) : SvcRes :=
  let t := recNum b 8 8
  let x := recNum b 16 8
  if 255 < t ∨ 1024 < fieldOf x 0 11 ∨ fieldOf x 11 21 ≠ 0 ∨ fieldOf x 48 4 ≠ 0 then badField s
  else ({ s with svc := { s.svc with budgets := Tbl.put s.svc.budgets t (BitVec.ofNat 64 x) } }, stOk, [])

def execTenant (entry lane : Nat) (s : State) : Out := .next (serve 0x102 entry lane s svcTenant)

/-- FIREWALL (Table 17-2), with reserved bits as in `svcTenant` (notes/assumptions/42). -/
def svcFirewall (_ : RingEnt) (b : List Byte) (s : State) : SvcRes :=
  let t := recNum b 8 4
  let slot := recNum b 12 4
  let x := recNum b 16 8
  let bad := fieldOf x 63 1 == 1 && (fieldOf x 32 14 == 0 || decide (s.hbmEnd / 2 ^ 28 < fieldOf x 0 14 + fieldOf x 32 14))
  if 255 < t ∨ 15 < slot ∨ fieldOf x 14 18 ≠ 0 ∨ fieldOf x 46 17 ≠ 0 ∨ bad then badField s
  else ({ s with svc := { s.svc with firewall := Tbl.put s.svc.firewall (t * 16 + slot) (BitVec.ofNat 64 x) } }, stOk, [])

def execFirewall (entry lane : Nat) (s : State) : Out := .next (serve 0x103 entry lane s svcFirewall)

/-- All cores of a stage that is disabled drain (R375). -/
def State.drainStage (s : State) (t : Nat) : State :=
  let s1 : State := { s with cores := s.cores.map (fun e => (e.1, { e.2 with
    crew := e.2.crew.map (fun k => if k.nextStage = some t then { k with nextStage := none } else k) })) }
  (s1.stageCores t).foldl (fun u c => u.drainCore c none) s1

/-- STAGE (Table 17-2), with reserved bits as in `svcTenant` (notes/assumptions/42). -/
def svcStage (_ : RingEnt) (b : List Byte) (s : State) : SvcRes :=
  let t := recNum b 8 8
  let x := recNum b 16 8
  if 63 < t ∨ fieldOf x 32 1 ≠ 0 ∨ 1024 < fieldOf x 44 11 ∨ 1024 < fieldOf x 33 11 then badField s
  else
    let s1 : State := { s with svc := { s.svc with stages := Tbl.put s.svc.stages t (BitVec.ofNat 64 x) } }
    (if stageEn (BitVec.ofNat 64 x) then s1 else s1.drainStage t, stOk, [])

def execStage (entry lane : Nat) (s : State) : Out := .next (serve 0x104 entry lane s svcStage)

/-! ## Windows, routes, rings, caps -/

def svcHwin (_ : RingEnt) (b : List Byte) (s : State) : SvcRes :=
  let n := recNum b 8 8
  let base := recNum b 16 8
  let size := recNum b 24 8
  let target := recNum b 32 8
  let off := recNum b 40 8
  if 63 < n ∨ base % 0x200000 ≠ 0 ∨ size % 0x200000 ≠ 0 ∨ base < Config.hostBase ∨ Config.physEnd < base + size ∨ 1 < target
      ∨ (target = 1 ∧ s.fab.sharedSize < off + size) then badField s
  else ({ s with fab := { s.fab with windows := Tbl.put s.fab.windows n { base := base, size := size, target := target, offset := off
                                                                          epoch := s.fab.epoch } } }, stOk, [])

def execHwin (entry lane : Nat) (s : State) : Out := .next (serve 0x105 entry lane s svcHwin)

/-- The ports of a mask. -/
def portList (m : Nat) : List Nat := (List.range 18).filter (fun i => fieldOf m i 1 == 1)

/-- A route is written: the ports of its link, or none, which makes the package unreachable (R401, R407). -/
def State.setRoute (s : State) (pkg mask : Nat) : State :=
  if mask = 0 then
    let s1 : State := { s with fab := { s.fab with routes := Tbl.del s.fab.routes pkg } }
    if pkg = s.fab.pkgNo || s.lost pkg then s1 else s1.losePackage pkg
  else { s with fab := { s.fab with
    routes := Tbl.put s.fab.routes pkg (portList mask)
    unreachable := s.fab.unreachable.filter (fun p => p != pkg) } }

/-- A block of 32 entries of MAP; 0xFFFF is an unlisted entry. -/
def State.setMap (s : State) (block : Nat) (vs : List Nat) : State :=
  { s with fab := { s.fab with map := ((List.range 32).zip vs).foldl (fun t e =>
      if e.2 = 0xFFFF then Tbl.del t (block * 32 + e.1) else Tbl.put t (block * 32 + e.1) e.2) s.fab.map } }

def svcRoute (_ : RingEnt) (b : List Byte) (s : State) : SvcRes :=
  let op := recNum b 8 4
  let idx := recNum b 12 4
  let v := recNum b 16 8
  let vs := (List.range 32).map (fun i => recNum b (16 + 2 * i) 2)
  if op = 0 ∧ idx = 0 ∧ v ≤ 0xFEFF then ({ s with fab := { s.fab with pkgNo := v } }, stOk, [])
  else if op = 1 ∧ idx ≤ 0xFEFF ∧ v < 2 ^ 18 then (s.setRoute idx v, stOk, [])
  else if op = 2 ∧ idx < 128 ∧ vs.all (fun x => decide (x ≤ 0xFEFF) || x == 0xFFFF) then (s.setMap idx vs, stOk, [])
  else badField s

def execRoute (entry lane : Nat) (s : State) : Out := .next (serve 0x106 entry lane s svcRoute)

/-- A ring register keeps its limits and lies in the device-shared region (Table 16-2, R417), with reserved bits as in
`svcTenant` (notes/assumptions/42). -/
def State.ringRegOk (s : State) (x : Nat) : Bool :=
  let logn := fieldOf x 4 4
  fieldOf x 40 24 == 0 && fieldOf x 8 4 == 0 && fieldOf x 1 3 == 0
    && (fieldOf x 0 1 == 0 || (decide (2 ≤ logn) && decide (fieldOf x 12 28 * 4096 + 256 + 64 * 2 ^ logn ≤ s.fab.sharedSize)))

/-- EWCSET (R417): the rings are set up; a record of the old command ring that was in service gets no reply
(notes/assumptions/91). -/
def svcEwcset (_ : RingEnt) (b : List Byte) (s : State) : SvcRes :=
  let cmd := recNum b 8 8
  let inb := recNum b 16 8
  let ctr := recNum b 24 8
  if !s.ringRegOk cmd || !s.ringRegOk inb || !(ctr == 0 || (s.counterFault 0 ctr).isNone) then badField s
  else ({ s with fab := { s.fab with ewccmd := BitVec.ofNat 64 cmd, ewcinb := BitVec.ofNat 64 inb, restartCtr := BitVec.ofNat 64 ctr
                                     ewcUp := true, ewcWait := none } }, stOk, [])

def execEwcset (entry lane : Nat) (s : State) : Out := .next (serve 0x107 entry lane s svcEwcset)

/-- CAPS lowers a cap; a value above its ceiling, which each port has of its own, is stored as the ceiling (R426). -/
def svcCaps (_ : RingEnt) (b : List Byte) (s : State) : SvcRes :=
  let watts := recNum b 8 4
  let port := recNum b 12 4
  let rate := recNum b 16 8
  if 17 < port then badField s
  else ({ s with svc := { s.svc with moduleCap := min watts s.svc.powerCeiling
                                     portCaps := Tbl.put s.svc.portCaps port (min rate (s.svc.linkCeilings.getD port 0)) } }, stOk, [])

def execCaps (entry lane : Nat) (s : State) : Out := .next (serve 0x108 entry lane s svcCaps)

/-- A log entry as RAS gives it. -/
def LogEnt.bytes (x : LogEnt) : List Byte := [x.seq, x.cause, x.place, x.clock].flatMap (bytesOf 8)

def svcRas (_ : RingEnt) (b : List Byte) (s : State) : SvcRes :=
  let es := (s.svc.log.filter (fun x => decide (recNum b 8 8 ≤ x.seq))).take 3
  (s, stOk, bytesOf 8 es.length ++ es.flatMap LogEnt.bytes)

def execRas (entry lane : Nat) (s : State) : Out := .next (serve 0x109 entry lane s svcRas)

def svcHbind (_ : RingEnt) (b : List Byte) (s : State) : SvcRes :=
  let op := recNum b 8 8
  let name := recNum b 16 8
  if op = 0 then let r := s.hostBindTo name (recNum b 24 8); (r.1, r.2, [])
  else if op = 1 then let r := s.hostUnbind name; (r.1, r.2, [])
  else badField s

def execHbind (entry lane : Nat) (s : State) : Out := .next (serve 0x10A entry lane s svcHbind)

/-! ## Power and cooling (R430) -/

/-- The governor steps down while the power is above the cap or the junction is hot, and up below 95 % of the cap. -/
def governed (now : Nat) (down up : Bool) : Nat :=
  if down then (if now ≤ 2 then 2 else now - 2) else if up then (if 8 ≤ now then 8 else now + 2) else now

def execPowerGovernorTick (watts : Nat) (s : State) : Out :=
  if s.clock < s.svc.nextTick then .next s
  else
    let cap := min s.svc.moduleCap s.svc.powerCeiling
    let down := s.svc.hot || decide (cap < watts)
    .next { s with svc := { s.svc with
      governor := governed s.svc.governor down (decide (100 * watts < 95 * cap))
      nextTick := (s.clock / s.tenMicros + 1) * s.tenMicros } }

/-- The junction reaches 105 °C, or leaves it. -/
def execThermalLimit (hot : Bool) (s : State) : Out := .next { s with svc := { s.svc with hot := hot } }

/-- At 115 °C every die stops and the links drop, which is a loss of link (R421). -/
def execThermalShutdown (s : State) : Out :=
  let s1 : State := { s with svc := { s.svc with stopped := true } }
  .next (if s.fab.portsUp.isEmpty then s1 else ({ s1 with fab := { s1.fab with portsUp := [] } } : State).warmRestart)

/-! ## Errors (R429) -/

/-- An entry of the error log. -/
def State.logError (s : State) (cause place : Nat) : State :=
  { s with svc := { s.svc with
      log := s.svc.log ++ [{ seq := s.svc.logSeq, cause := cause, place := place, clock := s.clock }]
      logSeq := s.svc.logSeq + 1 } }

/-- A free 64-bit value (notes/assumptions/8). -/
def State.freeNat (s : State) : Nat × State := ((Config.freeWord s.freeCtr).toNat, { s with freeCtr := s.freeCtr + 1 })

/-- A corrected error at a location of a core; what its log entry gives as the cause is left open. -/
def execEccCorrected (core loc : Nat) (s : State) : Out :=
  let n := Tbl.getD s.svc.corrected loc 0 + 1
  let s1 := { s with svc := { s.svc with corrected := Tbl.put s.svc.corrected loc n } }.modCore core (fun k => k.countEv 13 1)
  .next (if n % 1024 = 0 then let f := s1.freeNat; f.2.logError f.1 loc else s1)

/-- The lines of the first 128 bytes of a call's record. -/
def State.callLines (s : State) (x : Call) : List Nat :=
  [0, 64].filterMap (fun i => match s.xlateNow x.core x.asid (x.b.toNat + i) with
    | .hit leaf a => (match s.placeOf x.tenant leaf a 1 with | .ok (.mem, b) => some (lineNo b) | _ => none)
    | _ => none)

/-- The request, call or copy command numbered `n` takes data from another die's home, so that an error between the dies can
spoil it (R402). -/
def State.crosses (s : State) (n : Nat) : Bool :=
  s.calls.any (fun x => x.id == n && !x.noB && (s.callLines x).any (fun l => sliceOf l / 4 != dieOf x.core)) ||
  s.reqs.any (fun r => r.id == n && r.waits && r.place == .mem && sliceOf (lineNo r.addr) / 4 != dieOf r.core)
    || s.cores.any (fun e => match Tbl.find e.2.cmds n with
      | some x => (s.engineLine e.1 x.asid rightR (x.srcRow (x.done / x.w) + ((x.done % x.w : Nat) : Int)) x.pages).any (fun l => x.ssp == 0 && sliceOf l / 4 != dieOf e.1)
      | none => false)

/-- The unit exists. -/
def State.unitOk (s : State) (p : EccPlace) : Bool :=
  match p with
  | .mem u => decide (u * 32 < s.hbmEnd)
  | .abuf c u => decide (c < 1024) && decide (u * 8 < Config.abufBytes)
  | .wbuf c u => decide (c < 1024) && decide (u * 32 < Config.wbufBytes)
  | .cbuf c u => decide (c < 1024) && decide (u * 32 < Config.cbufBytes)
  | .vreg c w e => match s.wave? c w with | some x => decide (e / 32 < x.quota) | none => false
  | .sreg c w n => (s.wave? c w).isSome && decide (n < 64)
  | .l1 c line manual u => decide (u < 16) && (Tbl.find (s.core c).l1 (l1Key line manual)).isSome
  | .cluster k line u => decide (u < 16) && (Tbl.find (Tbl.getD s.clusters k []) line).isSome
  | .icache c asid line => (s.core c).icache.any (fun x => x.asid == asid && x.line == line)
  | .link n => s.crosses n

/-- A key of a wave's registers is poisoned. -/
def Wave.poison (x : Wave) (key : Nat) : Wave := { x with bad := if x.bad.contains key then x.bad else x.bad ++ [key] }

/-- 8 bytes of a copy are poisoned. -/
def Copy.poison (x : Copy) (u : Nat) : Copy := { x with bad := x.bad ||| byteMask (8 * u) 8 }

/-- The unit is poisoned at its level. -/
def State.poisonUnit (s : State) (p : EccPlace) : State :=
  match p with
  | .vreg c w e => s.modWave c w (fun x => x.poison e)
  | .sreg c w n => s.modWave c w (fun x => x.poison (keyS n))
  | .l1 c line manual u => s.modCore c (fun k => match Tbl.find k.l1 (l1Key line manual) with
    | some x => { k with l1 := Tbl.put k.l1 (l1Key line manual) (x.poison u) }
    | none => k)
  | .cluster k line u => (match Tbl.find (Tbl.getD s.clusters k []) line with
    | some x => { s with clusters := Tbl.put s.clusters k (Tbl.put (Tbl.getD s.clusters k []) line (x.poison u)) }
    | none => s)
  | .icache c asid line => s.modCore c (fun k =>
      { k with icache := k.icache.map (fun x => if x.asid = asid ∧ x.line = line then { x with bad := true } else x) })
  | _ => s.spoil p

/-- A frame of HBM4E that has had three uncorrectable errors leaves every pool. -/
def State.wearFrame (s : State) (p : EccPlace) : State :=
  match p with
  | .mem u =>
    let f := u * 32 / 65536
    let n := Tbl.getD s.svc.uncorrected f 0 + 1
    let s1 : State := { s with svc := { s.svc with uncorrected := Tbl.put s.svc.uncorrected f n } }
    if n < 3 then s1 else { s1 with procs := s1.procs.map (fun e => (e.1, { e.2 with frames := e.2.frames.filter (fun a => a / 65536 != f) })) }
  | _ => s

/-- An uncorrectable error: the entry names DATA_UNCORRECTABLE and the PA; a position elsewhere is left open. -/
def execEccUncorrectable (place : EccPlace) (s : State) : Out :=
  if !s.unitOk place then .next s
  else
    let s1 := (s.poisonUnit place).wearFrame place
    .next (match place with
      | .mem u => s1.logError 0x51 (u * 32)
      | _ => let f := s1.freeNat; f.2.logError 0x51 f.1)

/-! ## The service cores' own writes (R426) -/

/-- A service core writes 8 bytes of HBM4E: in the firmware region memory holds them, and elsewhere the write is dropped and
logged. DESIGN CHOICE (notes/assumptions/93): the replies to `syscall` and the records of the command ring are no such writes,
and the dropped write's log entry has a free cause. -/
def State.serviceWrite (s : State) (pa : Nat) (bs : List Byte) : State :=
  if s.svc.firmware.any (fun r => decide (r.1 ≤ pa) && decide (pa + bs.length ≤ r.1 + r.2)) then
    if s.agentBusy [(pa, bs.length)] s.nextId then s else s.orreryStore pa bs
  else let f := s.freeNat; f.2.logError f.1 pa

/-! ## Boot (R431 to R433) -/

/-- A signature verifies with a key whose hash is fused in one of the four key slots, unrevoked (R431). -/
def signatureVerifies (x : Signature) (f : Fuses) : Bool := x.good && (f.keys.take 4).any (fun k => k.1 == x.keyHash && !k.2)

/-- The package identity is signed twice (R431). -/
def imageSigned (m : SignedImage) (f : Fuses) : Bool := signatureVerifies m.ecdsa f && signatureVerifies m.lms f

/-- An image passes: both signatures, and a version that is not rolled back (R431). -/
def imagePasses (m : SignedImage) (f : Fuses) : Bool := imageSigned m f && decide (f.rollback ≤ m.version)

/-- The limits of a signed configuration block (R414, R426). -/
def bootOk (b : BootBlock) : Bool :=
  decide (b.powerCeiling ≤ 4000) && b.linkCeilings.length == 18 && b.linkCeilings.all (fun x => decide (x ≤ 400))
    && decide (b.failingCheck < 256) && b.sharedSize % 2 ^ 28 == 0 && decide (b.sharedSize ≤ 2 ^ 38)
    && b.firmware.all (fun r => decide (r.1 + r.2 ≤ Config.hbmEnd))

/-- The frames that the firmware sets aside for saves (notes/assumptions/9): aligned, below the device-shared region. -/
def bootFrames (top : Nat) : List Nat :=
  ((List.range Config.saveFrameCount).map (fun i => (Config.saveFrameBase + i) * frameBytesLen)).filter (fun a => decide (a + frameBytesLen ≤ top))

/-- The firmware runs, in full operation or in the bring-up service: the limits of the block, the save frames, and the
supervisor process (R21), whose page-table root the spec leaves open (notes/assumptions/8). DESIGN CHOICE
(notes/assumptions/43): its tenant is 0 and its fault and pager ports are 0 (R20). -/
def State.bootUp (s : State) (b : BootBlock) (boot : Boot) : State :=
  let top := (match boot with | .bringup => 0x6000000000 | _ => Config.hbmEnd)
  let power := (match boot with | .bringup => min 1000 b.powerCeiling | _ => b.powerCeiling)
  let f := s.freeNat
  { f.2 with
    procs := [(0, { root := f.1 % (top / 0x20000) * 0x20000, tenant := 0, faultPort := 0, pagerPort := 0, frames := [] })]
    framePool := bootFrames (top - b.sharedSize)
    fab := { s.fab with sharedSize := b.sharedSize }
    svc := { s.svc with
      boot := boot, failingCheck := 0, powerCeiling := power, linkCeilings := b.linkCeilings, firmware := b.firmware
      identity := if imageSigned b.identity b.fuses then b.identity.bytes else [], moduleCap := power, nextTick := (if boot = .bringup then 5000 else 10000) } }

/-- A package reset: the boot ROM verifies the main image, or else the bring-up image under the same rules, or the package stays
in reset with the failing check in its status word (R431, R432). An identity whose signatures do not verify is not shown. The
host's memory is not the package's. -/
def execPackageReset (boot : BootBlock) (s : State) : Out :=
  if !bootOk boot then .next s
  else
    let s1 : State := { State.reset with hostMem := s.hostMem, agenda := s.agenda, freeCtr := s.freeCtr, nextSerial := s.nextSerial }
    .next (if imagePasses boot.main boot.fuses then s1.bootUp boot .running
      else if imagePasses boot.bringup boot.fuses then { s1.bootUp boot .bringup with
        svc := { (s1.bootUp boot .bringup).svc with failingCheck := boot.failingCheck } }
      else { s1 with svc := { s1.svc with boot := .failed, failingCheck := boot.failingCheck } })

end Sys2Proof.Machine
end

