-- ==== Sys2Proof/Machine/Dispatch.lean ====
section
/-! DEFINITION. `exec`: one arm per row of spec/opcode_table.json, each a direct call of its meaning. -/

namespace Sys2Proof.Machine

/-- What instruction `i` does at state `s`. -/
def exec (i : Instr) (s : State) : Host.Outcome State Fault Refusal :=
  match i with
  | .add h o => Sys2Proof.Machine.execAdd h o s
  | .addImm h o => Sys2Proof.Machine.execAddImm h o s
  | .addc h o => Sys2Proof.Machine.execAddc h o s
  | .addcImm h o => Sys2Proof.Machine.execAddcImm h o s
  | .sub h o => Sys2Proof.Machine.execSub h o s
  | .subImm h o => Sys2Proof.Machine.execSubImm h o s
  | .subb h o => Sys2Proof.Machine.execSubb h o s
  | .subbImm h o => Sys2Proof.Machine.execSubbImm h o s
  | .mul h o => Sys2Proof.Machine.execMul h o s
  | .mulImm h o => Sys2Proof.Machine.execMulImm h o s
  | .mulh h o => Sys2Proof.Machine.execMulh h o s
  | .mulhImm h o => Sys2Proof.Machine.execMulhImm h o s
  | .mad h o => Sys2Proof.Machine.execMad h o s
  | .div h o => Sys2Proof.Machine.execDiv h o s
  | .divImm h o => Sys2Proof.Machine.execDivImm h o s
  | .rem h o => Sys2Proof.Machine.execRem h o s
  | .remImm h o => Sys2Proof.Machine.execRemImm h o s
  | .min h o => Sys2Proof.Machine.execMin h o s
  | .minImm h o => Sys2Proof.Machine.execMinImm h o s
  | .max h o => Sys2Proof.Machine.execMax h o s
  | .maxImm h o => Sys2Proof.Machine.execMaxImm h o s
  | .abs h o => Sys2Proof.Machine.execAbs h o s
  | .neg h o => Sys2Proof.Machine.execNeg h o s
  | .and h o => Sys2Proof.Machine.execAnd h o s
  | .andImm h o => Sys2Proof.Machine.execAndImm h o s
  | .or h o => Sys2Proof.Machine.execOr h o s
  | .orImm h o => Sys2Proof.Machine.execOrImm h o s
  | .xor h o => Sys2Proof.Machine.execXor h o s
  | .xorImm h o => Sys2Proof.Machine.execXorImm h o s
  | .andn h o => Sys2Proof.Machine.execAndn h o s
  | .andnImm h o => Sys2Proof.Machine.execAndnImm h o s
  | .not h o => Sys2Proof.Machine.execNot h o s
  | .shl h o => Sys2Proof.Machine.execShl h o s
  | .shlImm h o => Sys2Proof.Machine.execShlImm h o s
  | .shr h o => Sys2Proof.Machine.execShr h o s
  | .shrImm h o => Sys2Proof.Machine.execShrImm h o s
  | .sha h o => Sys2Proof.Machine.execSha h o s
  | .shaImm h o => Sys2Proof.Machine.execShaImm h o s
  | .rot h o => Sys2Proof.Machine.execRot h o s
  | .rotImm h o => Sys2Proof.Machine.execRotImm h o s
  | .shf h o => Sys2Proof.Machine.execShf h o s
  | .bfe h o => Sys2Proof.Machine.execBfe h o s
  | .bfeImm h o => Sys2Proof.Machine.execBfeImm h o s
  | .bfi h o => Sys2Proof.Machine.execBfi h o s
  | .popc h o => Sys2Proof.Machine.execPopc h o s
  | .clz h o => Sys2Proof.Machine.execClz h o s
  | .ctz h o => Sys2Proof.Machine.execCtz h o s
  | .brev h o => Sys2Proof.Machine.execBrev h o s
  | .perm h o => Sys2Proof.Machine.execPerm h o s
  | .permImm h o => Sys2Proof.Machine.execPermImm h o s
  | .sel h o => Sys2Proof.Machine.execSel h o s
  | .selImm h o => Sys2Proof.Machine.execSelImm h o s
  | .cmp h o => Sys2Proof.Machine.execCmp h o s
  | .cmpImm h o => Sys2Proof.Machine.execCmpImm h o s
  | .lea h o => Sys2Proof.Machine.execLea h o s
  | .leaImm h o => Sys2Proof.Machine.execLeaImm h o s
  | .mov h o => Sys2Proof.Machine.execMov h o s
  | .movi h o => Sys2Proof.Machine.execMovi h o s
  | .sxt h o => Sys2Proof.Machine.execSxt h o s
  | .zxt h o => Sys2Proof.Machine.execZxt h o s
  | .plop h o => Sys2Proof.Machine.execPlop h o s
  | .sread h o => Sys2Proof.Machine.execSread h o s
  | .swrite h o => Sys2Proof.Machine.execSwrite h o s
  | .fadd h o => Sys2Proof.Machine.execFadd h o s
  | .faddImm h o => Sys2Proof.Machine.execFaddImm h o s
  | .fsub h o => Sys2Proof.Machine.execFsub h o s
  | .fsubImm h o => Sys2Proof.Machine.execFsubImm h o s
  | .fmul h o => Sys2Proof.Machine.execFmul h o s
  | .fmulImm h o => Sys2Proof.Machine.execFmulImm h o s
  | .ffma h o => Sys2Proof.Machine.execFfma h o s
  | .fmin h o => Sys2Proof.Machine.execFmin h o s
  | .fminImm h o => Sys2Proof.Machine.execFminImm h o s
  | .fmax h o => Sys2Proof.Machine.execFmax h o s
  | .fmaxImm h o => Sys2Proof.Machine.execFmaxImm h o s
  | .fcmp h o => Sys2Proof.Machine.execFcmp h o s
  | .fcmpImm h o => Sys2Proof.Machine.execFcmpImm h o s
  | .fclass h o => Sys2Proof.Machine.execFclass h o s
  | .frcp h o => Sys2Proof.Machine.execFrcp h o s
  | .frsq h o => Sys2Proof.Machine.execFrsq h o s
  | .fsqrt h o => Sys2Proof.Machine.execFsqrt h o s
  | .fdiv h o => Sys2Proof.Machine.execFdiv h o s
  | .fexp2 h o => Sys2Proof.Machine.execFexp2 h o s
  | .flog2 h o => Sys2Proof.Machine.execFlog2 h o s
  | .fsin h o => Sys2Proof.Machine.execFsin h o s
  | .fcos h o => Sys2Proof.Machine.execFcos h o s
  | .ftanh h o => Sys2Proof.Machine.execFtanh h o s
  | .fscale h o => Sys2Proof.Machine.execFscale h o s
  | .fscaleImm h o => Sys2Proof.Machine.execFscaleImm h o s
  | .frnd h o => Sys2Proof.Machine.execFrnd h o s
  | .cvt h o => Sys2Proof.Machine.execCvt h o s
  | .dot4 h o => Sys2Proof.Machine.execDot4 h o s
  | .hadd2 h o => Sys2Proof.Machine.execHadd2 h o s
  | .hadd2Imm h o => Sys2Proof.Machine.execHadd2Imm h o s
  | .hmul2 h o => Sys2Proof.Machine.execHmul2 h o s
  | .hmul2Imm h o => Sys2Proof.Machine.execHmul2Imm h o s
  | .hfma2 h o => Sys2Proof.Machine.execHfma2 h o s
  | .shfl h o => Sys2Proof.Machine.execShfl h o s
  | .shflImm h o => Sys2Proof.Machine.execShflImm h o s
  | .vote h o => Sys2Proof.Machine.execVote h o s
  | .ballot h o => Sys2Proof.Machine.execBallot h o s
  | .matchLanes h o => Sys2Proof.Machine.execMatchLanes h o s
  | .redux h o => Sys2Proof.Machine.execRedux h o s
  | .laneperm h o => Sys2Proof.Machine.execLaneperm h o s
  | .lanepermImm h o => Sys2Proof.Machine.execLanepermImm h o s
  | .bra h o => Sys2Proof.Machine.execBra h o s
  | .brx h o => Sys2Proof.Machine.execBrx h o s
  | .call h o => Sys2Proof.Machine.execCall h o s
  | .callx h o => Sys2Proof.Machine.execCallx h o s
  | .ret h o => Sys2Proof.Machine.execRet h o s
  | .join h o => Sys2Proof.Machine.execJoin h o s
  | .waitj h o => Sys2Proof.Machine.execWaitj h o s
  | .exit h o => Sys2Proof.Machine.execExit h o s
  | .nop h o => Sys2Proof.Machine.execNop h o s
  | .delay h o => Sys2Proof.Machine.execDelay h o s
  | .yield h o => Sys2Proof.Machine.execYield h o s
  | .backoff h o => Sys2Proof.Machine.execBackoff h o s
  | .twait h o => Sys2Proof.Machine.execTwait h o s
  | .treset h o => Sys2Proof.Machine.execTreset h o s
  | .tread h o => Sys2Proof.Machine.execTread h o s
  | .regq h o => Sys2Proof.Machine.execRegq h o s
  | .ld h o => Sys2Proof.Machine.execLd h o s
  | .st h o => Sys2Proof.Machine.execSt h o s
  | .lde h o => Sys2Proof.Machine.execLde h o s
  | .lda h o => Sys2Proof.Machine.execLda h o s
  | .sta h o => Sys2Proof.Machine.execSta h o s
  | .ldw h o => Sys2Proof.Machine.execLdw h o s
  | .ldc h o => Sys2Proof.Machine.execLdc h o s
  | .atom h o => Sys2Proof.Machine.execAtom h o s
  | .red h o => Sys2Proof.Machine.execRed h o s
  | .mcas h o => Sys2Proof.Machine.execMcas h o s
  | .fence h o => Sys2Proof.Machine.execFence h o s
  | .wbr h o => Sys2Proof.Machine.execWbr h o s
  | .invr h o => Sys2Proof.Machine.execInvr h o s
  | .pref h o => Sys2Proof.Machine.execPref h o s
  | .ipref h o => Sys2Proof.Machine.execIpref h o s
  | .ipin h o => Sys2Proof.Machine.execIpin h o s
  | .iunpin h o => Sys2Proof.Machine.execIunpin h o s
  | .watch h o => Sys2Proof.Machine.execWatch h o s
  | .barArrive h o => Sys2Proof.Machine.execBarArrive h o s
  | .barWait h o => Sys2Proof.Machine.execBarWait h o s
  | .barSync h o => Sys2Proof.Machine.execBarSync h o s
  | .barArriveImm h o => Sys2Proof.Machine.execBarArriveImm h o s
  | .barSyncImm h o => Sys2Proof.Machine.execBarSyncImm h o s
  | .sqinit h o => Sys2Proof.Machine.execSqinit h o s
  | .sqpush h o => Sys2Proof.Machine.execSqpush h o s
  | .sqpushCredit h o => Sys2Proof.Machine.execSqpushCredit h o s
  | .sqpop h o => Sys2Proof.Machine.execSqpop h o s
  | .sqpopFree h o => Sys2Proof.Machine.execSqpopFree h o s
  | .cpy h o => Sys2Proof.Machine.execCpy h o s
  | .cpym h o => Sys2Proof.Machine.execCpym h o s
  | .cpys h o => Sys2Proof.Machine.execCpys h o s
  | .cpyg h o => Sys2Proof.Machine.execCpyg h o s
  | .cpyx h o => Sys2Proof.Machine.execCpyx h o s
  | .seal h o => Sys2Proof.Machine.execSeal h o s
  | .cptr h o => Sys2Proof.Machine.execCptr h o s
  | .cptrIptr h o => Sys2Proof.Machine.execCptrIptr h o s
  | .cptrStat h o => Sys2Proof.Machine.execCptrStat h o s
  | .cinit h o => Sys2Proof.Machine.execCinit h o s
  | .carr h o => Sys2Proof.Machine.execCarr h o s
  | .gset h o => Sys2Proof.Machine.execGset h o s
  | .gsetImm h o => Sys2Proof.Machine.execGsetImm h o s
  | .gclr h o => Sys2Proof.Machine.execGclr h o s
  | .gclrImm h o => Sys2Proof.Machine.execGclrImm h o s
  | .mma h o => Sys2Proof.Machine.execMma h o s
  | .mzero h o => Sys2Proof.Machine.execMzero h o s
  | .mrd h o => Sys2Proof.Machine.execMrd h o s
  | .mwr h o => Sys2Proof.Machine.execMwr h o s
  | .mred h o => Sys2Proof.Machine.execMred h o s
  | .mmap h o => Sys2Proof.Machine.execMmap h o s
  | .mcvt h o => Sys2Proof.Machine.execMcvt h o s
  | .mtile h o => Sys2Proof.Machine.execMtile h o s
  | .wcreate h o => Sys2Proof.Machine.execWcreate h o s
  | .psend h o => Sys2Proof.Machine.execPsend h o s
  | .precv h o => Sys2Proof.Machine.execPrecv h o s
  | .wsadd h o => Sys2Proof.Machine.execWsadd h o s
  | .wsdel h o => Sys2Proof.Machine.execWsdel h o s
  | .suspend h o => Sys2Proof.Machine.execSuspend h o s
  | .suspendX h o => Sys2Proof.Machine.execSuspendX h o s
  | .tarm h o => Sys2Proof.Machine.execTarm h o s
  | .tdisarm h o => Sys2Proof.Machine.execTdisarm h o s
  | .ecsig h o => Sys2Proof.Machine.execEcsig h o s
  | .ecread h o => Sys2Proof.Machine.execEcread h o s
  | .qenq h o => Sys2Proof.Machine.execQenq h o s
  | .dcinit h o => Sys2Proof.Machine.execDcinit h o s
  | .dcdec h o => Sys2Proof.Machine.execDcdec h o s
  | .objnew h o => Sys2Proof.Machine.execObjnew h o s
  | .objdel h o => Sys2Proof.Machine.execObjdel h o s
  | .objinfo h o => Sys2Proof.Machine.execObjinfo h o s
  | .nslook h o => Sys2Proof.Machine.execNslook h o s
  | .nsbind h o => Sys2Proof.Machine.execNsbind h o s
  | .grantrev h o => Sys2Proof.Machine.execGrantrev h o s
  | .syscall h o => Sys2Proof.Machine.execSyscall h o s
  | .launch h o => Sys2Proof.Machine.execLaunch h o s
  | .lstat h o => Sys2Proof.Machine.execLstat h o s
  | .ctadmit h o => Sys2Proof.Machine.execCtadmit h o s
  | .phint h o => Sys2Proof.Machine.execPhint h o s
  | .phintFull h o => Sys2Proof.Machine.execPhintFull h o s
  | .trap h o => Sys2Proof.Machine.execTrap h o s
  | .bkpt h o => Sys2Proof.Machine.execBkpt h o s
  | .rett h o => Sys2Proof.Machine.execRett h o s
  | .rettStep h o => Sys2Proof.Machine.execRettStep h o s
  | .csave h o => Sys2Proof.Machine.execCsave h o s
  | .crest h o => Sys2Proof.Machine.execCrest h o s
  | .ptinv h o => Sys2Proof.Machine.execPtinv h o s
  | .ptinvRsm h o => Sys2Proof.Machine.execPtinvRsm h o s
  | .ptinvEnd h o => Sys2Proof.Machine.execPtinvEnd h o s
  | .unassignedOpcode word => Sys2Proof.Machine.execUnassignedOpcode word s
  | .fixedLatencyWrite core wave => Sys2Proof.Machine.execFixedLatencyWrite core wave s
  | .divideComplete core wave op => Sys2Proof.Machine.execDivideComplete core wave op s
  | .tokenRetire core wave tok => Sys2Proof.Machine.execTokenRetire core wave tok s
  | .waveAged core wave => Sys2Proof.Machine.execWaveAged core wave s
  | .yieldExpiry core wave => Sys2Proof.Machine.execYieldExpiry core wave s
  | .waveRetire core wave => Sys2Proof.Machine.execWaveRetire core wave s
  | .icacheLineFill core asid line => Sys2Proof.Machine.execIcacheLineFill core asid line s
  | .tlbWalkComplete core asid page => Sys2Proof.Machine.execTlbWalkComplete core asid page s
  | .homeLoad req => Sys2Proof.Machine.execHomeLoad req s
  | .homeStore req => Sys2Proof.Machine.execHomeStore req s
  | .storeAck req => Sys2Proof.Machine.execStoreAck req s
  | .leaseExpiry inL1 unit line => Sys2Proof.Machine.execLeaseExpiry inL1 unit line s
  | .lineLeavesSlice line => Sys2Proof.Machine.execLineLeavesSlice line s
  | .l1Eviction core line => Sys2Proof.Machine.execL1Eviction core line s
  | .manualWritebackMerge wb => Sys2Proof.Machine.execManualWritebackMerge wb s
  | .atomicPerform req => Sys2Proof.Machine.execAtomicPerform req s
  | .mcasLock req => Sys2Proof.Machine.execMcasLock req s
  | .mcasComplete req => Sys2Proof.Machine.execMcasComplete req s
  | .shootdownComplete sd => Sys2Proof.Machine.execShootdownComplete sd s
  | .watchFire watch => Sys2Proof.Machine.execWatchFire watch s
  | .missSplitWake core wave op => Sys2Proof.Machine.execMissSplitWake core wave op s
  | .cacheOpComplete req => Sys2Proof.Machine.execCacheOpComplete req s
  | .sqHeaderWake core q => Sys2Proof.Machine.execSqHeaderWake core q s
  | .copyAccept core cmd => Sys2Proof.Machine.execCopyAccept core cmd s
  | .copyGuardResolve core cmd => Sys2Proof.Machine.execCopyGuardResolve core cmd s
  | .copyStart core chan => Sys2Proof.Machine.execCopyStart core chan s
  | .copyDeliver core cmd bytes => Sys2Proof.Machine.execCopyDeliver core cmd bytes s
  | .copyComplete core cmd => Sys2Proof.Machine.execCopyComplete core cmd s
  | .copyFaultHalt core cmd => Sys2Proof.Machine.execCopyFaultHalt core cmd s
  | .carrDeferredArrival core wave lane => Sys2Proof.Machine.execCarrDeferredArrival core wave lane s
  | .cinitPerform core op => Sys2Proof.Machine.execCinitPerform core op s
  | .matrixAccept core cmd => Sys2Proof.Machine.execMatrixAccept core cmd s
  | .matrixGuardResolve core cmd => Sys2Proof.Machine.execMatrixGuardResolve core cmd s
  | .mmaBlockRead core cmd => Sys2Proof.Machine.execMmaBlockRead core cmd s
  | .matrixStart core cmd => Sys2Proof.Machine.execMatrixStart core cmd s
  | .mmaComplete core cmd => Sys2Proof.Machine.execMmaComplete core cmd s
  | .tileUnitComplete core cmd => Sys2Proof.Machine.execTileUnitComplete core cmd s
  | .wavePortComplete core cmd => Sys2Proof.Machine.execWavePortComplete core cmd s
  | .suspendReplayWake waiter => Sys2Proof.Machine.execSuspendReplayWake waiter s
  | .orreryWake waiter => Sys2Proof.Machine.execOrreryWake waiter s
  | .siderealExpiry obj => Sys2Proof.Machine.execSiderealExpiry obj s
  | .taskWaveForm core obj => Sys2Proof.Machine.execTaskWaveForm core obj s
  | .heldSuccessorEnqueue obj => Sys2Proof.Machine.execHeldSuccessorEnqueue obj s
  | .remoteMessageArrival pkg serial => Sys2Proof.Machine.execRemoteMessageArrival pkg serial s
  | .grantTakenNotice obj => Sys2Proof.Machine.execGrantTakenNotice obj s
  | .remoteGrantrev pkg serial => Sys2Proof.Machine.execRemoteGrantrev pkg serial s
  | .dieAgentClaim die => Sys2Proof.Machine.execDieAgentClaim die s
  | .crewStart core => Sys2Proof.Machine.execCrewStart core s
  | .crewRetire core => Sys2Proof.Machine.execCrewRetire core s
  | .gangGather die => Sys2Proof.Machine.execGangGather die s
  | .contractInstanceOpen obj => Sys2Proof.Machine.execContractInstanceOpen obj s
  | .contractShareReached obj core => Sys2Proof.Machine.execContractShareReached obj core s
  | .contractDeadline obj inst => Sys2Proof.Machine.execContractDeadline obj inst s
  | .budgetWindowClose tenant win watts => Sys2Proof.Machine.execBudgetWindowClose tenant win watts s
  | .precessionEval => Sys2Proof.Machine.execPrecessionEval s
  | .stageCoreLeave core => Sys2Proof.Machine.execStageCoreLeave core s
  | .preemptRequest core reason => Sys2Proof.Machine.execPreemptRequest core reason s
  | .forcedSaveTimeout core => Sys2Proof.Machine.execForcedSaveTimeout core s
  | .crewSave core => Sys2Proof.Machine.execCrewSave core s
  | .saveComplete core => Sys2Proof.Machine.execSaveComplete core s
  | .crewRestore frame core => Sys2Proof.Machine.execCrewRestore frame core s
  | .crewMove src dst => Sys2Proof.Machine.execCrewMove src dst s
  | .trapDelivery trap => Sys2Proof.Machine.execTrapDelivery trap s
  | .versionCommit core => Sys2Proof.Machine.execVersionCommit core s
  | .streamTimeout pkg => Sys2Proof.Machine.execStreamTimeout pkg s
  | .flitArrival msg => Sys2Proof.Machine.execFlitArrival msg s
  | .hostAccessTimeout req => Sys2Proof.Machine.execHostAccessTimeout req s
  | .hostCxlMemAccess acc => Sys2Proof.Machine.execHostCxlMemAccess acc s
  | .hostSnoopInvalidation line => Sys2Proof.Machine.execHostSnoopInvalidation line s
  | .hostAccessComplete req => Sys2Proof.Machine.execHostAccessComplete req s
  | .cxlLinkLoss => Sys2Proof.Machine.execCxlLinkLoss s
  | .ewcctlRestart => Sys2Proof.Machine.execEwcctlRestart s
  | .ewcNop => Sys2Proof.Machine.execEwcNop s
  | .ewcLaunch => Sys2Proof.Machine.execEwcLaunch s
  | .ewcLstat => Sys2Proof.Machine.execEwcLstat s
  | .ewcSend => Sys2Proof.Machine.execEwcSend s
  | .ewcHbind => Sys2Proof.Machine.execEwcHbind s
  | .ewcHunbind => Sys2Proof.Machine.execEwcHunbind s
  | .log entry lane => Sys2Proof.Machine.execLog entry lane s
  | .evread entry lane => Sys2Proof.Machine.execEvread entry lane s
  | .evsel entry lane => Sys2Proof.Machine.execEvsel entry lane s
  | .ownports entry lane => Sys2Proof.Machine.execOwnports entry lane s
  | .proc entry lane => Sys2Proof.Machine.execProc entry lane s
  | .frames entry lane => Sys2Proof.Machine.execFrames entry lane s
  | .tenant entry lane => Sys2Proof.Machine.execTenant entry lane s
  | .firewall entry lane => Sys2Proof.Machine.execFirewall entry lane s
  | .stage entry lane => Sys2Proof.Machine.execStage entry lane s
  | .hwin entry lane => Sys2Proof.Machine.execHwin entry lane s
  | .route entry lane => Sys2Proof.Machine.execRoute entry lane s
  | .ewcset entry lane => Sys2Proof.Machine.execEwcset entry lane s
  | .caps entry lane => Sys2Proof.Machine.execCaps entry lane s
  | .ras entry lane => Sys2Proof.Machine.execRas entry lane s
  | .hbind entry lane => Sys2Proof.Machine.execHbind entry lane s
  | .powerGovernorTick watts => Sys2Proof.Machine.execPowerGovernorTick watts s
  | .thermalLimit hot => Sys2Proof.Machine.execThermalLimit hot s
  | .thermalShutdown => Sys2Proof.Machine.execThermalShutdown s
  | .eccCorrected core loc => Sys2Proof.Machine.execEccCorrected core loc s
  | .eccUncorrectable place => Sys2Proof.Machine.execEccUncorrectable place s
  | .packageReset boot => Sys2Proof.Machine.execPackageReset boot s
  | .objectCallPerform call => Sys2Proof.Machine.execObjectCallPerform call s
  | .watchArm req => Sys2Proof.Machine.execWatchArm req s
  | .loadComplete core wave op => Sys2Proof.Machine.execLoadComplete core wave op s
  | .cxlLinkUp port rate width => Sys2Proof.Machine.execCxlLinkUp port rate width s
  | .doeRequest port kind => Sys2Proof.Machine.execDoeRequest port kind s

end Sys2Proof.Machine
end

