-- ==== Sys2Proof/Machine/Fetch.lean ====
section
/-! DEFINITION. The instruction that the cursor's split issues (R30 to R37, R57, R61): its line, the checks that precede
the decode, and the instruction; with the choice of the split that issues next (R59, R108, R128, R129). -/

namespace Sys2Proof.Machine

/-! ## Fetching (R33, R34, R37) -/

/-- What a fetch gives: no such wave, a state in which nothing is to be run, or an instruction with the state in which it
runs. -/
inductive Fetched where
  | lost
  | done (t : State)
  | run (i : Instr) (t : State)
  deriving DecidableEq, Repr

/-- The line of the instruction cache at a PC. -/
def Core.lineAt (k : Core) (asid : Nat) (pc : PC) : Option (BitVec 512) :=
  (k.icache.find? (fun x => x.asid == asid && x.line == lineOf pc)).map (·.bits)

/-- The transfer that brought one of the splits to the slot fails its BTM check (R36). -/
def targetBad (bits : BitVec 512) (slot : Nat) (sp : List Split) : Bool :=
  sp.any (fun p => p.origin.isSome) && !lineBtm (lineWord bits) slot

/-- The parities of the line word and of the slot that issues (R32): the target of a transfer that its BTM bit refuses does
not issue. -/
def parityOk (bits : BitVec 512) (slot : Nat) (sp : List Split) : Bool :=
  lineParityOk (lineWord bits) && (targetBad bits slot sp || slotParityOk bits slot)

/-- The line without its copy in the instruction cache of core c. -/
def State.dropILine (s : State) (c asid line : Nat) : State :=
  s.modCore c (fun k => { k with icache := k.icache.filter (fun x => !(x.asid == asid && x.line == line)) })

/-- The BTM check of the transfers that brought splits to the PC (R37): lanes whose target fails it take ILLEGAL_TARGET at
the PC of their transfer. The second slot of a pair goes on without them (R60). -/
def State.targetTraps (s : State) (cur : Cursor) (sp : List Split) : State :=
  sp.foldl (fun t p => match p.origin with
    | some o => t.takeTrap cur.core cur.wave p.mask 0x05 0 o cur.pc.toNat o
    | none => t) (if cur.second.isSome then s else { s with cursor := none })

/-- The target of every split of lanes `m` that stands at the PC has been checked. -/
def Wave.targetOk (w : Wave) (pc : PC) (m : Lanes) : Wave :=
  { w with splits := w.splits.map (fun p =>
      if p.isReady && p.pc == pc && (p.mask &&& m) != 0 then { p with origin := none } else p) }

/-- The slot of a line whose parity holds: the check of a transfer's target, that of the line word (R34), and the
decode (R57). -/
def fetchSlot (s : State) (cur : Cursor) (sp : List Split) (bits : BitVec 512) : Fetched :=
  let t := s.modWave cur.core cur.wave (fun w => w.targetOk cur.pc (lanesOfSplits sp))
  if targetBad bits (slotOf cur.pc) sp then .done (s.targetTraps cur sp)
  else if !lineWordOk (lineWord bits) then .done (decodeFault t 0x02)
  else match decode (lineSlot bits (slotOf cur.pc)) with
    | .ok i => .run i t
    | .error .illegalEncoding => .done (decodeFault t 0x02)
    | .error .illegalModifier => .done (decodeFault t 0x03)

/-! ## Pairs (R59) -/

/-- The major opcode of a slot (Table 2-3). -/
def slotOpcode (w : Nat) : Nat := w / 2 ^ 88 % 256

/-- A slot of the major opcodes 0x00 to 0x6F, and one of those that may issue beside it: `ld`, `st`, `lde`, `lda`, `sta`,
`ldw`, `ldc`, `atom`, `red`, `pref`, the copies, `mma`, `mzero`, `mred`, `mmap` and `mcvt`. -/
def pairArith (w : Nat) : Bool := decide (slotOpcode w < 0x70)

def pairMemory (w : Nat) : Bool :=
  [0x80, 0x81, 0x82, 0x83, 0x84, 0x85, 0x86, 0x87, 0x88, 0x8D, 0xA0, 0xA1, 0xA2, 0xA3, 0xA4, 0xB0, 0xB1, 0xB4, 0xB5, 0xB6].contains
    (slotOpcode w)

/-- The registers that a use names, by file and number. -/
def useRegs (u : Use) : List Nat :=
  match u.op with
  | .v r => (List.range u.n).map (fun i => r.toNat + i)
  | .s r => (List.range u.n).map (fun i => 1024 + r.toNat + i)
  | _ => []

/-- The registers and predicates that an instruction reads or writes, and those that it writes. -/
def regsOf (r : Row) (h : Hdr) : List Nat :=
  r.uses.flatMap useRegs ++ ((h.pred.toNat :: (r.pRead ++ r.pWrite)).filter (fun p => decide (p < 7))).map (fun p => 2048 + p)

def regsWritten (r : Row) : List Nat :=
  (r.uses.filter (·.wr)).flatMap useRegs ++ (r.pWrite.filter (fun p => decide (p < 7))).map (fun p => 2048 + p)

/-- No instruction of the pair writes a register that the other reads or writes. -/
def pairApart (r1 r2 : Row) (h1 h2 : Hdr) : Bool :=
  (regsWritten r1).all (fun x => !(regsOf r2 h2).contains x) && (regsWritten r2).all (fun x => !(regsOf r1 h1).contains x)

/-- Both posts fit, the first counted before the second. -/
def Wave.postsFit (x : Wave) (h1 h2 : Hdr) : Bool :=
  match h1.post, h2.post with
  | some a, some b => a != b || decide (x.count a.toNat < 62)
  | _, _ => true

/-- The instruction raises no fault at its decode (R57). -/
def Wave.plain (x : Wave) (i : Instr) (r : Row) : Bool :=
  !(privileged i r && x.asid != 0) && r.uses.all (fun u => useInQuota u (quotaFor i x.quota))

/-- A held fault of the lanes is consumed by the waits of an instruction, which then stands at a boundary (R27). -/
def State.dueAt (s : State) (c w : Nat) (x : Wave) (m : Lanes) (ws : List (Nat × Nat)) : Bool :=
  s.traps.any (fun t => t.core == c && t.wave == w && t.uid == s.uidOf c && !t.free && (t.lanes &&& m) != 0 && t.due x ws)

/-- The second slot of a pair beside its first, instruction `r1` with header `h1`, for the lanes `m`: it neither shares a
register nor waits on the first's token, and meets R128, of which one that faults at its decode awaits no more than its first
does (R60). DESIGN CHOICE (notes/assumptions/87): a slot that does not decode names no register and no wait. -/
def State.pairsWith (s : State) (c w : Nat) (x : Wave) (m : Lanes) (r1 : Row) (h1 : Hdr) (slot : Nat) : Bool :=
  match decode slot with
  | .error _ => true
  | .ok j =>
    match j.shape.row, j.shape.hdr with
    | some r2, some h2 =>
      pairApart r1 r2 h1 h2
        && (match h1.post with | some t => !(waitsOf j h2).any (fun e => e.1 == t.toNat) | none => true)
        && (!x.plain j r2
          || (!s.dueAt c w x m (waitsOf j h2) && s.canIssue c w x j r2 h2 && x.postsFit h1 h2))
    | _, _ => true

/-- The slots of a line, from a PC, issue as a pair for the splits `sp`. -/
def State.pairs (s : State) (c w : Nat) (x : Wave) (pc : PC) (bits : BitVec 512) (sp : List Split) : Bool :=
  let n := slotOf pc
  pairNamed (lineTpl (lineWord bits)) n && sp.all (fun p => !p.stepOne && p.stop.isNone) && !targetBad bits n sp
    && parityOk bits n sp && parityOk bits (n + 1) []
    && (pairArith (lineSlot bits n) && pairMemory (lineSlot bits (n + 1))
      || pairMemory (lineSlot bits n) && pairArith (lineSlot bits (n + 1)))
    && (match decode (lineSlot bits n) with
      | .ok i =>
        match i.shape.row, i.shape.hdr with
        | some r1, some h1 =>
          x.plain i r1 && s.canIssue c w x i r1 h1 && s.pairsWith c w x (lanesOfSplits sp) r1 h1 (lineSlot bits (n + 1))
        | _, _ => false
      | .error _ => false)

/-! ## The fetch (R33) -/

/-- The fetch of the cursor's split. A line that fails its parity is fetched once more (R33), and a pair is judged on the
line that issues. -/
def fetch (s : State) (cur : Cursor) : Fetched :=
  match s.wave? cur.core cur.wave with
  | none => .lost
  | some x =>
    let sp := x.execSplits cur.pc cur.lanes
    match sp, (s.core cur.core).lineAt x.asid cur.pc with
    | [], _ => .done { s with cursor := none }
    | _, none => .done { s with cursor := none }
    | _, some bits =>
      if parityOk bits (slotOf cur.pc) sp then fetchSlot s cur sp bits
      else
        let s1 := s.dropILine cur.core x.asid (lineOf cur.pc)
        match s1.fetchLine cur.core x.asid (lineOf cur.pc) with
        | .error c => .done (({ s1 with cursor := none } : State).fetchFault cur.core x.asid (lineOf cur.pc) c)
        | .ok t =>
          match (t.core cur.core).lineAt x.asid cur.pc with
          | some b =>
            let cur1 := { cur with pair := cur.second.isNone && t.pairs cur.core cur.wave x cur.pc b sp }
            if parityOk b (slotOf cur.pc) sp then fetchSlot { t with cursor := some cur1 } cur1 sp b else .done (decodeFault t 0x50)
          | none => .done { t with cursor := none }

/-! ## Selection (R108, R128, R129, R166) -/

/-- A READY split meets R128: one whose next instruction faults at its decode, or that a debug stop stops, awaits its
stall and its line alone. -/
def State.issuable (s : State) (c w : Nat) (x : Wave) (p : Split) : Bool :=
  p.isReady && !s.restHeld c x && decide (p.notBefore ≤ s.clock) && decide (x.notBefore ≤ s.clock)
    && (match (s.core c).lineAt x.asid p.pc with
      | none => false
      | some bits =>
        p.stop.isSome || !parityOk bits (slotOf p.pc) [p] || !lineWordOk (lineWord bits) || targetBad bits (slotOf p.pc) [p]
          || (match decode (lineSlot bits (slotOf p.pc)) with
            | .ok i => match i.shape.row, i.shape.hdr with
              | some r, some h => !x.plain i r || s.canIssue c w x i r h
              | _, _ => true
            | .error _ => true))

/-- R108: of the eligible splits of a wave, the one that has been READY longest, or on a tie the one that holds the lowest
lane. -/
def State.splitOf (s : State) (c w : Nat) (x : Wave) : Option Split :=
  (byReady (x.splits.filter (s.issuable c w x))).head?

/-- R129 and R166: wave a comes before wave b. -/
def waveBefore (a b : Nat × Wave) : Bool :=
  let x := a.2
  let y := b.2
  let later := decide (x.readySince < y.readySince) || (x.readySince == y.readySince && decide (a.1 ≤ b.1))
  let alike := if x.yieldUntil.isSome != y.yieldUntil.isSome then y.yieldUntil.isSome
    else if x.rt != y.rt then x.rt
    else if x.level ≠ y.level then decide (y.level < x.level)
    else later
  match x.agedAt, y.agedAt with
  | some t, some u => if t = u then alike else decide (t < u)
  | some _, none => true
  | none, some _ => false
  | none, none => alike

/-- The cursor of the wave that a quadrant issues in this cycle, if it has a ready wave and has not issued. -/
def State.quadIssue (s : State) (c q : Nat) : Option Cursor :=
  let k := s.core c
  if Tbl.getD k.issued q 0 = s.clock + 1 then none
  else
    let ready := (k.waves.filter (fun e => quadOf e.1 == q)).filter (fun e => (s.splitOf c e.1 e.2).isSome)
    ((sortBy waveBefore ready).head?).bind (fun e => (s.splitOf c e.1 e.2).map (fun p =>
      { core := c, wave := e.1, pc := p.pc, lanes := p.mask
        pair := (match k.lineAt e.2.asid p.pc with
          | some bits => s.pairs c e.1 e.2 p.pc bits (e.2.execSplits p.pc p.mask)
          | none => false)
        second := none }))

/-- The issues of this cycle that are still to come. -/
def State.issues (s : State) : List Cursor :=
  if s.issueCycle then
    s.cores.flatMap (fun e => if e.2.waves.isEmpty then [] else (List.range 4).filterMap (fun q => s.quadIssue e.1 q))
  else []

/-! ## Placing an instruction -/

/-- The PC at which `placeWord` puts an instruction. -/
def placedPc : PC := 0x10000

/-- Core 0 begins a crew of one wave of the supervisor process, whose 32 lanes stand at `placedPc` with 256 registers; its
instruction cache holds there a line with the slot `w`, and the cursor names the wave. It stands for the load of a
program from outside (notes/assumptions/12). -/
def placeWord (s : State) (w : Nat) : State :=
  let line : ILine := { asid := 0, line := lineOf placedPc, bits := buildLine [w, 0, 0, 0, 0] 1 0, bad := false }
  let crew : Crew := { Crew.fresh s.nextId 0 (s.tenantOfAsid 0) s.clock with waves := 1, crewNo := 0 }
  let s1 : State := ({ s with nextId := s.nextId + 1, agenda := [] } : State).beginOn 0 crew
  let s2 := s1.modCore 0 (fun k => { k with
    waves := [(0, Wave.start 0 (lowLanes 32) placedPc s.clock 256 0)], busy := [], issued := [], icache := [line] })
  { s2 with cursor := some { core := 0, wave := 0, pc := placedPc, lanes := lowLanes 32, pair := false, second := none } }

/-! ## The clock (R16, R428) -/

/-- A READY split waits for a token. -/
def Core.waitsOnToken (k : Core) : Bool :=
  k.waves.any (fun e => e.2.splits.any (fun p => p.isReady && (match k.slotAt e.2.asid p.pc with
    | some i => match i.shape.hdr with | some h => (waitsOf i h).any (fun w => decide (w.2 < e.2.count w.1)) | none => false
    | none => false)))

/-- The state as the issues of this cycle found core `c`: a datapath taken in it was free (R116), and the claim of an aged wave
makes no other wave unready (R128, R131). -/
def State.asFound (s : State) (c : Nat) : State :=
  s.modCore c (fun k => { k with
    busy := k.busy.filter (fun e => Tbl.getD k.taken e.1 0 != s.clock + 1)
    agedFor := [] })

/-- A wave is ready in this cycle (R128); the governor holds every datapath in the cycles that it withholds (R430). -/
def State.wasReady (s : State) (c w : Nat) (x : Wave) : Bool := s.issueCycle && x.splits.any ((s.asFound c).issuable c w x)

/-- A core counts the cycle that ends: a cycle (1), one in which a ready wave does not issue (4), one in which a split
waits on a token (5), one in which the array streams (9), and one that the governor holds (14). -/
def State.countCycle (s : State) (c : Nat) (k : Core) : Core :=
  if k.evSel.isEmpty then k
  else
    let ready := k.waves.any (fun e => s.wasReady c e.1 e.2)
    let one := fun (b : Bool) => if b then 1 else 0
    ((((k.countEv 1 1).countEv 4 (one ready)).countEv 5 (one k.waitsOnToken)).countEv 9 (one (decide (s.clock < k.arrayFree)))).countEv 14
      (one (!s.issueCycle))

/-- In this cycle the wave is ready, or held only by a busy datapath (R131). -/
def State.standsReady (s : State) (c w : Nat) (x : Wave) : Bool :=
  x.splits.any (fun p => (s.readyBut c x p).isSome || s.issuable c w x p)

/-- A wave that was not ready in the cycle that ends has been ready no longer than from the next (R129), and likewise one that
was neither ready nor held only by a busy datapath (R131). -/
def State.readyOn (s : State) (c : Nat) (k : Core) : Core :=
  { k with waves := k.waves.map (fun e =>
      let y := if s.wasReady c e.1 e.2 then e.2 else { e.2 with readySince := max e.2.readySince (s.clock + 1) }
      (e.1, if s.standsReady c e.1 e.2 then y else { y with waitSince := max y.waitSince (s.clock + 1) })) }

/-- The next cycle begins. -/
def State.tick (s : State) : State :=
  { s with clock := s.clock + 1, cores := s.cores.map (fun e => (e.1, s.readyOn e.1 (s.countCycle e.1 e.2))) }

end Sys2Proof.Machine
end

