-- ==== Sys2Proof/Machine/Schedule.lean ====
section
/-! DEFINITION. What happens next when no instruction is under way (R25, R26): the steps of the engines that are due, a
choice among those that may happen and the issues of this cycle (R129), or the next cycle. -/

namespace Sys2Proof.Machine

/-- A step of an engine, with its arguments. -/
abbrev Act := State → Out

/-! ## The steps that a state may hold, whether or not their time has come -/

/-- Steps of one wave. -/
def waveActs (c w : Nat) (x : Wave) : List Act :=
  (if x.pend.isEmpty then [] else [execFixedLatencyWrite c w])
    ++ (x.pend.filter (·.isDiv)).filterMap (fun e => e.op.map (fun o => execDivideComplete c w o))
    ++ x.toks.map (fun e => execTokenRetire c w e.1)
    ++ [execWaveAged c w, execYieldExpiry c w, execWaveRetire c w]
    ++ x.outs.map (fun o => execLoadComplete c w o.id)
    ++ x.splits.filterMap (fun p => match p.st with | .suspended (.miss op) => some (execMissSplitWake c w op) | _ => none)
    ++ (x.splits.filter Split.isReady).map (fun p => execIcacheLineFill c x.asid (lineOf p.pc))

/-- Steps of the copy engine of a core. -/
def copyActs (c : Nat) (k : Core) (fc : Nat) : List Act :=
  k.cmds.flatMap (fun e => [execCopyAccept c e.1, execCopyGuardResolve c e.1, execCopyDeliver c e.1 (Config.freePick fc % deliverMost + 1),
      execCopyComplete c e.1, execCopyFaultHalt c e.1])
    ++ k.chans.map (fun e => execCopyStart c e.1)
    ++ k.carrs.map (fun r => execCarrDeferredArrival c r.wave r.lane)
    ++ k.cinits.map (fun x => execCinitPerform c x.id)

/-- Steps of the matrix engine of a core. -/
def matActs (c : Nat) (k : Core) : List Act :=
  k.mats.flatMap (fun m => [execMatrixAccept c m.id, execMatrixGuardResolve c m.id, execMmaBlockRead c m.id, execMatrixStart c m.id,
    execMmaComplete c m.id, execTileUnitComplete c m.id, execWavePortComplete c m.id])

/-- Steps of the memory side, the crew and Dusk on a core. -/
def crewActs (c : Nat) (k : Core) : List Act :=
  k.walks.map (fun x => execTlbWalkComplete c x.asid x.page)
    ++ (k.pins.filter (fun p => (k.icache.find? (fun x => x.asid == p.1 && x.line == p.2)).isNone)).map (fun p =>
      execIcacheLineFill c p.1 p.2)
    ++ k.l1.flatMap (fun e => [execLeaseExpiry true c (e.1 / 2), execL1Eviction c (e.1 / 2)])
    ++ k.squeues.map (fun e => execSqHeaderWake c e.1)
    ++ [execCrewStart c, execCrewRetire c, execStageCoreLeave c, execForcedSaveTimeout c, execCrewSave c, execSaveComplete c, execVersionCommit c]
    ++ (match k.crew.bind (fun z => z.asked) with | some p => [execPreemptRequest c p.reason] | none => [])

/-- Steps of a core. -/
def coreActs (fc : Nat) (e : Nat × Core) : List Act :=
  e.2.waves.flatMap (fun x => waveActs e.1 x.1 x.2) ++ copyActs e.1 e.2 fc ++ matActs e.1 e.2 ++ crewActs e.1 e.2

/-- Steps of the memory engine. -/
def memActs (s : State) : List Act :=
  s.reqs.map (fun r t => .next (t.performLocal r.id))
    ++ s.reqs.flatMap (fun r => [execHomeLoad r.id, execHomeStore r.id, execStoreAck r.id, execAtomicPerform r.id, execMcasLock r.id,
      execMcasComplete r.id, execWatchArm r.id, execCacheOpComplete r.id, execHostAccessComplete r.id, fun t => .next (t.lodge r.id)])
    ++ s.writeBacks.map (fun w => execManualWritebackMerge w.id)
    ++ s.watches.map (fun w => execWatchFire w.id)
    ++ s.shoots.map (fun h => execShootdownComplete h.id)
    ++ s.lineTs.map (fun e => execLineLeavesSlice e.1)
    ++ s.clusters.flatMap (fun e => e.2.map (fun y => execLeaseExpiry false e.1 y.1))

/-- Steps of the Orrery: calls, wakes, timers, task waves and the traffic of other packages that has arrived. -/
def orreryActs (s : State) : List Act :=
  s.calls.map (fun x => execObjectCallPerform x.id)
    ++ s.waiters.flatMap (fun w => [execSuspendReplayWake w.id, execOrreryWake w.id])
    ++ s.traps.map (fun t => execTrapDelivery t.id)
    ++ s.objs.flatMap (fun (e : Nat × Obj) => match e.2.body with
      | .timer .. => [execSiderealExpiry e.1]
      | .queue q => execHeldSuccessorEnqueue e.1 :: (if q.tasks.isEmpty then [] else (List.range 1024).map (fun c => execTaskWaveForm c e.1))
      | .contract _ => execContractInstanceOpen e.1
          :: ((s.launches.filter (fun l => l.2.contract == some e.1)).flatMap (fun l => l.2.insts.map (fun i => execContractDeadline e.1 i.k))
            ++ s.cores.map (fun c => execContractShareReached e.1 c.1))
      | _ => [])
    ++ s.fab.sent.map (fun e => execGrantTakenNotice (handleIdx e.2.handle))
    ++ s.fab.hostQ.map (fun x => execHostCxlMemAccess x.acc)
    ++ s.fab.arrived.flatMap (fun m => [execRemoteMessageArrival m.pkg m.serial, execRemoteGrantrev m.pkg m.serial])

/-- Steps of Transit and of Dusk's resume lists. -/
def transitActs (s : State) : List Act :=
  (List.range 8).flatMap (fun d => [execDieAgentClaim d, execGangGather d])
    ++ [execPrecessionEval]
    ++ s.frames.flatMap (fun e => if e.2.state = 2 then
        (match e.2.target with | some c => [execCrewRestore e.1 c, execCrewMove e.2.corePos c] | none => [])
          ++ (List.range 1024).map (fun c => execCrewRestore e.1 c)
      else [])

/-- Steps of the service cores: the next lane of each entry of a mailbox ring. -/
def serviceActs (s : State) : List Act :=
  s.svc.rings.flatMap (fun e =>
    let l := lowestLane e.todo
    [execLog e.id l, execEvread e.id l, execEvsel e.id l, execOwnports e.id l, execProc e.id l, execFrames e.id l, execTenant e.id l,
      execFirewall e.id l, execStage e.id l, execHwin e.id l, execRoute e.id l, execEwcset e.id l, execCaps e.id l, execRas e.id l, execHbind e.id l])

/-- A service core writes 8 bytes, at an address and of a value that the spec leaves open (R426). -/
def serviceStore : Act := fun s =>
  .next (({ s with freeCtr := s.freeCtr + 2 } : State).serviceWrite ((Config.freeWord s.freeCtr).toNat % (2 ^ 53) * 8)
    (bytesOf 8 (Config.freeWord (s.freeCtr + 1)).toNat))

/-- All of them. -/
def allActs (s : State) : List Act :=
  s.cores.flatMap (coreActs s.freeCtr) ++ memActs s ++ orreryActs s ++ transitActs s ++ serviceActs s ++ [serviceStore]

/-- What an instruction that waits for its pages waits for, and its effect: the arguments of `issueWhen` in its meaning. -/
def heldParts (i : Instr) : Option ((Ctx → State → Option (List Nat)) × (Ctx → State → State)) :=
  match i with
  | .ld _ o => some (ldWait rightR (vecN o.mop * (o.ty.bits / 8)) o, ldBody o)
  | .st _ o => some (ldWait rightW (vecN o.mop * (o.ty.bits / 8)) o, stBody o)
  | .lde _ o => some (ldeWait o, ldeBody o)
  | .atom _ o => some (atomWait o, atomBody o)
  | .red _ o => some (atomWait o, redBody o)
  | .mcas _ o => some (mcasWait o, mcasBody o)
  | .wbr _ o => some (cacheWait rightW o, cacheOp o rightW ReqKind.wbr)
  | .invr _ o => some (cacheWait rightR o, cacheOp o rightR ReqKind.invr)
  | .watch _ o => some (ldWait rightR (o.ty.bits / 8) o, watchBody o)
  | .ipin _ o => some (ipinWait o, ipinBody o)
  | .psend _ o => some (recWait (fixedLen 64) (rightR + rightW) o.b, psendBody o)
  | .precv _ o => some (recWait (fixedLen 64) (rightR + rightW) o.b, precvBody o)
  | .qenq _ o => some (recWait (taskLen o.a) rightR o.b, qenqBody o)
  | .dcinit _ o => some (recWait (taskLen o.a) rightR o.b, dcinitBody o)
  | .objnew _ o => some (newWait o, objnewBody o)
  | .syscall _ o => some (syscallWait o, syscallBody o)
  | .launch _ o => some (recWait (fixedLen 64) rightR o.b, launchBody o)
  | .ctadmit _ o => some (recWait (fixedLen 64) rightR o.b, ctadmitBody o)
  | _ => none

/-- A held instruction goes on once its pages are translated (R434). -/
def resumeHeld (x : HeldIssue) : Act := fun s =>
  .next (match heldParts x.i with
    | some p => s.goOn x p.1 p.2
    | none => s)

/-- The guard writes of a core that are due are performed (R290). -/
def settleGuards (c : Nat) : Act := fun s => .next (s.settle c)

/-- Contracts (R370 to R372): deadlines, the opening of instances, and the charges that reach a share; Precession (R375) and
the windows of the budgets (R367). The estimate of a tenant's power is a free value (notes/assumptions/8). -/
def clockActs (s : State) : List Act :=
  s.launches.flatMap (fun l => match l.2.contract with
    | some i => l.2.insts.map (fun x => execContractDeadline i x.k) ++ [execContractInstanceOpen i]
        ++ s.cores.map (fun c => execContractShareReached i c.1)
    | none => [])
    ++ [execPrecessionEval]
    ++ ((s.svc.moved.map (·.1) ++ s.svc.budgets.map (·.1)).eraseDups).map (fun t =>
      execBudgetWindowClose t (s.clock / s.tenMicros - 1) (Config.freeWord s.freeCtr).toNat)

/-- Steps whose cycle has come: register writes that are due (R114, R142), retirements (R120), traps without a channel
(R27), ages and the ends of a yield (R131, R166), instructions whose pages have been translated, the acceptance of
commands in the cycle after their issue (R280, R304), what guards decide (R284, R308), the starts and completions of the
matrix units (R306, R307), the amounts of `cinit` (R287), accesses that the host leaves unanswered (R415), and what Transit does at a
time. -/
def dueActs (s : State) : List Act :=
  (s.traps.filter PTrap.free).map (fun t => execTrapDelivery t.id)
    ++ s.held.map resumeHeld
    ++ s.cores.flatMap (fun e =>
      e.2.waves.flatMap (fun x => (x.2.pend.filter (fun p => decide (p.due < s.clock))).map (fun p =>
          if p.isDiv then execDivideComplete e.1 x.1 (p.op.getD 0) else execFixedLatencyWrite e.1 x.1)
          ++ x.2.toks.map (fun y => execTokenRetire e.1 x.1 y.1) ++ [execWaveAged e.1 x.1, execYieldExpiry e.1 x.1])
        ++ (if e.2.guardWrites.isEmpty then [] else [settleGuards e.1])
        ++ (e.2.cinits.filter (fun x => decide (x.due ≤ s.clock))).map (fun x => execCinitPerform e.1 x.id)
        ++ e.2.cmds.flatMap (fun x => [execCopyAccept e.1 x.1, execCopyGuardResolve e.1 x.1])
        ++ matActs e.1 e.2)
    ++ (s.reqs.map (·.id) ++ s.calls.map (·.id) ++ s.cores.flatMap (fun e => e.2.cmds.map (·.1))).map (fun n => execHostAccessTimeout n)
    ++ clockActs s

/-! ## The choice -/

/-- The states to which steps lead that change something. -/
def State.offered (s : State) (acts : List Act) : List State :=
  acts.filterMap (fun f => match f s with | .next t => if t = s then none else some t | _ => none)

/-- One of the steps that may happen, chosen freely (notes/assumptions/6). A cycle ends only when every quadrant that has a
ready wave has issued (R129). -/
def State.choose (s : State) : State :=
  let ends := match s.issues with
    | [] => [s.tick]
    | cs => cs.map (fun cur => { s with cursor := some cur })
  match pickFrom s.freeCtr (s.offered (allActs s) ++ ends) with
  | some t => { t with freeCtr := t.freeCtr + 1 }
  | none => s.tick

/-- What happens when nothing is under way. CLOCK counts the cycles out of reset, those of dies that have stopped among
them (R16, R430). -/
def schedule (s : State) : State :=
  if s.svc.boot == .held || s.svc.boot == .failed then s
  else if s.svc.stopped then { s with clock := s.clock + 1 }
  else match s.offered (dueActs s) with
    | t :: _ => t
    | [] => s.choose

end Sys2Proof.Machine
end

