-- ==== Sys2Proof/Machine/Step.lean ====
section
/-! DEFINITION. One step of the package: the second slot of a pair that has begun (R60), the next event of the agenda, the
instruction of the split that the cursor names, or what the schedule chooses. -/

namespace Sys2Proof.Machine

/-- What a step does. -/
inductive Next where
  | issue (cur : Cursor)
  | event (i : Instr) (rest : List Instr)
  | choose
  deriving DecidableEq, Repr

/-- What the next step does: no event falls between the slots of a pair. -/
def State.nextIs (s : State) : Next :=
  match s.cursor, s.agenda with
  | some cur, [] => .issue cur
  | some cur, i :: rest => if cur.second.isSome then .issue cur else .event i rest
  | none, i :: rest => .event i rest
  | none, [] => .choose

/-- One step. -/
def step (s : State) : Host.Outcome State Fault Refusal :=
  match s.nextIs with
  | .issue cur =>
    match fetch s cur with
    | .lost => .fault .noSuchWave
    | .done t => .next t
    | .run i t => exec i t
  | .event i rest => exec i { s with agenda := rest }
  | .choose => .next (schedule s)

/-- Core 0 begins a crew of one wave of the supervisor process, whose 32 lanes stand at `placedPc` with all 256
registers, in whose instruction cache the line there holds the instruction in its slot 0; and the cursor names it. -/
def State.withFetchWord (s : State) (nbits w : Nat) : State :=
  placeWord s (w % 2 ^ nbits % 2 ^ 96)

end Sys2Proof.Machine
end

