-- ==== Sys2Proof/Safety.lean ====
section
/-! DEFINITION. What a safe run is, and the terms in which claims are stated: the canonical form of memory (R199), the
registers that a wave may hold (R103, R171), what an instruction changes outside its own wave, and what it means that an
instruction completes. -/

namespace Sys2Proof.Machine

/-- HBM4E and host memory stand in canonical form: equal memories are equal data. -/
def State.MemOk (s : State) : Prop := Memory.wf s.mem = true ∧ Memory.wf s.hostMem = true

/-- No quadrant of a core holds more registers than it has (R103). -/
def Core.QuotaOk (k : Core) : Prop := ∀ q < 4, k.quotaUsed q ≤ Config.quadrantRegs

/-- A run is safe while memory keeps its canonical form. -/
def Safe (s : State) : Prop := s.MemOk

/-- Two states agree on everything outside the wave engines: memories, caches, objects, launches, tables and clock. -/
structure SameOutside (s t : State) : Prop where
  clock : t.clock = s.clock
  mem : t.mem = s.mem
  hostMem : t.hostMem = s.hostMem
  lineTs : t.lineTs = s.lineTs
  strictTs : t.strictTs = s.strictTs
  outTime : t.outTime = s.outTime
  sliceM : t.sliceM = s.sliceM
  clusters : t.clusters = s.clusters
  locks : t.locks = s.locks
  lineQ : t.lineQ = s.lineQ
  held : t.held = s.held
  reqs : t.reqs = s.reqs
  writeBacks : t.writeBacks = s.writeBacks
  watches : t.watches = s.watches
  shoots : t.shoots = s.shoots
  commits : t.commits = s.commits
  poison : t.poison = s.poison
  procs : t.procs = s.procs
  objs : t.objs = s.objs
  gens : t.gens = s.gens
  calls : t.calls = s.calls
  waiters : t.waiters = s.waiters
  launches : t.launches = s.launches
  nextSerial : t.nextSerial = s.nextSerial
  gathers : t.gathers = s.gathers
  traps : t.traps = s.traps
  frames : t.frames = s.frames
  framePool : t.framePool = s.framePool
  fab : t.fab = s.fab
  svc : t.svc = s.svc

/-- Every core but core `c` is as it was. -/
def OtherCores (s t : State) (c : Nat) : Prop := ∀ d, d ≠ c → t.core d = s.core d

/-- Core `c` with every wave but wave `w` is as it was, but for the datapaths, counters and selection records of the
issue. -/
structure SameCore (s t : State) (c w : Nat) : Prop where
  waves : ∀ v, v ≠ w → t.wave? c v = s.wave? c v
  crew : (t.core c).crew = (s.core c).crew
  claim : (t.core c).claim = (s.core c).claim
  time : (t.core c).time = (s.core c).time
  seen : (t.core c).seen = (s.core c).seen
  l1 : (t.core c).l1 = (s.core c).l1
  tlb : (t.core c).tlb = (s.core c).tlb
  icache : (t.core c).icache = (s.core c).icache
  pins : (t.core c).pins = (s.core c).pins
  abuf : (t.core c).abuf = (s.core c).abuf
  wbuf : (t.core c).wbuf = (s.core c).wbuf
  cbuf : (t.core c).cbuf = (s.core c).cbuf
  bars : (t.core c).bars = (s.core c).bars
  squeues : (t.core c).squeues = (s.core c).squeues
  chans : (t.core c).chans = (s.core c).chans
  cmds : (t.core c).cmds = (s.core c).cmds
  guards : (t.core c).guards = (s.core c).guards
  mats : (t.core c).mats = (s.core c).mats
  evSel : (t.core c).evSel = (s.core c).evSel
  reservedFor : (t.core c).reservedFor = (s.core c).reservedFor
  walks : (t.core c).walks = (s.core c).walks
  guardWrites : (t.core c).guardWrites = (s.core c).guardWrites
  guardBy : (t.core c).guardBy = (s.core c).guardBy
  seals : (t.core c).seals = (s.core c).seals
  carrs : (t.core c).carrs = (s.core c).carrs
  cinits : (t.core c).cinits = (s.core c).cinits
  arrayFree : (t.core c).arrayFree = (s.core c).arrayFree

/-- An instruction that issued on wave `w` of core `c` left everything outside that wave as it was. -/
structure OnlyWave (s t : State) (c w : Nat) : Prop where
  outside : SameOutside s t
  cores : OtherCores s t c
  core : SameCore s t c w

/-! ## Completion

The conditions of an issue (R41, R57, R126, R128) are `issues`, on the state and the instruction alone: the cursor names a
split whose stall, wait, post and datapath let it issue, and no trap of decode, of checking or held for its lanes stands
before the effect. `State.issuedAt` is the state in which the split has moved on to the next PC and the operation is posted,
and `finish` ends the issue: a stepped split stops (R396) and the second slot of a pair is due (R60). -/

/-- Wherever the instruction issues, its meaning answers a next state, in which it has had the effect `f`. -/
def Completes (i : Instr) (h : Hdr) (f : Ctx → State → State) : Prop :=
  ∀ (s : State) (cur : Cursor) (x : Wave) (r : Row), issues i s cur x r h = true →
    exec i s = .next (finish (s.ctxAt cur x h) (f (s.ctxAt cur x h) (s.issuedAt cur x i r h)))

/-- Wherever the instruction issues and `ok` holds of its context and of the state of its issue (its translations are at hand,
R434), it has the effect `f`. -/
def CompletesAt (i : Instr) (h : Hdr) (ok : Ctx → State → Prop) (f : Ctx → State → State) : Prop :=
  ∀ (s : State) (cur : Cursor) (x : Wave) (r : Row), issues i s cur x r h = true →
    ok (s.ctxAt cur x h) (s.issuedAt cur x i r h) →
    exec i s = .next (finish (s.ctxAt cur x h) (f (s.ctxAt cur x h) (s.issuedAt cur x i r h)))

/-- A value for each lane in which the instruction computes (R48, R136). -/
def perLane (k : Ctx) (sc : Bool) (f : Nat → Nat) : List (Nat × Nat) := (k.compute sc).map (fun l => (l, f l))

/-- One value of n registers for each computing lane, written to d at t + lat − 1 (R114). -/
def gives (k : Ctx) (lat n : Nat) (d : Opnd) (sc : Bool) (f : Nat → Nat) (s : State) : State :=
  fixed k lat (writesAt d n (perLane k sc f)) s

/-- As `gives` with a predicate of each computing lane, written to pd in the same cycle (R137). -/
def givesP (k : Ctx) (lat n : Nat) (d : Opnd) (sc : Bool) (pd : BitVec 3) (f : Nat → Nat) (p : Nat → Bool) (s : State) :
    State :=
  fixed k lat { writesAt d n (perLane k sc f) with p := predAt pd ((k.compute sc).map (fun l => (l, p l))) } s

/-- A predicate of each passing lane, written to pd at t + lat − 1 (R137). -/
def givesB (k : Ctx) (lat : Nat) (pd : BitVec 3) (p : Nat → Bool) (s : State) : State :=
  fixed k lat { PWrite.nil with p := predAt pd ((lanesOf k.pass).map (fun l => (l, p l))) } s

/-- As `gives` for a floating-point result: the lanes' flags are raised together (R176). -/
def givesF (k : Ctx) (lat n : Nat) (d : Opnd) (sc : Bool) (f : Nat → FRes) (s : State) : State :=
  fixed k lat { writesAt d n (perLane k sc (fun l => (f l).bits)) with
    fl := ((k.compute sc).map f).foldl (fun m e => m ||| e.fl) 0 } s

/-! ## Numbers (R64, R76) -/

/-- The number that a value stands for; 0 for a NaN or an infinity. -/
def FV.rat : FV → ℚ
  | .num n m e => (if n then -1 else 1) * (m : ℚ) * (2 : ℚ) ^ e
  | _ => 0

/-- The value is a number. -/
def FV.finite : FV → Bool
  | .num .. => true
  | _ => false

/-- Some encoding of the format stands for the number z. -/
def FFmt.Has (f : FFmt) (z : ℚ) : Prop := ∃ b n m e, f.dec b = .num n m e ∧ z = (FV.num n m e).rat

/-- M: the largest finite value (Table 3-6). -/
def FFmt.maxRat (f : FFmt) : ℚ := f.maxMan * (2 : ℚ) ^ f.maxExp

/-- The encoding b stands for v rounded once to the format in a mode, with v's sign (R76). -/
def FFmt.Rounds (f : FFmt) (mode : Rnd) (v : ℚ) (b : Nat) : Prop :=
  ∃ m e, f.dec b = .num (decide (v < 0)) m e ∧
    (let y := (FV.num (decide (v < 0)) m e).rat
     match mode with
     | .rne => ∀ z, f.Has z → |y - v| ≤ |z - v| ∧ (z ≠ y → |y - v| = |z - v| → m % 2 = 0)
     | .rtz => |y| ≤ |v| ∧ ∀ z, f.Has z → |z| ≤ |v| → |z| ≤ |y|
     | .rdn => y ≤ v ∧ ∀ z, f.Has z → z ≤ v → z ≤ y
     | .rup => v ≤ y ∧ ∀ z, f.Has z → v ≤ z → y ≤ z)

/-! ## Calls -/

/-- R336 to R342, R345 to R351, R355, R358, R359, R368, R369: what each call does when it is performed, its turn having come and no version of its crew
being open. A created object takes a free index, and its handle is the answer, or NOSLOT (8) stands in it. A created wave, an object, a
successor, a task, a proxy, a binding, a message with its pages, a launch and a contract come into being with the fields of their operands
and records; FULL (2) or a wait answers a full queue, EMPTY (1) an empty port, NOPAGE (4), PEER_LOST (5), NOTFOUND (6), EXISTS (7), TAKEN (10),
NOROOM (11) and DEAD (13) the cases of their rules. Calls of another package's objects and names leave on a stream and await their answer. -/
def CallEffects : Prop :=
  ∀ (x : Call) (s : State), s.calls.find? (fun y => y.id == x.id) = some x → s.callReady x = true → s.versionOpen x.core = false →
    let does := fun (t : State) => exec (.objectCallPerform x.id) s = .next t
    let makes := fun (t : State) (b : ObjBody) => (∀ u i, t.newObj (dieOf x.core) x.asid b = some (u, i) → does (u.reply x 2 (u.handleAt i)))
      ∧ (t.newObj (dieOf x.core) x.asid b = none → does (t.reply x 2 (failWord 8)))
    let idx := handleIdx x.a.toNat
    let own := fun (b : ObjBody) => ∃ o, s.owned x.asid x.a.toNat = some o ∧ o.body = b
    (-- objnew
      let b := x.b.toNat % 2 ^ 32
      (x.kind = .objnew 2 → x.noC = true → (1 ≤ b → b ≤ 1024 → makes s (.port b [] 0)) ∧ (b = 0 ∨ 1024 < b → does (s.failCall x 0x32 b)))
      ∧ (x.kind = .objnew 3 → b = 0 → x.noC = true → makes s (.waitset []))
      ∧ (x.kind = .objnew 4 → b = 0 → x.noC = false → s.counterFault x.asid x.c.toNat = none → makes s (.timer x.c.toNat 0 0 0 0))
      ∧ (∀ t r q c, x.kind = .objnew 5 → b = 0 → x.noC = false → s.threadRead x x.c.toNat 64 = .ok (t, r) → queueDesc r = some (q, c) →
        c = 0 ∨ t.contractFault x.asid c = none → t.arenaFault x q.arena ((q.cap + 8) * q.recsz) = .ok () → makes t (.queue q))
      ∧ (x.kind = .objnew 6 → b = 0 → x.noC = true → makes s (.event 0))
    ) ∧ (-- wcreate
      let cfg := x.c.toNat
      let q8 := cfg / 256 % 64
      let ctr := if x.noA then 0 else x.a.toNat
      let r := s.entryCheck x.core x.asid x.b.toNat
      x.kind = .wcreate → 1 ≤ cfg % 64 → cfg % 64 ≤ 32 → 1 ≤ q8 → q8 ≤ 32 → cfg / 64 % 4 = 0 → cfg / 2 ^ 16 = 0 →
      x.noA = true ∨ s.counterFault x.asid x.a.toNat = none →
      (∀ c, r.2 = some c → does (r.1.failCall x c x.b.toNat))
      ∧ (r.2 = none → (r.1.core x.core).freeWaves (q8 * 8) = [] → does (r.1.reply x 2 (failWord 8)))
      ∧ (∀ w ws u i, r.2 = none → (r.1.core x.core).freeWaves (q8 * 8) = w :: ws →
        r.1.newObj (dieOf x.core) x.asid (.wave false ctr) = some (u, i) →
        (let y : Wave := { Wave.start x.asid (lowLanes (cfg % 64)) (x.b.setWidth 56) s.clock (q8 * 8) (cfg / 2 ^ 14 % 4) with
            s := Bits.wrs [] ((List.range 4).map (fun n => (n, x.maker.sregs.getD n 0))), argp := x.maker.argp, scalewin := x.maker.windows
            rt := x.maker.rt, crewNo := x.maker.crewNo, abase := x.maker.abase, abytes := x.maker.abytes, taskQueue := x.maker.queue
            exitCtr := ctr, waveObj := some (i, match Tbl.find u.objs i with | some o => o.gen | none => 0) }
         does (((u.setWave x.core w y).taskWaveMore x.maker.queue).reply x 2 (u.handleAt i))))
    ) ∧ (-- qenq, dcinit, dcdec
      (∀ w q, x.kind = .qenq w → own (.queue q) →
        (8 < x.depth → does (s.failCall x 0x34 x.a.toNat))
        ∧ (x.depth ≤ 8 → q.slotFor s.freeCtr x.depth = none → does (if w = true then s.waitCall x (.change idx) else s.reply x 1 2))
        ∧ (∀ slot t r u, x.depth ≤ 8 → q.slotFor s.freeCtr x.depth = some slot → s.threadRead x x.b.toNat q.recsz = .ok (t, r) →
          t.threadWrite x (q.arena + slot * q.recsz) r = .ok u →
          does ((({ u with freeCtr := u.freeCtr + 1 } : State).setBody idx (.queue (q.enqueue slot x.depth r (u.core x.core).time))).reply x 1 0)))
      ∧ (∀ q, x.kind = .dcinit → own (.queue q) →
        (x.c.toNat % 2 ^ 32 = 0 → does (s.failCall x 0x32 0))
        ∧ (∀ t r, x.c.toNat % 2 ^ 32 ≠ 0 → s.threadRead x x.b.toNat q.recsz = .ok (t, r) → makes t (.dep 0 (x.c.toNat % 2 ^ 32) x.a.toNat r)))
      ∧ (∀ o st n qh r, x.kind = .dcdec → s.owned x.asid x.a.toNat = some o → o.body = .dep st n qh r →
        (st ≠ 0 → does (s.reply x 1 0xFFFFFFFF))
        ∧ (st = 0 → 1 < n → does ((s.setBody idx (.dep 0 (n - 1) qh r)).reply x 1 (n - 1)))
        ∧ (∀ y q, st = 0 → n ≤ 1 → s.owned x.asid qh = some y → y.body = .queue q →
          (∀ slot t, q.general s.freeCtr = some slot → s.threadWrite x (q.arena + slot * q.recsz) r = .ok t →
            does (((({ t with freeCtr := t.freeCtr + 1 } : State).setBody (handleIdx qh)
              (.queue (q.enqueue slot 0 r (t.core x.core).time))).setBody idx (.dep 3 0 qh r)).reply x 1 0))
          ∧ (q.general s.freeCtr = none → does (((s.setBody (handleIdx qh) (.queue { q with held := q.held ++
            [{ dep := idx, gen := o.gen, record := r, time := (s.core x.core).time }] })).setBody idx (.dep 2 0 qh r)).reply x 1 0))))
    ) ∧ (-- suspend, syscall
      (∀ c, x.kind = .suspend c →
        (let go := fun (on : WaitOn) => ({ s.waitCall x on with
            waiters := (s.waitCall x on).waiters.map (fun w => if w.id = x.op then { w with cont := c } else w) } : State).fireWaiters
         (∀ v, own (.event v) → does (go (.counter idx x.b.toNat)))
         ∧ (∀ ms, own (.waitset ms) → (x.noB = true → does (go (.waitset idx))) ∧ (x.noB = false → does (s.failCall x 0x32 x.a.toNat)))))
      ∧ (∀ n, x.kind = .syscall n →
        (let sc := x.core / 32 * 2 + x.wave % 2
         let full := 256 ≤ (s.svc.rings.filter (fun e => e.sc == sc)).length
         let s1 : State := { s with nextId := s.nextId + 1, svc := { s.svc with rings := s.svc.rings ++ [{
            id := s.nextId, sc := sc, fn := n, uid := x.uid, core := x.core, wave := x.wave, asid := x.asid, lanes := x.lanes, todo := x.lanes
            recs := x.recs, bitmap := if x.noA then none else some x.a.toNat, call := x.id, answers := [] }] } }
         (full → does (s.waitCall x (.ring sc)))
         ∧ (¬full → x.noA = true → does ((s1.modCall x.id (fun y => { y with sent := some s.nextId })).callGo x))
         ∧ (¬full → x.noA = false → does (s1.replyLanes x ((lanesOf x.lanes).map (fun l => (l, 0)))))))
    ) ∧ (-- nslook, nsbind
      let name := x.b.toNat
      let found := fun (b : Binding) => (s.lost b.pkg = true → does (s.reply x 2 (failWord 5)))
        ∧ (s.lost b.pkg = false → makes s (.proxy b.pkg (b.index / 2 ^ 21) b.index b.gen false))
      (x.kind = .nslook →
        (∀ b, Tbl.find s.fab.pkgBind name = some b → found b)
        ∧ (∀ b, Tbl.find s.fab.pkgBind name = none → Tbl.find s.fab.hostBind name = some b → found b)
        ∧ (Tbl.find s.fab.pkgBind name = none → Tbl.find s.fab.hostBind name = none →
          (∀ b, s.holderOf name = s.fab.pkgNo → Tbl.find s.fab.sysBind name = some b → found b)
          ∧ (s.holderOf name = s.fab.pkgNo → Tbl.find s.fab.sysBind name = none → does (s.reply x 2 (failWord 6)))
          ∧ (s.holderOf name ≠ s.fab.pkgNo → s.lost (s.holderOf name) = false →
            does ((s.markSent x x.id).sendOut (dieOf x.core) (s.holderOf name) x.id (.lookup x.b)))))
      ∧ (∀ sys o cap ms lost, x.kind = .nsbind sys → s.owned x.asid x.a.toNat = some o → o.body = .port cap ms lost → name ≠ 0 →
        (let b : Binding := { pkg := s.fab.pkgNo, index := idx, gen := o.gen }
         (sys = false → Tbl.find s.fab.pkgBind name = none →
           does (({ s with fab := { s.fab with pkgBind := Tbl.put s.fab.pkgBind name b } } : State).reply x 1 0))
         ∧ (sys = false → (Tbl.find s.fab.pkgBind name).isSome = true → does (s.reply x 1 7))
         ∧ (sys = true → s.holderOf name = s.fab.pkgNo → Tbl.find s.fab.sysBind name = none →
           does (({ s with fab := { s.fab with sysBind := Tbl.put s.fab.sysBind name b } } : State).reply x 1 0))
         ∧ (sys = true → s.holderOf name = s.fab.pkgNo → (Tbl.find s.fab.sysBind name).isSome = true → does (s.reply x 1 7))
         ∧ (sys = true → s.holderOf name ≠ s.fab.pkgNo → s.lost (s.holderOf name) = false →
           does ((s.markSent x x.id).sendOut x.homeDie (s.holderOf name) x.id (.bind x.b idx o.gen)))))
    ) ∧ (-- psend
      ∀ w t r d, x.kind = .psend w → x.lost = false → s.threadRead x x.b.toNat 64 = .ok (t, r) → sendDesc r = some d →
        (∀ cap ms lost, own (.port cap ms lost) →
          (∀ e, t.grantLeaves x.asid d.gva d.npg = .error e → does (t.failCall x e.1 e.2))
          ∧ (t.grantLeaves x.asid d.gva d.npg = .ok none → does (t.reply x 1 4))
          ∧ (∀ ls, t.grantLeaves x.asid d.gva d.npg = .ok (some ls) → t.portFull idx = true →
            does (if w = true then t.waitCall x (.change idx) else t.reply x 1 2))
          ∧ (∀ ls ps u p, t.grantLeaves x.asid d.gva d.npg = .ok (some ls) → t.portFull idx = false →
            t.threadAcc x rightW (x.b.toNat + 40) 8 = .ok ps → t.threadRead x d.data d.len = .ok (u, p) →
            (let msg := fun (v : State) (g : Option Nat) (pages : List GrantPage) => ({
                payload := p, tag := BitVec.ofNat 64 d.tag, pkg := v.fab.pkgNo, asid := x.asid, grant := g, gva := d.gva
                pages := pages, serial := x.id, time := (v.core x.core).time } : Msg)
             (∀ v, d.npg = 0 → u.threadWrite x (x.b.toNat + 40) (bytesOf 8 0) = .ok v → does ((v.append idx (msg v none [])).reply x 1 0))
             ∧ (∀ v g, d.npg ≠ 0 → u.newObj (dieOf x.core) x.asid (.grant 0 d.npg (some idx) x.id) = some (v, g) →
               does ((((v.takePages x d ls).append idx (msg v (some (v.handleAt g)) (ls.map (fun e => grantPage e.2)))).modCall x.id
                 (fun y => { y with lodged := none })).callGo x))
             ∧ (d.npg ≠ 0 → u.newObj (dieOf x.core) x.asid (.grant 0 d.npg (some idx) x.id) = none → does (u.reply x 1 8)))))
        ∧ (∀ pkg die i g, own (.proxy pkg die i g true) → s.lost pkg = false → does ((t.killProxy idx).reply x 1 13))
        ∧ (∀ pkg die i g dead ls, own (.proxy pkg die i g dead) → s.lost pkg = true → t.grantLeaves x.asid d.gva d.npg = .ok (some ls) →
          does (t.reply x 1 5))
        ∧ (∀ pkg die i g ls ps u p, own (.proxy pkg die i g false) → s.lost pkg = false → pkg ≠ 0xFFFE → pkg ≠ s.fab.pkgNo → d.npg = 0 →
          t.grantLeaves x.asid d.gva d.npg = .ok (some ls) → t.threadAcc x rightW (x.b.toNat + 40) 8 = .ok ps →
          t.threadRead x d.data d.len = .ok (u, p) →
          does ((((u.markSent x x.id).outBy x.core).countMoved x.asid (256 * messageFlits p.length 0)).sendOut x.homeDie pkg x.id
            (.message i g u.fab.pkgNo x.asid (BitVec.ofNat 64 d.tag) p [] w)))
    ) ∧ (-- precv, grantrev
      (∀ w t r d cap msgs lost, x.kind = .precv w → own (.port cap msgs lost) → s.threadRead x x.b.toNat 64 = .ok (t, r) → recvDesc r = some d →
        (msgs = [] → does (if w = true then t.waitCall x (.change idx) else t.reply x 1 1))
        ∧ (∀ m rest, msgs = m :: rest → d.maxpg < m.pages.length → does (t.reply x 1 11))
        ∧ (∀ m rest, msgs = m :: rest → m.pages.length ≤ d.maxpg → t.landing x.asid d.lva m.pages.length = none → does (t.reply x 1 11))
        ∧ (∀ m rest las u v, msgs = m :: rest → m.pages.length ≤ d.maxpg → t.landing x.asid d.lva m.pages.length = some las →
          m.pkg = t.fab.pkgNo → t.threadWrite x d.buf (m.payload.take d.len) = .ok u →
          u.threadWrite x (x.b.toNat + 24) (bytesOf 8 m.tag.toNat ++ bytesOf 4 m.payload.length ++ bytesOf 4 m.pages.length
            ++ bytesOf 4 (m.pkg % 65536 * 65536 + m.asid % 65536)) = .ok v →
          does ((((((((las.zip m.pages).foldl (fun (y : State) e => y.mapPage false x.asid e.1 e.2) v).setBody idx (.port cap rest lost)).portRoom
            idx).resumeParked x.asid d.lva (d.lva + 65536 * m.pages.length)).setGrant m.grant 1).advance x.core m.time).reply x 1
              (if d.len < m.payload.length then 3 else 0))))
      ∧ (∀ st n p serial, x.kind = .grantrev → own (.grant st n p serial) →
        (st = 1 → does (s.reply x 1 10)) ∧ (2 ≤ st → does (s.reply x 1 0))
        ∧ (∀ h y cap msgs lost m, st = 0 → p = some h → Tbl.find s.objs h = some y → y.body = .port cap msgs lost →
          msgs.find? (fun m => m.serial == serial && m.pkg == s.fab.pkgNo) = some m →
          does ((((s.setBody h (.port cap (msgs.filter (fun y => y != m)) lost)).returnMsg m).portRoom h).reply x 1 0))
        ∧ (∀ g, st = 0 → p = none → Tbl.find s.fab.sent serial = some g →
          does ((s.markSent x serial).sendOut x.homeDie g.pkg serial (.revoke g.index))))
    ) ∧ (-- launch, ctadmit
      (∀ t b, x.kind = .launch → s.threadRead x x.b.toNat 64 = .ok (t, b) →
        (let r := launchRec b
         let asid := if x.noA then x.asid else x.a.toNat % 2 ^ 16
         let q := t.entryCheck x.core asid r.entry
         (∀ e, t.launchHandles x.asid r = some e → does (t.failCall x e.1 e.2))
         ∧ (t.launchHandles x.asid r = none → Tbl.find s.procs asid = none → does (t.reply x 2 (failWord 6)))
         ∧ (t.launchHandles x.asid r = none → (Tbl.find s.procs asid).isSome = true →
           (∀ c, q.2 = some c → does (q.1.failCall x c r.entry))
           ∧ (∀ st, q.2 = none → q.1.launchStatus asid r (launchReserved b) = some st → does (q.1.reply x 2 (failWord st)))
           ∧ (q.2 = none → q.1.launchStatus asid r (launchReserved b) = none →
             (let y := q.1.openLaunch asid r (s.core x.core).time
              does (y.1.reply x 2 (asid % 2 ^ 16 * 2 ^ 32 + q.1.nextSerial % 2 ^ 32))
              ∧ (r.contract = 0 → Tbl.find y.1.launches q.1.nextSerial = some {
                asid := asid, entry := BitVec.ofNat 56 r.entry, argbase := BitVec.ofNat 64 r.argbase, count := r.count, waves := r.waves
                quota8 := r.quota8, gang := r.gang == 1, lvl := r.lvl, rt := r.rt == 1, abytes := r.abytes, tenant := r.tenant
                ver := r.ver == 1, argsz := r.argsz, terms := none, contract := none, firstK := 0, done := r.done
                insts := [{ k := 0, next := 0, returned := [], live := 0, claims := true, charge := [], spent := [], time := 0, ended := none }]
                complete := false, time := (s.core x.core).time }))))))
      ∧ (∀ t b, x.kind = .ctadmit → s.threadRead x x.b.toNat 64 = .ok (t, b) →
        (contractDesc b s.clock = none → does (t.reply x 2 (failWord 14)))
        ∧ (∀ c, contractDesc b s.clock = some c →
          (x.asid ≠ 0 → c.tenant ≠ s.tenantOfAsid x.asid → does (t.reply x 2 (failWord 14)))
          ∧ (x.asid = 0 ∨ c.tenant = s.tenantOfAsid x.asid → c.missCtr = 0 ∨ t.counterFault x.asid c.missCtr = none →
            (budgetCores (s.budget c.tenant) < c.cores → does (t.reply x 2 (failWord 17)))
            ∧ (c.cores ≤ budgetCores (s.budget c.tenant) → s.svc.boot ≠ .bringup →
              (s.admissible c = false → does (t.reply x 2 (failWord 16)))
              ∧ (∀ u i, s.admissible c = true → t.newObj (dieOf x.core) x.asid (.contract c) = some (u, i) →
                does ((u.drainSet c).reply x 2 (u.handleAt i)))))))
    )

end Sys2Proof.Machine
end

