-- ==== Sys2Proof/Certificates/Slice0/Obligations.lean ====
section
/-! DEFINITION. The statements for the provers. -/

open Sys2Proof Sys2Proof.Machine

/-! ## Integer instructions: every form issues and gives the values of its entry -/

/-- R140: `add`, `addc`, `sub`, `subb` in both formats. Values are those of exact integer arithmetic cut to the width; the
predicate is the unsigned carry or borrow, or under SAT whether the result was clamped. Latency 2 at 32 bits and 3 at 64
(R114, Table 5-6). Format I reads and writes its carry through PD (R137). -/
def Obligations.AddSubComplete : Prop :=
  (∀ h o, Completes (.add h o) h (fun k => givesP k (if o.ty.wide then 3 else 2) o.ty.regs o.d o.s o.pd
    (fun l => truncTo o.ty.bits (if o.sat then clampTo o.ty (intVal o.ty (k.opnd o.a o.ty l) + intVal o.ty (k.opnd o.b o.ty l))
      else intVal o.ty (k.opnd o.a o.ty l) + intVal o.ty (k.opnd o.b o.ty l)))
    (fun l => if o.sat then clampTo o.ty (intVal o.ty (k.opnd o.a o.ty l) + intVal o.ty (k.opnd o.b o.ty l))
        != intVal o.ty (k.opnd o.a o.ty l) + intVal o.ty (k.opnd o.b o.ty l)
      else decide (2 ^ o.ty.bits ≤ k.opnd o.a o.ty l + k.opnd o.b o.ty l))))
  ∧ (∀ h o, Completes (.addImm h o) h (fun k => givesP k (if o.ty.wide then 3 else 2) o.ty.regs o.d o.s o.pd
    (fun l => truncTo o.ty.bits (intVal o.ty (k.opnd o.a o.ty l) + intVal o.ty (immAt o.ty o.imm)))
    (fun l => decide (2 ^ o.ty.bits ≤ k.opnd o.a o.ty l + immAt o.ty o.imm))))
  ∧ (∀ h o, Instr.wellFormed (.addc h o) = true → Completes (.addc h o) h (fun k => givesP k (if o.ty.wide then 3 else 2) o.ty.regs o.d o.s o.pd
    (fun l => truncTo o.ty.bits (intVal o.ty (k.opnd o.a o.ty l) + intVal o.ty (k.opnd o.b o.ty l)
      + (if k.p o.ps.toNat l then 1 else 0)))
    (fun l => decide (2 ^ o.ty.bits ≤ k.opnd o.a o.ty l + k.opnd o.b o.ty l + (if k.p o.ps.toNat l then 1 else 0)))))
  ∧ (∀ h o, Completes (.addcImm h o) h (fun k => givesP k (if o.ty.wide then 3 else 2) o.ty.regs o.d o.s o.pd
    (fun l => truncTo o.ty.bits (intVal o.ty (k.opnd o.a o.ty l) + intVal o.ty (immAt o.ty o.imm)
      + (if k.p o.pd.toNat l then 1 else 0)))
    (fun l => decide (2 ^ o.ty.bits ≤ k.opnd o.a o.ty l + immAt o.ty o.imm + (if k.p o.pd.toNat l then 1 else 0)))))
  ∧ (∀ h o, Completes (.sub h o) h (fun k => givesP k (if o.ty.wide then 3 else 2) o.ty.regs o.d o.s o.pd
    (fun l => truncTo o.ty.bits (if o.sat then clampTo o.ty (intVal o.ty (k.opnd o.a o.ty l) - intVal o.ty (k.opnd o.b o.ty l))
      else intVal o.ty (k.opnd o.a o.ty l) - intVal o.ty (k.opnd o.b o.ty l)))
    (fun l => if o.sat then clampTo o.ty (intVal o.ty (k.opnd o.a o.ty l) - intVal o.ty (k.opnd o.b o.ty l))
        != intVal o.ty (k.opnd o.a o.ty l) - intVal o.ty (k.opnd o.b o.ty l)
      else decide (k.opnd o.a o.ty l < k.opnd o.b o.ty l))))
  ∧ (∀ h o, Completes (.subImm h o) h (fun k => givesP k (if o.ty.wide then 3 else 2) o.ty.regs o.d o.s o.pd
    (fun l => truncTo o.ty.bits (intVal o.ty (k.opnd o.a o.ty l) - intVal o.ty (immAt o.ty o.imm)))
    (fun l => decide (k.opnd o.a o.ty l < immAt o.ty o.imm))))
  ∧ (∀ h o, Instr.wellFormed (.subb h o) = true → Completes (.subb h o) h (fun k => givesP k (if o.ty.wide then 3 else 2) o.ty.regs o.d o.s o.pd
    (fun l => truncTo o.ty.bits (intVal o.ty (k.opnd o.a o.ty l) - intVal o.ty (k.opnd o.b o.ty l)
      - (if k.p o.ps.toNat l then 1 else 0)))
    (fun l => decide (k.opnd o.a o.ty l < k.opnd o.b o.ty l + (if k.p o.ps.toNat l then 1 else 0)))))
  ∧ (∀ h o, Completes (.subbImm h o) h (fun k => givesP k (if o.ty.wide then 3 else 2) o.ty.regs o.d o.s o.pd
    (fun l => truncTo o.ty.bits (intVal o.ty (k.opnd o.a o.ty l) - intVal o.ty (immAt o.ty o.imm)
      - (if k.p o.pd.toNat l then 1 else 0)))
    (fun l => decide (k.opnd o.a o.ty l < immAt o.ty o.imm + (if k.p o.pd.toNat l then 1 else 0)))))

/-- R141: `mul`, `mulh`, `mad`: the exact product (and sum), cut or clamped, or its high half; latency 4 or 8. -/
def Obligations.MulComplete : Prop :=
  (∀ h o, Completes (.mul h o) h (fun k => gives k (if o.ty.wide then 8 else 4) o.ty.regs o.d o.s (fun l =>
    truncTo o.ty.bits (if o.sat then clampTo o.ty (intVal o.ty (k.opnd o.a o.ty l) * intVal o.ty (k.opnd o.b o.ty l))
      else intVal o.ty (k.opnd o.a o.ty l) * intVal o.ty (k.opnd o.b o.ty l)))))
  ∧ (∀ h o, Completes (.mulImm h o) h (fun k => gives k (if o.ty.wide then 8 else 4) o.ty.regs o.d o.s (fun l =>
    truncTo o.ty.bits (intVal o.ty (k.opnd o.a o.ty l) * intVal o.ty (immAt o.ty o.imm)))))
  ∧ (∀ h o, Completes (.mulh h o) h (fun k => gives k (if o.ty.wide then 8 else 4) o.ty.regs o.d o.s (fun l =>
    truncTo o.ty.bits (intVal o.ty (k.opnd o.a o.ty l) * intVal o.ty (k.opnd o.b o.ty l) / 2 ^ o.ty.bits))))
  ∧ (∀ h o, Completes (.mulhImm h o) h (fun k => gives k (if o.ty.wide then 8 else 4) o.ty.regs o.d o.s (fun l =>
    truncTo o.ty.bits (intVal o.ty (k.opnd o.a o.ty l) * intVal o.ty (immAt o.ty o.imm) / 2 ^ o.ty.bits))))
  ∧ (∀ h o, Completes (.mad h o) h (fun k => gives k (if o.ty.wide then 8 else 4) o.ty.regs o.d o.s (fun l =>
    truncTo o.ty.bits (if o.sat then clampTo o.ty (intVal o.ty (k.opnd o.a o.ty l) * intVal o.ty (k.opnd o.b o.ty l)
        + intVal o.ty (k.opnd o.c o.ty l))
      else intVal o.ty (k.opnd o.a o.ty l) * intVal o.ty (k.opnd o.b o.ty l) + intVal o.ty (k.opnd o.c o.ty l)))))

/-- R142: the quotient and the remainder of the divide unit, which completes 18 cycles after the issue at 32-bit types and 34
at 64-bit types: division by zero gives all ones and keeps the dividend, min(T) / −1 gives min(T) and 0, and any other
quotient is rounded towards zero. -/
def Obligations.DivRemComplete : Prop :=
  (∀ h o, Completes (.div h o) h (fun k => tokenWrite k (k.clock + if o.ty.wide then 34 else 18) true
    (writesAt o.d o.ty.regs (perLane k o.s (fun l =>
      let x := intVal o.ty (k.opnd o.a o.ty l)
      let y := intVal o.ty (k.opnd o.b o.ty l)
      truncTo o.ty.bits (if y = 0 then -1 else if o.ty.signed ∧ x = intMin o.ty ∧ y = -1 then intMin o.ty else Int.tdiv x y))))))
  ∧ (∀ h o, Completes (.divImm h o) h (fun k => tokenWrite k (k.clock + if o.ty.wide then 34 else 18) true
    (writesAt o.d o.ty.regs (perLane k o.s (fun l =>
      let x := intVal o.ty (k.opnd o.a o.ty l)
      let y := intVal o.ty (immAt o.ty o.imm)
      truncTo o.ty.bits (if y = 0 then -1 else if o.ty.signed ∧ x = intMin o.ty ∧ y = -1 then intMin o.ty else Int.tdiv x y))))))
  ∧ (∀ h o, Completes (.rem h o) h (fun k => tokenWrite k (k.clock + if o.ty.wide then 34 else 18) true
    (writesAt o.d o.ty.regs (perLane k o.s (fun l =>
      let x := intVal o.ty (k.opnd o.a o.ty l)
      let y := intVal o.ty (k.opnd o.b o.ty l)
      truncTo o.ty.bits (if y = 0 then x else if o.ty.signed ∧ x = intMin o.ty ∧ y = -1 then 0 else Int.tmod x y))))))
  ∧ (∀ h o, Completes (.remImm h o) h (fun k => tokenWrite k (k.clock + if o.ty.wide then 34 else 18) true
    (writesAt o.d o.ty.regs (perLane k o.s (fun l =>
      let x := intVal o.ty (k.opnd o.a o.ty l)
      let y := intVal o.ty (immAt o.ty o.imm)
      truncTo o.ty.bits (if y = 0 then x else if o.ty.signed ∧ x = intMin o.ty ∧ y = -1 then 0 else Int.tmod x y))))))

/-- R143: `min` and `max` write the operand of lesser or greater value, `abs` and `neg` the absolute value and the negation;
without SAT those of min(T) give min(T), with SAT max(T); `abs` and `neg` take only signed types. -/
def Obligations.MinMaxComplete : Prop :=
  (∀ h o, Completes (.min h o) h (fun k => gives k (if o.ty.wide then 3 else 2) o.ty.regs o.d o.s (fun l =>
    if intVal o.ty (k.opnd o.a o.ty l) ≤ intVal o.ty (k.opnd o.b o.ty l) then k.opnd o.a o.ty l else k.opnd o.b o.ty l)))
  ∧ (∀ h o, Completes (.minImm h o) h (fun k => gives k (if o.ty.wide then 3 else 2) o.ty.regs o.d o.s (fun l =>
    if intVal o.ty (k.opnd o.a o.ty l) ≤ intVal o.ty (immAt o.ty o.imm) then k.opnd o.a o.ty l else immAt o.ty o.imm)))
  ∧ (∀ h o, Completes (.max h o) h (fun k => gives k (if o.ty.wide then 3 else 2) o.ty.regs o.d o.s (fun l =>
    if intVal o.ty (k.opnd o.a o.ty l) < intVal o.ty (k.opnd o.b o.ty l) then k.opnd o.b o.ty l else k.opnd o.a o.ty l)))
  ∧ (∀ h o, Completes (.maxImm h o) h (fun k => gives k (if o.ty.wide then 3 else 2) o.ty.regs o.d o.s (fun l =>
    if intVal o.ty (k.opnd o.a o.ty l) < intVal o.ty (immAt o.ty o.imm) then immAt o.ty o.imm else k.opnd o.a o.ty l)))
  ∧ (∀ h o, Instr.wellFormed (.abs h o) = true → Completes (.abs h o) h (fun k => gives k (if o.ty.wide then 3 else 2) o.ty.regs o.d o.s (fun l =>
    let x := intVal o.ty (k.opnd o.a o.ty l)
    truncTo o.ty.bits (if x = intMin o.ty then (if o.sat then intMax o.ty else intMin o.ty) else if x < 0 then -x else x))))
  ∧ (∀ h o, Instr.wellFormed (.neg h o) = true → Completes (.neg h o) h (fun k => gives k (if o.ty.wide then 3 else 2) o.ty.regs o.d o.s (fun l =>
    let x := intVal o.ty (k.opnd o.a o.ty l)
    truncTo o.ty.bits (if x = intMin o.ty then (if o.sat then intMax o.ty else intMin o.ty) else -x))))
  ∧ (∀ h (o : FmtA), (Instr.wellFormed (.abs h o) = true ∨ Instr.wellFormed (.neg h o) = true) → o.ty = .i32 ∨ o.ty = .i64)

/-- R144: the logical instructions, bit for bit; in format I with the immediate as R49 widens it. -/
def Obligations.LogicComplete : Prop :=
  (∀ h o, Completes (.and h o) h (fun k => gives k (if o.ty.wide then 3 else 2) o.ty.regs o.d o.s
    (fun l => k.opnd o.a o.ty l &&& k.opnd o.b o.ty l)))
  ∧ (∀ h o, Completes (.andImm h o) h (fun k => gives k (if o.ty.wide then 3 else 2) o.ty.regs o.d o.s
    (fun l => k.opnd o.a o.ty l &&& immAt o.ty o.imm)))
  ∧ (∀ h o, Completes (.or h o) h (fun k => gives k (if o.ty.wide then 3 else 2) o.ty.regs o.d o.s
    (fun l => k.opnd o.a o.ty l ||| k.opnd o.b o.ty l)))
  ∧ (∀ h o, Completes (.orImm h o) h (fun k => gives k (if o.ty.wide then 3 else 2) o.ty.regs o.d o.s
    (fun l => k.opnd o.a o.ty l ||| immAt o.ty o.imm)))
  ∧ (∀ h o, Completes (.xor h o) h (fun k => gives k (if o.ty.wide then 3 else 2) o.ty.regs o.d o.s
    (fun l => k.opnd o.a o.ty l ^^^ k.opnd o.b o.ty l)))
  ∧ (∀ h o, Completes (.xorImm h o) h (fun k => gives k (if o.ty.wide then 3 else 2) o.ty.regs o.d o.s
    (fun l => k.opnd o.a o.ty l ^^^ immAt o.ty o.imm)))
  ∧ (∀ h o, Completes (.andn h o) h (fun k => gives k (if o.ty.wide then 3 else 2) o.ty.regs o.d o.s
    (fun l => k.opnd o.a o.ty l &&& (2 ^ o.ty.bits - 1 - k.opnd o.b o.ty l % 2 ^ o.ty.bits))))
  ∧ (∀ h o, Completes (.andnImm h o) h (fun k => gives k (if o.ty.wide then 3 else 2) o.ty.regs o.d o.s
    (fun l => k.opnd o.a o.ty l &&& (2 ^ o.ty.bits - 1 - immAt o.ty o.imm % 2 ^ o.ty.bits))))
  ∧ (∀ h o, Completes (.not h o) h (fun k => gives k (if o.ty.wide then 3 else 2) o.ty.regs o.d o.s
    (fun l => 2 ^ o.ty.bits - 1 - k.opnd o.a o.ty l)))

/-- R145: shifts by u(b), 0 or the sign from the width on, and rotation by u(b) mod w, with b a 32-bit operand. -/
def Obligations.ShiftComplete : Prop :=
  (∀ h o, Completes (.shl h o) h (fun k => gives k (if o.ty.wide then 3 else 2) o.ty.regs o.d o.s (fun l =>
    if o.ty.bits ≤ k.u32 o.b l then 0 else k.opnd o.a o.ty l * 2 ^ k.u32 o.b l % 2 ^ o.ty.bits)))
  ∧ (∀ h o, Completes (.shlImm h o) h (fun k => gives k (if o.ty.wide then 3 else 2) o.ty.regs o.d o.s (fun l =>
    if o.ty.bits ≤ o.imm.toNat then 0 else k.opnd o.a o.ty l * 2 ^ o.imm.toNat % 2 ^ o.ty.bits)))
  ∧ (∀ h o, Completes (.shr h o) h (fun k => gives k (if o.ty.wide then 3 else 2) o.ty.regs o.d o.s (fun l =>
    if o.ty.bits ≤ k.u32 o.b l then 0 else k.opnd o.a o.ty l / 2 ^ k.u32 o.b l)))
  ∧ (∀ h o, Completes (.shrImm h o) h (fun k => gives k (if o.ty.wide then 3 else 2) o.ty.regs o.d o.s (fun l =>
    if o.ty.bits ≤ o.imm.toNat then 0 else k.opnd o.a o.ty l / 2 ^ o.imm.toNat)))
  ∧ (∀ h o, Completes (.sha h o) h (fun k => gives k (if o.ty.wide then 3 else 2) o.ty.regs o.d o.s (fun l =>
    if o.ty.bits ≤ k.u32 o.b l then (if 2 ^ (o.ty.bits - 1) ≤ k.opnd o.a o.ty l then 2 ^ o.ty.bits - 1 else 0)
    else truncTo o.ty.bits (sintOf o.ty.bits (k.opnd o.a o.ty l) / 2 ^ k.u32 o.b l))))
  ∧ (∀ h o, Completes (.shaImm h o) h (fun k => gives k (if o.ty.wide then 3 else 2) o.ty.regs o.d o.s (fun l =>
    if o.ty.bits ≤ o.imm.toNat then (if 2 ^ (o.ty.bits - 1) ≤ k.opnd o.a o.ty l then 2 ^ o.ty.bits - 1 else 0)
    else truncTo o.ty.bits (sintOf o.ty.bits (k.opnd o.a o.ty l) / 2 ^ o.imm.toNat))))
  ∧ (∀ h o, Completes (.rot h o) h (fun k => gives k (if o.ty.wide then 3 else 2) o.ty.regs o.d o.s (fun l =>
    (k.opnd o.a o.ty l * 2 ^ (k.u32 o.b l % o.ty.bits)
      + k.opnd o.a o.ty l / 2 ^ (o.ty.bits - k.u32 o.b l % o.ty.bits)) % 2 ^ o.ty.bits)))
  ∧ (∀ h o, Completes (.rotImm h o) h (fun k => gives k (if o.ty.wide then 3 else 2) o.ty.regs o.d o.s (fun l =>
    (k.opnd o.a o.ty l * 2 ^ (o.imm.toNat % o.ty.bits)
      + k.opnd o.a o.ty l / 2 ^ (o.ty.bits - o.imm.toNat % o.ty.bits)) % 2 ^ o.ty.bits)))

/-- R146 to R149: the 64-bit window of `shf`, bit fields, counts, bit reversal and byte selection, at latency 3. The field's
position and length are bits [7:0] and [15:8] of its operand, and a field that leaves the operand is cut. -/
def Obligations.BitFieldComplete : Prop :=
  (∀ h o, Completes (.shf h o) h (fun k => gives k 3 1 o.d o.s (fun l =>
    let x := k.u32 o.b l * 2 ^ 32 + k.u32 o.a l
    if o.sub = 1 then x / 2 ^ (min (k.u32 o.c l) 64) % 2 ^ 32
    else (x / 2 ^ (k.u32 o.c l % 64) + x * 2 ^ (64 - k.u32 o.c l % 64)) % 2 ^ 32)))
  ∧ (∀ h o, Completes (.bfe h o) h (fun k => gives k 3 o.ty.regs o.d o.s (fun l =>
    let pos := k.u32 o.b l % 256
    let len := if o.ty.bits ≤ pos then 0 else min (k.u32 o.b l / 256 % 256) (o.ty.bits - pos)
    let f := k.opnd o.a o.ty l / 2 ^ pos % 2 ^ len
    if len = 0 then 0 else if o.ty.signed then truncTo o.ty.bits (sintOf len f) else f)))
  ∧ (∀ h o, Completes (.bfeImm h o) h (fun k => gives k 3 o.ty.regs o.d o.s (fun l =>
    let pos := o.imm.toNat % 256
    let len := if o.ty.bits ≤ pos then 0 else min (o.imm.toNat / 256 % 256) (o.ty.bits - pos)
    let f := k.opnd o.a o.ty l / 2 ^ pos % 2 ^ len
    if len = 0 then 0 else if o.ty.signed then truncTo o.ty.bits (sintOf len f) else f)))
  ∧ (∀ h o, Completes (.bfi h o) h (fun k => gives k 3 o.ty.regs o.d o.s (fun l =>
    let pos := k.u32 o.c l % 256
    let len := if o.ty.bits ≤ pos then 0 else min (k.u32 o.c l / 256 % 256) (o.ty.bits - pos)
    let a := k.opnd o.a o.ty l
    if len = 0 then a else a - a / 2 ^ pos % 2 ^ len * 2 ^ pos + k.opnd o.b o.ty l % 2 ^ len * 2 ^ pos)))
  ∧ (∀ h o, Completes (.popc h o) h (fun k => gives k 3 1 o.d o.s (fun l => onesOf o.ty.bits (k.opnd o.a o.ty l))))
  ∧ (∀ h o, Completes (.clz h o) h (fun k => gives k 3 1 o.d o.s (fun l => o.ty.bits - bitLen (k.opnd o.a o.ty l))))
  ∧ (∀ h o, Completes (.ctz h o) h (fun k => gives k 3 1 o.d o.s (fun l => ctzW o.ty.bits (k.opnd o.a o.ty l))))
  ∧ (∀ h o, Completes (.brev h o) h (fun k => gives k 3 o.ty.regs o.d o.s (fun l => brevW o.ty.bits (k.opnd o.a o.ty l))))
  ∧ (∀ h o, Completes (.perm h o) h (fun k => gives k 3 1 o.d o.s (fun l =>
    permW (k.u32 o.a l) (k.u32 o.b l) (k.u32 o.c l))))
  ∧ (∀ h o, Completes (.permImm h o) h (fun k => gives k 3 1 o.d o.s (fun l => permW (k.u32 o.a l) 0 o.imm.toNat)))

/-- R148 and R149 for every operand: the functions that `BitFieldComplete` names. `ctz` is the number of zeros below the
lowest one, `clz` those above the highest, each w for zero; `brev` moves bit i to bit w − 1 − i; and a selector nibble of
`perm` picks a byte of b and a, or its sign. -/
def Obligations.BitFunctions : Prop :=
  (∀ w a : Nat, a % 2 ^ w = 0 → ctzW w a = w)
  ∧ (∀ w a : Nat, a % 2 ^ w ≠ 0 → ctzW w a < w ∧ a % 2 ^ ctzW w a = 0 ∧ a / 2 ^ ctzW w a % 2 = 1)
  ∧ (∀ w a : Nat, a < 2 ^ w → w - bitLen a ≤ w ∧ a < 2 ^ (w - (w - bitLen a))
      ∧ (a ≠ 0 → 2 ^ (w - 1 - (w - bitLen a)) ≤ a))
  ∧ (∀ w a i : Nat, i < w → brevW w a / 2 ^ i % 2 = a / 2 ^ (w - 1 - i) % 2)
  ∧ (∀ w a : Nat, brevW w a < 2 ^ w)
  ∧ (∀ w a : Nat, onesOf w a = ((List.range w).filter (fun i => a / 2 ^ i % 2 = 1)).length)
  ∧ (∀ a b c i : Nat, i < 4 → permW a b c / 2 ^ (8 * i) % 256 =
      let s := c / 2 ^ (4 * i) % 16
      let x := (b * 2 ^ 32 + a) / 2 ^ (8 * (s % 8)) % 256
      if 8 ≤ s then (if 128 ≤ x then 255 else 0) else x)

/-- R150 to R152: selection by a predicate of the lane, comparison ANDed with PS (a `cmp` in format I with true), and the truth
table of `plop`; latency 2 or 3. Where one s destination or uniform predicate is written (S = 1) and PS, or PD in format I, names a
predicate of each lane, the lowest passing lane's decides: the model's choice (notes/assumptions/48). -/
def Obligations.PredicateComplete : Prop :=
  (∀ h o, Completes (.sel h o) h (fun k => gives k (if o.ty.wide then 3 else 2) o.ty.regs o.d o.s (fun l =>
    if k.p o.ps.toNat l then k.opnd o.a o.ty l else k.opnd o.b o.ty l)))
  ∧ (∀ h o, Completes (.selImm h o) h (fun k => gives k (if o.ty.wide then 3 else 2) o.ty.regs o.d o.s (fun l =>
    if k.p o.pd.toNat l then k.opnd o.a o.ty l else immAt o.ty o.imm)))
  ∧ (∀ h o, Completes (.cmp h o) h (fun k => givesB k (if o.ty.wide then 3 else 2) o.pd (fun l =>
    (let x := intVal o.ty (k.opnd o.a o.ty l)
     let y := intVal o.ty (k.opnd o.b o.ty l)
     match o.sub.toNat with
     | 0 => decide (x = y) | 1 => decide (x ≠ y) | 2 => decide (x < y) | 3 => decide (x ≤ y) | 4 => decide (x > y)
     | _ => decide (x ≥ y)) && k.p o.ps.toNat l)))
  ∧ (∀ h o, Completes (.cmpImm h o) h (fun k => givesB k (if o.ty.wide then 3 else 2) o.pd (fun l =>
    let x := intVal o.ty (k.opnd o.a o.ty l)
    let y := intVal o.ty (immAt o.ty o.imm)
    match o.sub.toNat with
    | 0 => decide (x = y) | 1 => decide (x ≠ y) | 2 => decide (x < y) | 3 => decide (x ≤ y) | 4 => decide (x > y)
    | _ => decide (x ≥ y))))
  ∧ (∀ h o, Completes (.plop h o) h (fun k => givesB k 2 o.pd (fun l =>
    o.d.code / 2 ^ ((if k.p o.a.code l then 4 else 0) + (if k.p o.b.code l then 2 else 0) + (if k.p o.c.code l then 1 else 0)) % 2
      == 1)))
  ∧ (∀ (k : Ctx) (l : Nat), k.p 7 l = true)

/-- R153 to R155: addresses, moves and extensions.

R156, R157: `sread` copies the register of one passing lane to an s register and tells in PD whether that lane passed; `swrite` replaces
FPCTL at its issue, keeping the flags raised in its own cycle, and CHKCTL or a SCALEWIN by a write that is made in one of the cycles t + 1
to t + 3. No lane passing: no effect. -/
def Obligations.MoveComplete : Prop :=
  (
    (∀ h o, Instr.wellFormed (.lea h o) = true → Completes (.lea h o) h (fun k => gives k (if o.ty.wide then 3 else 2) 2 o.d o.s (fun l =>
      (k.u64 o.a l + (if o.ty.wide then k.u64 o.b l else if o.ty.signed then truncTo 64 (sintOf 32 (k.u32 o.b l)) else k.u32 o.b l)
        * 2 ^ o.sub.toNat) % 2 ^ 64)))
    ∧ (∀ h o, Instr.wellFormed (.leaImm h o) = true → Completes (.leaImm h o) h (fun k => gives k (if o.ty.wide then 3 else 2) 2 o.d o.s (fun l =>
      (k.u64 o.a l + (if o.ty = .n32 then o.imm.toNat else truncTo 64 o.imm.toInt) * 2 ^ o.sub.toNat) % 2 ^ 64)))
    ∧ (∀ h o, Completes (.mov h o) h (fun k => gives k (if o.ty.wide then 3 else 2) o.ty.regs o.d o.s (fun l => k.opnd o.a o.ty l)))
    ∧ (∀ h o, Instr.wellFormed (.movi h o) = true → Completes (.movi h o) h (fun k => gives k (if o.ty.wide then 3 else 2) o.ty.regs o.d o.s (fun l =>
      if o.sub = 1 then k.opnd o.d o.ty l % 2 ^ 32 + 2 ^ 32 * o.imm.toNat
      else if o.ty = .b64 then truncTo 64 o.imm.toInt else o.imm.toNat)))
    ∧ (∀ h o, Instr.wellFormed (.sxt h o) = true → Completes (.sxt h o) h (fun k => gives k 2 (o.sub.toNat + 1) o.d o.s (fun l =>
      truncTo (32 * (o.sub.toNat + 1)) (sintOf o.ty.bits (k.u32 o.a l)))))
    ∧ (∀ h o, Instr.wellFormed (.zxt h o) = true → Completes (.zxt h o) h (fun k => gives k 2 (o.sub.toNat + 1) o.d o.s (fun l =>
      k.u32 o.a l % 2 ^ o.ty.bits)))
  ) ∧ (
    (∀ h o, Completes (.sread h o) h (fun k =>
      let l := if o.sub = 1 then k.low else k.u32 o.b k.low % 32
      fixed k 4 { (if k.pass.getLsbD l then writesAt o.d o.ty.regs [(l, k.opnd o.a o.ty l)] else PWrite.nil) with
        p := predAt o.pd ((lanesOf k.pass).map (fun i => (i, k.pass.getLsbD l))) }))
    ∧ (∀ h (o : FmtA), o.d = .sp .fpctl → Completes (.swrite h o) h (fun k t =>
      if k.pass = 0 then t
      else t.onWave k (fun y => { y with fpctl := (BitVec.ofNat 32 (k.opnd o.a o.ty k.low) &&& 0x3F)
        ||| (if y.raised.1 = k.clock then y.raised.2.setWidth 32 else 0) })))
    ∧ (∀ h (o : FmtA), o.d = .sp .chkctl → Completes (.swrite h o) h (fun k t =>
      if k.pass = 0 then t
      else t.onWave k (fun y => { y with pend := y.pend ++ [{ PWrite.nil with
        due := k.clock + 3, early := k.clock + 1, sp := [(0, BitVec.ofNat 64 (k.opnd o.a o.ty k.low))] }] })))
    ∧ (∀ h (o : FmtA) (n : BitVec 3), o.d = .sp (.scalewin n) → Completes (.swrite h o) h (fun k t =>
      if k.pass = 0 then t
      else t.onWave k (fun y => { y with pend := y.pend ++ [{ PWrite.nil with
        due := k.clock + 3, early := k.clock + 1, sp := [(n.toNat + 1, BitVec.ofNat 64 (k.opnd o.a o.ty k.low))] }] })))
    ∧ (∀ h (o : FmtA), Instr.wellFormed (.swrite h o) = true →
        o.d = .sp .fpctl ∨ o.d = .sp .chkctl ∨ ∃ n, o.d = .sp (.scalewin n))
  )

/-! ## Special registers, floating point, lane exchange -/

/-- R177 to R181: the floating-point arithmetic of both formats, on operands after ABS and NEG (R174), rounded once in the mode
of RND (format I in RNE), with the flags of every computing lane; latency 4, or 8 at `.f64`; `fsqrt` 8 or 16 and `fdiv` 16. -/
def Obligations.FloatComplete : Prop :=
  (∀ h o, Completes (.fadd h o) h (fun k => givesF k (if o.ty = .f64 then 8 else 4) o.ty.regs o.d o.s (fun l =>
    (fmtOf o.ty).add o.rnd o.sat (fltA o k l) (fltB o k l))))
  ∧ (∀ h o, Completes (.faddImm h o) h (fun k => givesF k (if o.ty = .f64 then 8 else 4) o.ty.regs o.d o.s (fun l =>
    (fmtOf o.ty).add .rne false (k.opnd o.a o.ty l) (immAt o.ty o.imm))))
  ∧ (∀ h o, Completes (.fsub h o) h (fun k => givesF k (if o.ty = .f64 then 8 else 4) o.ty.regs o.d o.s (fun l =>
    (fmtOf o.ty).sub o.rnd o.sat (fltA o k l) (fltB o k l))))
  ∧ (∀ h o, Completes (.fsubImm h o) h (fun k => givesF k (if o.ty = .f64 then 8 else 4) o.ty.regs o.d o.s (fun l =>
    (fmtOf o.ty).sub .rne false (k.opnd o.a o.ty l) (immAt o.ty o.imm))))
  ∧ (∀ h o, Completes (.fmul h o) h (fun k => givesF k (if o.ty = .f64 then 8 else 4) o.ty.regs o.d o.s (fun l =>
    (fmtOf o.ty).mul o.rnd o.sat (fltA o k l) (fltB o k l))))
  ∧ (∀ h o, Completes (.fmulImm h o) h (fun k => givesF k (if o.ty = .f64 then 8 else 4) o.ty.regs o.d o.s (fun l =>
    (fmtOf o.ty).mul .rne false (k.opnd o.a o.ty l) (immAt o.ty o.imm))))
  ∧ (∀ h o, Completes (.ffma h o) h (fun k => givesF k (if o.ty = .f64 then 8 else 4) o.ty.regs o.d o.s (fun l =>
    (fmtOf o.ty).fma o.rnd o.sat (fltA o k l) (fltB o k l) (fltC o k l))))
  ∧ (∀ h o, Completes (.fdiv h o) h (fun k => givesF k 16 o.ty.regs o.d o.s (fun l =>
    (fmtOf o.ty).div o.rnd o.sat (fltA o k l) (fltB o k l))))
  ∧ (∀ h o, Completes (.fsqrt h o) h (fun k => givesF k (if o.ty = .f64 then 16 else 8) o.ty.regs o.d o.s (fun l =>
    (fmtOf o.ty).sqrt o.rnd o.sat (fltA o k l))))
  ∧ (∀ h o, Completes (.fmin h o) h (fun k => givesF k (if o.ty = .f64 then 8 else 4) o.ty.regs o.d o.s (fun l =>
    (fmtOf o.ty).minmax false (fltA o k l) (fltB o k l))))
  ∧ (∀ h o, Completes (.fminImm h o) h (fun k => givesF k (if o.ty = .f64 then 8 else 4) o.ty.regs o.d o.s (fun l =>
    (fmtOf o.ty).minmax false (k.opnd o.a o.ty l) (immAt o.ty o.imm))))
  ∧ (∀ h o, Completes (.fmax h o) h (fun k => givesF k (if o.ty = .f64 then 8 else 4) o.ty.regs o.d o.s (fun l =>
    (fmtOf o.ty).minmax true (fltA o k l) (fltB o k l))))
  ∧ (∀ h o, Completes (.fmaxImm h o) h (fun k => givesF k (if o.ty = .f64 then 8 else 4) o.ty.regs o.d o.s (fun l =>
    (fmtOf o.ty).minmax true (k.opnd o.a o.ty l) (immAt o.ty o.imm))))
  ∧ (∀ h o, Completes (.fscale h o) h (fun k => givesF k (if o.ty = .f64 then 8 else 4) o.ty.regs o.d o.s (fun l =>
    (fmtOf o.ty).scale o.rnd o.sat (fltA o k l) (sintOf 32 (k.u32 o.b l)))))
  ∧ (∀ h o, Completes (.fscaleImm h o) h (fun k => givesF k (if o.ty = .f64 then 8 else 4) o.ty.regs o.d o.s (fun l =>
    (fmtOf o.ty).scale .rne false (k.opnd o.a o.ty l) (sintOf 32 o.imm.toNat))))
  ∧ (∀ h o, Completes (.frnd h o) h (fun k => givesF k (if o.ty = .f64 then 8 else 4) o.ty.regs o.d o.s (fun l =>
    (fmtOf o.ty).integral o.rnd (fltA o k l))))

/-- R182 to R185: the comparison ANDs its condition with PS (in format I with true) and raises its flags; `fclass` writes its mask
and raises none; the approximated functions give `Fn.eval` at latency 8, or 16 at `.f64`. -/
def Obligations.FloatTestComplete : Prop :=
  (∀ h o, Completes (.fcmp h o) h (fun k => fixed k (if o.ty = .f64 then 8 else 4) { PWrite.nil with
    p := predAt o.pd ((lanesOf k.pass).map (fun l =>
      (l, ((fmtOf o.ty).cmp o.sub.toNat (fltA o k l) (fltB o k l)).1 && k.p o.ps.toNat l)))
    fl := ((lanesOf k.pass).map (fun l => ((fmtOf o.ty).cmp o.sub.toNat (fltA o k l) (fltB o k l)).2)).foldl
      (fun m e => m ||| e) 0 }))
  ∧ (∀ h o, Completes (.fcmpImm h o) h (fun k => fixed k (if o.ty = .f64 then 8 else 4) { PWrite.nil with
    p := predAt o.pd ((lanesOf k.pass).map (fun l =>
      (l, ((fmtOf o.ty).cmp o.sub.toNat (k.opnd o.a o.ty l) (immAt o.ty o.imm)).1)))
    fl := ((lanesOf k.pass).map (fun l => ((fmtOf o.ty).cmp o.sub.toNat (k.opnd o.a o.ty l) (immAt o.ty o.imm)).2)).foldl
      (fun m e => m ||| e) 0 }))
  ∧ (∀ h o, Completes (.fclass h o) h (fun k => gives k (if o.ty = .f64 then 8 else 4) 1 o.d o.s (fun l =>
    (fmtOf o.ty).classOf (k.opnd o.a o.ty l))))
  ∧ (∀ h o, Completes (.frcp h o) h (fun k => givesF k (if o.ty = .f64 then 16 else 8) o.ty.regs o.d o.s (fun l =>
    Fn.eval .rcp o.ty o.sat (fltA o k l))))
  ∧ (∀ h o, Completes (.frsq h o) h (fun k => givesF k (if o.ty = .f64 then 16 else 8) o.ty.regs o.d o.s (fun l =>
    Fn.eval .rsq o.ty o.sat (fltA o k l))))
  ∧ (∀ h o, Completes (.fexp2 h o) h (fun k => givesF k (if o.ty = .f64 then 16 else 8) o.ty.regs o.d o.s (fun l =>
    Fn.eval .exp2 o.ty o.sat (fltA o k l))))
  ∧ (∀ h o, Completes (.flog2 h o) h (fun k => givesF k (if o.ty = .f64 then 16 else 8) o.ty.regs o.d o.s (fun l =>
    Fn.eval .log2 o.ty o.sat (fltA o k l))))
  ∧ (∀ h o, Completes (.fsin h o) h (fun k => givesF k (if o.ty = .f64 then 16 else 8) o.ty.regs o.d o.s (fun l =>
    Fn.eval .sin o.ty o.sat (fltA o k l))))
  ∧ (∀ h o, Completes (.fcos h o) h (fun k => givesF k (if o.ty = .f64 then 16 else 8) o.ty.regs o.d o.s (fun l =>
    Fn.eval .cos o.ty o.sat (fltA o k l))))
  ∧ (∀ h o, Completes (.ftanh h o) h (fun k => givesF k (if o.ty = .f64 then 16 else 8) o.ty.regs o.d o.s (fun l =>
    Fn.eval .tanh o.ty o.sat (fltA o k l))))

/-- R186 to R189: packed pairs element by element, four-term dot products, and conversions. That a constant operand of `dot4` is formed
at its TYPE and, under `.mx`, read in the other FP8 format is the model's choice (notes/assumptions/49), and so is what SAT does to a
widening integer conversion (notes/assumptions/40). -/
def Obligations.PackedComplete : Prop :=
  (∀ h o, Completes (.hadd2 h o) h (fun k => givesF k 4 1 o.d o.s (fun l =>
    pairOp (fun a b _ => (pairFmt o.ty).add o.rnd o.sat a b) (modify2 (pairFmt o.ty) o.absA o.negA (k.opnd o.a o.ty l))
      (modify2 (pairFmt o.ty) o.absB o.negB (k.opnd o.b o.ty l)) (modify2 (pairFmt o.ty) o.absC o.negC (k.opnd o.c o.ty l)))))
  ∧ (∀ h o, Completes (.hadd2Imm h o) h (fun k => givesF k 4 1 o.d o.s (fun l =>
    pairOp (fun a b _ => (pairFmt o.ty).add .rne false a b) (k.opnd o.a o.ty l) (immAt o.ty o.imm) 0)))
  ∧ (∀ h o, Completes (.hmul2 h o) h (fun k => givesF k 4 1 o.d o.s (fun l =>
    pairOp (fun a b _ => (pairFmt o.ty).mul o.rnd o.sat a b) (modify2 (pairFmt o.ty) o.absA o.negA (k.opnd o.a o.ty l))
      (modify2 (pairFmt o.ty) o.absB o.negB (k.opnd o.b o.ty l)) (modify2 (pairFmt o.ty) o.absC o.negC (k.opnd o.c o.ty l)))))
  ∧ (∀ h o, Completes (.hmul2Imm h o) h (fun k => givesF k 4 1 o.d o.s (fun l =>
    pairOp (fun a b _ => (pairFmt o.ty).mul .rne false a b) (k.opnd o.a o.ty l) (immAt o.ty o.imm) 0)))
  ∧ (∀ h o, Completes (.hfma2 h o) h (fun k => givesF k 4 1 o.d o.s (fun l =>
    pairOp (fun a b c => (pairFmt o.ty).fma o.rnd o.sat a b c) (modify2 (pairFmt o.ty) o.absA o.negA (k.opnd o.a o.ty l))
      (modify2 (pairFmt o.ty) o.absB o.negB (k.opnd o.b o.ty l)) (modify2 (pairFmt o.ty) o.absC o.negC (k.opnd o.c o.ty l)))))
  ∧ (∀ h o, Completes (.dot4 h o) h (fun k => givesF k 4 1 o.d o.s (fun l =>
    if o.ty.float then
      dot4Float (fmtOf o.ty) (if o.sub = 1 then (if o.ty = .e4m3 then fmtOf .e5m2 else fmtOf .e4m3) else fmtOf o.ty) o.rnd o.sat
        (k.opnd o.a o.ty l) (k.opnd o.b o.ty l) (k.opnd o.c .f32 l)
    else ⟨dot4Int o.ty o.sat (k.opnd o.a o.ty l) (k.opnd o.b o.ty l) (k.opnd o.c (if o.ty.signed then .i32 else .n32) l), 0⟩)))
  ∧ (∀ h o, Completes (.cvt h o) h (fun k =>
    givesF k (if Ty.ofCode (o.c.code % 32) = .f64 ∨ o.ty = .f64 then 8 else 4) o.ty.regs o.d o.s (fun l =>
      let src := Ty.ofCode (o.c.code % 32)
      let a := cvtIn src o.absA o.negA (k.opnd o.a src l)
      let b := cvtIn src o.absB o.negB (k.opnd o.b src l)
      if o.ty = .f16x2 then
        ⟨(cvtRes .f16 src o.rnd o.sat a).bits + 2 ^ 16 * (cvtRes .f16 src o.rnd o.sat b).bits,
          (cvtRes .f16 src o.rnd o.sat a).fl ||| (cvtRes .f16 src o.rnd o.sat b).fl⟩
      else if o.ty = .bf16x2 then
        ⟨(cvtRes .bf16 src o.rnd o.sat a).bits + 2 ^ 16 * (cvtRes .bf16 src o.rnd o.sat b).bits,
          (cvtRes .bf16 src o.rnd o.sat a).fl ||| (cvtRes .bf16 src o.rnd o.sat b).fl⟩
      else cvtRes o.ty src o.rnd o.sat a)))

/-- R76, R80 and Table 3-9 at every format, mode and SAT: a NaN operand of an addition, multiplication or division gives the
canonical NaN with NV for a signalling one; ∞ − ∞, 0 × ∞, 0 / 0 and ∞ / ∞ give it with NV; a finite x ≠ 0 divided by 0 gives a
signed infinity with DZ where the format has one; and the square root of a negative number is invalid, that of −0 is −0. -/
def Obligations.FloatSpecials : Prop :=
  ∀ (f : FFmt) (m : Rnd) (sat : Bool) (a b : Nat),
    ((f.dec (f.flush a)).isNan = true ∨ (f.dec (f.flush b)).isNan = true →
      let r : FRes := ⟨f.nan, if (f.dec (f.flush a)).isSig || (f.dec (f.flush b)).isSig then flNV else 0⟩
      f.add m sat a b = r ∧ f.mul m sat a b = r ∧ f.div m sat a b = r)
    ∧ (∀ n n', f.dec (f.flush a) = .inf n → f.dec (f.flush b) = .inf n' →
      f.div m sat a b = ⟨f.nan, flNV⟩ ∧ (n ≠ n' → f.add m sat a b = ⟨f.nan, flNV⟩) ∧ (n = n' → f.sub m sat a b = ⟨f.nan, flNV⟩))
    ∧ (∀ n n' e, f.dec (f.flush a) = .num n 0 e → f.dec (f.flush b) = .inf n' → f.mul m sat a b = ⟨f.nan, flNV⟩)
    ∧ (∀ n n' e e', f.dec (f.flush a) = .num n 0 e → f.dec (f.flush b) = .num n' 0 e' → f.div m sat a b = ⟨f.nan, flNV⟩)
    ∧ (∀ n n' e e' x, f.dec (f.flush a) = .num n (x + 1) e → f.dec (f.flush b) = .num n' 0 e' → sat = false → f.noInf = false →
      f.div m sat a b = ⟨f.inf (xor n n'), flDZ⟩)
    ∧ (∀ e x, f.dec (f.flush a) = .num true (x + 1) e → f.sqrt m sat a = ⟨f.nan, flNV⟩)
    ∧ (∀ e, f.dec (f.flush a) = .num true 0 e → f.sqrt m sat a = ⟨f.signBit true, 0⟩)

/-- R190 to R197: in the active lanes alone, `shfl` gives the source lane's value if that lane is active and otherwise the
reader's own operand with a false predicate; `vote` and `ballot` range over the active lanes; `match` gives the lanes of equal
value; `redux` folds the active values in lane order; `laneperm` permutes within octets. Latency 4, and 6 for `match` and
`redux`. -/
def Obligations.ExchangeComplete : Prop :=
  (∀ h o, Completes (.shfl h o) h (fun k =>
    let src := fun l => shflLane o.sub.toNat (k.u32 o.c l) l
    let ok := fun l => decide (src l < 32) && k.pass.getLsbD (src l)
    fixed k 4 { writesAt o.d o.ty.regs ((lanesOf k.pass).map (fun l =>
        (l, if ok l then k.opnd o.a o.ty (src l) else k.opnd o.b o.ty l))) with
      p := predAt o.pd ((lanesOf k.pass).map (fun l => (l, ok l))) }))
  ∧ (∀ h o, Completes (.shflImm h o) h (fun k =>
    let src := fun l => shflLane o.sub.toNat o.imm.toNat l
    let ok := fun l => decide (src l < 32) && k.pass.getLsbD (src l)
    fixed k 4 { writesAt o.d o.ty.regs ((lanesOf k.pass).map (fun l =>
        (l, if ok l then k.opnd o.a o.ty (src l) else k.opnd o.a o.ty l))) with
      p := predAt o.pd ((lanesOf k.pass).map (fun l => (l, ok l))) }))
  ∧ (∀ h o, Completes (.vote h o) h (fun k => givesB k 4 o.pd (fun _ =>
    let yes := (lanesOf k.pass).filter (fun l => k.p o.ps.toNat l)
    match o.sub.toNat with
    | 0 => laneSet yes == k.pass
    | 1 => laneSet yes != 0
    | _ => laneSet yes == k.pass || laneSet yes == 0)))
  ∧ (∀ h o, Completes (.ballot h o) h (fun k => fixed k 4
    { writesAt o.d 1 ((lanesOf k.pass).map (fun l =>
        (l, (laneSet ((lanesOf k.pass).filter (fun i => k.p o.ps.toNat i))).toNat))) with
      p := predAt 7 ((lanesOf k.pass).map (fun l => (l, false))) }))
  ∧ (∀ h o, Completes (.matchLanes h o) h (fun k =>
    let same := fun l => laneSet ((lanesOf k.pass).filter (fun i => k.opnd o.a o.ty i == k.opnd o.a o.ty l))
    fixed k 6 { writesAt o.d 1 ((lanesOf k.pass).map (fun l =>
        (l, if o.sub = 0 ∨ same l = k.pass then (same l).toNat else 0))) with
      p := predAt o.pd ((lanesOf k.pass).map (fun l => (l, decide (o.sub ≠ 0 ∧ same l = k.pass)))) }))
  ∧ (∀ h o, Completes (.redux h o) h (fun k =>
    let r := reduxRes o.sub.toNat o.ty o.rnd o.sat ((lanesOf k.pass).map (fun l => k.opnd o.a o.ty l))
    fixed k 6 { writesAt o.d o.ty.regs ((lanesOf k.pass).map (fun l => (l, r.bits))) with fl := r.fl }))
  ∧ (∀ h o, Completes (.laneperm h o) h (fun k =>
    let src := fun l => l / 8 * 8 + k.u32 o.b 0 / 2 ^ (3 * (l % 8)) % 8
    fixed k 4 { writesAt o.d o.ty.regs ((lanesOf k.pass).map (fun l =>
        (l, k.opnd o.a o.ty (if src l < 32 ∧ k.pass.getLsbD (src l) = true then src l else l)))) with
      p := predAt 7 ((lanesOf k.pass).map (fun l => (l, false))) }))
  ∧ (∀ h o, Completes (.lanepermImm h o) h (fun k =>
    let src := fun l => l / 8 * 8 + o.imm.toNat / 2 ^ (3 * (l % 8)) % 8
    fixed k 4 { writesAt o.d o.ty.regs ((lanesOf k.pass).map (fun l =>
        (l, k.opnd o.a o.ty (if src l < 32 ∧ k.pass.getLsbD (src l) = true then src l else l)))) with
      p := predAt 7 ((lanesOf k.pass).map (fun l => (l, false))) }))

/-! ## Control -/

/-- R51, R117, R159 to R162: a taken transfer moves its passing lanes to their targets, one split for each distinct target, that
issues no earlier than t + 1 + STALL (one cycle later for a line other than the transfer's own and the next), its BTM check
still to be made; the other lanes go on at next(x). `bra` and `call` go to line(x) + 64 × DISP at slot SLOT, `brx`, `callx` and
`ret` where the pair a of each lane says, if every such address meets R35; `call` and `callx` write next(x) to v58 and v59.

R35 to R37, R160: the passing lanes of a `brx`, `callx` or `ret` whose target breaks R35 take MISALIGNED_PC (0x04) at the transferring
instruction, in one trap; the other passing lanes transfer as above, and `callx` has written its link. That the record's address is the
target of the lowest of those lanes is the model's choice (notes/assumptions/10), and that targets of `bra` and `call` wrap modulo
2^56 too (notes/assumptions/18). -/
def Obligations.TransferComplete : Prop :=
  (
    (∀ h o, Instr.wellFormed (.bra h o) = true → Completes (.bra h o) h (fun k t =>
      if k.pass = 0 then t
      else t.onWave k (fun y => y.transfer k k.pass
        (BitVec.ofNat 56 (lineOf k.pc + 12 * o.slot.toNat) + o.disp.signExtend 56 * 64))))
    ∧ (∀ h o, CompletesAt (.brx h o) h (fun k _ => ∀ l ∈ lanesOf k.pass, pcOk (k.u64 o.a l) = true) (fun k t =>
      (groupLanes ((lanesOf k.pass).map (fun l => (l, k.u64 o.a l)))).foldl (fun u g =>
        u.onWave k (fun y => y.transfer k g.2 (BitVec.ofNat 56 g.1))) t))
    ∧ (∀ h o, Instr.wellFormed (.call h o) = true → Completes (.call h o) h (fun k t =>
      if k.pass = 0 then t
      else (fixed k 2 (writesAt (.v 58) 2 ((lanesOf k.pass).map (fun l => (l, (nextPc k.pc).toNat)))) t).onWave k (fun y =>
        y.transfer k k.pass (BitVec.ofNat 56 (lineOf k.pc + 12 * o.slot.toNat) + o.disp.signExtend 56 * 64))))
    ∧ (∀ h o, CompletesAt (.callx h o) h (fun k _ => ∀ l ∈ lanesOf k.pass, pcOk (k.u64 o.a l) = true) (fun k t =>
      (groupLanes ((lanesOf k.pass).map (fun l => (l, k.u64 o.a l)))).foldl (fun u g =>
        u.onWave k (fun y => y.transfer k g.2 (BitVec.ofNat 56 g.1)))
        (fixed k 2 (writesAt (.v 58) 2 ((lanesOf k.pass).map (fun l => (l, (nextPc k.pc).toNat)))) t)))
    ∧ (∀ h o, CompletesAt (.ret h o) h (fun k _ => ∀ l ∈ lanesOf k.pass, pcOk (k.u64 o.a l) = true) (fun k t =>
      (groupLanes ((lanesOf k.pass).map (fun l => (l, k.u64 o.a l)))).foldl (fun u g =>
        u.onWave k (fun y => y.transfer k g.2 (BitVec.ofNat 56 g.1))) t))
  ) ∧ (
    let bad := fun (o : FmtC) (k : Ctx) => (lanesOf k.pass).filter (fun l => !pcOk (k.u64 o.a l))
    let part := fun (o : FmtC) (k : Ctx) (t : State) =>
      ((groupLanes (((lanesOf k.pass).filter (fun l => pcOk (k.u64 o.a l))).map (fun l => (l, k.u64 o.a l)))).foldl (fun u g =>
        u.onWave k (fun y => y.transfer k g.2 (BitVec.ofNat 56 g.1))) t).takeTrap k.core k.wave (laneSet (bad o k)) 0x04 0 k.pc
          (k.u64 o.a ((bad o k).headD 0)) k.pc
    (∀ h o, CompletesAt (.brx h o) h (fun k _ => bad o k ≠ []) (part o))
    ∧ (∀ h o, CompletesAt (.callx h o) h (fun k _ => bad o k ≠ []) (fun k t =>
        part o k (fixed k 2 (writesAt (.v 58) 2 ((lanesOf k.pass).map (fun l => (l, (nextPc k.pc).toNat)))) t)))
    ∧ (∀ h o, CompletesAt (.ret h o) h (fun k _ => bad o k ≠ []) (part o))
  )

/-- R110, R112: `join` and `waitj` with L the passing lanes. `join` on a register in progress that lanes have reached, and
`waitj` at another PC than the first arrival's, fault REJOIN_MISMATCH (0x08) on the whole split with no effect; with no
passing lane they have no effect at all. When the last lane arrives, the lanes that wait and L go on at next(x) as one split, but
for those that are to stop there (R133), which stay apart. -/
def Obligations.RejoinComplete : Prop :=
  (∀ h o, Completes (.join h o) h (fun k t =>
    let r := k.x.jreg o.jx.toNat
    if k.pass = 0 then t
    else if r.v = true ∧ r.arr ≠ 0 then t.takeTrap k.core k.wave k.lanes 0x08 0 k.pc 0 k.pc
    else t.onWave k (fun y => { y with j := Tbl.put y.j o.jx.toNat { v := true, pcw := r.pcw, arr := 0, exp := k.pass } })))
  ∧ (∀ h o, Completes (.waitj h o) h (fun k t =>
    let n := o.jx.toNat
    let r := k.x.jreg n
    if k.pass = 0 then t
    else if r.v = false then t.onWave k (fun y => y.moveTo k.pass (nextPc k.pc) .ready k.clock)
    else if r.arr ≠ 0 ∧ r.pcw ≠ k.pc then t.takeTrap k.core k.wave k.lanes 0x08 0 k.pc 0 k.pc
    else if r.exp &&& ~~~ (r.arr ||| k.pass) = 0 then t.onWave k (fun y =>
      { (y.wakeIf k.clock (fun p => p.st == .joinWait n && p.stop.isSome) (fun _ => nextPc k.pc)).moveTo
          ((y.splits.filter (fun p => p.st == .joinWait n && p.stop.isNone)).foldl (fun m p => m ||| p.mask) k.pass)
          (nextPc k.pc) .ready k.clock with
        j := Tbl.put y.j n { v := false, pcw := k.pc, arr := r.arr ||| k.pass, exp := r.exp } })
    else t.onWave k (fun y =>
      { y.moveTo k.pass k.pc (.joinWait n) k.clock with
        j := Tbl.put y.j n { v := true, pcw := k.pc, arr := r.arr ||| k.pass, exp := r.exp } })))

/-- R164 to R171: the instructions that act on the wave. `exit` takes the passing lanes out of the wave; `nop` and `twait` have
the effects of their headers and waits alone; `delay` adds n cycles to the stall; `yield` yields for 64 cycles; `backoff`
lowers the level by one, down to 0; `treset` moves the guaranteed mark to the posts; `tread` writes the token's count before
the retirements of its cycle; `regq` changes QUOTA if the free pool covers the request, and writes it. -/
def Obligations.WaveControlComplete : Prop :=
  (∀ h o, Completes (.exit h o) h (fun k t => if k.pass = 0 then t else t.exitLanes k.core k.wave k.pass))
  ∧ (∀ h o, Completes (.nop h o) h (fun _ t => t))
  ∧ (∀ h o, Completes (.twait h o) h (fun _ t => t))
  ∧ (∀ h o, Completes (.delay h o) h (fun k t => t.onWave k (fun y => { y with notBefore := y.notBefore + o.cnt.toNat })))
  ∧ (∀ h o, Completes (.yield h o) h (fun k t =>
      if k.pass = 0 then t else t.onWave k (fun y => { y with yieldUntil := some (k.clock + 64) })))
  ∧ (∀ h o, Completes (.backoff h o) h (fun k t =>
      if k.pass = 0 then t else t.onWave k (fun y => { y with level := max (y.level - 1) 0 })))
  ∧ (∀ h o, Completes (.treset h o) h (fun k t => t.onWave k (fun y =>
      { y with gmark := Tbl.put y.gmark o.tk.toNat (Tbl.getD y.posts o.tk.toNat 0) })))
  ∧ (∀ h o, Completes (.tread h o) h (fun k =>
      fixed k 2 (writesAt o.a 1 (perLane k o.a.isS (fun _ => k.x.countBefore k.clock o.tk.toNat)))))
  ∧ (∀ h o, Completes (.regq h o) h (fun k t =>
      let n := o.cnt.toNat * 8
      let q := if n ≤ k.x.quota ∨ n - k.x.quota ≤ (t.core k.core).freePool (quadOf k.wave) then n else k.x.quota
      if k.pass = 0 then t
      else fixed k 2 (writesAt o.a 1 (perLane k o.a.isS (fun _ => q))) (t.onWave k (fun y => y.setQuota q t.nextId))))

/-- R56, R57: a slot with an unassigned major opcode takes ILLEGAL_OPCODE (0x01) for the whole executing split at its PC, once
its stall has elapsed, whatever its header says. -/
def Obligations.UnassignedOpcode : Prop :=
  ∀ (w : BitVec 96) (s : State) (cur : Cursor) (x : Wave), s.cursor = some cur → s.wave? cur.core cur.wave = some x →
    cur.second = none → s.restHeld cur.core x = false → x.stopAt cur = none → x.stallOver s.clock (x.chosen cur.pc cur.lanes) = true →
    exec (.unassignedOpcode w) s = .next (({ s with cursor := none } : State).takeTrap cur.core cur.wave
      (x.lanesAt cur) 0x01 0 cur.pc 0 cur.pc)

/-! ## Memory instructions: at its issue each sends its lanes' requests; they are performed by the steps below -/

/-- R237, R239, R242, R434, R435: where every passing lane's range is translated with the right to read and meets no physical
cause, `ld` sends for each lane one request for each element of n × s bytes from the effective address, split into bytes where
it is not aligned, and its operation waits for them.

R219, R220, R237, R246: `lda`, `ldw`, `ldc` and `sta` where every passing lane's access lies within its allocation, aligned to
its whole size and in one bank, slice or row: one request for each lane (for each element in `ldc`) at the buffer address,
counted from the wave's base in the A-buffer. -/
def Obligations.LoadComplete : Prop :=
  (
    ∀ (h : Hdr) (o : FmtM),
      let size := o.ty.bits / 8
      CompletesAt (.ld h o) h
        (fun k s => ∀ l ∈ lanesOf k.pass, ∃ ps, k.acc s rightR (k.ea o l) (vecN o.mop * size) = .ok ps
          ∧ s.physFault (s.tenantOfAsid k.asid) ps = none)
        (fun k t => if k.pass = 0 then t
          else sendLoads k (.load o.d o.ty (vecN o.mop)) (o.ord == .acq) (decide (16 ≤ o.mop.toNat)) (k.ea o)
            ((lanesOf k.pass).map (fun l => (l, .ok ((List.range (vecN o.mop)).flatMap (fun i =>
              elemReqs t (t.tenantOfAsid k.asid)
                { k.req .load l k.op with elem := i, ord := o.ord, scope := o.scope.toNat, ty := o.ty }
                (k.acc t rightR (k.ea o l) (vecN o.mop * size)).pieces (k.ea o l + i * size) size 0))))) t)
  ) ∧ (
    ∀ (h : Hdr) (o : FmtM),
      let n := vecN o.mop
      let size := o.ty.bits / 8
      let fits := fun (k : Ctx) (limit unit : Nat) => ∀ l ∈ lanesOf k.pass, 0 ≤ k.bufAddr o l
        ∧ k.bufAddr o l + (n * size : Nat) ≤ (limit : Int) ∧ (k.bufAddr o l).toNat % (n * size) = 0
        ∧ (k.bufAddr o l).toNat / unit = ((k.bufAddr o l).toNat + n * size - 1) / unit
      let wait := fun (k : Ctx) (rs : Nat → List Req) (t : State) => if k.pass = 0 then t
        else sendLoads k (.load o.d o.ty n) (o.ord == .acq) false (fun l => truncTo 64 (k.bufAddr o l))
          ((lanesOf k.pass).map (fun l => (l, .ok (rs l)))) t
      let req := fun (k : Ctx) (l : Nat) (p : Place) (base : Nat) =>
        { k.req .load l k.op with ord := o.ord, scope := o.scope.toNat, ty := o.ty, place := p, size := n * size,
                                  addr := base + (k.bufAddr o l).toNat, va := (k.bufAddr o l).toNat }
      CompletesAt (.lda h o) h (fun k _ => fits k k.x.abytes 16) (fun k => wait k (fun l => [req k l .abuf k.x.abase]))
      ∧ CompletesAt (.ldw h o) h (fun k _ => fits k Config.wbufBytes 32768) (fun k => wait k (fun l => [req k l .wbuf 0]))
      ∧ CompletesAt (.ldc h o) h (fun k _ => fits k Config.cbufBytes 512) (fun k => wait k (fun l =>
          (List.range n).map (fun i =>
            { req k l .cbuf 0 with size := size, addr := (k.bufAddr o l).toNat + i * size, elem := i })))
      ∧ CompletesAt (.sta h o) h (fun k _ => fits k k.x.abytes 16) (fun k t => t.addReqs ((lanesOf k.pass).map (fun l =>
          { k.req .store l k.op with
            ord := o.ord, ty := o.ty, place := .abuf, size := n * size
            addr := k.x.abase + (k.bufAddr o l).toNat, va := (k.bufAddr o l).toNat
            data := ((List.range n).map (fun i => k.opnd (Opnd.up o.d (i * o.ty.regs)) o.ty l % 2 ^ o.ty.bits
              * 2 ^ (8 * size * i))).foldl (fun x y => x + y) 0 })))
  )

/-- R239, R241, R242: as `LoadComplete` for `st`, which also meets no cell in part (R75): each element is sent with its data and
nothing waits for it. Its bytes are written by HOME_STORE. -/
def Obligations.StoreComplete : Prop :=
  ∀ (h : Hdr) (o : FmtM),
    let size := o.ty.bits / 8
    CompletesAt (.st h o) h
      (fun k s => ∀ l ∈ lanesOf k.pass, ∃ ps, k.acc s rightW (k.ea o l) (vecN o.mop * size) = .ok ps
        ∧ ps.any Piece.partialCell = false ∧ s.physFault (s.tenantOfAsid k.asid) ps = none)
      (fun k t => t.addReqs ((lanesOf k.pass).flatMap (fun l => (List.range (vecN o.mop)).flatMap (fun i =>
        elemReqs t (t.tenantOfAsid k.asid)
          { k.req .store l k.op with elem := i, ord := o.ord, scope := o.scope.toNat, ty := o.ty }
          (k.acc t rightW (k.ea o l) (vecN o.mop * size)).pieces (k.ea o l + i * size) size
          (k.opnd (Opnd.up o.d (i * o.ty.regs)) o.ty l % 2 ^ o.ty.bits)))))

/-- R72, R245, R435: where the walks of all its pages are answered and no passing lane meets a cause, `lde` sends the reads of its
elements and scale bytes and waits for them. -/
def Obligations.DecodeLoadComplete : Prop :=
  ∀ (h : Hdr) (o : FmtM), CompletesAt (.lde h o) h
    (fun k s => waitMisses ((lanesOf k.pass).flatMap (ldeAccs o k s)) = none ∧ ∀ l ∈ lanesOf k.pass, ∃ rs, ldePlan o k s l = .ok rs)
    (fun k t => if k.pass = 0 then t
      else sendLoads k (.lde o.d o.ty (Rnd.ofCode (o.mop.toNat % 4)) (ldeElems o k t)) (o.ord == .acq) (decide (16 ≤ o.mop.toNat))
        (k.ea o) ((lanesOf k.pass).map (fun l => (l, ldePlan o k t l))) t)

/-- R247 to R249: `atom` and `red` where every passing lane's access is translated with the rights to read and write, aligned to its
whole width and meets no other cause (with `.abuf`, lies within the allocation): one request for each lane.

R250 to R252: `mcas` where the walks and the order of its threads let every passing lane read its block, and no entry faults:
the block reads have their effect, and each lane sends its entries, which no lock has reached. -/
def Obligations.AtomicComplete : Prop :=
  (
    (∀ (h : Hdr) (o : FmtM),
      let req := fun (k : Ctx) (l : Nat) => { k.req (.atom (o.mop.toNat % 16)) l k.op with
        ord := o.ord, scope := o.scope.toNat, ty := o.ty, data := (atomData o k l).1, data2 := (atomData o k l).2 }
      CompletesAt (.atom h o) h
        (fun k s => atomWait o k s = none ∧ ∀ l ∈ lanesOf k.pass, ∃ rs, atomPlan o k s l (req k l) = .ok rs)
        (fun k t => if k.pass = 0 then t
          else sendLoads k (.atom o.d (atomSize (o.mop.toNat % 16) o.ty / 4)) (o.ord == .acq || o.ord == .ar) false
            (fun l => if 16 ≤ o.mop.toNat then truncTo 64 (k.bufAddr o l) else k.ea o l)
            ((lanesOf k.pass).map (fun l => (l, atomPlan o k t l (req k l)))) t))
    ∧ (∀ (h : Hdr) (o : FmtM),
      let req := fun (k : Ctx) (l : Nat) => { k.req (.red (o.mop.toNat % 16)) l k.op with
        ord := o.ord, scope := o.scope.toNat, ty := o.ty, data := k.opnd o.d o.ty l }
      CompletesAt (.red h o) h
        (fun k s => atomWait o k s = none ∧ ∀ l ∈ lanesOf k.pass, ∃ rs, atomPlan o k s l (req k l) = .ok rs)
        (fun k t => t.addReqs ((planGood ((lanesOf k.pass).map (fun l => (l, atomPlan o k t l (req k l))))).flatMap (fun e => e.2))))
  ) ∧ (
    ∀ (h : Hdr) (o : FmtM), CompletesAt (.mcas h o) h
      (fun k s => mcasWait o k s = none ∧ ∀ l ∈ lanesOf k.pass, ∃ u ents ps, mcasStage o k s l = .ready u ents ps)
      (fun k t => if k.pass = 0 then t
        else sendLoads k (.mcas o.d) (o.ord == .acq || o.ord == .ar) false (k.ea o)
          ((lanesOf k.pass).map (fun l => (l, match mcasStage o k t l with
            | .ready _ ents ps => .ok [{ k.req (.mcas ((ents.zip ps).map (fun e =>
                ⟨e.2.pa, leafKind e.2.leaf, BitVec.ofNat 64 e.1.2.1, BitVec.ofNat 64 e.1.2.2⟩)) []) l k.op with
                  ord := o.ord, scope := o.scope.toNat, size := 8, va := k.ea o l }]
            | .fault c a => .error (c, a)
            | .wait _ => .error (0x10, k.ea o l)))) (mcasReads o k t))
  )

/-- R248: the value that an atomic operation writes at its location, for an old value and the operand b of the type's width: sums cut
to the width, bits, the lesser or greater value, the operand itself, and nothing where a compare finds other bits. The float
operations round to nearest even and raise no flag; at `.f16x2` and `.bf16x2` they act on each half alone. -/
def Obligations.AtomicValues : Prop :=
  ∀ (t : Ty) (old b exp : Nat),
    atomNew 0 t old b exp = some (truncTo t.bits (intVal t old + intVal t b))
    ∧ atomNew 1 t old b exp = some (old &&& b) ∧ atomNew 2 t old b exp = some (old ||| b)
    ∧ atomNew 3 t old b exp = some (old ^^^ b)
    ∧ atomNew 4 t old b exp = some (if intVal t b < intVal t old then b else old)
    ∧ atomNew 5 t old b exp = some (if intVal t old < intVal t b then b else old)
    ∧ atomNew 6 t old b exp = some b
    ∧ atomNew 7 t old b exp = (if old = exp then some b else none)
    ∧ atomNew 11 t old b exp = (if old = exp then some b else none)
    ∧ ((t = .f32 ∨ t = .f64) → atomNew 8 t old b exp = some ((fmtOf t).add .rne false old b).bits
      ∧ atomNew 9 t old b exp = some ((fmtOf t).minmax false old b).bits
      ∧ atomNew 10 t old b exp = some ((fmtOf t).minmax true old b).bits)
    ∧ (∀ f : FFmt, (t = .f16x2 ∧ f = fmtOf .f16) ∨ (t = .bf16x2 ∧ f = fmtOf .bf16) →
      let halves := fun (g : Nat → Nat → FRes) => some ((g (old % 2 ^ 16) (b % 2 ^ 16)).bits
        + 2 ^ 16 * (g (old / 2 ^ 16 % 2 ^ 16) (b / 2 ^ 16 % 2 ^ 16)).bits)
      atomNew 8 t old b exp = halves (f.add .rne false) ∧ atomNew 9 t old b exp = halves (f.minmax false)
      ∧ atomNew 10 t old b exp = halves (f.minmax true))

/-- R230, R255 to R257: `fence` takes over, unless it is a release, the times that the core has seen, orders each passing lane that has
accesses in flight, and as `.sc` leaves the bypass of its scope to its lanes (that the times which a fence takes over are those its core has
seen is deduced, notes/assumptions/29); `wbr` and `invr` send the operation on each
passing lane's range, where its pages are translated and no lane's range faults.

R259 to R261: `pref`, `ipref`, `ipin` and `iunpin` act in the passing lanes in increasing order; `pref` and `ipref` ignore what
would fault, `pref` loads no STRICT or host line and a MANUAL one only into the L1, a fetched line stands in the cache with its 64 bytes, and after an
`ipin` each line of its range is pinned or 512 pins stand, until `iunpin` names it; `watch` sends the request to arm at its location where
each lane's word is translated, aligned and its counter is a live event counter of the process. -/
def Obligations.FenceCacheComplete : Prop :=
  let sent := fun (o : FmtM) (need : Nat) (kind : List (Nat × Nat × Nat) → ReqKind) (k : Ctx) (t : State) =>
    t.addReqs (((lanesOf k.pass).filterMap (fun l =>
      let ps := (rangeAcc k t need (k.ea o l) (k.u32 o.b l)).1
      if k.u32 o.b l = 0 then none
      else some { k.req (kind (ps.map (fun p => (p.pa, p.len, leafKind p.leaf)))) l k.op with
        va := k.ea o l, size := (ps.map (·.len)).foldl (fun x y => x + y) 0 })).filter (fun r => r.size != 0))
  (
    (∀ h o, Completes (.fence h o) h (fun k t =>
      let t0 := if o.ord = .rel ∨ k.pass = 0 then t else t.advance k.core (t.core k.core).seen
      let t1 := t0.addReqs ((lanesOf k.pass).flatMap (fun l =>
        let r := { k.req (.fence (o.mop == 1)) l k.op with ord := o.ord, scope := o.scope.toNat, id := t0.nextId }
        if (t0.before r).isEmpty then [] else [r]))
      if o.mop = 1 then t1.onWave k (fun y => y.scBypass k.pass o.scope.toNat t1.nextId) else t1))
    ∧ (∀ h o, CompletesAt (.wbr h o) h (fun k s => cacheWait rightW o k s = none ∧ ∀ l ∈ lanesOf k.pass, k.u32 o.b l = 0 ∨
        ∃ ps, rangeAcc k s rightW (k.ea o l) (k.u32 o.b l) = (ps, none)
          ∧ s.physFault (s.tenantOfAsid k.asid) (ps.filter (fun p => leafKind p.leaf == 2)) = none)
      (sent o rightW ReqKind.wbr))
    ∧ (∀ h o, CompletesAt (.invr h o) h (fun k s => cacheWait rightR o k s = none ∧ ∀ l ∈ lanesOf k.pass, k.u32 o.b l = 0 ∨
        ∃ ps, rangeAcc k s rightR (k.ea o l) (k.u32 o.b l) = (ps, none)
          ∧ s.physFault (s.tenantOfAsid k.asid) (ps.filter (fun p => leafKind p.leaf == 2)) = none)
      (sent o rightR ReqKind.invr))
  ) ∧ (
    (∀ h o, Completes (.pref h o) h (fun k t => t.addReqs ((lanesOf k.pass).flatMap (prefOne o k t))))
    ∧ (∀ h o, Completes (.ipref h o) h (fun k t => (lanesOf k.pass).foldl (iprefOne o k) t))
    ∧ (∀ h o, CompletesAt (.ipin h o) h (fun k s => ipinWait o k s = none ∧ ∀ l ∈ lanesOf k.pass,
        ∀ a ∈ iLines (k.ea o l) (k.u32 o.b l), outside a 64 = false ∧ ∃ u, s.fetchLine k.core k.asid a = .ok u) (ipinBody o))
    ∧ (∀ h o, Completes (.iunpin h o) h (fun k t => (lanesOf k.pass).foldl (fun u l => u.modCore k.core (fun c =>
        { c with pins := c.pins.filter (fun p => !(p.1 == k.asid && (iLines (k.ea o l) (k.u32 o.b l)).contains p.2)) })) t))
    ∧ (∀ (o : FmtM) (k : Ctx) (s : State) l leaf pa, outside (k.ea o l) 1 = false → s.xlateNow k.core k.asid (k.ea o l) = .hit leaf pa →
        leafGrants leaf rightR = true → leafHost leaf = false → s.admits (s.tenantOfAsid k.asid) pa 1 = true →
        prefOne o k s l = if leafKind leaf = 0 ∨ (leafKind leaf = 2 ∧ o.mop ≠ 0) then []
          else [{ k.req (.pref (o.mop == 0)) l k.op with pageKind := leafKind leaf, addr := pa, va := k.ea o l }])
    ∧ (∀ (s t : State) c asid line leaf pa, s.xlateNow c asid line = .hit leaf pa → s.fetchLine c asid line = .ok t →
        { asid := asid, line := line, bits := s.fetchBits c pa, bad := false } ∈ (t.core c).icache)
    ∧ (∀ k ls (s t : State), ipinLines k ls s = (t, none) → ∀ a ∈ ls, (k.asid, a) ∈ (t.core k.core).pins ∨ 512 ≤ (t.core k.core).pins.length)
    ∧ (∀ h o, CompletesAt (.watch h o) h
        (fun k s => ldWait rightR (o.ty.bits / 8) o k s = none ∧ ∀ l ∈ lanesOf k.pass, ∃ rs, watchPlan o k s l = .ok rs)
        (fun k t => t.addReqs ((planGood ((lanesOf k.pass).map (fun l => (l, watchPlan o k t l)))).flatMap (fun e => e.2))))
  )

/-- What a memory access of a lane meets first (R200, R205, R210, R220, R246, R435): a range outside the 56-bit space gives ADDR_RANGE
(0x12), a buffer access outside the allocation BUFFER_RANGE (0x1A) and one that is not aligned to its size MISALIGNED (0x14), an
atomic access that is not aligned MISALIGNED, and a translated page without the right PAGE_PERM (0x11) at its first byte. -/
def Obligations.AccessFaults : Prop :=
  (∀ (o : FmtM) (k : Ctx) (s : State) (l : Nat), 2 ^ 56 < k.ea o l + vecN o.mop * (o.ty.bits / 8) →
    ldPlan o k s l = .error (0x12, k.ea o l) ∧ stPlan o k s l = .error (0x12, k.ea o l))
  ∧ (∀ (k : Ctx) (o : FmtM) (p : Place) (base limit unit l size : Nat) (f : Nat → List Req),
    (k.bufAddr o l < 0 ∨ (limit : Int) < k.bufAddr o l + size →
      bufPlan k o p base limit unit l size f = .error (0x1A, truncTo 64 (k.bufAddr o l)))
    ∧ (0 ≤ k.bufAddr o l ∧ k.bufAddr o l + size ≤ (limit : Int) ∧ (k.bufAddr o l).toNat % size ≠ 0 →
      bufPlan k o p base limit unit l size f = .error (0x14, (k.bufAddr o l).toNat)))
  ∧ (∀ (o : FmtM) (k : Ctx) (s : State) (l : Nat) (r : Req) (ps : List Piece), o.mop.toNat < 16 →
    k.acc s (rightR + rightW) (k.ea o l) (atomSize (o.mop.toNat % 16) o.ty) = .ok ps →
    k.ea o l % atomSize (o.mop.toNat % 16) o.ty ≠ 0 → atomPlan o k s l r = .error (0x14, k.ea o l))
  ∧ (∀ (k : Ctx) (s : State) (need va len pa : Nat) (leaf : DWord), 0 < len → va % 65536 + len ≤ 65536 → va + len ≤ 2 ^ 56 →
    s.xlate k.core k.op k.asid va = .hit leaf pa →
    k.acc s need va len = if leafGrants leaf need then .ok [⟨va, len, leaf, pa⟩] else .fault 0x11 va)

/-! ## Crew barriers and scratchpad queues -/

/-- R227, R264, R265: where the wave is no task wave, the barrier exists, and the counts are legal and agree with each other and with
the count of the phase: an arrival latches the count, adds the passing lanes to ARR, leaves one request for each lane whose thread
has accesses that the arrival, as a release, awaits, and closes the phase if it is complete; a wait suspends the lanes with a
pending arrival of the open phase. `bar.sync` does both.

R265: at a barrier number above 15 every form, and where the passing lanes' counts lie outside 1 to 4,096, differ from each other or
differ from the count of the phase an arrival of every form, takes BARRIER_MISMATCH (0x40) for the whole split with no effect; so does
every form in a task wave (R349). -/
def Obligations.BarrierComplete : Prop :=
  (
    let legal := fun (k : Ctx) (b : Nat) => k.x.taskQueue = none ∧ b ≤ 15
    let agree := fun (k : Ctx) (s : State) (b : Nat) (cnt : Nat → Nat) => ∃ n, 1 ≤ n ∧ n ≤ 4096
      ∧ (∀ l ∈ lanesOf k.pass, cnt l = n) ∧ (((s.core k.core).bar b).cnt = 0 ∨ ((s.core k.core).bar b).cnt.toNat = n)
    let arrive := fun (k : Ctx) (b n : Nat) (t : State) =>
      let late := (lanesOf k.pass).flatMap (fun l =>
        let r := { k.req (.arrive b) l k.op with place := .abuf, ord := .rel, id := t.nextId }
        if t.ownOrder r then [] else [r])
      ((t.addReqs late).modCore k.core (fun c => c.barArrive k.wave b n late.length k.pass)).barCheck k.core b
    let wait := fun (k : Ctx) (b : Nat) (t : State) =>
      t.onWave k (fun y => y.barWait b ((t.core k.core).bar b).parity k.pass k.pc k.clock)
    (∀ h (o : FmtA), CompletesAt (.barArrive h o) h
      (fun k s => k.pass = 0 ∨ (legal k (k.u32 o.a k.low) ∧ agree k s (k.u32 o.a k.low) (k.u32 o.b)))
      (fun k t => if k.pass = 0 then t else arrive k (k.u32 o.a k.low) (k.u32 o.b k.low) t))
    ∧ (∀ h (o : FmtA), CompletesAt (.barWait h o) h (fun k _ => k.pass = 0 ∨ legal k (k.u32 o.a k.low))
      (fun k t => if k.pass = 0 then t else wait k (k.u32 o.a k.low) t))
    ∧ (∀ h (o : FmtA), CompletesAt (.barSync h o) h
      (fun k s => k.pass = 0 ∨ (legal k (k.u32 o.a k.low) ∧ agree k s (k.u32 o.a k.low) (k.u32 o.b)))
      (fun k t => if k.pass = 0 then t else wait k (k.u32 o.a k.low) (arrive k (k.u32 o.a k.low) (k.u32 o.b k.low) t)))
    ∧ (∀ h (o : FmtI), CompletesAt (.barArriveImm h o) h
      (fun k s => k.pass = 0 ∨ (legal k (k.u32 o.a k.low) ∧ agree k s (k.u32 o.a k.low) (fun _ => o.imm.toNat)))
      (fun k t => if k.pass = 0 then t else arrive k (k.u32 o.a k.low) o.imm.toNat t))
    ∧ (∀ h (o : FmtI), CompletesAt (.barSyncImm h o) h
      (fun k s => k.pass = 0 ∨ (legal k (k.u32 o.a k.low) ∧ agree k s (k.u32 o.a k.low) (fun _ => o.imm.toNat)))
      (fun k t => if k.pass = 0 then t else wait k (k.u32 o.a k.low) (arrive k (k.u32 o.a k.low) o.imm.toNat t)))
  ) ∧ (
    let noBar := fun (a : Opnd) (k : Ctx) => 15 < k.u32 a k.low ∨ k.x.taskQueue.isSome = true
    let bad := fun (a : Opnd) (cnt : Ctx → Nat → Nat) (k : Ctx) (s : State) => k.pass ≠ 0 ∧ (noBar a k
      ∨ (∃ l ∈ lanesOf k.pass, cnt k l = 0 ∨ 4096 < cnt k l) ∨ (∃ l ∈ lanesOf k.pass, ∃ m ∈ lanesOf k.pass, cnt k l ≠ cnt k m)
      ∨ (((s.core k.core).bar (k.u32 a k.low)).cnt ≠ 0
          ∧ ∃ l ∈ lanesOf k.pass, cnt k l ≠ ((s.core k.core).bar (k.u32 a k.low)).cnt.toNat))
    let trap := fun (k : Ctx) (t : State) => t.takeTrap k.core k.wave k.lanes 0x40 0 k.pc 0 k.pc
    (∀ h (o : FmtA), CompletesAt (.barArrive h o) h (bad o.a (fun k l => k.u32 o.b l)) trap
      ∧ CompletesAt (.barSync h o) h (bad o.a (fun k l => k.u32 o.b l)) trap
      ∧ CompletesAt (.barWait h o) h (fun k _ => k.pass ≠ 0 ∧ noBar o.a k) trap)
    ∧ (∀ h (o : FmtI), CompletesAt (.barArriveImm h o) h (bad o.a (fun _ _ => o.imm.toNat)) trap
      ∧ CompletesAt (.barSyncImm h o) h (bad o.a (fun _ _ => o.imm.toNat)) trap)
  )

/-- R264, R265 and Table 9-5 at a barrier of a core: an arrival of lanes m with count n makes ARR rise by their number and CNT n where
it was 0 (both 16 bits wide), and `late` of the arrivals are still to be performed; the phase is complete when CNT ≠ 0,
ARR + DROP ≥ CNT, PB = 0 and every arrival is performed, and its completion raises PHASE by one and clears ARR and CNT. -/
def Obligations.BarrierPhase : Prop :=
  ∀ (k : Core) (w b n late clock : Nat) (m : Lanes),
    ((k.barArrive w b n late m).bar b = { k.bar b with
        cnt := if (k.bar b).cnt = 0 then BitVec.ofNat 16 n else (k.bar b).cnt
        arr := (k.bar b).arr + BitVec.ofNat 16 (laneCount m)
        open_ := (k.bar b).open_ + late })
    ∧ ((k.bar b).cnt ≠ 0 ∧ (k.bar b).cnt.toNat ≤ (k.bar b).arr.toNat + (k.bar b).drop.toNat ∧ (k.bar b).pb = 0 ∧ (k.bar b).open_ = 0 →
      (k.barCheck b clock).bar b = { k.bar b with phase := (k.bar b).phase + 1, arr := 0, cnt := 0 })
    ∧ ((k.bar b).cnt = 0 ∨ (k.bar b).arr.toNat + (k.bar b).drop.toNat < (k.bar b).cnt.toNat ∨ (k.bar b).pb ≠ 0
        ∨ (k.bar b).open_ ≠ 0 → k.barCheck b clock = k)
    ∧ (∀ c, c ≠ b → (k.barArrive w b n late m).bar c = k.bar c ∧ (k.barCheck b clock).bar c = k.bar c)

/-- R267 to R270: the queue instructions where the queue stands with room, credit or entries, and the slots lie in the wave's
allocation. What each decides is decided at its issue: it sends one request for each passing lane, in lane order, that names the
header that the operation leaves and the lane's slot, and the requests are performed at once if the thread's accesses let them.
`sqinit` leaves an empty header with full credit and binds the queue; `sqpush` sends each lane's pair to the slots from TAIL on, TAIL
rises and the credit falls by their number; `sqpush.credit` returns credit up to CAP; `sqpop` awaits the slots from HEAD on into its
pair, HEAD rises, and `.free` returns the credit. With no passing lane nothing happens.

R324, R268, R269: a `sqpush` without room or credit, and a `sqpop` or `sqpop.free` without enough entries, suspends its passing lanes at
its own PC to issue again; nothing is posted and the queue stands as it was. -/
def Obligations.QueueComplete : Prop :=
  let word := fun (x : SqHead) => x.head + x.tail * 2 ^ 32 + x.cap * 2 ^ 64 + x.allow * 2 ^ 80
  let req := fun (k : Ctx) (z hdr : Nat) (pop : Bool) (ord : Ord) (addr size data l : Nat) =>
    { k.req (.squeue z hdr pop) l k.op with place := .abuf, addr := addr, size := size, va := addr, ord := ord, data := data }
  let stands := fun (o : FmtA) (x : SqHead) (k : Ctx) (s : State) =>
    k.pass ≠ 0 ∧ s.sqHead k.core (k.u32 o.a k.low) = some x ∧ (lanesOf k.pass).length ≤ x.cap
  let slot := fun (x : SqHead) (i : Nat) => x.at_ + 16 + 8 * (i % 2 ^ 32 % x.cap)
  let pop := fun (free : Bool) (o : FmtA) (x : SqHead) (k : Ctx) (t : State) =>
    let n := (lanesOf k.pass).length
    let hdr := word { x with head := (x.head + n) % 2 ^ 32, allow := if free then min (x.allow + n) x.cap else x.allow }
    sendSq k ((lanesOf k.pass).zipIdx.map (fun e => req k x.at_ hdr true .acq (slot x (x.head + e.2)) 8 0 e.1))
      (t.onWave k (fun w => { w with outs := w.outs ++ [k.out k.op k.pass (.load o.d .b64 1) false (fun _ => 0)] }))
  let wait := fun (o : FmtA) (x : SqHead) (k : Ctx) (t : State) => t.onWave k (fun y =>
    { (y.unpost k.op).moveTo k.pass k.pc (.suspended (.squeue (k.u32 o.a k.low) (t.sqView k.core x.at_))) k.clock with
      chkTok := k.x.chkTok })
  (∀ h (o : FmtA), CompletesAt (.sqinit h o) h
    (fun k _ => k.u32 o.a k.low ≤ 31 ∧ k.x.taskQueue = none ∧ k.u32 o.b k.low % 16 = 0 ∧ 2 ≤ k.u32 o.c k.low
      ∧ k.u32 o.c k.low ≤ 1024 ∧ k.u32 o.b k.low + 16 + 8 * k.u32 o.c k.low ≤ k.x.abytes)
    (fun k t => if k.pass = 0 then t
      else
        let z := k.x.abase + k.u32 o.b k.low
        let cap := k.u32 o.c k.low
        sendSq k ((lanesOf k.pass).map (req k z (word ⟨z, 0, 0, cap, cap⟩) false .rlx z 0 0))
          (t.modCore k.core (fun c => ({ c with squeues := Tbl.put c.squeues (k.u32 o.a k.low) z } : Core).sqWake
            (k.u32 o.a k.low) k.clock (fun _ => true)))))
  ∧ (∀ h (o : FmtA) (x : SqHead), CompletesAt (.sqpush h o) h
    (fun k s => stands o x k s ∧ x.used + (lanesOf k.pass).length ≤ x.cap ∧ (lanesOf k.pass).length ≤ x.allow
      ∧ slotsOut k x x.tail (lanesOf k.pass).length = false)
    (fun k t =>
      let n := (lanesOf k.pass).length
      let hdr := word { x with tail := (x.tail + n) % 2 ^ 32, allow := x.allow - n }
      sendSq k ((lanesOf k.pass).zipIdx.map (fun e =>
        req k x.at_ hdr false .rel (slot x (x.tail + e.2)) 8 (k.elem o.d .b64 0 e.1) e.1)) t))
  ∧ (∀ h (o : FmtA) (x : SqHead), CompletesAt (.sqpushCredit h o) h
    (fun k s => k.pass ≠ 0 ∧ s.sqHead k.core (k.u32 o.a k.low) = some x)
    (fun k t => sendSq k ((lanesOf k.pass).map
      (req k x.at_ (word { x with allow := min (x.allow + laneCount k.pass) x.cap }) false .rel x.at_ 0 0)) t))
  ∧ (∀ h (o : FmtA) (x : SqHead), CompletesAt (.sqpop h o) h
    (fun k s => stands o x k s ∧ (lanesOf k.pass).length ≤ x.used ∧ slotsOut k x x.head (lanesOf k.pass).length = false)
    (pop false o x))
  ∧ (∀ h (o : FmtA) (x : SqHead), CompletesAt (.sqpopFree h o) h
    (fun k s => stands o x k s ∧ (lanesOf k.pass).length ≤ x.used ∧ slotsOut k x x.head (lanesOf k.pass).length = false)
    (pop true o x))
  ∧ (∀ h (o : FmtA), ∀ i ∈ [Instr.sqinit h o, .sqpush h o, .sqpushCredit h o, .sqpop h o, .sqpopFree h o],
    CompletesAt i h (fun k _ => k.pass = 0) (fun _ t => t))
  ∧ (∀ h (o : FmtA) (x : SqHead), CompletesAt (.sqpush h o) h
    (fun k s => stands o x k s ∧ (x.cap < x.used + (lanesOf k.pass).length ∨ x.allow < (lanesOf k.pass).length)) (wait o x))
  ∧ (∀ h (o : FmtA) (x : SqHead), ∀ i ∈ [Instr.sqpop h o, .sqpopFree h o],
    CompletesAt i h (fun k s => stands o x k s ∧ x.used < (lanesOf k.pass).length) (wait o x))

/-! ## Copy engine, guards and matrix engine -/

/-- R275 to R280, R290: where the elected lane passes, a copy instruction issues one command, with the addresses, rows, strides, decode,
barrier, mask and guard of its fields read in that lane, the scale windows as they govern it, and the wave's A region; where it does
not, nothing is issued. The command is not accepted yet and no byte has moved. -/
def Obligations.CopyComplete : Prop :=
  let send := fun (op : CopyOp) (rn : FmtX → Ctx → Nat) (b2 b3 : FmtX → Ctx → Int) (o : FmtX) (k : Ctx) (t : State) =>
    let l := lowestLane k.lanes
    if k.pass.getLsbD l = false then t
    else t.modCore k.core (fun c => { c with cmds := Tbl.put c.cmds k.op {
      id := k.op, asid := k.asid, op := op, wave := k.wave, lane := l, pc := k.pc, chan := o.ch.toNat,
      src := if cmdF o.cmd 21 2 = 0 then BitVec.ofNat 64 (k.u64 o.a l) else BitVec.ofNat 64 (k.u32 o.a l),
      dst := if cmdF o.cmd 19 2 = 0 then BitVec.ofNat 64 (k.u64 o.d l) else BitVec.ofNat 64 (k.u32 o.d l),
      ssp := cmdF o.cmd 21 2, dsp := cmdF o.cmd 19 2, rb := k.u32 o.b l, rn := rn o k, b2 := b2 o k, b3 := b3 o k,
      dec := cmdF o.cmd 18 1 == 1, rnd := Rnd.ofCode (cmdF o.cmd 16 2), sat := cmdF o.cmd 15 1 == 1, ty := o.ty,
      be := cmdF o.cmd 14 1 == 1, bar := cmdF o.cmd 10 4, mask := cmdF o.cmd 0 8,
      guard := o.guard.map (fun g => (g.1.toNat, g.2)), resolved := none, batch := none, scalewin := k.windows,
      accepted := false, started := false, rows := [], start := 0, done := 0, flags := 0, abase := k.x.abase,
      abytes := k.x.abytes, after := none, age := k.clock, task := k.x.taskQueue.isSome, pages := [], lodged := none } })
  let reg := fun (n : Nat) (o : FmtX) (k : Ctx) => k.u32 (Opnd.up o.b n) (lowestLane k.lanes)
  let stride := fun (n : Nat) (o : FmtX) (k : Ctx) => sintOf 32 (reg n o k)
  (∀ h (o : FmtX), Completes (.cpy h o) h (send .cpy (fun _ _ => 1) (fun _ _ => 0) (fun _ _ => 0) o))
  ∧ (∀ h (o : FmtX), Completes (.cpys h o) h (send .cpys (reg 1) (stride 2) (stride 3) o))
  ∧ (∀ h (o : FmtX), Completes (.cpym h o) h (send .cpym (reg 1) (stride 2) (stride 3) o))
  ∧ (∀ h (o : FmtX), Completes (.cpyg h o) h (send .cpyg (reg 1) (fun o k => (reg 2 o k : Int)) (stride 3) o))
  ∧ (∀ h (o : FmtX), Completes (.cpyx h o) h (send .cpyx (reg 1) (fun o k => (reg 2 o k : Int)) (stride 3) o))

/-- R284: with no open guard before them, `seal` puts the commands of its passing lanes' open sets into batch u(a); posted, its operation
completes with the last command of those batches. An open guard gives GUARD_OPEN (0x45) on the whole split, nothing posted.

R285, R287, R265: `carr` at a legal barrier with agreeing counts latches the count and leaves ARR to the deferred arrivals of its
passing lanes, one for each with the commands of its batch u(b); `cinit` sends the addition of u(b) to PB of its barrier, due at t + 8. `carr` at
an illegal barrier, or with counts outside 1 to 4,096, that disagree or that differ from the phase's, takes BARRIER_MISMATCH (0x40) for the
whole split, without effect; in a task wave both do (R349). -/
def Obligations.SealArrivalComplete : Prop :=
  (
    ∀ h (o : FmtA), Completes (.seal h o) h (fun k t0 =>
      let t := t0.settle k.core
      let n := k.u32 o.a k.low
      if k.pass = 0 then t0
      else if ∃ l ∈ lanesOf k.pass, ∃ y ∈ (t.core k.core).openSet k.wave l, (t.core k.core).guardOpen y = true then
        (t.onWave k (fun y => y.unpost k.op)).takeTrap k.core k.wave k.lanes 0x45 0 k.pc 0 k.pc
      else
        let u := t.modCore k.core (fun c => { c with cmds := c.cmds.map (fun e =>
          if e.2.wave = k.wave ∧ k.pass.getLsbD e.2.lane ∧ e.2.batch = none then (e.1, { e.2 with batch := some n }) else e) })
        if k.tok = none then u
        else
          let ids := (lanesOf k.pass).flatMap (fun l => (u.core k.core).batchOf k.wave l n)
          (u.modCore k.core (fun c => { c with seals := c.seals ++ [SealOp.mk k.op k.wave ids] })).sweepSeals k.core)
  ) ∧ (
    (∀ h (o : FmtA) (n : Nat), CompletesAt (.carr h o) h
      (fun k t => k.pass ≠ 0 ∧ k.x.taskQueue = none ∧ k.u32 o.a k.low ≤ 15 ∧ 1 ≤ n ∧ n ≤ 4096
        ∧ (∀ l ∈ lanesOf k.pass, k.u32 o.c l = n)
        ∧ (((t.core k.core).bar (k.u32 o.a k.low)).cnt = 0 ∨ ((t.core k.core).bar (k.u32 o.a k.low)).cnt.toNat = n))
      (fun k t => t.modCore k.core (fun c =>
        let b := k.u32 o.a k.low
        let d := c.barArrive k.wave b n 0 k.pass
        { d with
          bars := Tbl.put d.bars b { d.bar b with arr := (c.bar b).arr },
          carrs := d.carrs ++ (lanesOf k.pass).map (fun l =>
            { id := k.op, wave := k.wave, lane := l, bar := b, cmds := c.batchOf k.wave l (k.u32 o.b k.low) }) })))
    ∧ (∀ h (o : FmtA), CompletesAt (.carr h o) h
      (fun k t => k.pass ≠ 0 ∧ (k.x.taskQueue.isSome = true ∨ 15 < k.u32 o.a k.low
        ∨ (∃ l ∈ lanesOf k.pass, k.u32 o.c l = 0 ∨ 4096 < k.u32 o.c l)
        ∨ (∃ l ∈ lanesOf k.pass, ∃ m ∈ lanesOf k.pass, k.u32 o.c l ≠ k.u32 o.c m)
        ∨ (((t.core k.core).bar (k.u32 o.a k.low)).cnt ≠ 0
          ∧ ∃ l ∈ lanesOf k.pass, k.u32 o.c l ≠ ((t.core k.core).bar (k.u32 o.a k.low)).cnt.toNat)))
      (fun k t => t.takeTrap k.core k.wave k.lanes 0x40 0 k.pc 0 k.pc))
    ∧ (∀ h (o : FmtA), CompletesAt (.carr h o) h (fun k _ => k.pass = 0) (fun _ t => t))
    ∧ (∀ h (o : FmtA), Completes (.cinit h o) h (fun k t =>
        let l := lowestLane k.lanes
        if k.pass.getLsbD l = false then t
        else if k.x.taskQueue.isSome then t.takeTrap k.core k.wave k.lanes 0x40 0 k.pc 0 k.pc
        else t.modCore k.core (fun c => { c with cinits := c.cinits ++
          [{ id := k.op, bar := k.u32 o.a l, amount := BitVec.ofNat 32 (k.u32 o.b l), due := k.clock + 8 }] })))
  )

/-- R290, R291: the guard slots of the mask take SET1 or SET0 by bit 0 of a, or UNSET, at t + 2, where the elected lane passes.

R294, R322, Tables 10-6 and 11-9: `cptr` reads WPTR, IPTR or the status of channel u(a) and completes 12 cycles after its issue,
`mtile` reads the word of tile u(a) and completes after 8. The cycle in which the value is taken is the model's choice
(notes/assumptions/35). -/
def Obligations.GuardPointerComplete : Prop :=
  (
    let write := fun (mask : Nat) (v : Guard) (k : Ctx) (t : State) =>
      if k.pass.getLsbD (lowestLane k.lanes) = false then t
      else t.modCore k.core (fun c => { c with guardWrites := c.guardWrites ++
        [{ due := k.clock + 2, mask := BitVec.ofNat 32 mask, value := v, by_ := (k.wave, lowestLane k.lanes, k.op) }] })
    let val := fun (a : Opnd) (k : Ctx) => if k.u32 a (lowestLane k.lanes) % 2 = 1 then Guard.set1 else Guard.set0
    (∀ h (o : FmtA), Completes (.gset h o) h (fun k => write (k.u32 o.b (lowestLane k.lanes)) (val o.a k) k))
    ∧ (∀ h (o : FmtI), Completes (.gsetImm h o) h (fun k => write o.imm.toNat (val o.a k) k))
    ∧ (∀ h (o : FmtA), Completes (.gclr h o) h (fun k => write (k.u32 o.b (lowestLane k.lanes)) .unset k))
    ∧ (∀ h (o : FmtI), Completes (.gclrImm h o) h (fun k => write o.imm.toNat .unset k))
  ) ∧ (
    let read := fun (n : Nat) (f : Chan → Nat) (o : FmtA) (k : Ctx) (t : State) =>
      tokenWrite k (k.clock + 12) false (writesAt o.d n (perLane k o.s (fun _ => f ((t.core k.core).chan (k.u32 o.a k.low))))) t
    (∀ h (o : FmtA), Completes (.cptr h o) h (read 2 (fun x => x.wptr % 2 ^ 64) o))
    ∧ (∀ h (o : FmtA), Completes (.cptrIptr h o) h (read 2 (fun x => x.iptr % 2 ^ 64) o))
    ∧ (∀ h (o : FmtA), Completes (.cptrStat h o) h (read 1 (fun x =>
        (if x.halt then 2 ^ 31 else 0) + x.mcause % 256 * 256 + x.queue.length % 128) o))
    ∧ (∀ h (o : FmtA), Completes (.mtile h o) h (fun k t =>
        tokenWrite k (k.clock + 8) false (writesAt o.d 1 (perLane k o.s (fun l => mtileWord ((t.settleMats k.core).core k.core) (k.u32 o.a l))))
          (t.settleMats k.core)))
  )

/-- R300, R308, R317 to R320: where the elected lane passes, a matrix command with its operands of that lane enters the issue order of
the engine, with its guard; where it does not, its operation is complete at once.

R321: where the tile u(a) exists and every passing lane's first element is a multiple of n = 2^SUB inside the tile, `mrd` reads and
`mwr` writes n elements for each passing lane through the wave port: one command enters the issue order. With no passing lane nothing
happens; a tile number above 127 gives BUFFER_RANGE (0x1A) in every passing lane, and the operation is complete. -/
def Obligations.MatrixComplete : Prop :=
  let cmd := fun (threads : Lanes) (kind : MatOp) (guard : Option (BitVec 5 × Bool)) (k : Ctx) (t : State) =>
    t.modCore k.core (fun c => { c with mats := c.mats ++ [{
      id := k.op, asid := k.asid, wave := k.wave, lanes := k.lanes, threads := threads, pc := k.pc, kind := kind,
      guard := guard.map (fun g => (g.1.toNat, g.2)), resolved := none, after := none, posted := k.h.post.isSome,
      abase := k.x.abase, abytes := k.x.abytes, at_ := k.clock, st := .issued, tileOut := [], abufOut := [], regOut := [],
      flags := 0 }] })
  let send := fun (kind : FmtX → Ctx → Nat → MatOp) (o : FmtX) (k : Ctx) (t : State) =>
    let l := lowestLane k.lanes
    if k.pass.getLsbD l = false then t.completeOp k.core k.wave k.op else cmd (laneBit l) (kind o k l) o.guard k t
  let good := fun (o : FmtA) (k : Ctx) (_ : State) => k.pass ≠ 0 ∧ k.u32 o.a k.low ≤ 127
    ∧ ∀ l ∈ lanesOf k.pass, k.u32 o.b l + 2 ^ o.sub.toNat ≤ 16384 ∧ k.u32 o.b l % 2 ^ o.sub.toNat = 0
  (∀ h (o : FmtX), Completes (.mma h o) h (send (fun o k l => .mma (k.u32 o.a l) none) o))
  ∧ (∀ h (o : FmtX), Completes (.mzero h o) h (send (fun o k l => .mzero (k.u32 o.a l) (k.u32 o.b l)) o))
  ∧ (∀ h (o : FmtX), Completes (.mred h o) h (send (fun o k l =>
      .mred (k.u32 o.d l) (k.u32 o.a l) (cmdF o.cmd 0 1 == 1) (cmdF o.cmd 1 7) (cmdF o.cmd 8 7 + 1) (cmdF o.cmd 15 1 == 1)) o))
  ∧ (∀ h (o : FmtX), Completes (.mmap h o) h (send (fun o k l =>
      .mmap (cmdF o.cmd 0 3) (k.u32 o.d l) (k.u32 o.a l) (BitVec.ofNat 32 (k.u32 o.b l)) (cmdF o.cmd 3 7) (cmdF o.cmd 10 7 + 1)) o))
  ∧ (∀ h (o : FmtX), Completes (.mcvt h o) h (send (fun o k l =>
      .mcvt (k.u32 o.d l) (k.u32 o.a l) (k.u32 o.b l) o.ty (Rnd.ofCode (cmdF o.cmd 0 2)) (cmdF o.cmd 2 1 == 1)
        (cmdF o.cmd 10 7 + 1) (cmdF o.cmd 3 7 + 1)) o))
  ∧ (∀ h (o : FmtA), CompletesAt (.mrd h o) h (good o) (fun k => cmd k.pass
      (.mrd o.d (k.u32 o.a k.low) (2 ^ o.sub.toNat) ((lanesOf k.pass).map (fun l => (l, k.u32 o.b l)))) none k))
  ∧ (∀ h (o : FmtA), CompletesAt (.mwr h o) h (good o) (fun k => cmd k.pass
      (.mwr (k.u32 o.a k.low) ((lanesOf k.pass).flatMap (fun l => (List.range (2 ^ o.sub.toNat)).map (fun i =>
        (k.u32 o.b l + i, BitVec.ofNat 32 (k.u32 (Opnd.up o.d i) l)))))) none k))
  ∧ (∀ h (o : FmtA), ∀ i ∈ [Instr.mrd h o, .mwr h o],
      CompletesAt i h (fun k _ => k.pass = 0) (fun _ t => t)
      ∧ CompletesAt i h (fun k _ => k.pass ≠ 0 ∧ 127 < k.u32 o.a k.low) (fun k t =>
          (t.completeOp k.core k.wave k.op).laneFaults k ((lanesOf k.pass).map (fun l => (l, 0x1A, k.u32 o.b l)))))

/-! ## Calls of the Orrery and of Transit, and Dusk -/

/-- R331 to R333, R428: a call without a record makes one call for each passing lane, in lane order, with the lane's operands; the calls
count as event 11. They are performed later (CALL_PERFORM). `wcreate` does so where every passing lane's entry meets R35.

What a call of one lane carries (R331, R333): the caller, the operand values of that lane, which operands are written 0, and for a
created wave the caller's scalar registers, ARGP, windows, class, crew and A region. A scalar d is written by the lowest passing lane. -/
def Obligations.CallComplete : Prop :=
  (
    let send := fun (kind : CallOp) (o : FmtK) (v : Ctx → Nat → Nat × Nat × Nat) (k : Ctx) (t : State) =>
      (t.addCalls ((lanesOf k.pass).map (fun l => k.call (t.tenantOfAsid k.asid) kind o.d o.a o.b o.c (v k l) false l (laneBit l)))).modCore
        k.core (fun c => c.countEv 11 (lanesOf k.pass).length)
    let a := fun (o : FmtK) (k : Ctx) (l : Nat) => (k.u64 o.a l, 0, 0)
    let ab := fun (o : FmtK) (k : Ctx) (l : Nat) => (k.u64 o.a l, k.u64 o.b l, 0)
    (∀ h (o : FmtK), CompletesAt (.wcreate h o) h (fun k _ => ∀ l ∈ lanesOf k.pass, pcOk (k.u64 o.b l) = true)
        (send .wcreate o (fun k l => (k.u64 o.a l, k.u64 o.b l, k.u32 o.c l))))
    ∧ (∀ h (o : FmtK), Completes (.wsadd h o) h (send (.wsadd o.imm.toNat) o (fun k l => (k.u64 o.a l, k.u64 o.b l, k.u64 o.c l))))
    ∧ (∀ h (o : FmtK), Completes (.wsdel h o) h (send (.wsdel o.imm.toNat) o (a o)))
    ∧ (∀ h (o : FmtK), Completes (.tarm h o) h (send .tarm o (fun k l => (k.u64 o.a l, k.u64 o.b l, k.u32 o.c l))))
    ∧ (∀ h (o : FmtK), Completes (.tdisarm h o) h (send .tdisarm o (a o)))
    ∧ (∀ h (o : FmtK), Completes (.ecsig h o) h (send .ecsig o (fun k l => (k.u64 o.a l, k.u32 o.b l, 0))))
    ∧ (∀ h (o : FmtK), Completes (.ecread h o) h (send .ecread o (a o)))
    ∧ (∀ h (o : FmtK), Completes (.dcdec h o) h (send .dcdec o (a o)))
    ∧ (∀ h (o : FmtK), Completes (.objdel h o) h (send .objdel o (a o)))
    ∧ (∀ h (o : FmtK), Completes (.objinfo h o) h (send .objinfo o (a o)))
    ∧ (∀ h (o : FmtK), Completes (.nslook h o) h (send .nslook o (ab o)))
    ∧ (∀ h (o : FmtK), Completes (.nsbind h o) h (send (.nsbind (o.sub.getLsbD 0)) o (ab o)))
    ∧ (∀ h (o : FmtK), Completes (.grantrev h o) h (send .grantrev o (a o)))
    ∧ (∀ h (o : FmtK), Completes (.lstat h o) h (send .lstat o (ab o)))
  ) ∧ (
    ∀ (k : Ctx) (tenant : Nat) (kind : CallOp) (d a b c : Opnd) (v : Nat × Nat × Nat) (susp : Bool) (l : Nat) (m : Lanes),
      k.call tenant kind d a b c v susp l m = {
        id := 0, uid := k.uid, core := k.core, asid := k.asid, tenant := tenant, wave := k.wave, lane := l, lanes := m,
        op := k.op, pc := k.pc, kind := kind, d := d, writes := !d.isS || l == k.low,
        a := BitVec.ofNat 64 v.1, b := BitVec.ofNat 64 v.2.1, c := BitVec.ofNat 64 v.2.2,
        noA := decide (a = .int 0), noB := decide (b = .int 0), noC := decide (c = .int 0),
        maker := {
          sregs := (List.range 4).map k.s, argp := BitVec.ofNat 64 (k.special .argp l),
          windows := Bits.wrs [] ((List.range 8).map (fun n => (n, k.x.rdWin k.fc k.clock n))),
          rt := k.x.rt, crewNo := k.x.crewNo, abase := k.x.abase, abytes := k.x.abytes, queue := k.x.taskQueue },
        susp := susp, recs := [], tok := k.tok, depth := match k.task l with | some t => t.depth + 1 | none => 0, sent := none, lodged := none,
        lost := k.x.replays.any (fun e => e.2.2 && e.2.1 == k.pc && (e.1 &&& m) != 0) }
  )

/-- R324, R334, R337, R347: a call with a record where every passing lane's record translates, is aligned to 64 and exists (64 bytes; of
`qenq` and `dcinit`, RECSZ bytes of the queue that a names): the calls are
sent as in `CallComplete`; under SUB = 1 (`.w`) the passing lanes are SUSPENDED at the instruction until the answer. -/
def Obligations.RecordCallComplete : Prop :=
  let task := fun (a : Opnd) (k : Ctx) (s : State) (l : Nat) => match s.owned k.asid (k.u64 a l) with
    | some o => match o.body with | .queue q => q.recsz | _ => 64
    | none => 64
  let good := fun (n : Ctx → State → Nat → Nat) (need : Nat) (b : Opnd) (k : Ctx) (s : State) => ∀ l ∈ lanesOf k.pass, ∃ ps,
    k.acc s need (k.u64 b l) (n k s l) = .ok ps ∧ k.u64 b l % 64 = 0 ∧ s.physFault (s.tenantOfAsid k.asid) ps = none
  let send := fun (kind : CallOp) (w : Bool) (o : FmtK) (v : Ctx → Nat → Nat × Nat × Nat) (k : Ctx) (t : State) =>
    let u := (t.addCalls ((lanesOf k.pass).map (fun l => k.call (t.tenantOfAsid k.asid) kind o.d o.a o.b o.c (v k l) w l (laneBit l)))).modCore
      k.core (fun c => c.countEv 11 (lanesOf k.pass).length)
    if w = true ∧ k.pass ≠ 0 then u.onWave k (fun y => y.moveTo k.pass k.pc (.suspended (.call k.op)) k.clock) else u
  let ab := fun (o : FmtK) (k : Ctx) (l : Nat) => (k.u64 o.a l, k.u64 o.b l, 0)
  (∀ h (o : FmtK), CompletesAt (.psend h o) h (good (fun _ _ _ => 64) (rightR + rightW) o.b) (send (.psend (o.sub.getLsbD 0)) (o.sub.getLsbD 0) o (ab o)))
  ∧ (∀ h (o : FmtK), CompletesAt (.precv h o) h (good (fun _ _ _ => 64) (rightR + rightW) o.b) (send (.precv (o.sub.getLsbD 0)) (o.sub.getLsbD 0) o (ab o)))
  ∧ (∀ h (o : FmtK), CompletesAt (.qenq h o) h (good (task o.a) rightR o.b) (send (.qenq (o.sub.getLsbD 0)) (o.sub.getLsbD 0) o (ab o)))
  ∧ (∀ h (o : FmtK), CompletesAt (.dcinit h o) h (good (task o.a) rightR o.b)
      (send .dcinit false o (fun k l => (k.u64 o.a l, k.u64 o.b l, k.u32 o.c l))))
  ∧ (∀ h (o : FmtK), CompletesAt (.objnew h o) h (fun k s => o.sub = 5 ∧ o.c ≠ .int 0 → good (fun _ _ _ => 64) rightR o.c k s)
      (send (.objnew o.sub.toNat) false o (fun k l => (0, k.u32 o.b l, k.u64 o.c l))))
  ∧ (∀ h (o : FmtK), CompletesAt (.launch h o) h (good (fun _ _ _ => 64) rightR o.b) (send .launch false o (ab o)))
  ∧ (∀ h (o : FmtK), CompletesAt (.ctadmit h o) h (good (fun _ _ _ => 64) rightR o.b) (send .ctadmit false o (ab o)))

/-- R344, R355, R324: `suspend` makes one call for its passing lanes with the values of the lowest, where its continuation passes both checks
of R37; `syscall` one call with the records of its passing lanes, where they are accessible and so, if a names a bitmap word, is that
word: on a page that is not MANUAL and 4-byte aligned. The passing lanes are SUSPENDED at the instruction. Without a passing lane neither
has an effect. -/
def Obligations.SuspendComplete : Prop :=
  let send := fun (x : Call) (k : Ctx) (t : State) =>
    ((t.addCalls [x]).modCore k.core (fun c => c.countEv 11 1)).onWave k (fun y =>
      y.moveTo k.pass k.pc (.suspended (.call k.op)) k.clock)
  let susp := fun (o : FmtK) (pc : Nat) (k : Ctx) (t : State) =>
    send (k.call (t.tenantOfAsid k.asid) (.suspend (BitVec.ofNat 56 pc)) o.d o.a o.b o.c
      (k.u64 o.a k.low, k.u64 o.b k.low, 0) true k.low k.pass) k (t.entryCheck k.core k.asid pc).1
  (∀ h (o : FmtK), CompletesAt (.suspend h o) h
    (fun k t => k.pass ≠ 0 ∧ (t.entryCheck k.core k.asid (suspendTarget o k.pc)).2 = none)
    (fun k => susp o (suspendTarget o k.pc) k))
  ∧ (∀ h (o : FmtK), CompletesAt (.suspendX h o) h
    (fun k t => k.pass ≠ 0 ∧ (t.entryCheck k.core k.asid (k.u64 o.c k.low)).2 = none)
    (fun k => susp o (k.u64 o.c k.low) k))
  ∧ (∀ h (o : FmtK), CompletesAt (.syscall h o) h
    (fun k s => k.pass ≠ 0 ∧ (o.a ≠ .int 0 → ∃ ps, k.acc s (rightR + rightW) (k.u64 o.a k.low) 4 = .ok ps ∧ k.u64 o.a k.low % 4 = 0
        ∧ ps.any (fun p => leafKind p.leaf == 2) = false ∧ s.physFault (s.tenantOfAsid k.asid) ps = none)
      ∧ ∀ l ∈ lanesOf k.pass, ∃ ps,
      k.acc s (rightR + rightW) (k.u64 o.b l) 128 = .ok ps ∧ k.u64 o.b l % 64 = 0 ∧ s.physFault (s.tenantOfAsid k.asid) ps = none)
    (fun k t => send { k.call (t.tenantOfAsid k.asid) (.syscall o.imm.toNat) o.d o.a o.b o.c (k.u64 o.a k.low, k.u64 o.b k.low, 0) true
        k.low k.pass with recs := (lanesOf k.pass).map (fun l => (l, k.u64 o.b l)) } k t))
  ∧ (∀ h (o : FmtK), ∀ i ∈ [Instr.suspend h o, .suspendX h o], CompletesAt i h (fun k _ => k.pass = 0) (fun _ t => t))
  ∧ (∀ h (o : FmtK), CompletesAt (.syscall h o) h (fun k _ => k.pass = 0) (fun _ t => t))

/-- R385, R394 to R396: at a hint point `phint` latches in its wave the address of the block, u(a) of the executing split's lowest lane, and
its PC, `phint.full` that there is no block; with a request pending the wave then rests. A `phint` that is no hint point has no effect.
Outside the allocation or off 128 bytes `phint` faults.
`trap` and `bkpt` give SOFTWARE (0x09) and BREAKPOINT (0x0A) with the low 16 bits of their immediate, resuming at next(x). `rett` makes
the STOPPED lanes that each passing lane's value names READY, for one instruction under `.step`.

The edges of the latch, an overlong block and a lane's access among them, are deduced (notes/assumptions/77).

R396: the value of `rett` names a core (bits 9..0), a wave (22..16) and its lanes (63..32), with the other bits zero and, below the
supervisor, a wave of the caller's process; the STOPPED splits of those lanes become READY, and nothing but that wave changes. -/
def Obligations.DuskComplete : Prop :=
  (
    let hint := fun (block : Option Nat) (k : Ctx) (t : State) => t.onWave k (fun y =>
      if y.hintPoint k.lanes = true then
        let r := (t.preempted k.core).isSome
        { y with rest := { resting := r, hinted := r && block.isSome, block := block, hintPc := k.pc } }
      else y)
    (∀ h (o : FmtI), CompletesAt (.phint h o) h
      (fun k _ => k.u32 o.a (lowestLane k.lanes) % 128 = 0 ∧ k.u32 o.a (lowestLane k.lanes) + 128 ≤ k.x.abytes)
      (fun k => hint (some (k.u32 o.a (lowestLane k.lanes))) k))
    ∧ (∀ h (o : FmtI), CompletesAt (.phint h o) h (fun k _ => k.u32 o.a (lowestLane k.lanes) % 128 ≠ 0)
      (fun k t => t.takeTrap k.core k.wave k.lanes 0x14 0 k.pc (k.u32 o.a (lowestLane k.lanes)) k.pc))
    ∧ (∀ h (o : FmtI), CompletesAt (.phint h o) h
      (fun k _ => k.u32 o.a (lowestLane k.lanes) % 128 = 0 ∧ k.x.abytes < k.u32 o.a (lowestLane k.lanes) + 128)
      (fun k t => t.takeTrap k.core k.wave k.lanes 0x1A 0 k.pc (k.u32 o.a (lowestLane k.lanes)) k.pc))
    ∧ (∀ h (o : FmtI), Completes (.phintFull h o) h (hint none))
    ∧ (∀ h (o : FmtI), Completes (.trap h o) h (fun k t =>
        t.takeTrap k.core k.wave k.pass 0x09 0 k.pc (o.imm.toNat % 65536) (nextPc k.pc)))
    ∧ (∀ h (o : FmtI), Completes (.bkpt h o) h (fun k t =>
        t.takeTrap k.core k.wave k.pass 0x0A 0 k.pc (o.imm.toNat % 65536) (nextPc k.pc)))
    ∧ (∀ h (o : FmtC), Completes (.rett h o) h (fun k t =>
        (lanesOf k.pass).foldl (fun u l => rettOne k.asid (k.u64 o.a l) false u) t))
    ∧ (∀ h (o : FmtC), Completes (.rettStep h o) h (fun k t =>
        (lanesOf k.pass).foldl (fun u l => rettOne k.asid (k.u64 o.a l) true u) t))
  ) ∧ (
    ∀ (asid core w : Nat) (m : Lanes) (step : Bool) (s : State), core < 1024 → w < 128 →
      (let x := m.toNat * 2 ^ 32 + w * 2 ^ 16 + core
       (asid = 0 ∨ s.asidOf core w = asid →
          rettOne asid x step s = s.modWave core w (fun y => y.resumeStopped m step s.clock)
          ∧ OtherCores s (rettOne asid x step s) core ∧ SameOutside s (rettOne asid x step s)
          ∧ ∀ v, v ≠ w → (rettOne asid x step s).wave? core v = s.wave? core v)
       ∧ (asid ≠ 0 ∧ s.asidOf core w ≠ asid → rettOne asid x step s = s)
       ∧ (∀ j, j < 6 → rettOne asid (x + 2 ^ (10 + j)) step s = s) ∧ ∀ j, j < 9 → rettOne asid (x + 2 ^ (23 + j)) step s = s)
  )

/-- R397 to R399, R331: the supervisor's calls send one call for each passing lane and begin them in lane order (`beginCsave`, `beginCrest`
and `beginPtinv`); a `ptinv` where no passing lane's range leaves the address space.

R397 to R399: how the supervisor's calls begin. `csave` pre-empts the crew that runs on core u(a) and is no stage context, to hold it;
no crew gives NOTFOUND, one that has not started BUSY. `crest` takes only a HELD frame: any other gives NOTFOUND. `ptinv` of no byte or of
no process completes at once; any other begins a shootdown of its range. -/
def Obligations.SupervisorComplete : Prop :=
  (
    let send := fun (cs : List Call) (k : Ctx) (t : State) => (t.addCalls cs).modCore k.core (fun c => c.countEv 11 0)
    let inv := fun (mode : Nat) (o : FmtM) (k : Ctx) (t : State) =>
      (send ((lanesOf k.pass).map (fun l => { k.call (t.tenantOfAsid k.asid) (.ptinv mode) o.d o.a o.b o.d (k.ea o l, k.u32 o.b l, k.u32 o.d l)
        false l (laneBit l) with writes := false })) k t).beginCalls k (beginPtinv mode)
    let inside := fun (o : FmtM) (k : Ctx) (_ : State) => ∀ l ∈ lanesOf k.pass, k.u32 o.b l = 0 ∨ outside (k.ea o l) (k.u32 o.b l) = false
    (∀ h (o : FmtA), Completes (.csave h o) h (fun k t => (send ((lanesOf k.pass).map (fun l =>
        k.call (t.tenantOfAsid k.asid) .csave o.d o.a o.b o.c (k.u32 o.a l, 0, 0) false l (laneBit l))) k t).beginCalls k beginCsave))
    ∧ (∀ h (o : FmtA), Completes (.crest h o) h (fun k t => (send ((lanesOf k.pass).map (fun l =>
        k.call (t.tenantOfAsid k.asid) .crest o.d o.a o.b o.c (k.u64 o.a l, k.u32 o.b l, 0) false l (laneBit l))) k t).beginCalls k beginCrest))
    ∧ (∀ h (o : FmtM), CompletesAt (.ptinv h o) h (inside o) (inv 0 o))
    ∧ (∀ h (o : FmtM), CompletesAt (.ptinvRsm h o) h (inside o) (inv 1 o))
    ∧ (∀ h (o : FmtM), CompletesAt (.ptinvEnd h o) h (inside o) (inv 2 o))
  ) ∧ (
    (∀ (x : Call) (s : State) (k : Crew), s.crew? x.a.toNat = some k → x.a.toNat ≤ 1023 → k.stage = none →
      (k.startedAt ≤ s.clock → beginCsave x s = (s.askPreempt x.a.toNat 3 true none).markSent x k.uid)
      ∧ (s.clock < k.startedAt → beginCsave x s = s.reply x 2 (0xFFFFFFFF * 2 ^ 32 + 9)))
    ∧ (∀ (x : Call) (s : State), s.crew? x.a.toNat = none → s.savingAt x.a.toNat = none →
      beginCsave x s = s.reply x 2 (0xFFFFFFFF * 2 ^ 32 + 6))
    ∧ (∀ (x : Call) (s : State), (∀ f, Tbl.find s.frames x.a.toNat = some f → f.crew = none ∨ f.state ≠ 3) →
      beginCrest x s = s.reply x 1 6)
    ∧ (∀ (x : Call) (s : State) (mode : Nat),
      (x.b.toNat % 2 ^ 32 = 0 ∨ Tbl.find s.procs (x.c.toNat % 65536) = none → beginPtinv mode x s = s.reply x 0 0)
      ∧ (x.b.toNat % 2 ^ 32 ≠ 0 ∧ (Tbl.find s.procs (x.c.toNat % 65536)).isSome = true →
        let sd : Shoot := { id := s.nextId, asid := x.c.toNat % 65536, lo := x.a.toNat, hi := x.a.toNat + x.b.toNat % 2 ^ 32, mode := mode, call := some x.id }
        beginPtinv mode x s = { s with nextId := s.nextId + 1, shoots := s.shoots ++ [sd] }))
  )

/-! ## Events: the steps of the engines and of the outside world, where what they act on is pending -/

/-- R27, R37, R102, R114, R120, R131, R142, R166, R206, R222, R269: the wave engine's steps. Writes whose cycle has come are made in order;
the completed operations at the front of a token retire and raise their flags; a wave ready for 4,096 cycles becomes aged and claims its
datapath; a yield ends after 64 cycles; a wave without lanes and with every token at zero retires; a line or a translation arrives or faults, once the
locked lines that its walk reads let it; a held trap, no other lane of whose instruction can still join it, is taken at the next boundary if it has
no channel, and with one sends the record of its exited lanes. -/
def Obligations.WaveEvents : Prop :=
  (∀ core wave (s : State), exec (.fixedLatencyWrite core wave) s = .next (s.modWave core wave (fun w =>
      (byDue (w.pend.filter (fun e => !e.isDiv && decide (e.early ≤ s.clock)))).foldl (Wave.land s.clock)
        { w with pend := w.pend.filter (fun e => !(!e.isDiv && decide (e.early ≤ s.clock))) })))
  ∧ (∀ core wave op (s : State), exec (.divideComplete core wave op) s = .next (s.modWave core wave (fun w =>
      (byDue (w.pend.filter (fun e => e.isDiv && e.op == some op && decide (e.due ≤ s.clock)))).foldl (Wave.land s.clock)
        { w with pend := w.pend.filter (fun e => !(e.isDiv && e.op == some op && decide (e.due ≤ s.clock))) })))
  ∧ (∀ core wave t (s : State), exec (.tokenRetire core wave t) s = .next (s.modWave core wave (fun w =>
      let gone := (w.tok t).takeWhile (·.done)
      let n := retireNow s.clock 0 gone
      if gone = [] then w
      else (gone.filterMap (·.poll)).foldl Wave.polled (raiseRetired 0 gone
        { w with toks := Tbl.put w.toks t ((w.tok t).dropWhile (·.done)),
                 falls := if n = 0 then w.falls else Tbl.put w.falls t (s.clock, w.countBefore s.clock t - w.count t + n) }))))
  ∧ (∀ core wave (s : State) (w : Wave) (r : Row), s.wave? core wave = some w →
      ((byReady w.splits).filterMap (s.readyBut core w)).head? = some r → w.agedAt = none → w.waitSince + 4096 ≤ s.clock →
      exec (.waveAged core wave) s = .next ((s.setWave core wave { w with agedAt := some s.clock }).modCore core (fun k =>
        if r.path = .none then k else { k with agedFor := k.agedFor ++ [(quadOf wave * 8 + pathIndex r.path, wave)] })))
  ∧ (∀ core wave (s : State), exec (.yieldExpiry core wave) s = .next (s.modWave core wave (fun w =>
      if ∃ t, w.yieldUntil = some t ∧ t ≤ s.clock then { w with yieldUntil := none } else w)))
  ∧ (∀ core wave (s : State) (w : Wave), s.wave? core wave = some w → w.splits = [] → (∀ e ∈ w.toks, e.2 = []) →
      exec (.waveRetire core wave) s = .next ((((((s.flushTraps core wave).noteBusy core wave).orphan core wave s.nextId).fresh.2.taskWaveEnd
        w.taskQueue).waveDone core w).lastWave core))
  ∧ (∀ core asid line (s : State), (∃ e ∈ (s.core core).waves, e.2.asid = asid) → line % 64 = 0 → outside line 64 = false →
      (∀ x ∈ (s.core core).icache, ¬(x.asid = asid ∧ x.line = line)) →
      s.agentBusy (if ((s.core core).tlbFind asid line).isSome = true then [] else s.walkRanges asid line) (fetchNum core line) = false →
      (let u := s.agentServed (fetchNum core line)
       (∀ t, u.fetchLine core asid line = .ok t → exec (.icacheLineFill core asid line) s = .next t)
       ∧ (∀ e, u.fetchLine core asid line = .error e →
         exec (.icacheLineFill core asid line) s = .next (u.fetchFault core asid line e))))
  ∧ (∀ core asid page (s u : State) (x : Walk), (s.core core).walks.find? (fun x => x.asid == asid && x.page == page && x.cause.isNone) = some x →
      s.agentBusy (s.walkRanges asid (page * 65536)) x.op = false → u = s.agentServed x.op → exec (.tlbWalkComplete core asid page) s = .next
      (((List.range 8).map (fun i => core / 8 * 8 + i)).foldl (fun (t : State) c =>
        if (t.core c).walks.any (fun x => x.asid == asid && x.page == page && x.cause.isNone) then
          match u.walk asid (page * 65536) with
          | .ok _ => (t.fillTlb c asid (page * 65536)).modCore c (fun k =>
            { k with walks := k.walks.filter (fun x => !(x.asid == asid && x.page == page)) })
          | .error e => t.modCore c (fun k => { k with walks := (k.walks.map (fun x =>
            if x.asid = asid ∧ x.page = page ∧ x.cause = none then { x with cause := some e } else x)).filter (fun x =>
              t.held.any (fun y => y.k.op == x.op)) })
        else t) u))
  ∧ (∀ core wave op (s : State) (w : Wave), s.wave? core wave = some w → (∀ o ∈ w.outs, o.id ≠ op) → (∀ e ∈ w.pend, e.num ≠ op) →
      exec (.missSplitWake core wave op) s = .next (s.modWave core wave (fun y =>
        y.wakeSusp s.clock (fun p => p.waitsFor (.miss op)) (fun p => p.pc))))
  ∧ (∀ trap (s : State) (t : PTrap) (w : Wave), s.traps.find? (fun t => t.id == trap) = some t → t.uid = s.uidOf t.core →
      s.wave? t.core t.wave = some w → s.gathers? t = false →
      (t.free = true → w.holds t.lanes = false → exec (.trapDelivery trap) s = .next (s.deliver t t.lanes))
      ∧ (t.free = false → exec (.trapDelivery trap) s = .next (s.deliver t (t.lanes &&& ~~~ w.lanes))))
  ∧ (∀ core q z (s : State), Tbl.find (s.core core).squeues q = some z → exec (.sqHeaderWake core q) s = .next
      (s.modCore core (fun k => k.sqWake q s.clock (fun seen => s.sqView core z != seen))))

/-- R213 to R217, R230, R239, R252 to R257, R261, R262, R383, R415: the memory engine's steps on a request that may be performed now (or, for an
acknowledgement, that has been performed). Loads bind, stores write their bytes at the home and are acknowledged with the store's
timestamp, atomics read, compute and write at once, `mcas` locks its lines in ascending order and writes only when every word agrees,
leases end 1,024 cycles after the fill, and a line that leaves its slice raises the slice's floor. A write-back leaves exactly the bytes of its mask
in memory. A `wbr` sends the dirty bytes of the covered MANUAL copies of its core home and cleans them, an `invr` drops them too, with the
covered RELEASED copies and instruction lines; either completes when no write-back of its lines is left of those sent by then. -/
def Obligations.MemoryEvents : Prop :=
  (∀ req (s : State) (r : Req), s.req? req = some r → r.kind = .load → r.place = .mem → s.hits r = false →
      exec (.homeLoad req) s = .next (s.bindGroup r).dropFences)
  ∧ (∀ req (s : State) (r : Req), s.req? req = some r → r.kind = .store → s.canPerform r = true →
      (r.place = .mem → r.pageKind ≠ 2 → exec (.homeStore req) s = .next
        (let x := s.homeStore r.core r.pageKind r.addr (bytesOf r.size r.data)
         (x.1.countMoved r.asid r.size).setReq r.id (fun y =>
          { y with st := .unacked x.2 s.clock, data2 := Memory.read x.1.mem (lineNo r.addr * 128) 128 })))
      ∧ (r.place = .mem → r.pageKind = 2 → exec (.homeStore req) s = .next
        (((s.manualStore r.core r.asid r.addr r.va (bytesOf r.size r.data)).dropReq r.id).dropFences)))
  ∧ (∀ req wts t (s : State) (r : Req), s.req? req = some r → r.st = .unacked wts t →
      (r.pageKind ≠ 1 ∨ wts = 0 → exec (.storeAck req) s = .next ((s.advance r.core wts).dropReq r.id).dropFences)
      ∧ (r.pageKind = 1 ∧ wts ≠ 0 → exec (.storeAck req) s = .next (((s.advance r.core wts).dropReq r.id).refresh r.core
          (lineNo r.addr) (Memory.setBytes [] 0 (bytesOf 128 r.data2)) wts t).dropFences))
  ∧ (∀ unit line (s : State) (x : Copy), Tbl.find (s.core unit).l1 (l1Key line false) = some x → x.manual = false →
      exec (.leaseExpiry true unit line) s = .next (if x.filled + 1024 ≤ s.clock then
        s.modCore unit (fun k => { k with l1 := Tbl.del k.l1 (l1Key line false) }) else s))
  ∧ (∀ unit line (s : State) (x : Copy), Tbl.find (Tbl.getD s.clusters unit []) line = some x → x.manual = false →
      exec (.leaseExpiry false unit line) s = .next (if x.filled + 1024 ≤ s.clock then
        { s with clusters := Tbl.mod s.clusters unit [] (fun y => Tbl.del y line) } else s))
  ∧ (∀ line (s : State) (h : LineTs), Tbl.find s.lineTs line = some h → exec (.lineLeavesSlice line) s = .next
      { s with sliceM := Tbl.put s.sliceM (sliceOf line) (max (Tbl.getD s.sliceM (sliceOf line) 0) h.rts), lineTs := Tbl.del s.lineTs line })
  ∧ (∀ core line (s : State), s.versionOpen core = false → exec (.l1Eviction core line) s = .next
      ((s.modCore core (fun k => { k with l1 := Tbl.del k.l1 (l1Key line false) })).sendBack core line 0 true))
  ∧ (∀ wb (s : State) (w : WriteBack), s.writeBacks.find? (fun w => w.id == wb) = some w → Tbl.find s.locks w.line = none →
      (∀ x ∈ s.writeBacks, x.core = w.core → x.line = w.line → w.id ≤ x.id) → s.mayServe w.line w.id = true →
      exec (.manualWritebackMerge wb) s = .next (s.mergeBack w)
      ∧ (Memory.wf s.mem = true → ∀ a, Memory.byte (s.mergeBack w).mem a =
          if a / 128 = w.line ∧ w.mask.getLsbD (a % 128) = true then Bits.rd w.data (a % 128) else Memory.byte s.mem a)
      ∧ (s.mergeBack w).hostMem = s.hostMem ∧ (s.mergeBack w).writeBacks = s.writeBacks.filter (fun x => x.id != w.id))
  ∧ (∀ req op (s : State) (r : Req), s.req? req = some r → (r.kind = .atom op ∨ r.kind = .red op) → s.canPerform r = true →
      (s.ownMerged r).poisoned r = false → r.place = .mem → exec (.atomicPerform req) s = .next
        (let x := (s.noteMiss r).atomRead r
         ((match atomNew op r.ty x.2 r.data r.data2 with
          | some v => x.1.atomWrite r v
          | none => x.1).countMoved r.asid r.size).answer r x.2))
  ∧ (∀ req ents locked line (s : State) (r : Req), s.req? req = some r → r.kind = .mcas ents locked → s.wantsLock r = some line →
      Tbl.find s.locks line = none → s.mayServe line r.id = true → exec (.mcasLock req) s = .next
        (({ s with locks := Tbl.put s.locks line r.id }.setReq r.id (fun y => { y with kind := .mcas ents (locked ++ [line]) })).served
          line r.id))
  ∧ (∀ req ents locked (s : State) (r : Req), s.req? req = some r → r.kind = .mcas ents locked → r.waits = true →
      (∀ l ∈ mcasLines ents, l ∈ locked) →
      (∀ e ∈ ents, s.poisoned { r with kind := .load, place := .mem, addr := e.pa, size := 8 } = false) →
      exec (.mcasComplete req) s = .next
        (let s1 := ents.foldl (mcasSee r) s
         (((if mcasMask s 0 ents = 0 then ents.foldl (mcasWrite r) s1 else s1).unlock r.id).countMoved r.asid (8 * ents.length)).answer r
          (if mcasMask s 0 ents = 0 then 256 else mcasMask s 0 ents)))
  ∧ (∀ req rs (s : State) (r : Req), s.req? req = some r →
      (r.kind = .wbr rs → r.st = .waiting → s.canPerform r = true → exec (.cacheOpComplete req) s = .next (cacheOp1 s r rs false))
      ∧ (r.kind = .invr rs → r.st = .waiting → s.canPerform r = true → exec (.cacheOpComplete req) s = .next (cacheOp1 s r rs true))
      ∧ (∀ n t, (r.kind = .wbr rs ∨ r.kind = .invr rs) → r.st = .unacked n t →
        (∀ w ∈ s.writeBacks, w.core = r.core → w.id < r.data → inRanges (rs.filter (fun e => e.2.2 == 2)) w.line = false) →
        exec (.cacheOpComplete req) s = .next (s.dropReq r.id).dropFences))
  ∧ (∀ (s t : State) (r : Req) rs drop, t = cacheOp1 s r rs drop → Tbl.wf (s.core r.core).l1 = true →
      let manual := fun l => inRanges (rs.filter (fun e => e.2.2 == 2)) l
      let released := fun l => inRanges (rs.filter (fun e => e.2.2 == 1)) l
      t.mem = s.mem
      ∧ (∀ l x, manual l = true → Tbl.find (s.core r.core).l1 (l1Key l true) = some x → x.manual = true →
        Tbl.find (t.core r.core).l1 (l1Key l true) = (if drop = true then none else some { x with dirty := 0 })
        ∧ (x.dirty ≠ 0 → ∃ w ∈ t.writeBacks, w.core = r.core ∧ w.line = l ∧ w.mask = x.dirty ∧ w.data = x.data ∧ w.op = r.id))
      ∧ (∀ l, manual l = false → Tbl.find (t.core r.core).l1 (l1Key l true) = if drop = true ∧ released l = true then
          (Tbl.find (s.core r.core).l1 (l1Key l true)).filter (fun x => x.manual) else Tbl.find (s.core r.core).l1 (l1Key l true))
      ∧ (∀ l x, Tbl.find (s.core r.core).l1 (l1Key l false) = some x → x.manual = false →
        Tbl.find (t.core r.core).l1 (l1Key l false) = if drop = true ∧ released l = true then none else some x)
      ∧ (∀ w ∈ t.writeBacks, w ∈ s.writeBacks ∨ (w.core = r.core ∧ manual w.line = true ∧ w.op = r.id))
      ∧ (drop = true → ∀ x ∈ (t.core r.core).icache, r.va + r.size ≤ x.line ∨ x.line + 64 ≤ r.va)
      ∧ (drop = false → (t.core r.core).icache = (s.core r.core).icache))
  ∧ (∀ core wave op (s : State) (w : Wave) (o : OutOp), s.wave? core wave = some w → w.outs.find? (fun o => o.id == op) = some o →
      exec (.loadComplete core wave op) s = .next
        ((((s.reqs.filter (fun r => r.op == op && r.core == core && (r.kind == .load || r.kind == .scale))).map (·.id)).foldl (fun (t : State) i =>
          match t.req? i with
          | some r => if t.hits r && r.waits then t.bindGroup r else t
          | none => t) s).writeOut core wave o).dropFences)
  ∧ (∀ req ctr (s : State) (r : Req), s.req? req = some r → r.kind = .watch ctr → s.canPerform r = true → (s.ownMerged r).poisoned r = false →
      r.place = .mem → r.pageKind ≠ 2 → exec (.watchArm req) s = .next
        (let word := ofBytes (overlay (s.versionBytes r.core) r.addr (Memory.bytes s.mem r.addr r.size))
         let s1 := s.dropReq r.id
         let x : Watch := { id := s1.nextId, uid := r.uid, line := lineNo r.addr, host := false, counter := ctr, fired := false }
         if word ≠ r.data ∨ s1.watchFull false (lineNo r.addr) = true then
           (s1.signal ctr 1 (s1.lineTime false (lineNo r.addr))).dropFences
         else ({ s1 with nextId := s1.nextId + 1, watches := s1.watches ++ [x] } : State).dropFences))
  ∧ (∀ watch (s : State) (w : Watch), s.watches.find? (fun w => w.id == watch && w.fired) = some w → exec (.watchFire watch) s = .next
      (({ s with watches := s.watches.filter (fun x => x.id != watch) } : State).signal w.counter 1 (s.lineTime w.host w.line)))
  ∧ (∀ line (s : State), s.fab.portsUp ≠ [] → exec (.hostSnoopInvalidation line) s = .next (s.touchLine true line))
  ∧ (∀ req (s : State) (r : Req), s.req? req = some r → r.place = .host → s.fab.portsUp ≠ [] → s.overdue r.lodged = false → s.canPerform r = true →
      (r.kind = .load → exec (.hostAccessComplete req) s = .next (s.bindGroup r).dropFences)
      ∧ (r.kind = .store → exec (.hostAccessComplete req) s = .next
        (((((({ s with hostMem := Memory.write s.hostMem r.addr r.size r.data } : State).touchLine true (lineNo r.addr)).strictBy true r.core
          r.addr).countMoved r.asid r.size).dropReq r.id).dropFences)))

/-- R272, R280 to R293: the copy engine's steps. A command enters its channel after those issued before it there and takes its stream
positions; on a halted channel it completes at once with COPY_HALTED (0x43), and with no bytes it is complete. The next command of a
channel is discarded at the head if its guard resolved against it, and otherwise starts once its guard has passed and the accesses it
follows are performed: with a failed check it completes as faulted, else with its row list read. Bytes of the head (at most `deliverMost`,
480, at a time: that the head alone delivers, and so many, is the model's choice, notes/assumptions/36) go to their destination, and WPTR
and PB count them; all delivered, it completes. A byte that cannot be moved halts the channel with COPY_FAULT (0x42), and every other
command that it holds completes with 0x43. A deferred arrival whose batch is empty and whose thread's accesses are performed arrives, and
a `cinit` adds its amount to PB.

R301 to R308, R313, R316: the matrix engine's steps. While Dusk has not taken the crew, a command enters the queue in issue order, its
guard read; a posted one whose guard, or that of a queued command, is open faults with 0x45. From 4 cycles on `mma` reads its block,
checked by R302 (the place of the checks is deduced, notes/assumptions/38); an eligible command whose unit is free and that no older
eligible one of its unit precedes starts, with the values it will write and the latency of Table 11-6, the array taken for the cycles
before the last 32; when it is due its tile and A-buffer writes are made, its flags raised and its operation completed, which register
writes complete as they land (stated where no storage holds an uncorrectable error, which a write would clear). -/
def Obligations.EngineEvents : Prop :=
  (
    (∀ core cmd (s : State) (x : CopyCmd), Tbl.find (s.core core).cmds cmd = some x → x.accepted = false → x.age < s.clock →
        (∀ e ∈ (s.core core).cmds, acceptsBefore e.2 x = false) →
        (let ch := (s.core core).chan x.chan
         let y := { x with accepted := true, start := ch.iptr }
         let t := (s.settle core).modCore core (fun k => (({ k with cmds := Tbl.put k.cmds cmd y } : Core).putChan x.chan
            { (k.chan x.chan) with queue := ch.queue ++ [cmd], iptr := ch.iptr + x.total }).resolveAll)
         exec (.copyAccept core cmd) s = .next
          (if ch.halt = true then t.failCmd core y 0x43 0 0 none else if x.total = 0 then t.endCmd core y else t)))
    ∧ (∀ core cmd (s : State) (x : CopyCmd), Tbl.find (s.core core).cmds cmd = some x →
        exec (.copyGuardResolve core cmd) s = .next (s.settle core))
    ∧ (∀ core chan i (s t : State) (x : CopyCmd), t = s.settle core →
        (t.core core).nextCmd chan = some i → Tbl.find (t.core core).cmds i = some x →
        (x.resolved = some false → ((t.core core).chan chan).queue.head? = some i →
          exec (.copyStart core chan) s = .next (t.endCmd core x))
        ∧ (x.resolved ≠ some false → (x.guard = none ∨ x.resolved.isSome = true) → t.enginesRest core = false →
          t.cmdOrdered core x.wave x.lane x.id x.after = true →
          (let y := { x with started := true, rows := (t.core core).rowList x }
           (∀ cause sec addr, t.copyBad core y = some (cause, sec, addr) →
             exec (.copyStart core chan) s = .next (t.failCmd core x cause sec addr none))
           ∧ (t.copyBad core y = none → exec (.copyStart core chan) s = .next (t.modCore core (fun k => k.setCmd i (fun _ => y)))))))
    ∧ (∀ core cmd bytes (s : State) (x : CopyCmd), (s.core core).headCmd cmd = some x → x.done < x.total → s.enginesRest core = false →
        (let stop := x.stopAt (min bytes deliverMost)
         let r := copyRun core stop (stop - x.done) x.done x (s.copyCommit core x) x.flags
         let n := r.2.1 - x.done
         let t := ({ r.1 with lineQ := r.1.lineQ.filter (fun e => e.num != cmd) } : State).modCore core (fun k =>
           let k1 := (k.setCmd cmd (fun y => { y with done := r.2.1, flags := r.2.2.1, pages := r.2.2.2, lodged := none })).countEv 10 n
           k1.putChan x.chan { (k1.chan x.chan) with wptr := x.start + r.2.1 })
         (n ≠ 0 → x.dsp = 0 → exec (.copyDeliver core cmd bytes) s = .next ((t.countMoved x.asid n).countPb core x n))
         ∧ (n ≠ 0 → x.dsp ≠ 0 → exec (.copyDeliver core cmd bytes) s = .next ((((x.dests core).foldl (fun (u : State) d =>
             u.cleanseRange d (if x.dsp = 1 then .abuf else .wbuf) ((x.dstRow (x.done / x.w)).toNat + x.done % x.w
               + (if x.dsp = 1 ∧ d = core then x.abase else 0)) n) t).countMoved x.asid n).countPb core x n))
         ∧ (n = 0 → s.locks = [] → s.versionOpen core = false → s.fab.portsUp ≠ [] → exec (.copyDeliver core cmd bytes) s = .next s)))
    ∧ (∀ core cmd (s : State) (x : CopyCmd), (s.core core).headCmd cmd = some x → x.total ≤ x.done →
        exec (.copyComplete core cmd) s = .next (s.endCmd core x))
    ∧ (∀ core cmd cause addr (s : State) (x : CopyCmd), (s.core core).headCmd cmd = some x → x.done < x.total →
        s.copyOne core (s.reach core x x.done) x.done = .error (cause, addr) → exec (.copyFaultHalt core cmd) s = .next
          (let t := (s.modCore core (fun k => k.putChan x.chan { (k.chan x.chan) with halt := true, mcause := cause })).failCmd core x 0x42
            cause addr (some x.chan)
           ((t.core core).chan x.chan).queue.foldl (fun (u : State) i => match Tbl.find (u.core core).cmds i with
             | some y => u.failCmd core y 0x43 0 0 none
             | none => u) t))
    ∧ (∀ core wave lane (s : State) (r : CarrOp),
        (s.core core).carrs.find? (fun r => r.wave == wave && r.lane == lane
          && r.cmds.all (fun i => (Tbl.find (s.core core).cmds i).isNone)) = some r →
        s.releasedTo core wave lane r.id = true → s.traps = [] → exec (.carrDeferredArrival core wave lane) s = .next
          ((s.modCore core (fun k => { k with
            carrs := k.carrs.filter (fun y => y != r),
            bars := Tbl.put k.bars r.bar { (k.bar r.bar) with arr := (k.bar r.bar).arr + 1 } })).barCheck core r.bar))
    ∧ (∀ core op (s : State) (x : CinitOp), (s.core core).cinits.find? (fun x => x.id == op) = some x →
        exec (.cinitPerform core op) s = .next ((s.modCore core (fun k => { k with cinits := k.cinits.filter (fun y => y.id != op) })).addPb core
          x.bar (sintOf 32 x.amount.toNat)))
  ) ∧ (
    (∀ core cmd (s t : State) (x : MatCmd), t = s.settleMats core → (s.core core).mat? cmd = some x → x.st = .issued → x.at_ < s.clock →
        s.preempted core = none → (∀ y ∈ (s.core core).mats, matBefore y x = false) →
        (let y := { x with st := .queued, at_ := s.clock, resolved := (t.core core).guardSays x.guard,
                           after := x.guard.bind (fun g => Tbl.find (t.core core).guardBy g.1) }
         let open_ := y.guardOpen || ((t.core core).mats.filter (fun m => m.st != .issued)).any MatCmd.guardOpen
         (x.posted = true → open_ = true → exec (.matrixAccept core cmd) s = .next
           ((t.postTrap x.asid core x.wave x.lanes 0x45 0 x.pc 0 none none none x.id).endMat core y))
         ∧ (x.posted = false ∨ open_ = false → exec (.matrixAccept core cmd) s = .next ((t.modCore core (fun k => { k with
             mats := k.mats.filter (fun m => m.st != .issued) ++ [y] ++ k.mats.filter (fun m => m.st == .issued && m.id != cmd) })).settleMats
               core))))
    ∧ (∀ core cmd (s : State) (x : MatCmd), (s.core core).mat? cmd = some x →
        exec (.matrixGuardResolve core cmd) s = .next (s.settleMats core))
    ∧ (∀ core cmd a (s t : State) (m : MatCmd), t = s.settleMats core → (t.core core).mat? cmd = some m → m.kind = .mma a none →
        m.st = .queued → m.at_ + 4 ≤ t.clock → t.matReleased core m = true →
        (∀ x ∈ (t.core core).olderMats m, (footprintOf x.kind).writesA = false) →
        (let bs := Memory.read (t.core core).abuf (m.abase + a) 64
         (a % 64 ≠ 0 → exec (.mmaBlockRead core cmd) s = .next (t.failMat core m 0x14 a))
         ∧ (a % 64 = 0 → m.abytes < a + 64 → exec (.mmaBlockRead core cmd) s = .next (t.failMat core m 0x1A a))
         ∧ (a % 64 = 0 → a + 64 ≤ m.abytes → t.poisonAt core .abuf (m.abase + a) 64 = true →
           exec (.mmaBlockRead core cmd) s = .next (t.failMat core m 0x51 a))
         ∧ (a % 64 = 0 → a + 64 ≤ m.abytes → t.poisonAt core .abuf (m.abase + a) 64 = false →
           (∀ e, blockBad m.abytes bs (t.svc.boot == .bringup) = some e → exec (.mmaBlockRead core cmd) s = .next (t.failMat core m e a))
           ∧ (blockBad m.abytes bs (t.svc.boot == .bringup) = none → exec (.mmaBlockRead core cmd) s = .next
             (t.modCore core (fun k => k.setMat cmd (fun y => { y with kind := .mma a (some (blockOf bs)) })))))))
    ∧ (∀ core cmd (s t : State) (m : MatCmd), t = s.settleMats core → (t.core core).mat? cmd = some m → t.eligible core m = true →
        (t.core core).unitFree t.clock m = true →
        (∀ x ∈ (t.core core).olderMats m, x.kind.unit = m.kind.unit → t.eligible core x = false) →
        (∀ e, matBad m = some e → exec (.matrixStart core cmd) s = .next (t.failMat core m e 0))
        ∧ (matBad m = none → t.matPoisoned core m = true → exec (.matrixStart core cmd) s = .next (t.failMat core m 0x51 0))
        ∧ (matBad m = none → t.matPoisoned core m = false →
          exec (.matrixStart core cmd) s = .next (t.modCore core (fun k =>
            let o := matCompute (t.core core) m
            let k1 := k.setMat cmd (fun y => { y with st := .running (t.clock + matLatency m), tileOut := o.tiles, abufOut := o.abuf,
                                                       regOut := o.regs, flags := o.flags })
            if m.kind.unit = 0 then { k1 with arrayFree := t.clock + (matLatency m - 32) } else k1))))
    ∧ (∀ core cmd due (s : State) (m : MatCmd), (s.core core).mat? cmd = some m → m.st = .running due → due ≤ s.clock → s.poison = [] →
        (let u := (s.modCore core (fun k => { k with
            cbuf := Bits.wrs k.cbuf m.tileOut, abuf := Bits.wrs k.abuf m.abufOut })).modWave core m.wave (fun w => w.raise m.flags s.clock)
         let t := if m.regOut = [] then u.endMat core m
           else (u.modWave core m.wave (fun w => { w with pend := w.pend ++ [{
             due := s.clock, early := s.clock, num := m.id, op := some m.id, isDiv := false, v := m.regOut, s := [], p := [], sp := [], fl := 0 }] })).modCore
               core (fun k => { k with mats := k.mats.filter (fun x => x.id != m.id) })
         (m.kind.unit = 0 → exec (.mmaComplete core cmd) s = .next t)
         ∧ (m.kind.unit = 1 → exec (.tileUnitComplete core cmd) s = .next t)
         ∧ (m.kind.unit = 2 → exec (.wavePortComplete core cmd) s = .next t)))
  )

/-- R324, R332, R333, R342 to R345, R348, R350, R352, R353, R376: calls as they are performed once the thread's earlier accesses and calls have
been, in a crew without an open version; and the Orrery's own steps. A signal adds and wakes, a read answers the value, a wait set takes
or loses a member, a timer is armed or idle; a handle of no object of the process gives OBJ_HANDLE (0x30), one of another type OBJ_TYPE
(0x31). A fired waiter of a suspend goes on at its continuation with s0, one of a call replays at its own PC.

R336 to R342, R345 to R351, R355, R358, R359, R368, R369 (`CallEffects` of Sys2Proof/Safety.lean): a created object takes a free index, and its
handle is the answer, or NOSLOT (8) stands in it. A created wave, an object, a successor, a task, a proxy, a binding, a message with its
pages, a launch and a contract come into being with the fields of their operands and records; FULL (2) or a wait answers a full queue,
EMPTY (1) an empty port, NOPAGE (4), PEER_LOST (5), NOTFOUND (6), EXISTS (7), TAKEN (10), NOROOM (11) and DEAD (13) the cases of their rules. -/
def Obligations.CallEvents : Prop :=
  CallEffects
  ∧ (∀ id (s : State) (x : Call) (o : Obj), s.calls.find? (fun x => x.id == id) = some x → s.callReady x = true →
      s.versionOpen x.core = false → s.owned x.asid x.a.toNat = some o →
      (∀ v, o.body = .event v →
        (x.kind = .ecsig → exec (.objectCallPerform id) s = .next
          ((s.signal x.a.toNat (x.b.toNat % 2 ^ 32) (s.core x.core).time).reply x 0 0))
        ∧ (x.kind = .ecread → exec (.objectCallPerform id) s = .next (s.reply x 2 v))
        ∧ (x.kind = .tdisarm → exec (.objectCallPerform id) s = .next (s.failCall x 0x31 x.a.toNat))
        ∧ (x.kind = .objdel → exec (.objectCallPerform id) s = .next
          ((((s.wakeAll (handleIdx x.a.toNat)).forgetCounter x.a.toNat).freeIdx (handleIdx x.a.toNat)).reply x 1 0)))
      ∧ (∀ ms, o.body = .waitset ms →
        (∀ i c v, x.kind = .wsadd i → s.owned x.asid x.b.toNat = some c → c.body = .event v →
          exec (.objectCallPerform id) s = .next ((s.setBody (handleIdx x.a.toNat)
            (.waitset (Tbl.put ms i (handleIdx x.b.toNat, x.c.toNat)))).fireWaiters.reply x 1 0))
        ∧ (∀ i, x.kind = .wsdel i → exec (.objectCallPerform id) s = .next
          ((s.setBody (handleIdx x.a.toNat) (.waitset (Tbl.del ms i))).reply x 1 0)))
      ∧ (∀ c st d p n, o.body = .timer c st d p n →
        (x.kind = .tarm → x.c.toNat % 2 ^ 32 = 0 → exec (.objectCallPerform id) s = .next
          ((s.setBody (handleIdx x.a.toNat) (.timer c 1 x.b.toNat 0 n)).reply x 1 0))
        ∧ (x.kind = .tarm → 1000 ≤ x.c.toNat % 2 ^ 32 → exec (.objectCallPerform id) s = .next
          ((s.setBody (handleIdx x.a.toNat) (.timer c 2 x.b.toNat (x.c.toNat % 2 ^ 32) n)).reply x 1 0))
        ∧ (x.kind = .tarm → 0 < x.c.toNat % 2 ^ 32 → x.c.toNat % 2 ^ 32 < 1000 →
          exec (.objectCallPerform id) s = .next (s.failCall x 0x32 x.a.toNat))
        ∧ (x.kind = .tdisarm → exec (.objectCallPerform id) s = .next
          ((s.setBody (handleIdx x.a.toNat) (.timer c 0 0 0 n)).reply x 1 0)))
      ∧ (x.kind = .objinfo → exec (.objectCallPerform id) s = .next (s.reply x 2 (o.body.type * 2 ^ 60
          + (objStateCount o.body).1 * 2 ^ 56 + (objStateCount o.body).2 % 2 ^ 32))))
  ∧ (∀ id (s : State) (x : Call), s.calls.find? (fun x => x.id == id) = some x → s.callReady x = true → s.versionOpen x.core = false →
      s.owned x.asid x.a.toNat = none → x.kind ∈ [CallOp.ecsig, .ecread, .tarm, .tdisarm, .objdel, .objinfo, .dcdec, .dcinit, .grantrev] →
      exec (.objectCallPerform id) s = .next (s.failCall x 0x30 x.a.toNat))
  ∧ (∀ id (s : State) (x : Call), s.calls.find? (fun x => x.id == id) = some x → s.callReady x = true → s.versionOpen x.core = false →
      x.kind = .lstat → exec (.objectCallPerform id) s = .next (s.reply x 2 (s.lstatWord x.asid x.b.toNat)))
  ∧ (∀ n v (s : State) (w : Waiter), s.firedWaiter n = some (w, v) →
      (w.on.isSuspend = true → exec (.orreryWake n) s = .next (((s.dropWaiter n).crewTime w.uid w.time).onCrewWave w.uid w.wave (fun y =>
        (if y.waitLanes (.waiter n) = 0 then y else y.write s.clock n [] [(0, v)]).wakeSusp s.clock
          (fun p => p.waitsFor (.waiter n)) (fun _ => w.cont))))
      ∧ (w.on.isSuspend = false → s.undecided n = false →
        (let host := allLanes ((s.waiters.filter (fun v => v.id == n && v.on == .ring 0xFFFE)).map (·.lanes))
         (w.on ≠ .lost → exec (.suspendReplayWake n) s = .next ((s.dropWaiter n).onCrewWave w.uid w.wave (fun y =>
           { y.wakeSusp s.clock (fun p => p.waitsFor (.waiter n)) (fun p => p.pc) with
             replays := if host = 0 then y.replays else y.replays ++ [(host, w.cont, false)] })))
         ∧ (w.on = .lost → exec (.suspendReplayWake n) s = .next (s.loseWaiter w)))))
  ∧ (∀ obj c d p n (s : State) (o : Obj), Tbl.find s.objs obj = some o → d ≤ s.clock →
      (o.body = .timer c 1 d p n → exec (.siderealExpiry obj) s = .next ((s.setBody obj (.timer c 0 0 0 (n + 1))).signal c 1 0))
      ∧ (o.body = .timer c 2 d p n → exec (.siderealExpiry obj) s = .next
        ((s.setBody obj (.timer c 2 (d + p) p (n + 1))).signal c 1 0)))
  ∧ (∀ core obj w base (s s1 : State) (o : Obj) (q : TaskQ) (t : Task) (ts : List Task), Tbl.find s.objs obj = some o → o.body = .queue q →
      q.gather = t :: ts → s.stageFor core o.owner q = some s1 → pickFrom s.freeCtr ((s1.core core).freeWaves (q.q8 * 8)) = some w →
      (s1.core core).placeFor q.abytes = some base → exec (.taskWaveForm core obj) s = .next
        (let r := s1.entryCheck core o.owner t.entry
         let n := (t :: ts).length
         let s3 := ((({ r.1 with freeCtr := r.1.freeCtr + 1 } : State).setBody obj (.queue { q with
            tasks := q.tasks.filter (fun y => !((t :: ts).map (·.slot)).contains y.slot), waves := q.waves + 1 })).setWave core w
          (taskWave s o.owner q obj base (t :: ts) r.2.isNone)).advance core (((t :: ts).map (·.time)).foldl max 0)
         if r.2 = some 0x04 then s3.takeTrap core w (lowLanes n) 0x04 0 (BitVec.ofNat 56 t.entry) t.entry (BitVec.ofNat 56 t.entry)
         else if r.2 = some 0x05 then s3.takeTrap core w (lowLanes n) 0x05 0 (BitVec.ofNat 56 t.entry) t.entry (BitVec.ofNat 56 t.entry)
         else s3))
  ∧ (∀ obj slot (s : State) (o : Obj) (q : TaskQ) (h : HeldTask) (rest : List HeldTask), Tbl.find s.objs obj = some o → o.body = .queue q →
      q.held = h :: rest → ({ q with held := [] } : TaskQ).general s.freeCtr = some slot →
      s.agentBusy (s.procRanges o.owner (q.arena + slot * q.recsz) q.recsz) (heldNum obj) = false → exec (.heldSuccessorEnqueue obj) s = .next
        (let va := q.arena + slot * q.recsz
         let s0 := ({ s.agentServed (heldNum obj) with freeCtr := s.freeCtr + 1 } : State).procWrite o.owner h.time va h.record
         let s1 := s0.setBody obj
          (.queue (({ q with held := rest } : TaskQ).enqueue slot 0 h.record (max h.time (s0.procTime o.owner va q.recsz))))
         (match Tbl.find s1.objs h.dep with
          | some d => match d.body with
            | .dep 2 n qh r => if d.gen = h.gen then s1.setBody h.dep (.dep 3 n qh r) else s1
            | _ => s1
          | none => s1).poke (.change obj)))

/-- R28, R29, R360 to R375: Transit's steps, where one claim a step (notes/assumptions/66), one step that closes a budget window for bandwidth
and power alike (53) and a miss decided in the cycle of the deadline (68) are the model's choices. A die's agent claims indices for its
free cores: where no real-time crew is to be resumed, for the instance that its lowest core with one serves; where no other crew is to be
resumed either, for the gang that it has gathered a cluster for; else for the first launch of rule 4, up to 64 cores, the tenant's
headroom and a sixteenth of what is left. A claimed crew, or the eight of a gang together, start with frames, or give their indices back
without them; a crew whose work is over and whose bytes are at home retires, its time charged. A die without a free cluster whose first
work is a gang gathers the qualifying cluster with the fewest crews, of equal ones the lowest: it reserves the cores that are empty and
asks to move each crew to a free core, which stays reserved for it; a gathering without work ends. Instances open at S_k, after the misses
that are due, exhaust their share on a core and miss at their deadline; a budget window that has not been closed yet closes with the bytes
of the last one; every 10,000 cycles Precession evaluates its 64 stages; a stage core that drains, or a context of a contract's set,
leaves once it holds nothing. -/
def Obligations.TransitEvents : Prop :=
  (∀ die c dl ix serial k (s : State), s.rtResume die = none →
      ((s.freeCores die).filterMap (fun c => (s.instanceOn c).map (fun i => (c, i)))).head? = some (c, dl, ix, serial, k) →
      exec (.dieAgentClaim die) s = .next (s.claimFor serial k 1 (fun _ _ => c)))
  ∧ (∀ die (s : State), s.rtResume die = none → s.normalResume die = none → (∀ c ∈ s.freeCores die, s.instanceOn c = none) →
      (∀ x serial l, s.gathered die = some (x, serial, l) → exec (.dieAgentClaim die) s = .next
        (({ s with gathers := Tbl.del s.gathers die } : State).claimGangs serial l [x]))
      ∧ (∀ serial l, s.gathered die = none →
        s.normalWork.find? (fun e => if e.2.gang then !(s.freeClusters die).isEmpty else !(s.freeCores die).isEmpty) = some (serial, l) →
        (l.gang = true → exec (.dieAgentClaim die) s = .next (s.claimGangs serial l (s.freeClusters die)))
        ∧ (l.gang = false → exec (.dieAgentClaim die) s = .next (s.claimFor serial 0
          (min (min 64 (s.freeCores die).length) (min (s.headroom l.tenant) (max 1 (ceilDiv l.left 16))))
          (fun j _ => (s.freeCores die).getD j 0)))))
  ∧ (∀ core f rest (s : State) (x : Claim) (l : Launch), (s.core core).claim = some x → Tbl.find s.launches x.serial = some l → l.gang = false →
      s.framePool = f :: rest → exec (.crewStart core) s = .next (({ s with framePool := rest } : State).startCrew core f x l))
  ∧ (∀ core (s : State) (x : Claim) (l : Launch), (s.core core).claim = some x → Tbl.find s.launches x.serial = some l → l.gang = false →
      s.framePool = [] → exec (.crewStart core) s = .next ((s.modCore core (fun y => { y with claim := none })).setInst x.serial x.inst
        (fun i => i.giveBack [x.index])))
  ∧ (∀ core (s : State) (k : Crew), s.crew? core = some k → k.stage = none → s.crewQuiet core k.uid = true → s.versionOpen core = false →
      s.manualLines core = [] → s.backsOpen k.uid = false →
      exec (.crewRetire core) s = .next (((s.chargeCore core).emptyCore core).crewGone k (s.core core).time))
  ∧ (∀ core (s : State) (x : Claim) (l : Launch), (s.core core).claim = some x → Tbl.find s.launches x.serial = some l → l.gang = true →
      (let claims := (clusterCores (core / 8)).filterMap (fun c => ((s.core c).claim).map (fun y => (c, y)))
       claims.length = 8 → (∀ e ∈ claims, e.2.serial = x.serial) →
       (8 ≤ s.framePool.length → exec (.crewStart core) s = .next ((claims.zip (s.framePool.take 8)).foldl
         (fun (t : State) e => t.startCrew e.1.1 e.2 e.1.2 l) { s with framePool := s.framePool.drop 8 }))
       ∧ (s.framePool.length < 8 → exec (.crewStart core) s = .next
         ((claims.foldl (fun (t : State) e => t.modCore e.1 (fun y => { y with claim := none })) s).setInst x.serial x.inst
           (fun i => i.giveBack (claims.map (fun e => e.2.index)))))))
  ∧ (∀ die x serial (s : State), Tbl.find s.gathers die = some (x, serial) → s.normalWork.any (fun e => e.1 == serial) = false →
      exec (.gangGather die) s = .next (s.dropGather die))
  ∧ (∀ die x serial (s : State) (l : Launch), Tbl.find s.gathers die = none → s.dieRuns die = true → s.normalWork.head? = some (serial, l) →
      l.gang = true → s.freeClusters die = [] → s.gatherAt die l.lvl = some x → exec (.gangGather die) s = .next
        (((s.crewsOf x).map (·.1)).foldl (fun (t : State) c => t.askMove die c) ((clusterCores x).foldl (fun (t : State) c =>
          if (t.core c).crew = none then t.modCore c (fun y => { y with reservedFor := some (.gang serial) }) else t)
          { s with gathers := Tbl.put s.gathers die (x, serial) })))
  ∧ (∀ die serial (s : State) (l : Launch), Tbl.find s.gathers die = none → s.normalWork.head? = some (serial, l) →
      l.gang = false ∨ s.freeClusters die ≠ [] ∨ s.gatherAt die l.lvl = none → exec (.gangGather die) s = .next s)
  ∧ (∀ die lvl x (s : State), s.gatherAt die lvl = some x → x ∈ dieClusters die ∧ s.qualifies die x lvl = true
      ∧ (∀ y ∈ dieClusters die, s.qualifies die y lvl = true → (s.crewsOf x).length < (s.crewsOf y).length
        ∨ ((s.crewsOf x).length = (s.crewsOf y).length ∧ x ≤ y)))
  ∧ (∀ die lvl x (s : State), s.qualifies die x lvl = true ↔ (∀ c ∈ clusterCores x, (s.core c).claim = none ∧ (s.core c).reservedFor = none
      ∧ (∀ k, s.crew? c = some k → k.stage = none ∧ k.rt = false ∧ k.gang = none ∧ k.base ≤ lvl))
      ∧ (s.crewsOf x).length ≤ ((s.freeCores die).filter (fun c => c / 8 != x)).length)
  ∧ (∀ die c d (s : State) (k : Crew), s.crew? c = some k → s.moveTarget die c = some d → k.gang = none → k.preempt = none → k.asked = none →
      s.askMove die c = (s.modCrew c (fun k => { k with asked := some { reason := 2, at_ := 0, forced := false, hold := false, dest := some d } })).modCore d
        (fun y => { y with reservedFor := some (.move k.uid) }))
  ∧ (∀ obj serial (s u : State) (t : Contract) (l y : Launch), s.boundLaunch obj = some (serial, y) →
      u = y.insts.foldl (fun (v : State) (i : Inst) => contractDeadline obj i.k v) s → u.contractAt obj = some t →
      u.boundLaunch obj = some (serial, l) → t.start + (l.firstK + t.opened) * t.period ≤ u.clock →
      exec (.contractInstanceOpen obj) s = .next
        (let u0 := u.chargeStages obj
         let s1 := ({ u0 with launches := Tbl.mod u0.launches serial l (fun y => { y with
            insts := y.insts.filter (fun i => !i.finished l.count) ++ [Inst.fresh (l.firstK + t.opened)] }) } : State).setBody obj
            (.contract { t with opened := t.opened + 1 })
         let free := (t.coreList.filter (fun c => (s1.core c).free)).length
         let lower := t.coreList.filter (fun c => match s1.crew? c with
           | some z => !z.rt && z.stage.isNone
           | none => false)
         (lower.take (min l.count t.coreList.length - free)).foldl (fun u c => u.askPreempt c 1 false none) s1))
  ∧ (∀ obj core serial (s : State) (t : Contract) (i : Inst) (k : Crew), s.contractAt obj = some t → s.chargedTo obj core = some (serial, i, k) →
      core ∉ i.spent → t.shareCycles ≤ Tbl.getD i.charge core 0 + s.uncharged core k →
      exec (.contractShareReached obj core) s = .next
        ((s.setInst serial i.k (fun y => { y with spent := y.spent ++ [core] })).modCore core (fun y =>
          if k.stage.isSome = true then { y.demote with crew := y.demote.crew.map (fun w => { w with draining := true }) } else y.demote)))
  ∧ (∀ obj inst serial (s : State) (t : Contract) (l : Launch) (i : Inst), s.contractAt obj = some t → s.boundLaunch obj = some (serial, l) →
      l.insts.find? (fun i => i.k == inst) = some i → t.deadlineOf inst ≤ s.clock → i.claims = true →
      (∀ n, i.ended = some n → t.deadlineOf inst ≤ n) → exec (.contractDeadline obj inst) s = .next
        (let s1 := (s.setInst serial inst (fun y => { y with claims := false, returned := [] })).demoteWhere
          (fun z => z.serial == serial && z.inst == inst)
         let s2 := if t.missCtr = 0 then s1 else s1.signal t.missCtr 1 0
         if t.abort = true ∧ l.ver = true then s2.abortCrews serial inst l.asid else s2))
  ∧ (∀ tenant win watts (s : State) (m : Moved), s.clock / s.tenMicros = win + 1 →
      m = (Tbl.getD s.svc.moved tenant Moved.zero).roll (win + 1) →
      m.closed ≠ win + 1 → exec (.budgetWindowClose tenant win watts) s = .next { s with svc := { s.svc with
        moved := Tbl.put s.svc.moved tenant { m with closed := win + 1 },
        gatedBw := setMember s.svc.gatedBw tenant (fieldOf (s.budget tenant).toNat 32 16 != 0xFFFF
          && decide (fieldOf (s.budget tenant).toNat 32 16 * 40000 < m.last)),
        gatedPower := setMember s.svc.gatedPower tenant (fieldOf (s.budget tenant).toNat 52 12 != 0xFFF
          && decide (fieldOf (s.budget tenant).toNat 52 12 < watts)) } })
  ∧ (∀ (s : State), s.svc.nextEval ≤ s.clock → exec .precessionEval s = .next ((List.range 64).foldl State.evalStage
      { s with svc := { s.svc with nextEval := s.svc.nextEval + 10000 } }))
  ∧ (∀ core (s t : State) (k : Crew), s.crew? core = some k → k.stage.isSome = true → (k.draining = true ∨ k.contract.isSome = true) →
      (s.core core).waves = [] → t = s.modCore core (fun y => y.closeGuards s.clock) → t.crewQuiet core k.uid = true →
      t.manualLines core = [] → t.backsOpen k.uid = false →
      exec (.stageCoreLeave core) s = .next
        (let u := match k.contract.bind (fun i => t.chargedTo i core) with
           | some (serial, i, _) => t.setInst serial i.k (fun y =>
               { y with charge := Tbl.mod y.charge core 0 (fun n => n + t.uncharged core k) })
           | none => t
         let v := (u.emptyCore core).forgetCrew k.uid
         match k.nextStage with
         | some n => if stageEn (v.stageEntry n) && v.outOfSets core then v.joinStage core n else v
         | none => v))

/-- R207, R366, R383, R384, R386 to R388, R397, R399: Dusk's steps. A request reaches its crew; after 8,192 cycles it is forced; a drained
crew with its MANUAL bytes at home, and whose frame no locked line bars, is written to its frame, in one step (notes/assumptions/72):
header, wave records, v registers, images and engine area, whose bytes and check word are free. 64 cycles and one for each 2,048 bytes
later a written frame is SAVED, or HELD for a `csave`, its core free and the call answered with the frame's address. A saved crew is
restored on the core that awaits it, in one step again: its waves from their records, the registers that were kept, the buffers, the
engine area with pins fetched again, the barriers checked, and the first issue after the restore's time. What a record gives back of a
wave is what was written of it: s registers, predicates, rejoin registers, barrier bits, windows, FPCTL, CHKCTL, QUOTA, levels, splits,
and the marks of the tokens; a v register that was kept has its value again and another is zero. A version commits for an access that
needs it, or goes on, line by line in ascending order; a shootdown completes once nothing under the old translation is open. -/
def Obligations.DuskEvents : Prop :=
  (∀ core reason (s : State) (k : Crew) (p : Preempt), s.crew? core = some k → k.asked = some p → p.reason = reason →
      exec (.preemptRequest core reason) s = .next
        (s.modCrew core (fun k => { k with asked := none, preempt := some { p with at_ := s.clock } })))
  ∧ (∀ core (s : State) (p : Preempt), s.preempted core = some p → p.forced = false → s.enginesRest core = false → p.at_ + 8192 ≤ s.clock →
      exec (.forcedSaveTimeout core) s = .next (s.modCrew core (fun k => { k with preempt := some { p with forced := true } })))
  ∧ (∀ core (s : State) (k : Crew), s.saveGroup core = [core] → s.crew? core = some k → s.crewDrained core = true → s.manualLines core = [] →
      s.backsOpen k.uid = false → s.agentBusy [(k.frame, frameBytesLen)] (duskNum k.uid) = false →
      exec (.crewSave core) s = .next ((s.agentServed (duskNum k.uid)).saveCrew core))
  ∧ (∀ core (s : State) (k : Crew) (q : Preempt), s.crew? core = some k → s.preempted core = some q →
      (let y := s.core core
       let p := savePlan y k.abytes
       let hint := fun w => (p.hints.find? (fun h => h.1 == w)).bind (·.2)
       let ws := y.waves.map (fun e => (e.1, e.2.asSaved (hint e.1)))
       let kept := p.hints.map (fun h => (h.1, keptRegs h.2 (match Tbl.find y.waves h.1 with | some w => w.quota | none => 0)))
       let area := areaLen y (Config.freeWord s.freeCtr).toNat
       let bytes := saveBytes y p area
       s.saveSpoilt core y p = false →
       (s.saveCrew core).mem = Memory.setBytes (putImages (ws.foldl (fun m e => putRegs m k.frame (regBase ws e.1) (Tbl.getD kept e.1 0) e.2)
           (ws.foldl (fun m e => Memory.setBytes m (recordAt k.frame e.1) e.2.record)
             (Memory.setBytes s.mem k.frame (frameHeader s core k q p bytes (Config.freeWord (s.freeCtr + 1))))))
           k.frame y p k.abytes) (k.frame + 0x141000) (areaBytes (s.freeCtr + 2) area)
       ∧ (∃ f, Tbl.find (s.saveCrew core).frames k.frame = some f ∧ f.state = 0 ∧ f.hold = q.hold ∧ f.target = q.dest ∧ f.corePos = core
         ∧ f.due = s.clock + 64 + ceilDiv bytes 2048 ∧ (∃ g, f.engine = some g ∧ g.chans = y.chans ∧ g.guards = y.guards ∧ g.mats = y.mats
           ∧ g.bars = y.bars ∧ g.pins = y.pins ∧ g.squeues = y.squeues ∧ g.carrs = y.carrs ∧ g.seals = y.seals ∧ g.kept = kept))))
  ∧ (∀ core pa (s : State) (k : Crew) (f : Frame), s.savingAt core = some (pa, k) → s.frameGroup pa = [pa] → Tbl.find s.frames pa = some f →
      f.due ≤ s.clock → f.crew = some k → exec (.saveComplete core) s = .next
        (let t1 := s.setFrameState pa (if f.hold = true then 3 else 2)
         let t2 : State := { t1 with frames := Tbl.mod t1.frames pa (Frame.idle 0) (fun y =>
           { y with resume := !f.hold, target := if f.hold = true then none else f.target }) }
         let t3 := t2.emptyCore f.corePos
         let t4 := if f.hold = true then t3.unreserve k.uid else t3
         (t4.duskCalls .csave k.uid).foldl (fun u y => u.reply y 2 pa) t4))
  ∧ (∀ frame core (s : State) (f : Frame) (k : Crew), Tbl.find s.frames frame = some f → f.crew = some k → f.state = 2 →
      (f.resume = true ∧ s.rtResume (dieOf core) = some (frame, core) ∨ f.target = some core ∧ s.awaits frame core = true) →
      s.agentBusy ((s.frameGroup frame).map (fun a => (a, frameBytesLen))) (duskNum k.uid) = false →
      exec (.crewRestore frame core) s = .next ((s.agentServed (duskNum k.uid)).restoreGroup frame core))
  ∧ (∀ src dst pa (s : State) (f : Frame) (k : Crew),
      s.frames.find? (fun e => e.2.state == 2 && e.2.corePos == src && e.2.target == some dst && e.2.crew.isSome) = some (pa, f) →
      Tbl.find s.frames pa = some f → f.crew = some k → s.awaits pa dst = true →
      s.agentBusy ((s.frameGroup pa).map (fun a => (a, frameBytesLen))) (duskNum k.uid) = false →
      exec (.crewMove src dst) s = .next ((s.agentServed (duskNum k.uid)).restoreGroup pa dst))
  ∧ (∀ pa c (s : State) (f : Frame) (k : Crew) (g : EngineArea), Tbl.find s.frames pa = some f → f.crew = some k → f.engine = some g →
      s.frameSpoilt f = false → s.restoreCrew pa c =
        (let u := s.unreserve k.uid
         let spent := u.spentFor k c
         let ws := g.statics.map (fun e => (e.1, e.2.fromRecord u.mem (recordAt pa e.1) u.clock))
         let waves := ws.map (fun e => (e.1, (fun (w : Wave) => if spent = true then w.demote else w)
           (e.2.restored (frameRegs u.mem pa (regBase ws e.1) (Tbl.getD g.kept e.1 0) e.2.quota) u.clock (s.clock + f.cost))))
         let s1 := (u.freshBuffers c).modCore c (fun y =>
           { y.begin { k with startedAt := s.clock + f.cost, rt := k.rt && !spent } with
             reservedFor := none, waves := waves, abuf := frameAbuf u.mem pa, cbuf := frameCbuf u.mem pa, wbuf := frameWbuf u.mem pa
             bars := g.bars, squeues := g.squeues, chans := g.chans, cmds := g.cmds, guards := g.guards, guardBy := g.guardBy
             seals := g.seals, carrs := g.carrs, mats := g.mats, pins := g.pins })
         let s2 : State := { s1 with
           mem := Memory.write s1.mem pa 4 0
           frames := Tbl.put s1.frames pa (Frame.idle (dieOf c))
           traps := s1.traps.map (fun t => if t.uid = k.uid then { t with core := c } else t) }
         let s3 := g.pins.foldl (fun (t : State) a => match t.fetchLine c a.1 a.2 with | .ok u => u | .error _ => t) s2
         (((List.range 16).foldl (fun (t : State) b => t.barCheck c b) s3).advance c f.time).stoppedAgain c))
  ∧ (∀ (m : Memory) pa n clock (w : Wave), Memory.wf m = true → w.splits.length ≤ 32 → (∀ k < 16, w.count k < 64) → w.quota < 512 → w.base < 4 → w.level < 4 →
      (∀ p ∈ w.splits, splitDetail p.st < 256) →
      (let y := w.static.fromRecord (Memory.setBytes m (recordAt pa n) w.record) (recordAt pa n) clock
       (∀ i < 64, Bits.rd y.s i = Bits.rd w.s i) ∧ (∀ i < 7, Bits.rd y.p i = Bits.rd w.p i) ∧ (∀ i < 8, y.jreg i = w.jreg i)
       ∧ (∀ b < 16, Bits.rd y.barW b = Bits.rd w.barW b ∧ Bits.rd y.barQ b = Bits.rd w.barQ b)
       ∧ (∀ i < 8, Bits.rd y.scalewin i = Bits.rd w.scalewin i)
       ∧ y.fpctl = w.fpctl ∧ y.chkctl = w.chkctl ∧ y.quota = w.quota ∧ y.rt = w.rt ∧ y.base = w.base ∧ y.level = w.level
       ∧ y.splits.map (fun p => (p.pc, p.mask, splitCode p.st, splitDetail p.st)) = w.splits.map (fun p => (p.pc, p.mask, splitCode p.st, splitDetail p.st))
       ∧ (∀ k < 16, (y.tok k).map (·.done) = (w.tok k).map (·.done))))
  ∧ (∀ (m : Memory) pa base kept (w : Wave) i l, Memory.wf m = true → Bits.wf w.v = true → i < w.quota → l < 32 →
      Bits.rd (frameRegs (putRegs m pa base kept w) pa base kept w.quota) (vkey i l) = if fieldOf kept i 1 = 1 then Bits.rd w.v (vkey i l) else 0)
  ∧ (∀ core (s : State) (r : Req), r ∈ s.reqs → r.core = core → r.waits = true → s.needsCommit r = true →
      exec (.versionCommit core) s = .next (s.commitVersion core))
  ∧ (∀ core (s : State), s.committing core = true → exec (.versionCommit core) s = .next (s.commitVersion core))
  ∧ (∀ core m (s : State), s.versionOpen core = true → s.committing core = true → s.commits.find? (fun x => x.uid == s.uidOf core) = some m →
      (let t := takeLocks m.age (4096 * core) m.id (s.versionSpan core) s
       ((∃ l ∈ s.versionSpan core, Tbl.find t.locks l ≠ some m.id) → s.commitVersion core = t)
       ∧ ((∀ l ∈ s.versionSpan core, Tbl.find t.locks l = some m.id) → s.commitVersion core =
         (({ t with commits := t.commits.filter (fun x => x.id != m.id) } : State).mergeVersion core).unlock m.id)))
  ∧ (∀ sd (s : State) (h : Shoot), s.shoots.find? (fun h => h.id == sd) = some h → s.shootOpen h = false →
      (∀ c, s.shootLines h c = []) → (∀ w ∈ s.writeBacks, h.back w = false) → (∀ c, (s.shootDrop h).shootLines h c = []) →
      exec (.shootdownComplete sd) s = .next
        (({ s.shootDrop h with shoots := (s.shootDrop h).shoots.filter (fun y => y.id != sd) } : State).afterShoot h))

/-- R401, R406 to R410, R413 to R416, R421, R422, R431, Table 16-2: the fabric's steps. Traffic of a stream that runs is taken in the order in
which it was sent: messages, revocations and TAKEN notices wait for steps of their own, an answer acknowledges what it answers and
completes the call, a room note wakes its sender, and bindings and lookups are done at their holder. A message whose turn it is joins its
port, is answered DEAD where the port is gone, or FULL; TAKEN ends the reservation of a grant's frames; a revocation removes the message
that is still queued, and is otherwise answered TAKEN unless the grant has been returned. A package whose stream has held unacknowledged
traffic for 2,000,000 cycles is unreachable; a host that leaves an access unanswered for 1,000,000 cycles, or loses its links, or writes
RESTART, is a warm restart; a link trains; the host reads and writes the shared region, host memory and the DVSEC registers. Deduced are
that an answer acknowledges what it answers (notes/assumptions/54), that messages, revocations and TAKEN notices take effect in steps of
their own (83), and the edges of RESTART (59) and of DVSEC writes (64). -/
def Obligations.FabricEvents : Prop :=
  (∀ (m : RemoteMsg) (s : State), s.linkOn m.pkg m.die = true → m.seq = Tbl.getD s.fab.inSeq (streamOf m.pkg m.die) 0 →
      (let s1 : State := { s with fab := { s.fab with inSeq := Tbl.put s.fab.inSeq (streamOf m.pkg m.die) (m.seq + 1) } }
       let first := ∀ x ∈ s.fab.arrived, ¬(x.pkg = m.pkg ∧ x.die = m.die)
       (∀ i, m.body = .taken ∨ m.body = .revoke i ∨ isMessage m = true → exec (.flitArrival m) s = .next
          { s1 with fab := { s1.fab with arrived := s1.fab.arrived ++ [m] } })
       ∧ (∀ st, m.body = .answer st → first → exec (.flitArrival m) s = .next ((s1.ackUpTo m.pkg m.serial).onAnswer m st))
       ∧ (∀ t, m.body = .revoked t → first → exec (.flitArrival m) s = .next ((s1.ackUpTo m.pkg m.serial).onRevoked m t))
       ∧ (∀ f, m.body = .found f → first → exec (.flitArrival m) s = .next ((s1.ackUpTo m.pkg m.serial).onFound m f))
       ∧ (m.body = .room → first → exec (.flitArrival m) s = .next (s1.roomFor m.serial))
       ∧ (∀ n i g, m.body = .lookup n ∨ m.body = .bind n i g ∨ m.body = .unbind n → first →
         exec (.flitArrival m) s = .next (s1.atHolder m))
       ∧ (∀ st, m.body = .answer st → ¬first → exec (.flitArrival m) s = .next s)))
  ∧ (∀ pkg serial index gen sender asid tag payload pages waits (s t : State) (m : RemoteMsg) (o : Obj) cap msgs lost,
      s.fab.arrived.find? (fun m => m.pkg == pkg && m.serial == serial && isMessage m) = some m → s.oldestOf m = true →
      m.body = .message index gen sender asid tag payload pages waits → t = s.dropArrived m → Tbl.find t.objs index = some o →
      o.body = .port cap msgs lost →
      (o.gen ≠ gen → exec (.remoteMessageArrival pkg serial) s = .next (t.answerTo m (index / 2 ^ 21) (.answer stDead)))
      ∧ (o.gen = gen → t.portFull index = true ∨ stagingBytes < t.staged + 65536 * pages.length → waits = false →
        exec (.remoteMessageArrival pkg serial) s = .next (t.answerTo m (index / 2 ^ 21) (.answer stFull)))
      ∧ (o.gen = gen → t.portFull index = false → t.staged + 65536 * pages.length ≤ stagingBytes →
        exec (.remoteMessageArrival pkg serial) s = .next ((t.append index
          (Msg.mk payload tag sender asid none 0 (pages.map stagedPage) serial t.outTime)).answerTo m (index / 2 ^ 21) (.answer stOk))))
  ∧ (∀ obj serial (s : State) (g : SentGrant),
      s.fab.sent.find? (fun e => handleIdx e.2.handle == obj
        && s.fab.arrived.any (fun m => m.pkg == e.2.pkg && m.serial == e.1 && m.body == RemoteBody.taken && s.oldestOf m)) = some (serial, g) →
      exec (.grantTakenNotice obj) s = .next
        ((g.pages.foldl (fun (t : State) p => t.addFrame g.asid p.frame) { s with fab := { s.fab with
            sent := Tbl.del s.fab.sent serial,
            arrived := s.fab.arrived.filter (fun m => !(m.pkg == g.pkg && m.serial == serial && m.body == RemoteBody.taken)) } }).setGrant
          (some g.handle) 1))
  ∧ (∀ pkg serial port (s : State) (m : RemoteMsg),
      s.fab.arrived.find? (fun m => m.pkg == pkg && m.serial == serial && (match m.body with | .revoke _ => true | _ => false)) = some m →
      m.body = .revoke port → s.oldestOf m = true →
      (∀ idx cap msgs lost, (s.dropArrived m).queuedFrom pkg serial = some (idx, cap, msgs, lost) →
        exec (.remoteGrantrev pkg serial) s = .next ((((s.dropArrived m).setBody idx
          (.port cap (msgs.filter (fun y => !(y.pkg == pkg && y.serial == serial))) lost)).portRoom idx).answerTo m (port / 2 ^ 21) (.revoked false)))
      ∧ ((s.dropArrived m).queuedFrom pkg serial = none → exec (.remoteGrantrev pkg serial) s = .next ((s.dropArrived m).answerTo m (port / 2 ^ 21)
        (.revoked (!s.fab.outbox.any (fun e => e.pkg == pkg && e.serial == serial && e.body == .revoked false))))))
  ∧ (∀ pkg (s : State), s.lost pkg = false → (∃ e ∈ s.fab.outbox, e.pkg = pkg ∧ e.acked = false ∧ e.at_ + 2000000 ≤ s.clock) →
      exec (.streamTimeout pkg) s = .next (({ s with fab := { s.fab with unreachable := s.fab.unreachable ++ [pkg] } } : State).losePackage pkg))
  ∧ (∀ req (s : State) (r : Req) (n : Nat), r ∈ s.reqs → r.id = req → r.place = .host → r.waits = true → r.lodged = some n →
      n + 1000000 ≤ s.clock → exec (.hostAccessTimeout req) s = .next s.warmRestart)
  ∧ (∀ (s : State), s.fab.portsUp ≠ [] →
      exec .cxlLinkLoss s = .next ({ s with fab := { s.fab with portsUp := [] } } : State).warmRestart
      ∧ (s.booted = true → exec .ewcctlRestart s = .next s.warmRestart) ∧ (s.booted = false → exec .ewcctlRestart s = .next s)
      ∧ (∀ off n, s.fab.hostQ = [] → s.agentBusy (if s.inShared off n then [(s.sharedBase + off, n)] else []) s.nextId = false →
          exec (.hostCxlMemAccess (.readShared off n)) s = .next
          { s with fab := { s.fab with hostReads := s.fab.hostReads ++ [s.hostRead off n] } })
      ∧ (∀ off bs, s.inShared off bs.length = true → s.fab.hostQ = [] → s.agentBusy [(s.sharedBase + off, bs.length)] s.nextId = false →
          exec (.hostCxlMemAccess (.writeShared off bs)) s = .next
          (((s.homeBytes (s.sharedBase + off) bs).hostWrote false (s.sharedBase + off) bs.length).poke (.ring 0xFFFE)))
      ∧ (∀ off v, s.dvsecRead off = some v → exec (.hostCxlMemAccess (.readReg off)) s = .next
          { s with fab := { s.fab with hostReads := s.fab.hostReads ++ [bytesOf 8 v.toNat] } })
      ∧ (∀ off v, exec (.hostCxlMemAccess (.writeReg off v)) s = .next
          (if off = 0x20 ∧ v.getLsbD 0 = true ∧ (s.dvsecRead off).isSome = true then s.warmRestart else s)))
  ∧ (∀ port rate width (s : State), port < 2 → 0 < rate → rate ≤ 64 → 0 < width → width ≤ 16 → (s.svc.boot = .bringup → port = 0) →
      s.svc.stopped = false →
      exec (.cxlLinkUp port rate width) s = .next { s with fab := { s.fab with portsUp := Tbl.put s.fab.portsUp port (rate, width) } })
  ∧ (∀ port rate (s : State), (Tbl.find s.fab.portsUp port).isSome = true → exec (.cxlLinkUp port rate 0) s = .next
      (let s1 : State := { s with fab := { s.fab with portsUp := Tbl.del s.fab.portsUp port } }
       if Tbl.del s.fab.portsUp port = [] then s1.warmRestart else s1))
  ∧ (∀ port kind (s t : State) b, (Tbl.find s.fab.portsUp port).isSome = true → s.booted = true → s.doeAnswer kind = some (b, t) →
      exec (.doeRequest port kind) s = .next { t with fab := { t.fab with doeAnswered := t.fab.doeAnswered ++ [(port, kind, b)] } })
  ∧ (∀ port kind (s : State), (Tbl.find s.fab.portsUp port = none ∨ s.booted = false) → exec (.doeRequest port kind) s = .next s)
  ∧ (∀ (s : State), s.doeAnswer 1 = some (s.svc.identity, s))

/-- R355, R417 to R420, R423 to R428: the functions of the service cores. The record of the command ring at RHEAD, in sequence, of a listed
function and with flags that it allows, is served by its function. A lane of a `syscall` entry whose turn has come, whose record can be
read and written, is served by the function it calls: its result bytes go to +8 of the record, its status to +0, and the lane has its
reply. Where bytes 4 to 7 are not 0, or the function is one that Table 17-2 does not list, the status is RECORD (14); a supervisor
function called by a process other than ASID 0 gets DENIED (20).

R413, R421, R429 to R433: power, errors and boot. At its tick, every 10 µs, the governor moves by two eighths within 2 to 8 of them; the
event of 105 °C makes it step down and that of 115 °C stops every die and the links; every 1,024th corrected error of a location is logged
(its cause free), and every uncorrectable error, which poisons its unit, as DATA_UNCORRECTABLE (0x51) with its address in HBM4E (elsewhere
a free position, notes/assumptions/8); a reset with a configuration block that keeps its limits starts the main image, or else the
bring-up image, or leaves the package in reset with the failing check. The model's own are: the event of LOG standing for a function that
is not listed (notes/assumptions/60), a command served in one step (58), what a package reset keeps (63), 105 °C taken up at the
governor's next comparison (25), and the free cause of a log entry (8). -/
def Obligations.ServiceEvents : Prop :=
  (
    (∀ (s : State) (base logn : Nat), s.ringOf s.fab.ewccmd = some (base, logn) → s.fab.ewcWait = none → s.fab.ewcUp = true →
        s.agentBusy (ringRange base logn) ringNum = false →
        Memory.read s.mem base 4 ≠ s.ringHead base → (s.ewcRec base logn (s.ringHead base)).seq = s.ringHead base →
        (s.ewcRec base logn (s.ringHead base)).flagsOk = true →
        (let r := s.ewcRec base logn (s.ringHead base)
         (r.fn = 0 → exec .ewcNop s = .next (s.ewcReply 0 (r.arg 0)))
         ∧ (r.fn = 1 → exec .ewcLaunch s = .next (ewcLaunch r s))
         ∧ (r.fn = 2 → exec .ewcLstat s = .next (s.ewcReply 0 (s.lstatWord 0 (r.arg 0))))
         ∧ (r.fn = 3 → exec .ewcSend s = .next (ewcSend r s))
         ∧ (r.fn = 4 → exec .ewcHbind s = .next ((s.hostBindTo (r.arg 0) (r.arg 1)).1.ewcReply (s.hostBindTo (r.arg 0) (r.arg 1)).2 0))
         ∧ (r.fn = 5 → exec .ewcHunbind s = .next ((s.hostUnbind (r.arg 0)).1.ewcReply (s.hostUnbind (r.arg 0)).2 0))))
    ∧ (∀ entry lane (s t : State) (b : List Byte) (e : RingEnt), s.svc.rings.find? (fun e => e.id == entry) = some e → s.svcTurn e = true →
        lane = lowestLane e.todo → s.svcOut e = false → s.agentBusy (s.svcRanges e lane) e.id = false →
        (s.agentServed e.id).svcRead e lane = .ok (t, b) →
        (let answers := fun (i : Instr) (r : SvcRes) => ∀ u v, r.1.svcWrite e lane 8 r.2.2 = .ok u →
           u.svcWrite e lane 0 (bytesOf 4 r.2.1) = .ok v → exec i s = .next (v.svcReplied e lane r.2.1)
         (∀ p ∈ [(Instr.log entry lane, 1, svcLog), (Instr.evread entry lane, 2, svcEvread), (Instr.evsel entry lane, 3, svcEvsel),
             (Instr.ownports entry lane, 4, svcOwnports), (Instr.proc entry lane, 0x100, svcProc), (Instr.frames entry lane, 0x101, svcFrames),
             (Instr.tenant entry lane, 0x102, svcTenant), (Instr.firewall entry lane, 0x103, svcFirewall),
             (Instr.stage entry lane, 0x104, svcStage), (Instr.hwin entry lane, 0x105, svcHwin), (Instr.route entry lane, 0x106, svcRoute),
             (Instr.ewcset entry lane, 0x107, svcEwcset), (Instr.caps entry lane, 0x108, svcCaps), (Instr.ras entry lane, 0x109, svcRas),
             (Instr.hbind entry lane, 0x10A, svcHbind)], e.fn = p.2.1 →
           (256 ≤ e.fn → e.asid ≠ 0 → answers p.1 (t, 20, []))
           ∧ ((256 ≤ e.fn → e.asid = 0) → recNum b 4 4 ≠ 0 → answers p.1 (t, 14, []))
           ∧ ((256 ≤ e.fn → e.asid = 0) → recNum b 4 4 = 0 → answers p.1 (p.2.2 e b t)))
         ∧ (listedFn e.fn = false → answers (.log entry lane) (t, 14, []))))
  ) ∧ (
    (∀ watts (s : State), s.svc.nextTick ≤ s.clock → exec (.powerGovernorTick watts) s = .next { s with svc := { s.svc with
        governor := (if s.svc.hot = true ∨ min s.svc.moduleCap s.svc.powerCeiling < watts then
            (if s.svc.governor ≤ 2 then 2 else s.svc.governor - 2)
          else if 100 * watts < 95 * min s.svc.moduleCap s.svc.powerCeiling then (if 8 ≤ s.svc.governor then 8 else s.svc.governor + 2)
          else s.svc.governor),
        nextTick := (s.clock / s.tenMicros + 1) * s.tenMicros } })
    ∧ (∀ hot (s : State), exec (.thermalLimit hot) s = .next { s with svc := { s.svc with hot := hot } })
    ∧ (∀ (s : State), exec .thermalShutdown s = .next (if s.fab.portsUp = [] then { s with svc := { s.svc with stopped := true } }
        else ({ s with svc := { s.svc with stopped := true }, fab := { s.fab with portsUp := [] } } : State).warmRestart))
    ∧ (∀ core loc (s : State),
        (let n := Tbl.getD s.svc.corrected loc 0 + 1
         let t := ({ s with svc := { s.svc with corrected := Tbl.put s.svc.corrected loc n } } : State).modCore core (fun k => k.countEv 13 1)
         (n % 1024 ≠ 0 → exec (.eccCorrected core loc) s = .next t)
         ∧ (n % 1024 = 0 → exec (.eccCorrected core loc) s = .next
           (({ t with freeCtr := t.freeCtr + 1 } : State).logError (Config.freeWord t.freeCtr).toNat loc))))
    ∧ (∀ place (s : State), s.unitOk place = true →
        (let t := (s.poisonUnit place).wearFrame place
         (∀ u, place = .mem u → exec (.eccUncorrectable place) s = .next (t.logError 0x51 (u * 32)))
         ∧ ((∀ u, place ≠ .mem u) → exec (.eccUncorrectable place) s = .next
           (({ t with freeCtr := t.freeCtr + 1 } : State).logError 0x51 (Config.freeWord t.freeCtr).toNat))))
    ∧ (∀ (b : BootBlock) (s : State), bootOk b = true →
        (let s1 : State := { State.reset with hostMem := s.hostMem, agenda := s.agenda, freeCtr := s.freeCtr, nextSerial := s.nextSerial }
         (imagePasses b.main b.fuses = true → exec (.packageReset b) s = .next (s1.bootUp b .running))
         ∧ (imagePasses b.main b.fuses = false → imagePasses b.bringup b.fuses = true → exec (.packageReset b) s = .next { s1.bootUp b .bringup with
            svc := { (s1.bootUp b .bringup).svc with failingCheck := b.failingCheck } })
         ∧ (imagePasses b.main b.fuses = false → imagePasses b.bringup b.fuses = false → exec (.packageReset b) s = .next
            { s1 with svc := { s1.svc with boot := .failed, failingCheck := b.failingCheck } })))
  )

/-! ## The machine as a whole -/

/-- R16, R213, R367, R411, Table 16-2: what reset leaves. CLOCK is 0, every timestamp is 0, MAP holds 0xFFFF everywhere (a name is held by its own
package), EPOCH and the EWC registers are 0, every budget, firewall slot and stage has the reset value of its table, no crew, wave,
process, object, call, launch or fault is there, and memory stands in canonical form. -/
def Obligations.ResetState : Prop :=
  let s := State.reset
  s.clock = 0 ∧ (∀ line, s.tsOf line = { wts := 0, rts := 0 }) ∧ (∀ c, (s.core c).time = 0)
  ∧ (∀ n, Tbl.getD s.fab.map n 0xFFFF = 0xFFFF) ∧ (∀ name, s.holderOf name = s.fab.pkgNo)
  ∧ s.fab.epoch = 0 ∧ s.fab.ewccmd = 0 ∧ s.fab.ewcinb = 0 ∧ s.fab.restartCtr = 0 ∧ s.fab.windows = []
  ∧ (∀ t, s.budget t = 0xFFF0FFFF00000400) ∧ (∀ n, Tbl.getD s.svc.firewall n 0 = 0) ∧ (∀ t, s.stageEntry t = 0)
  ∧ (∀ c, s.crew? c = none) ∧ (∀ c w, s.wave? c w = none) ∧ s.procs = [] ∧ s.objs = [] ∧ s.calls = [] ∧ s.launches = []
  ∧ s.traps = [] ∧ s.reqs = [] ∧ s.MemOk

/-- A step runs what it fetched. With an empty agenda, or between the slots of a pair, and the cursor on an executing split of a wave whose
line is in the instruction cache with its parities right, whose targets pass their BTM check and whose slot decodes to `i`, a step is
`exec i` on the state in which the wave's targets count as checked (R37). With an agenda and no pair begun, a step is `exec` of its first
event on the rest; with neither it is what the schedule chooses. -/
def Obligations.StepRuns : Prop :=
  (∀ (s : State) (cur : Cursor) (x : Wave) (bits : BitVec 512) (i : Instr), s.cursor = some cur → (s.agenda = [] ∨ cur.second.isSome = true) →
    s.wave? cur.core cur.wave = some x → x.execSplits cur.pc cur.lanes ≠ [] →
    (s.core cur.core).lineAt x.asid cur.pc = some bits → lineParityOk (lineWord bits) = true → slotParityOk bits (slotOf cur.pc) = true →
    ((∀ p ∈ x.execSplits cur.pc cur.lanes, p.origin = none) ∨ lineBtm (lineWord bits) (slotOf cur.pc) = true) →
    lineWordOk (lineWord bits) = true → decode (lineSlot bits (slotOf cur.pc)) = .ok i →
    step s = exec i (s.modWave cur.core cur.wave (fun w => w.targetOk cur.pc (lanesOfSplits (x.execSplits cur.pc cur.lanes)))))
  ∧ (∀ (s : State) (i : Instr) (rest : List Instr), s.agenda = i :: rest → (∀ cur, s.cursor = some cur → cur.second = none) →
    step s = exec i { s with agenda := rest })
  ∧ (∀ (s : State), s.agenda = [] → s.cursor = none → step s = .next (schedule s))

/-- Words written out from the layouts of Tables 2-3 and 2-5 to 2-10 decode to the instructions that they stand for. Twelve are the words that the
spec works out bit by bit at its examples, header first (chapters 06, 07, 09 to 16): `addc` and `cvt` (format A), `mcas` and `watch` (M), `cpym`,
`mred`, `mma` and `mmap` (X), `sqpop.free` (A), `psend` and `ctadmit` (K), `phint` (I); then `nop` and `join` with its JX (C), `st` with a negative
offset (M) and `movi` (I). An unassigned major opcode is kept as it stands, and a reserved format selector, a nonzero reserved bit and a reserved
register code are ILLEGAL_ENCODING. -/
def Obligations.DecodeWords : Prop :=
  let h : Hdr := { stall := 0, post := none, wait := none, pn := false, pred := 7 }
  let w : Hdr := { h with wait := some (1, 0) }
  let A : FmtA := FmtA.mk (.v 0) (.v 0) (.v 0) (.v 0) .none .rne false false false false false false false 0 7 7 false
  let X : FmtX := { d := .v 0, a := .v 0, b := .v 0, guard := none, ch := 0, ty := .none, cmd := 0 }
  let K : FmtK := { d := .v 0, a := .v 0, b := .v 0, c := .v 0, sub := 0, imm := 0 }
  let C : FmtC := { disp := 0, slot := 0, a := .v 0, jx := 0, tk := 0, cnt := 0, sub := 0 }
  let word := fun (hi lo : Nat) => decode (hi * 2 ^ 64 + lo)
  let top := fun (opc fmt : Nat) => opc * 2 ^ 24 + 7 * 2 ^ 3 + fmt
  word 0x01100038 0x0580C0E003800090 = .ok (.addc { h with stall := 1 } { A with d := .v 11, a := .v 3, b := .v 7, ty := .n32, pd := 1, ps := 1 })
  ∧ word 0x53300038 0x03810000D7A003F0 = .ok (.cvt { h with stall := 3 } { A with d := .v 7, a := .v 4, c := .v 13, ty := .e4m3, rnd := .rtz })
  ∧ word 0x8909003A 0x075A4001015C0000 = .ok (.mcas { h with post := some 2 }
      { d := .v 14, a := .sp .argp, ofs := 64, ty := .b64, ord := .ar, scope := 4, mop := 0, b := .v 0 })
  ∧ word 0x9100443A 0x0400800001200018 = .ok (.watch w { d := .v 8, a := .v 2, ofs := 0, ty := .b32, ord := .rlx, scope := 0, mop := 0, b := .v 6 })
  ∧ word 0xA100003D 0x838121000008440F = .ok (.cpym h { X with d := .s 7, a := .v 4, b := .s 8, cmd := 0x8440F })
  ∧ word 0xB400003D 0xA150000006807F00 = .ok (.mred h { X with d := .int 2, a := .int 0, ty := .f32, cmd := 0x7F00 })
  ∧ word 0xB000443D 0x0002800000000000 = .ok (.mma w { X with a := .v 10 })
  ∧ word 0xB500003D 0x0BD0C3000681FC03 = .ok (.mmap h { X with d := .v 23, a := .int 3, b := .v 24, ty := .f32, cmd := 0x1FC03 })
  ∧ word 0x95080008 0x0A508000050007F0 = .ok (.sqpopFree { h with post := some 0, pred := 1 } { A with d := .v 20, a := .int 2, ty := .b64, sub := 1 })
  ∧ word 0xC109000C 0x088200C000000000 = .ok (.psend { h with post := some 2, pred := 1 } { K with d := .v 17, a := .v 8, b := .v 6 })
  ∧ word 0xE208803C 0x0400008000000000 = .ok (.ctadmit { h with post := some 1 } { K with d := .v 8, b := .v 4 })
  ∧ word 0xE3004039 0x005000000000000E = .ok (.phint { h with wait := some (0, 0) }
      { d := .v 0, a := .int 0, imm := 0, ty := .none, sub := 0, s := false, pd := 7 })
  ∧ word (top 0x78 3) 0 = .ok (.nop h C)
  ∧ word (top 0x75 3) (3 * 2 ^ 17) = .ok (.join h { C with jx := 3 })
  ∧ word (top 0x81 2) (5 * 2 ^ 55 + 6 * 2 ^ 46 + 0xFFFFC * 2 ^ 26 + 9 * 2 ^ 21) = .ok (.st h
      { d := .v 5, a := .v 6, ofs := -4, ty := .b32, ord := .rlx, scope := 0, mop := 0, b := .v 0 })
  ∧ word (top 0x22 1) (3 * 2 ^ 55 + 0x80000001 * 2 ^ 14 + 9 * 2 ^ 9 + 7 * 2) = .ok (.movi h
      { d := .v 3, a := .v 0, imm := 0x80000001, ty := .b32, sub := 0, s := false, pd := 7 })
  ∧ word (top 0xFF 0) 5 = .ok (.unassignedOpcode (BitVec.ofNat 96 (top 0xFF 0 * 2 ^ 64 + 5)))
  ∧ word (top 0x78 6) 0 = .error .illegalEncoding
  ∧ word (top 0x78 3) 1 = .error .illegalEncoding
  ∧ word (top 0x22 1) (511 * 2 ^ 55 + 9 * 2 ^ 9 + 7 * 2) = .error .illegalEncoding

/-- R30, R38 to R55: the decoder reads every well-formed instruction back from its encoding: no bit of an encoding is dropped, with every operand
at every value that the encoding admits. -/
def Obligations.DecodeEncode : Prop :=
  ∀ i : Instr, i.wellFormed = true → decode (encode i) = .ok i

/-- R54, R57: what the decoder answers is well-formed. -/
def Obligations.DecodeWellFormed : Prop :=
  ∀ (w : Nat) (i : Instr), w < 2 ^ 96 → decode w = .ok i → i.wellFormed = true

/-- R114, R118, R121: the frame of the instructions that only read and write registers and predicates (major opcodes 0x00 to 0x6F). At its issue such
an instruction, of a split that is not stepped, leaves everything outside its own wave as it was, and of its wave the v, s and predicate
registers, FPCTL, CHKCTL, QUOTA, the windows, the rejoin registers and the barrier bits: its results land later (`LandingWrites`). An `swrite`
alone may change FPCTL at its issue (R157). -/
def Obligations.RegisterFrame : Prop :=
  let keeps := fun (i : Instr) => ∀ (s t : State) (cur : Cursor) (x : Wave) (r : Row) (h : Hdr), issues i s cur x r h = true →
    (∀ p ∈ x.execSplits cur.pc cur.lanes, p.stepOne = false) → exec i s = .next t →
    OnlyWave s t cur.core cur.wave ∧ ∃ y, t.wave? cur.core cur.wave = some y ∧ y.v = x.v ∧ y.s = x.s ∧ y.p = x.p
      ∧ ((∀ o, i ≠ .swrite h o) → y.fpctl = x.fpctl) ∧ y.chkctl = x.chkctl ∧ y.quota = x.quota ∧ y.scalewin = x.scalewin ∧ y.j = x.j ∧ y.argp = x.argp
      ∧ y.abase = x.abase ∧ y.abytes = x.abytes ∧ y.barW = x.barW ∧ y.barQ = x.barQ
  (∀ h (o : FmtA), ∀ i ∈ [Instr.add h o, .addc h o, .sub h o, .subb h o, .mul h o, .mulh h o, .mad h o, .div h o, .rem h o, .min h o,
      .max h o, .abs h o, .neg h o, .and h o, .or h o, .xor h o, .andn h o, .not h o, .shl h o, .shr h o, .sha h o, .rot h o, .shf h o,
      .bfe h o, .bfi h o, .popc h o, .clz h o, .ctz h o, .brev h o, .perm h o, .sel h o, .cmp h o, .lea h o, .mov h o, .sxt h o, .zxt h o,
      .plop h o, .sread h o, .fadd h o, .fsub h o, .fmul h o, .ffma h o, .fmin h o, .fmax h o, .fcmp h o, .fclass h o,
      .frcp h o, .frsq h o, .fsqrt h o, .fdiv h o, .fexp2 h o, .flog2 h o, .fsin h o, .fcos h o, .ftanh h o, .fscale h o, .frnd h o,
      .cvt h o, .dot4 h o, .hadd2 h o, .hmul2 h o, .hfma2 h o, .shfl h o, .vote h o, .ballot h o, .matchLanes h o, .redux h o,
      .laneperm h o, .swrite h o], keeps i)
  ∧ (∀ h (o : FmtI), ∀ i ∈ [Instr.addImm h o, .addcImm h o, .subImm h o, .subbImm h o, .mulImm h o, .mulhImm h o, .divImm h o, .remImm h o,
      .minImm h o, .maxImm h o, .andImm h o, .orImm h o, .xorImm h o, .andnImm h o, .shlImm h o, .shrImm h o, .shaImm h o, .rotImm h o,
      .bfeImm h o, .permImm h o, .selImm h o, .cmpImm h o, .leaImm h o, .movi h o, .faddImm h o, .fsubImm h o, .fmulImm h o, .fminImm h o,
      .fmaxImm h o, .fcmpImm h o, .fscaleImm h o, .hadd2Imm h o, .hmul2Imm h o, .shflImm h o, .lanepermImm h o], keeps i)

/-- R213, R239, R246, R281, R333, R394 to R396: no byte of HBM4E or of the host's memory changes when an instruction of the memory, barrier, copy, matrix
or call families, or `phint`, `trap`, `bkpt` or `rett`, issues, completes its issue, waits or traps: stores, copies and messages write in later
steps. (`csave`, `crest` and `ptinv` act at once on frames and saved crews, which stand in memory.) -/
def Obligations.IssueWritesNoMemory : Prop :=
  let keeps := fun (i : Instr) => ∀ (s t : State), exec i s = .next t → t.mem = s.mem ∧ t.hostMem = s.hostMem
  (∀ h (o : FmtM), ∀ i ∈ [Instr.ld h o, .st h o, .lde h o, .lda h o, .sta h o, .ldw h o, .ldc h o, .atom h o, .red h o, .mcas h o,
      .fence h o, .wbr h o, .invr h o, .pref h o, .ipref h o, .ipin h o, .iunpin h o, .watch h o], keeps i)
  ∧ (∀ h (o : FmtX), ∀ i ∈ [Instr.cpy h o, .cpym h o, .cpys h o, .cpyg h o, .cpyx h o, .mma h o, .mzero h o, .mred h o, .mmap h o,
      .mcvt h o], keeps i)
  ∧ (∀ h (o : FmtA), ∀ i ∈ [Instr.barArrive h o, .barWait h o, .barSync h o, .sqinit h o, .sqpush h o, .sqpushCredit h o, .sqpop h o,
      .sqpopFree h o, .gset h o, .gclr h o, .cinit h o, .seal h o, .carr h o, .cptr h o, .cptrIptr h o, .cptrStat h o, .mrd h o, .mwr h o,
      .mtile h o], keeps i)
  ∧ (∀ h (o : FmtI), ∀ i ∈ [Instr.barArriveImm h o, .barSyncImm h o, .gsetImm h o, .gclrImm h o, .phint h o, .phintFull h o, .trap h o,
      .bkpt h o], keeps i)
  ∧ (∀ h (o : FmtC), ∀ i ∈ [Instr.rett h o, .rettStep h o], keeps i)
  ∧ (∀ h (o : FmtK), ∀ i ∈ [Instr.wcreate h o, .psend h o, .precv h o, .wsadd h o, .wsdel h o, .suspend h o, .suspendX h o, .tarm h o,
      .tdisarm h o, .ecsig h o, .ecread h o, .qenq h o, .dcinit h o, .dcdec h o, .objnew h o, .objdel h o, .objinfo h o, .nslook h o,
      .nsbind h o, .grantrev h o, .syscall h o, .launch h o, .lstat h o, .ctadmit h o], keeps i)

/-- R213, R218, R239: where a store goes. When the home performs a store request that may be performed (no open version stands in its crew and its
page is not MANUAL), exactly the `size` bytes from its address take its data, lowest byte first, and every other byte of HBM4E and every
byte of host memory read as before; a RELEASED line's timestamps become max(T, rts + 1). A store to a RELEASED page by a crew whose version
was discarded writes nothing (R380). -/
def Obligations.StoreWrites : Prop :=
  ∀ (id : Nat) (s t : State) (r : Req), s.req? id = some r → r.kind = .store → r.place = .mem → r.pageKind ≠ 2 →
    s.canPerform r = true → s.versionOpen r.core = false → s.MemOk → exec (.homeStore id) s = .next t →
    if r.pageKind = 1 ∧ s.versionGone r.core = true then t.mem = s.mem ∧ t.hostMem = s.hostMem
    else (∀ a, a < r.addr ∨ r.addr + r.size ≤ a → Memory.byte t.mem a = Memory.byte s.mem a)
    ∧ (∀ n, n < r.size → Memory.byte t.mem (r.addr + n) = BitVec.ofNat 8 (r.data / 256 ^ n))
    ∧ t.hostMem = s.hostMem
    ∧ (r.pageKind = 1 → let g := max (s.core r.core).time ((s.tsOf (lineNo r.addr)).rts + 1)
      t.tsOf (lineNo r.addr) = { wts := g, rts := g })

/-- R102, R114, R118, R172: landing a pending write of instruction `num`, due in cycle `due`, at `clock`. A value of one or two registers for
lane l, written to a v register d, becomes the elements (d + i, l), low word first, where the register lies below QUOTA and the lane is
still in the wave, and is discarded elsewhere; a value written to an s register e becomes s[e + i]. So where no write of a later
instruction has been made to the element in that cycle or since and QUOTA has not shrunk since the issue; an element of the v file to
which a later instruction's write has been made keeps it. Every other element of the v and s files, every predicate, FPCTL, the rejoin
registers and the splits stay as they were. -/
def Obligations.LandingWrites : Prop :=
  ∀ (w : Wave) (clock due num l n x : Nat) (d : BitVec 8) (e : BitVec 6), l < 32 → n = 1 ∨ n = 2 → Tbl.wf w.v = true → Tbl.wf w.s = true →
    (let y := w.land clock { writesAt (.v d) n [(l, x)] with due := due, num := num };
      ((∀ c ∈ w.cuts, c.1 ≤ num) → ∀ i, i < n → w.stands (min due clock) num (keyV (d.toNat + i) l) = true →
          Bits.rd y.v (keyV (d.toNat + i) l) = if d.toNat + i < w.quota ∧ w.lanes.getLsbD l = true
            then BitVec.ofNat 32 (x / 2 ^ (32 * i)) else Bits.rd w.v (keyV (d.toNat + i) l))
      ∧ (∀ g, w.stands (min due clock) num g = false → Bits.rd y.v g = Bits.rd w.v g)
      ∧ (∀ g, (∀ i, i < n → g ≠ keyV (d.toNat + i) l) → Bits.rd y.v g = Bits.rd w.v g)
      ∧ y.s = w.s ∧ y.p = w.p ∧ y.j = w.j ∧ y.splits = w.splits ∧ y.fpctl = w.fpctl)
    ∧ (let y := w.land clock { writesAt (.s e) n [(l, x)] with due := due, num := num };
      (∀ i, i < n → w.stands (min due clock) num (keyS (e.toNat + i)) = true → Bits.rd y.s (e.toNat + i) = BitVec.ofNat 32 (x / 2 ^ (32 * i)))
      ∧ (∀ g, (∀ i, i < n → g ≠ e.toNat + i) → Bits.rd y.s g = Bits.rd w.s g)
      ∧ y.v = w.v ∧ y.p = w.p ∧ y.j = w.j ∧ y.splits = w.splits ∧ y.fpctl = w.fpctl)

/-- R39, R41, R45, R57, R128, R133: what stands before an issue by the first slot of a pair or alone. A split that is to stop takes the STEP
or BREAKPOINT that it is to stop with; where the stall has not elapsed nothing happens but that the cursor is given up, and so where the
split then does not meet R128; a supervisor instruction of another process takes PRIVILEGE (0x06) and an operand at or above QUOTA
REG_RANGE (0x07), each for the whole executing split once the stall has elapsed. Stated of `add` and `csave`, which stand for the
instructions without and with the supervisor level. -/
def Obligations.IssueTraps : Prop :=
  (∀ (h : Hdr) (o : FmtA) (s : State) (cur : Cursor) (x : Wave), s.cursor = some cur → s.wave? cur.core cur.wave = some x →
    cur.second = none → (x.stopAt cur) = none → x.stallOver s.clock (x.chosen cur.pc cur.lanes) = false →
    exec (.add h o) s = .next { s with cursor := none } ∧ exec (.csave h o) s = .next { s with cursor := none })
  ∧ (∀ (h : Hdr) (o : FmtA) (s : State) (cur : Cursor) (x : Wave), s.cursor = some cur → s.wave? cur.core cur.wave = some x →
    cur.second = none → x.lanesAt cur ≠ 0 → s.restHeld cur.core x = false →
    (let m := x.lanesAt cur
     let trap := fun (cause : Nat) => ({ s with cursor := none } : State).takeTrap cur.core cur.wave m cause 0 cur.pc 0 cur.pc
     (∀ cause r, x.stopAt cur = some cause → (Instr.add h o).shape.row = some r → exec (.add h o) s = .next
       ((({ s with cursor := none } : State).record cur.core cur.wave m cause 0 cur.pc 0 (x.taskId m)).modWave cur.core cur.wave (fun y =>
         y.moveTo m cur.pc (.stopped cause) s.clock)))
     ∧ (x.stopAt cur = none → x.stallOver s.clock (x.chosen cur.pc cur.lanes) = true →
       (∀ r, x.asid ≠ 0 → (Instr.csave h o).shape.row = some r → exec (.csave h o) s = .next (trap 0x06))
       ∧ (∀ r, (Instr.add h o).shape.row = some r → r.uses.any (fun u => !useInQuota u (quotaFor (.add h o) x.quota)) = true →
         exec (.add h o) s = .next (trap 0x07))
       ∧ (∀ r, (Instr.add h o).shape.row = some r → r.uses.all (fun u => useInQuota u (quotaFor (.add h o) x.quota)) = true →
         s.canIssue cur.core cur.wave x (.add h o) r h = false → exec (.add h o) s = .next { s with cursor := none }))))

/-- R379, R380, R133, Table 15-1: taking a trap. The lanes that it names and that are still in the wave take it: the record goes first, and
the lanes then meet the fate of the cause. PAGE_FAULT (0x10) and PAGE_PERM (0x11) park them at the faulting PC; BREAKPOINT (0x0A) and STEP
(0x0B) stop them at the PC at which they go on, and under DSTOP (bit 8 of CHKCTL) every other split of the wave is to stop; any other
cause ends them, in a crew with an open version with the whole crew. No memory changes, and where no lane is left in the wave nothing
happens. -/
def Obligations.TrapTaken : Prop :=
  ∀ (s : State) (c w : Nat) (m n : Lanes) (cause sec addr : Nat) (pc goOn : PC) (x : Wave), s.wave? c w = some x → n = m &&& x.lanes → n ≠ 0 →
    (cause = 0x10 ∨ cause = 0x11 → s.takeTrap c w m cause sec pc addr goOn =
      (s.record c w n cause sec pc addr (x.taskId n)).modWave c w (fun y => y.moveTo n pc (.parked cause sec addr false) s.clock))
    ∧ (cause = 0x0A ∨ cause = 0x0B → s.takeTrap c w m cause sec pc addr goOn =
      (s.record c w n cause sec pc addr (x.taskId n)).modWave c w (fun y =>
        (if y.chkctl.getLsbD 8 then y.stopAll cause else y).moveTo n goOn (.stopped cause) s.clock))
    ∧ (cause ∉ [0x0A, 0x0B, 0x10, 0x11] → s.versionOpen c = false → s.takeTrap c w m cause sec pc addr goOn =
      (s.record c w n cause sec pc addr (x.taskId n)).exitLanes c w n)
    ∧ (cause ∉ [0x0A, 0x0B, 0x10, 0x11] → s.versionOpen c = true →
      s.takeTrap c w m cause sec pc addr goOn = s.endCrew c w n cause pc addr)
    ∧ (s.takeTrap c w m cause sec pc addr goOn).mem = s.mem
    ∧ (∀ d, d &&& x.lanes = 0 → s.takeTrap c w d cause sec pc addr goOn = s)

/-- R354: the record and its way. A fault of lanes on a core sends the 64 bytes of Table 13-11 to a port of the wave's process: of a cause 0x10
or 0x11 (PAGE_FAULT, PAGE_PERM) to the pager port if the process has one, of every other to its fault port. A port with room takes the
message with the count of the records lost before it in bits [15:8], which then starts again; a full port keeps its messages and counts
the record as lost. (Beyond 255 lost records the field holds what notes/assumptions/37 says; the statement is about fewer.) -/
def Obligations.FaultRecord : Prop :=
  (∀ (cause sec lost addr core wave task : Nat) (lanes : Lanes) (pc : PC), cause < 256 → sec < 256 → lost < 256 → core < 1024 → wave < 128 →
    addr < 2 ^ 64 → task < 2 ^ 32 →
    let b := faultRecord cause sec lost lanes pc addr core wave task
    b.length = 64 ∧ recNum b 0 4 = cause + lost * 2 ^ 8 + sec * 2 ^ 16 ∧ recNum b 4 4 = lanes.toNat ∧ recNum b 8 8 = pc.toNat
      ∧ recNum b 16 8 = addr ∧ recNum b 24 4 = core + wave * 2 ^ 16 ∧ recNum b 28 4 = task ∧ recNum b 32 32 = 0)
  ∧ (∀ (p : Proc) (cause : Nat), p.portFor cause = if (cause = 0x10 ∨ cause = 0x11) ∧ p.pagerPort ≠ 0 then p.pagerPort.toNat
      else p.faultPort.toNat)
  ∧ (∀ (s : State) (p : Proc) (c w : Nat) (m : Lanes) (cause sec addr id : Nat) (pc : PC), Tbl.find s.procs (s.asidOf c w) = some p →
      s.record c w m cause sec pc addr id = s.sendRecord (p.portFor cause) (s.asidOf c w)
        (fun lost => faultRecord cause sec lost m pc addr c w id))
  ∧ (∀ (s : State) (h asid cap lost : Nat) (mk : Nat → List Byte) (o : Obj) (msgs : List Msg), s.named h = some o →
      o.body = .port cap msgs lost →
      (msgs.length < cap → lost < 256 → ∃ x : Msg, x.payload = mk lost ∧
        s.sendRecord h asid mk = (s.setBody (handleIdx h) (.port cap (msgs ++ [x]) 0)).poke (.change (handleIdx h)))
      ∧ (cap ≤ msgs.length → s.sendRecord h asid mk = s.setBody (handleIdx h) (.port cap msgs (lost + 1))))

/-- Every step keeps HBM4E and the host's memory in canonical form, whatever state it starts from (R199; the form is the model's,
notes/assumptions/13). -/
def Obligations.StepKeepsMemory : Prop :=
  ∀ s t : State, s.MemOk → step s = .next t → t.MemOk

/-- R76, R77, R81 to R85, R177, R178, R184, R185, R187, R196 and Tables 3-6, 3-10, 7-5 and 7-7: the values of floating-point results, in exact rational
arithmetic, for the six formats of Table 3-1 in every mode. A finite exact value within M is rounded correctly (`FFmt.Rounds`: to the nearest
number of the format with ties to even, or to the next one in the mode's direction), with NX where the delivered number differs and UF only
for a tiny inexact one; a value of a unit or more beyond M gives the entry of Table 3-6 with OF and NX. So for sums, differences, products,
quotients, fused products and square roots of finite operands, for conversions, for the floating `dot4` and for `redux.fadd`; an exact zero sum takes
its sign from R76. A conversion to an integer rounds in its mode, and what does not fit gives the bound on its side with NV; one between
integers keeps the low bits, or clamps (of a widening one notes/assumptions/40). `redux` folds exact sums, least and greatest values. `frcp` is
correctly rounded at `.f16` and `.bf16` and within one ulp at `.f32` and `.f64`; and where the model's check against Table 7-5 (`closeTo`) holds of
a number, the number is within the bound of every value that the enclosure of the exact one holds. -/
def Obligations.FloatValues : Prop :=
  let floats := [Ty.f16, .bf16, .f32, .f64, .e4m3, .e5m2]
  let ints := [Ty.i8, .n8, .i16, .n16, .i32, .n32, .i64, .n64]
  (∀ ty ∈ floats, ∀ (mode : Rnd) (sat : Bool), let f := fmtOf ty
    (∀ n m e, 0 < m →
      let v := (FV.num n m e).rat
      let r := f.round mode sat n m e false
      (|v| ≤ f.maxRat → f.Rounds mode v r.bits ∧ (r.fl.getLsbD 4 = true ↔ (f.dec r.bits).rat ≠ v)
        ∧ (r.fl.getLsbD 3 = true → r.fl.getLsbD 4 = true ∧ |v| < 2 ^ f.emin) ∧ r.fl &&& 0x27 = 0)
      ∧ (f.maxRat + 2 ^ f.maxExp ≤ |v| → r = ⟨if sat = true ∨ mode = .rtz ∨ (mode = .rdn ∧ n = false) ∨ (mode = .rup ∧ n = true) then f.maxFin n
          else if f.noInf = true then f.nan else f.inf n, flOF ||| flNX⟩))
    ∧ (∀ a b n m e n' m' e', f.dec (f.flush a) = .num n m e → f.dec (f.flush b) = .num n' m' e' →
      let x := (FV.num n m e).rat
      let y := (FV.num n' m' e').rat
      (x + y ≠ 0 → |x + y| ≤ f.maxRat → f.Rounds mode (x + y) (f.add mode sat a b).bits)
      ∧ (x + y = 0 → f.add mode sat a b = ⟨f.signBit (if n = n' then n else mode == .rdn), 0⟩)
      ∧ (x - y ≠ 0 → |x - y| ≤ f.maxRat → f.Rounds mode (x - y) (f.sub mode sat a b).bits)
      ∧ (x * y ≠ 0 → |x * y| ≤ f.maxRat → f.Rounds mode (x * y) (f.mul mode sat a b).bits)
      ∧ (x * y = 0 → f.mul mode sat a b = ⟨f.signBit (xor n n'), 0⟩)
      ∧ (x ≠ 0 → y ≠ 0 → |x / y| ≤ f.maxRat → f.Rounds mode (x / y) (f.div mode sat a b).bits)
      ∧ (∀ c n'' m'' e'', f.dec (f.flush c) = .num n'' m'' e'' →
        let z := (FV.num n'' m'' e'').rat
        x * y + z ≠ 0 → |x * y + z| ≤ f.maxRat → f.Rounds mode (x * y + z) (f.fma mode sat a b c).bits)
      ∧ (0 < x → ∃ k g, f.dec (f.sqrt mode sat a).bits = .num false k g ∧
        (let w := (FV.num false k g).rat
         (mode = .rne → ∀ z, f.Has z → 0 ≤ z → (w < z → 4 * x ≤ (w + z) ^ 2) ∧ (z < w → (w + z) ^ 2 ≤ 4 * x))
         ∧ (mode = .rtz ∨ mode = .rdn → w ^ 2 ≤ x ∧ ∀ z, f.Has z → 0 ≤ z → z ^ 2 ≤ x → z ≤ w)
         ∧ (mode = .rup → x ≤ w ^ 2 ∧ ∀ z, f.Has z → 0 ≤ z → x ≤ z ^ 2 → w ≤ z)))))
  ∧ (∀ d ∈ floats, ∀ (mode : Rnd) (sat : Bool) (a : Nat),
    (∀ s ∈ floats, ∀ n m e, (fmtOf s).dec a = .num n m e → 0 < m → |(FV.num n m e).rat| ≤ (fmtOf d).maxRat →
      (fmtOf d).Rounds mode (FV.num n m e).rat (cvtRes d s mode sat a).bits)
    ∧ (∀ s ∈ ints, intVal s a ≠ 0 → |(intVal s a : ℚ)| ≤ (fmtOf d).maxRat → (fmtOf d).Rounds mode (intVal s a) (cvtRes d s mode sat a).bits))
  ∧ (∀ d ∈ ints, ∀ (mode : Rnd) (sat : Bool) (a : Nat),
    (∀ s ∈ floats, ∀ n m e, (fmtOf s).dec a = .num n m e →
      let v := (FV.num n m e).rat
      ∃ i : ℤ, (match mode with
          | .rne => |v - i| ≤ 1 / 2 ∧ (|v - i| = 1 / 2 → i % 2 = 0)
          | .rtz => i = if v < 0 then ⌈v⌉ else ⌊v⌋
          | .rdn => i = ⌊v⌋
          | .rup => i = ⌈v⌉)
        ∧ cvtRes d s mode sat a = if intMin d ≤ i ∧ i ≤ intMax d then ⟨intReg d i, if (i : ℚ) = v then 0 else flNX⟩
          else ⟨intReg d (if n = true then intMin d else intMax d), flNV⟩)
    ∧ (∀ s ∈ floats, (∀ b, (fmtOf s).dec a = .nan b → cvtRes d s mode sat a = ⟨0, flNV⟩)
      ∧ (∀ n, (fmtOf s).dec a = .inf n → cvtRes d s mode sat a = ⟨intReg d (if n = true then intMin d else intMax d), flNV⟩))
    ∧ (∀ s ∈ ints, (cvtRes d s mode sat a).fl = 0 ∧ (sat = true → intVal d (cvtRes d s mode sat a).bits = clampTo d (intVal s a))
      ∧ (sat = false → (intVal d (cvtRes d s mode sat a).bits - intVal s a) % 2 ^ d.bits = 0)))
  ∧ (∀ fa ∈ [Ty.e4m3, .e5m2], ∀ fb ∈ [Ty.e4m3, .e5m2], ∀ (mode : Rnd) (sat : Bool) (a b c : Nat),
    let x := fun k => (fmtOf fa).dec (fieldOf a (8 * k) 8)
    let y := fun k => (fmtOf fb).dec (fieldOf b (8 * k) 8)
    let z := (fmtOf .f32).dec c
    let v := z.rat + ((List.range 4).map (fun k => (x k).rat * (y k).rat)).sum
    (∀ k < 4, (x k).finite = true ∧ (y k).finite = true) → z.finite = true → v ≠ 0 → |v| ≤ (fmtOf .f32).maxRat →
      (fmtOf .f32).Rounds mode v (dot4Float (fmtOf fa) (fmtOf fb) mode sat a b c).bits)
  ∧ (∀ (mode : Rnd) (sat : Bool) (xs : List Nat),
    (let v := (xs.map (fun x => ((fmtOf .f32).dec x).rat)).sum
     (∀ x ∈ xs, ((fmtOf .f32).dec x).finite = true) → v ≠ 0 → |v| ≤ (fmtOf .f32).maxRat →
      (fmtOf .f32).Rounds mode v (reduxRes 6 .f32 mode sat xs).bits)
    ∧ (∀ t ∈ [Ty.i32, .n32, .i64, .n64], let w := (xs.map (intVal t)).sum
      (sat = true → intVal t (reduxRes 0 t mode sat xs).bits = clampTo t w)
      ∧ (sat = false → (intVal t (reduxRes 0 t mode sat xs).bits - w) % 2 ^ t.bits = 0)
      ∧ (xs ≠ [] → (reduxRes 1 t mode sat xs).bits ∈ xs ∧ (∀ x ∈ xs, intVal t (reduxRes 1 t mode sat xs).bits ≤ intVal t x)
        ∧ (reduxRes 2 t mode sat xs).bits ∈ xs ∧ (∀ x ∈ xs, intVal t x ≤ intVal t (reduxRes 2 t mode sat xs).bits)))
    ∧ (xs ≠ [] → (∀ x ∈ xs, x < 2 ^ 32 ∧ ((fmtOf .f32).dec x).finite = true) →
      let val := fun b => ((fmtOf .f32).dec b).rat
      ((reduxRes 7 .f32 mode sat xs).bits ∈ xs ∧ ∀ x ∈ xs, val (reduxRes 7 .f32 mode sat xs).bits ≤ val x)
      ∧ ((reduxRes 8 .f32 mode sat xs).bits ∈ xs ∧ ∀ x ∈ xs, val x ≤ val (reduxRes 8 .f32 mode sat xs).bits)))
  ∧ (∀ (sat : Bool) (a : Nat) n m e, 0 < m →
    (∀ ty ∈ [Ty.f16, .bf16], (fmtOf ty).dec ((fmtOf ty).flush a % 2 ^ (fmtOf ty).width) = .num n m e →
      |1 / (FV.num n m e).rat| ≤ (fmtOf ty).maxRat → (fmtOf ty).Rounds .rne (1 / (FV.num n m e).rat) (Fn.eval .rcp ty sat a).bits)
    ∧ (∀ ty ∈ [Ty.f32, .f64], (fmtOf ty).dec (a % 2 ^ (fmtOf ty).width) = .num n m e →
      |1 / (FV.num n m e).rat| ≤ (fmtOf ty).maxRat → ∀ l : ℤ, 2 ^ l ≤ |1 / (FV.num n m e).rat| → |1 / (FV.num n m e).rat| < 2 ^ (l + 1) →
      ((fmtOf ty).dec (Fn.eval .rcp ty sat a).bits).finite = true ∧
      |((fmtOf ty).dec (Fn.eval .rcp ty sat a).bits).rat - 1 / (FV.num n m e).rat| ≤ 2 ^ (max l (fmtOf ty).emin - (fmtOf ty).m)))
  ∧ (∀ (y : Approx) n m e tol (t : ℤ), closeTo y (.num n m e) tol t = true → ∀ q : ℚ, ((y.man : ℚ) - y.below) * 2 ^ y.exp ≤ q →
    q ≤ ((y.man : ℚ) + y.above) * 2 ^ y.exp → |(FV.num n m e).rat - (if y.neg = true then -q else q)| ≤ tol * 2 ^ t)
end

