-- ==== Sys2Proof/Laws/Table.lean ====
section
/-! SUPPORT. The laws of tables, sparse arrays and memory: what is read after a write, what a write leaves alone, and that
every operation keeps the canonical form. -/

namespace Sys2Proof.Machine

variable {α : Type}

/-! ## Tables: reads after writes -/

@[simp] theorem Tbl.find_nil (k : Nat) : Tbl.find ([] : List (Nat × α)) k = none := rfl

@[simp] theorem Tbl.find_put_same (t : List (Nat × α)) (k : Nat) (x : α) : Tbl.find (Tbl.put t k x) k = some x := by
  induction t with
  | nil => simp [Tbl.put, Tbl.find]
  | cons e t ih =>
    obtain ⟨i, y⟩ := e
    unfold Tbl.put
    split
    · simp [Tbl.find]
    · split
      · simp [Tbl.find]
      · have : i ≠ k := by omega
        simp [Tbl.find, this, ih]

theorem Tbl.find_put_other (t : List (Nat × α)) {k j : Nat} (x : α) (h : j ≠ k) :
    Tbl.find (Tbl.put t k x) j = Tbl.find t j := by
  induction t with
  | nil => simp [Tbl.put, Tbl.find, Ne.symm h]
  | cons e t ih =>
    obtain ⟨i, y⟩ := e
    unfold Tbl.put
    split
    · simp [Tbl.find, Ne.symm h]
    · split
      · rename_i _ hi
        have h1 : i ≠ j := by omega
        simp [Tbl.find, h1, Ne.symm h]
      · simp only [Tbl.find, ih]

theorem Tbl.find_put (t : List (Nat × α)) (k j : Nat) (x : α) :
    Tbl.find (Tbl.put t k x) j = if j = k then some x else Tbl.find t j := by
  split
  · subst_vars; simp
  · exact Tbl.find_put_other t x ‹_›

theorem Tbl.getD_put (t : List (Nat × α)) (k j : Nat) (x d : α) :
    Tbl.getD (Tbl.put t k x) j d = if j = k then x else Tbl.getD t j d := by
  unfold Tbl.getD
  rw [Tbl.find_put]
  split <;> rfl

@[simp] theorem Tbl.getD_put_same (t : List (Nat × α)) (k : Nat) (x d : α) : Tbl.getD (Tbl.put t k x) k d = x := by
  simp [Tbl.getD_put]

theorem Tbl.getD_put_other (t : List (Nat × α)) {k j : Nat} (x d : α) (h : j ≠ k) :
    Tbl.getD (Tbl.put t k x) j d = Tbl.getD t j d := by
  simp [Tbl.getD_put, h]

theorem Tbl.find_del_other (t : List (Nat × α)) {k j : Nat} (h : j ≠ k) : Tbl.find (Tbl.del t k) j = Tbl.find t j := by
  induction t with
  | nil => rfl
  | cons e t ih =>
    obtain ⟨i, y⟩ := e
    unfold Tbl.del
    split
    · rfl
    · split
      · rename_i _ hi
        have : i ≠ j := by omega
        simp [Tbl.find, this]
      · simp only [Tbl.find, ih]

/-! ## Tables: the canonical form -/

theorem Tbl.wf_tail {e : Nat × α} {t : List (Nat × α)} (h : Tbl.wf (e :: t) = true) : Tbl.wf t = true := by
  cases t with
  | nil => rfl
  | cons f t => simp [Tbl.wf] at h; exact h.2

/-- In a canonical table every later key is greater than the first. -/
theorem Tbl.wf_head_lt {i : Nat} {y : α} {t : List (Nat × α)} (h : Tbl.wf ((i, y) :: t) = true) :
    ∀ e ∈ t, i < e.1 := by
  induction t generalizing i y with
  | nil => simp
  | cons f t ih =>
    obtain ⟨j, z⟩ := f
    simp [Tbl.wf] at h
    intro e he
    rcases List.mem_cons.mp he with rfl | he
    · exact h.1
    · exact lt_trans h.1 (ih h.2 e he)

theorem Tbl.wf_cons {i : Nat} {y : α} {t : List (Nat × α)} (ht : Tbl.wf t = true) (h : ∀ e ∈ t, i < e.1) :
    Tbl.wf ((i, y) :: t) = true := by
  cases t with
  | nil => rfl
  | cons f t => simp [Tbl.wf, ht, h f (List.mem_cons_self ..)]

theorem Tbl.mem_put {t : List (Nat × α)} {k : Nat} {x : α} {e : Nat × α} (h : e ∈ Tbl.put t k x) : e = (k, x) ∨ e ∈ t := by
  induction t with
  | nil => exact .inl (by simpa [Tbl.put] using h)
  | cons f t ih =>
    obtain ⟨i, y⟩ := f
    unfold Tbl.put at h
    split at h
    · simpa using h
    · split at h
      · rcases List.mem_cons.mp h with h | h
        · exact .inl h
        · exact .inr (List.mem_cons_of_mem _ h)
      · rcases List.mem_cons.mp h with h | h
        · exact .inr (h ▸ List.mem_cons_self ..)
        · rcases ih h with h | h
          · exact .inl h
          · exact .inr (List.mem_cons_of_mem _ h)

theorem Tbl.wf_put {t : List (Nat × α)} (ht : Tbl.wf t = true) (k : Nat) (x : α) : Tbl.wf (Tbl.put t k x) = true := by
  induction t with
  | nil => rfl
  | cons f t ih =>
    obtain ⟨i, y⟩ := f
    have hlt := Tbl.wf_head_lt ht
    unfold Tbl.put
    split
    · rename_i hk
      refine Tbl.wf_cons ht ?_
      intro e he
      rcases List.mem_cons.mp he with rfl | he
      · exact hk
      · exact lt_trans hk (hlt e he)
    · split
      · rename_i hk
        exact Tbl.wf_cons (Tbl.wf_tail ht) (fun e he => hk ▸ hlt e he)
      · refine Tbl.wf_cons (ih (Tbl.wf_tail ht)) (fun e he => ?_)
        rcases Tbl.mem_put he with rfl | he
        · show i < k
          omega
        · exact hlt e he

theorem Tbl.mem_of_del {t : List (Nat × α)} {k : Nat} {e : Nat × α} (h : e ∈ Tbl.del t k) : e ∈ t := by
  induction t with
  | nil => simp [Tbl.del] at h
  | cons f t ih =>
    obtain ⟨i, y⟩ := f
    unfold Tbl.del at h
    split at h
    · exact h
    · split at h
      · exact List.mem_cons_of_mem _ h
      · rcases List.mem_cons.mp h with h | h
        · exact h ▸ List.mem_cons_self ..
        · exact List.mem_cons_of_mem _ (ih h)

theorem Tbl.wf_del {t : List (Nat × α)} (ht : Tbl.wf t = true) (k : Nat) : Tbl.wf (Tbl.del t k) = true := by
  induction t with
  | nil => rfl
  | cons f t ih =>
    obtain ⟨i, y⟩ := f
    unfold Tbl.del
    split
    · exact ht
    · split
      · exact Tbl.wf_tail ht
      · exact Tbl.wf_cons (ih (Tbl.wf_tail ht)) (fun e he => Tbl.wf_head_lt ht e (Tbl.mem_of_del he))

/-- A table whose keys all exceed `k` lists nothing at `k`. -/
theorem Tbl.find_none_of_lt {t : List (Nat × α)} {k : Nat} (h : ∀ e ∈ t, k < e.1) : Tbl.find t k = none := by
  induction t with
  | nil => rfl
  | cons f t ih =>
    obtain ⟨i, y⟩ := f
    have h1 : k < i := h (i, y) (List.mem_cons_self ..)
    have h2 : i ≠ k := by omega
    simp [Tbl.find, h2, ih (fun e he => h e (List.mem_cons_of_mem _ he))]

theorem Tbl.find_del_same {t : List (Nat × α)} (ht : Tbl.wf t = true) (k : Nat) : Tbl.find (Tbl.del t k) k = none := by
  induction t with
  | nil => rfl
  | cons f t ih =>
    obtain ⟨i, y⟩ := f
    have hlt := Tbl.wf_head_lt ht
    unfold Tbl.del
    split
    · rename_i hk
      refine Tbl.find_none_of_lt (fun e he => ?_)
      rcases List.mem_cons.mp he with rfl | he
      · exact hk
      · exact lt_trans hk (hlt e he)
    · split
      · rename_i hk
        exact Tbl.find_none_of_lt (fun e he => hk ▸ hlt e he)
      · have : i ≠ k := by omega
        simp [Tbl.find, this, ih (Tbl.wf_tail ht)]

theorem Tbl.wf_filter {t : List (Nat × α)} (ht : Tbl.wf t = true) (f : Nat × α → Bool) : Tbl.wf (t.filter f) = true := by
  induction t with
  | nil => rfl
  | cons e t ih =>
    obtain ⟨i, y⟩ := e
    have hlt := Tbl.wf_head_lt ht
    simp only [List.filter]
    split
    · exact Tbl.wf_cons (ih (Tbl.wf_tail ht)) (fun e he => hlt e (List.mem_of_mem_filter he))
    · exact ih (Tbl.wf_tail ht)

/-! ## Sparse arrays -/

variable {w : Nat}

@[simp] theorem Bits.rd_nil (k : Nat) : Bits.rd ([] : Bits w) k = 0 := rfl

theorem Bits.rd_wr_same {m : Bits w} (hm : Tbl.wf m = true) (k : Nat) (x : BitVec w) : Bits.rd (Bits.wr m k x) k = x := by
  unfold Bits.wr Bits.rd Tbl.getD
  split
  · rename_i h
    simp [Tbl.find_del_same hm, h]
  · simp

theorem Bits.rd_wr_other (m : Bits w) {k j : Nat} (x : BitVec w) (h : j ≠ k) : Bits.rd (Bits.wr m k x) j = Bits.rd m j := by
  unfold Bits.wr Bits.rd Tbl.getD
  split
  · rw [Tbl.find_del_other m h]
  · rw [Tbl.find_put_other m x h]

/-- A read after a write. -/
theorem Bits.rd_wr {m : Bits w} (hm : Tbl.wf m = true) (k j : Nat) (x : BitVec w) :
    Bits.rd (Bits.wr m k x) j = if j = k then x else Bits.rd m j := by
  split
  · subst_vars; exact Bits.rd_wr_same hm _ _
  · exact Bits.rd_wr_other m x ‹_›

theorem Bits.wf_tbl {m : Bits w} (h : Bits.wf m = true) : Tbl.wf m = true := by
  simp [Bits.wf] at h; exact h.1

theorem Bits.wf_wr {m : Bits w} (hm : Bits.wf m = true) (k : Nat) (x : BitVec w) : Bits.wf (Bits.wr m k x) = true := by
  simp only [Bits.wf, Bool.and_eq_true, List.all_eq_true] at hm ⊢
  unfold Bits.wr
  split
  · exact ⟨Tbl.wf_del hm.1 k, fun e he => hm.2 e (Tbl.mem_of_del he)⟩
  · rename_i hx
    refine ⟨Tbl.wf_put hm.1 k x, fun e he => ?_⟩
    rcases Tbl.mem_put he with rfl | he
    · simpa using hx
    · exact hm.2 e he

theorem Bits.wf_wrs {m : Bits w} (hm : Bits.wf m = true) (l : List (Nat × BitVec w)) : Bits.wf (Bits.wrs m l) = true := by
  induction l generalizing m with
  | nil => exact hm
  | cons e t ih => exact ih (Bits.wf_wr hm e.1 e.2)

theorem Bits.wf_keep {m : Bits w} (hm : Bits.wf m = true) (f : Nat → Bool) : Bits.wf (Bits.keep m f) = true := by
  simp only [Bits.wf, Bool.and_eq_true, List.all_eq_true] at hm ⊢
  exact ⟨Tbl.wf_filter hm.1 _, fun e he => hm.2 e (List.mem_of_mem_filter he)⟩

/-- A list of writes leaves the cells that it does not name alone. -/
theorem Bits.rd_wrs_other (m : Bits w) (l : List (Nat × BitVec w)) {j : Nat} (h : ∀ e ∈ l, e.1 ≠ j) :
    Bits.rd (Bits.wrs m l) j = Bits.rd m j := by
  induction l generalizing m with
  | nil => rfl
  | cons e t ih =>
    rw [Bits.wrs, ih _ (fun f hf => h f (List.mem_cons_of_mem _ hf)),
      Bits.rd_wr_other _ _ (Ne.symm (h e (List.mem_cons_self ..)))]

/-! ## Memory -/

theorem Memory.wf_wr {m : Memory} (hm : Memory.wf m = true) (a : Nat) (b : Byte) : Memory.wf (Bits.wr m a b) = true :=
  Bits.wf_wr hm a b

theorem Memory.wf_write {m : Memory} (hm : Memory.wf m = true) (a n x : Nat) : Memory.wf (Memory.write m a n x) = true := by
  induction n generalizing m a x with
  | zero => exact hm
  | succ n ih => exact ih (Memory.wf_wr hm a _) (a + 1) (x / 256)

theorem Memory.wf_setBytes {m : Memory} (hm : Memory.wf m = true) (a : Nat) (bs : List Byte) :
    Memory.wf (Memory.setBytes m a bs) = true := by
  induction bs generalizing m a with
  | nil => exact hm
  | cons b t ih => exact ih (Memory.wf_wr hm a b) (a + 1)

theorem Memory.wf_wrs {m : Memory} (hm : Memory.wf m = true) (l : List (Nat × Byte)) : Memory.wf (Bits.wrs m l) = true :=
  Bits.wf_wrs hm l

/-- A write of n bytes leaves every byte outside them alone. -/
theorem Memory.byte_write_other (m : Memory) (a n x : Nat) {b : Nat} (h : b < a ∨ a + n ≤ b) :
    Memory.byte (Memory.write m a n x) b = Memory.byte m b := by
  induction n generalizing m a x with
  | zero => rfl
  | succ n ih =>
    rw [Memory.write, ih _ _ _ (by omega)]
    exact Bits.rd_wr_other m _ (by omega)

/-- A write of bytes leaves every byte outside them alone. -/
theorem Memory.byte_setBytes_other (m : Memory) (a : Nat) (bs : List Byte) {b : Nat} (h : b < a ∨ a + bs.length ≤ b) :
    Memory.byte (Memory.setBytes m a bs) b = Memory.byte m b := by
  induction bs generalizing m a with
  | nil => rfl
  | cons c t ih =>
    rw [Memory.setBytes, ih _ _ (by simp at h; omega)]
    exact Bits.rd_wr_other m _ (by simp at h; omega)

/-- A byte that a write puts reads back. -/
theorem Memory.byte_setBytes {m : Memory} (hm : Memory.wf m = true) (a : Nat) (bs : List Byte) {i : Nat} (h : i < bs.length) :
    Memory.byte (Memory.setBytes m a bs) (a + i) = bs[i] := by
  induction bs generalizing m a i with
  | nil => simp at h
  | cons c t ih =>
    rw [Memory.setBytes]
    cases i with
    | zero =>
      rw [Memory.byte_setBytes_other _ _ _ (by omega)]
      exact Bits.rd_wr_same (Bits.wf_tbl hm) a c
    | succ i =>
      have := ih (Memory.wf_wr hm a c) (a + 1) (i := i) (by simpa using h)
      simpa [Nat.add_assoc, Nat.add_comm 1 i] using this

/-- n bytes that were written read back as the number that they hold. -/
theorem Memory.read_write {m : Memory} (hm : Memory.wf m = true) (a n x : Nat) :
    Memory.read (Memory.write m a n x) a n = x % 256 ^ n := by
  induction n generalizing m a x with
  | zero => simp [Memory.read, Nat.mod_one]
  | succ n ih =>
    rw [Memory.write, Memory.read]
    have h1 : Bits.rd (Memory.write (Bits.wr m a (BitVec.ofNat 8 x)) (a + 1) n (x / 256)) a = BitVec.ofNat 8 x := by
      have := Memory.byte_write_other (Bits.wr m a (BitVec.ofNat 8 x)) (a + 1) n (x / 256) (b := a) (by omega)
      rw [Memory.byte, Memory.byte] at this
      rw [this, Bits.rd_wr_same (Bits.wf_tbl hm)]
    have h2 : x % 256 ^ (n + 1) = x % 256 + 256 * (x / 256 % 256 ^ n) := by
      rw [Nat.pow_succ, Nat.mul_comm (256 ^ n) 256, Nat.mod_mul]
    rw [h1, ih (Memory.wf_wr hm a _), BitVec.toNat_ofNat, h2]

end Sys2Proof.Machine
end

