-- ==== Sys2Proof/Laws/State.lean ====
section
/-! SUPPORT. The laws of the state's accessors: an operation on a core or a wave changes that core or wave, and every
other field of the state stays. -/

namespace Sys2Proof.Machine

/-! ## Cores -/

@[simp] theorem State.core_modCore_same (s : State) (c : Nat) (f : Core → Core) : (s.modCore c f).core c = f (s.core c) := by
  simp [State.modCore, State.core]

theorem State.core_modCore_other (s : State) {c d : Nat} (f : Core → Core) (h : d ≠ c) :
    (s.modCore c f).core d = s.core d := by
  simp [State.modCore, State.core, Tbl.getD_put_other _ _ _ h]

theorem State.core_modCore (s : State) (c d : Nat) (f : Core → Core) :
    (s.modCore c f).core d = if d = c then f (s.core c) else s.core d := by
  split
  · subst_vars; simp
  · exact State.core_modCore_other s f ‹_›

@[simp] theorem State.modCore_modCore (s : State) (c : Nat) (f g : Core → Core) :
    ((s.modCore c f).modCore c g).core c = g (f (s.core c)) := by simp

@[simp] theorem State.modCore_clock (s : State) (c : Nat) (f : Core → Core) : (s.modCore c f).clock = s.clock := rfl
@[simp] theorem State.modCore_cursor (s : State) (c : Nat) (f : Core → Core) : (s.modCore c f).cursor = s.cursor := rfl
@[simp] theorem State.modCore_agenda (s : State) (c : Nat) (f : Core → Core) : (s.modCore c f).agenda = s.agenda := rfl
@[simp] theorem State.modCore_freeCtr (s : State) (c : Nat) (f : Core → Core) : (s.modCore c f).freeCtr = s.freeCtr := rfl
@[simp] theorem State.modCore_nextId (s : State) (c : Nat) (f : Core → Core) : (s.modCore c f).nextId = s.nextId := rfl
@[simp] theorem State.modCore_mem (s : State) (c : Nat) (f : Core → Core) : (s.modCore c f).mem = s.mem := rfl
@[simp] theorem State.modCore_hostMem (s : State) (c : Nat) (f : Core → Core) : (s.modCore c f).hostMem = s.hostMem := rfl
@[simp] theorem State.modCore_lineTs (s : State) (c : Nat) (f : Core → Core) : (s.modCore c f).lineTs = s.lineTs := rfl
@[simp] theorem State.modCore_sliceM (s : State) (c : Nat) (f : Core → Core) : (s.modCore c f).sliceM = s.sliceM := rfl
@[simp] theorem State.modCore_strictTs (s : State) (c : Nat) (f : Core → Core) : (s.modCore c f).strictTs = s.strictTs := rfl
@[simp] theorem State.modCore_outTime (s : State) (c : Nat) (f : Core → Core) : (s.modCore c f).outTime = s.outTime := rfl
@[simp] theorem State.modCore_clusters (s : State) (c : Nat) (f : Core → Core) : (s.modCore c f).clusters = s.clusters := rfl
@[simp] theorem State.modCore_locks (s : State) (c : Nat) (f : Core → Core) : (s.modCore c f).locks = s.locks := rfl
@[simp] theorem State.modCore_lineQ (s : State) (c : Nat) (f : Core → Core) : (s.modCore c f).lineQ = s.lineQ := rfl
@[simp] theorem State.modCore_held (s : State) (c : Nat) (f : Core → Core) : (s.modCore c f).held = s.held := rfl
@[simp] theorem State.modCore_reqs (s : State) (c : Nat) (f : Core → Core) : (s.modCore c f).reqs = s.reqs := rfl
@[simp] theorem State.modCore_writeBacks (s : State) (c : Nat) (f : Core → Core) : (s.modCore c f).writeBacks = s.writeBacks := rfl
@[simp] theorem State.modCore_watches (s : State) (c : Nat) (f : Core → Core) : (s.modCore c f).watches = s.watches := rfl
@[simp] theorem State.modCore_shoots (s : State) (c : Nat) (f : Core → Core) : (s.modCore c f).shoots = s.shoots := rfl
@[simp] theorem State.modCore_commits (s : State) (c : Nat) (f : Core → Core) : (s.modCore c f).commits = s.commits := rfl
@[simp] theorem State.modCore_poison (s : State) (c : Nat) (f : Core → Core) : (s.modCore c f).poison = s.poison := rfl
@[simp] theorem State.modCore_procs (s : State) (c : Nat) (f : Core → Core) : (s.modCore c f).procs = s.procs := rfl
@[simp] theorem State.modCore_objs (s : State) (c : Nat) (f : Core → Core) : (s.modCore c f).objs = s.objs := rfl
@[simp] theorem State.modCore_gens (s : State) (c : Nat) (f : Core → Core) : (s.modCore c f).gens = s.gens := rfl
@[simp] theorem State.modCore_calls (s : State) (c : Nat) (f : Core → Core) : (s.modCore c f).calls = s.calls := rfl
@[simp] theorem State.modCore_waiters (s : State) (c : Nat) (f : Core → Core) : (s.modCore c f).waiters = s.waiters := rfl
@[simp] theorem State.modCore_launches (s : State) (c : Nat) (f : Core → Core) : (s.modCore c f).launches = s.launches := rfl
@[simp] theorem State.modCore_nextSerial (s : State) (c : Nat) (f : Core → Core) : (s.modCore c f).nextSerial = s.nextSerial := rfl
@[simp] theorem State.modCore_gathers (s : State) (c : Nat) (f : Core → Core) : (s.modCore c f).gathers = s.gathers := rfl
@[simp] theorem State.modCore_traps (s : State) (c : Nat) (f : Core → Core) : (s.modCore c f).traps = s.traps := rfl
@[simp] theorem State.modCore_frames (s : State) (c : Nat) (f : Core → Core) : (s.modCore c f).frames = s.frames := rfl
@[simp] theorem State.modCore_framePool (s : State) (c : Nat) (f : Core → Core) : (s.modCore c f).framePool = s.framePool := rfl
@[simp] theorem State.modCore_fab (s : State) (c : Nat) (f : Core → Core) : (s.modCore c f).fab = s.fab := rfl
@[simp] theorem State.modCore_svc (s : State) (c : Nat) (f : Core → Core) : (s.modCore c f).svc = s.svc := rfl

/-! ## Waves -/

@[simp] theorem State.wave?_setWave_same (s : State) (c w : Nat) (x : Wave) : (s.setWave c w x).wave? c w = some x := by
  simp [State.setWave, State.wave?]

theorem State.wave?_setWave_other (s : State) {c w d v : Nat} (x : Wave) (h : d ≠ c ∨ v ≠ w) :
    (s.setWave c w x).wave? d v = s.wave? d v := by
  unfold State.setWave State.wave?
  by_cases hd : d = c
  · subst hd
    have hv : v ≠ w := by simpa using h
    simp [Tbl.find_put_other _ _ hv]
  · rw [State.core_modCore_other _ _ hd]

theorem State.modWave_of (s : State) {c w : Nat} {x : Wave} (f : Wave → Wave) (h : s.wave? c w = some x) :
    s.modWave c w f = s.setWave c w (f x) := by simp [State.modWave, h]

theorem State.wave?_modWave_same (s : State) (c w : Nat) (f : Wave → Wave) :
    (s.modWave c w f).wave? c w = (s.wave? c w).map f := by
  unfold State.modWave
  split
  · rename_i h; simp [h]
  · rename_i h; simp [h]

theorem State.wave?_modWave_other (s : State) {c w d v : Nat} (f : Wave → Wave) (h : d ≠ c ∨ v ≠ w) :
    (s.modWave c w f).wave? d v = s.wave? d v := by
  unfold State.modWave
  split
  · exact State.wave?_setWave_other s _ h
  · rfl

theorem State.core_modWave_other (s : State) {c w d : Nat} (f : Wave → Wave) (h : d ≠ c) :
    (s.modWave c w f).core d = s.core d := by
  unfold State.modWave
  split
  · exact State.core_modCore_other s _ h
  · rfl

theorem State.core_setWave_same (s : State) (c w : Nat) (x : Wave) :
    (s.setWave c w x).core c = { s.core c with waves := Tbl.put (s.core c).waves w x } := by
  simp [State.setWave]

@[simp] theorem State.setWave_clock (s : State) (c w : Nat) (x : Wave) : (s.setWave c w x).clock = s.clock := rfl
@[simp] theorem State.setWave_cursor (s : State) (c w : Nat) (x : Wave) : (s.setWave c w x).cursor = s.cursor := rfl
@[simp] theorem State.setWave_agenda (s : State) (c w : Nat) (x : Wave) : (s.setWave c w x).agenda = s.agenda := rfl
@[simp] theorem State.setWave_freeCtr (s : State) (c w : Nat) (x : Wave) : (s.setWave c w x).freeCtr = s.freeCtr := rfl
@[simp] theorem State.setWave_nextId (s : State) (c w : Nat) (x : Wave) : (s.setWave c w x).nextId = s.nextId := rfl
@[simp] theorem State.setWave_mem (s : State) (c w : Nat) (x : Wave) : (s.setWave c w x).mem = s.mem := rfl
@[simp] theorem State.setWave_hostMem (s : State) (c w : Nat) (x : Wave) : (s.setWave c w x).hostMem = s.hostMem := rfl
@[simp] theorem State.setWave_lineTs (s : State) (c w : Nat) (x : Wave) : (s.setWave c w x).lineTs = s.lineTs := rfl
@[simp] theorem State.setWave_sliceM (s : State) (c w : Nat) (x : Wave) : (s.setWave c w x).sliceM = s.sliceM := rfl
@[simp] theorem State.setWave_strictTs (s : State) (c w : Nat) (x : Wave) : (s.setWave c w x).strictTs = s.strictTs := rfl
@[simp] theorem State.setWave_outTime (s : State) (c w : Nat) (x : Wave) : (s.setWave c w x).outTime = s.outTime := rfl
@[simp] theorem State.setWave_clusters (s : State) (c w : Nat) (x : Wave) : (s.setWave c w x).clusters = s.clusters := rfl
@[simp] theorem State.setWave_locks (s : State) (c w : Nat) (x : Wave) : (s.setWave c w x).locks = s.locks := rfl
@[simp] theorem State.setWave_lineQ (s : State) (c w : Nat) (x : Wave) : (s.setWave c w x).lineQ = s.lineQ := rfl
@[simp] theorem State.setWave_held (s : State) (c w : Nat) (x : Wave) : (s.setWave c w x).held = s.held := rfl
@[simp] theorem State.setWave_reqs (s : State) (c w : Nat) (x : Wave) : (s.setWave c w x).reqs = s.reqs := rfl
@[simp] theorem State.setWave_writeBacks (s : State) (c w : Nat) (x : Wave) : (s.setWave c w x).writeBacks = s.writeBacks := rfl
@[simp] theorem State.setWave_watches (s : State) (c w : Nat) (x : Wave) : (s.setWave c w x).watches = s.watches := rfl
@[simp] theorem State.setWave_shoots (s : State) (c w : Nat) (x : Wave) : (s.setWave c w x).shoots = s.shoots := rfl
@[simp] theorem State.setWave_commits (s : State) (c w : Nat) (x : Wave) : (s.setWave c w x).commits = s.commits := rfl
@[simp] theorem State.setWave_poison (s : State) (c w : Nat) (x : Wave) : (s.setWave c w x).poison = s.poison := rfl
@[simp] theorem State.setWave_procs (s : State) (c w : Nat) (x : Wave) : (s.setWave c w x).procs = s.procs := rfl
@[simp] theorem State.setWave_objs (s : State) (c w : Nat) (x : Wave) : (s.setWave c w x).objs = s.objs := rfl
@[simp] theorem State.setWave_gens (s : State) (c w : Nat) (x : Wave) : (s.setWave c w x).gens = s.gens := rfl
@[simp] theorem State.setWave_calls (s : State) (c w : Nat) (x : Wave) : (s.setWave c w x).calls = s.calls := rfl
@[simp] theorem State.setWave_waiters (s : State) (c w : Nat) (x : Wave) : (s.setWave c w x).waiters = s.waiters := rfl
@[simp] theorem State.setWave_launches (s : State) (c w : Nat) (x : Wave) : (s.setWave c w x).launches = s.launches := rfl
@[simp] theorem State.setWave_nextSerial (s : State) (c w : Nat) (x : Wave) : (s.setWave c w x).nextSerial = s.nextSerial := rfl
@[simp] theorem State.setWave_gathers (s : State) (c w : Nat) (x : Wave) : (s.setWave c w x).gathers = s.gathers := rfl
@[simp] theorem State.setWave_traps (s : State) (c w : Nat) (x : Wave) : (s.setWave c w x).traps = s.traps := rfl
@[simp] theorem State.setWave_frames (s : State) (c w : Nat) (x : Wave) : (s.setWave c w x).frames = s.frames := rfl
@[simp] theorem State.setWave_framePool (s : State) (c w : Nat) (x : Wave) : (s.setWave c w x).framePool = s.framePool := rfl
@[simp] theorem State.setWave_fab (s : State) (c w : Nat) (x : Wave) : (s.setWave c w x).fab = s.fab := rfl
@[simp] theorem State.setWave_svc (s : State) (c w : Nat) (x : Wave) : (s.setWave c w x).svc = s.svc := rfl

@[simp] theorem State.modWave_clock (s : State) (c w : Nat) (f : Wave → Wave) : (s.modWave c w f).clock = s.clock := by
  unfold State.modWave; split <;> rfl
@[simp] theorem State.modWave_cursor (s : State) (c w : Nat) (f : Wave → Wave) : (s.modWave c w f).cursor = s.cursor := by
  unfold State.modWave; split <;> rfl
@[simp] theorem State.modWave_agenda (s : State) (c w : Nat) (f : Wave → Wave) : (s.modWave c w f).agenda = s.agenda := by
  unfold State.modWave; split <;> rfl
@[simp] theorem State.modWave_freeCtr (s : State) (c w : Nat) (f : Wave → Wave) : (s.modWave c w f).freeCtr = s.freeCtr := by
  unfold State.modWave; split <;> rfl
@[simp] theorem State.modWave_nextId (s : State) (c w : Nat) (f : Wave → Wave) : (s.modWave c w f).nextId = s.nextId := by
  unfold State.modWave; split <;> rfl
@[simp] theorem State.modWave_mem (s : State) (c w : Nat) (f : Wave → Wave) : (s.modWave c w f).mem = s.mem := by
  unfold State.modWave; split <;> rfl
@[simp] theorem State.modWave_hostMem (s : State) (c w : Nat) (f : Wave → Wave) : (s.modWave c w f).hostMem = s.hostMem := by
  unfold State.modWave; split <;> rfl
@[simp] theorem State.modWave_lineTs (s : State) (c w : Nat) (f : Wave → Wave) : (s.modWave c w f).lineTs = s.lineTs := by
  unfold State.modWave; split <;> rfl
@[simp] theorem State.modWave_sliceM (s : State) (c w : Nat) (f : Wave → Wave) : (s.modWave c w f).sliceM = s.sliceM := by
  unfold State.modWave; split <;> rfl
@[simp] theorem State.modWave_strictTs (s : State) (c w : Nat) (f : Wave → Wave) : (s.modWave c w f).strictTs = s.strictTs := by
  unfold State.modWave; split <;> rfl
@[simp] theorem State.modWave_outTime (s : State) (c w : Nat) (f : Wave → Wave) : (s.modWave c w f).outTime = s.outTime := by
  unfold State.modWave; split <;> rfl
@[simp] theorem State.modWave_clusters (s : State) (c w : Nat) (f : Wave → Wave) : (s.modWave c w f).clusters = s.clusters := by
  unfold State.modWave; split <;> rfl
@[simp] theorem State.modWave_locks (s : State) (c w : Nat) (f : Wave → Wave) : (s.modWave c w f).locks = s.locks := by
  unfold State.modWave; split <;> rfl
@[simp] theorem State.modWave_lineQ (s : State) (c w : Nat) (f : Wave → Wave) : (s.modWave c w f).lineQ = s.lineQ := by
  unfold State.modWave; split <;> rfl
@[simp] theorem State.modWave_held (s : State) (c w : Nat) (f : Wave → Wave) : (s.modWave c w f).held = s.held := by
  unfold State.modWave; split <;> rfl
@[simp] theorem State.modWave_reqs (s : State) (c w : Nat) (f : Wave → Wave) : (s.modWave c w f).reqs = s.reqs := by
  unfold State.modWave; split <;> rfl
@[simp] theorem State.modWave_writeBacks (s : State) (c w : Nat) (f : Wave → Wave) : (s.modWave c w f).writeBacks = s.writeBacks := by
  unfold State.modWave; split <;> rfl
@[simp] theorem State.modWave_watches (s : State) (c w : Nat) (f : Wave → Wave) : (s.modWave c w f).watches = s.watches := by
  unfold State.modWave; split <;> rfl
@[simp] theorem State.modWave_shoots (s : State) (c w : Nat) (f : Wave → Wave) : (s.modWave c w f).shoots = s.shoots := by
  unfold State.modWave; split <;> rfl
@[simp] theorem State.modWave_commits (s : State) (c w : Nat) (f : Wave → Wave) : (s.modWave c w f).commits = s.commits := by
  unfold State.modWave; split <;> rfl
@[simp] theorem State.modWave_poison (s : State) (c w : Nat) (f : Wave → Wave) : (s.modWave c w f).poison = s.poison := by
  unfold State.modWave; split <;> rfl
@[simp] theorem State.modWave_procs (s : State) (c w : Nat) (f : Wave → Wave) : (s.modWave c w f).procs = s.procs := by
  unfold State.modWave; split <;> rfl
@[simp] theorem State.modWave_objs (s : State) (c w : Nat) (f : Wave → Wave) : (s.modWave c w f).objs = s.objs := by
  unfold State.modWave; split <;> rfl
@[simp] theorem State.modWave_gens (s : State) (c w : Nat) (f : Wave → Wave) : (s.modWave c w f).gens = s.gens := by
  unfold State.modWave; split <;> rfl
@[simp] theorem State.modWave_calls (s : State) (c w : Nat) (f : Wave → Wave) : (s.modWave c w f).calls = s.calls := by
  unfold State.modWave; split <;> rfl
@[simp] theorem State.modWave_waiters (s : State) (c w : Nat) (f : Wave → Wave) : (s.modWave c w f).waiters = s.waiters := by
  unfold State.modWave; split <;> rfl
@[simp] theorem State.modWave_launches (s : State) (c w : Nat) (f : Wave → Wave) : (s.modWave c w f).launches = s.launches := by
  unfold State.modWave; split <;> rfl
@[simp] theorem State.modWave_nextSerial (s : State) (c w : Nat) (f : Wave → Wave) : (s.modWave c w f).nextSerial = s.nextSerial := by
  unfold State.modWave; split <;> rfl
@[simp] theorem State.modWave_gathers (s : State) (c w : Nat) (f : Wave → Wave) : (s.modWave c w f).gathers = s.gathers := by
  unfold State.modWave; split <;> rfl
@[simp] theorem State.modWave_traps (s : State) (c w : Nat) (f : Wave → Wave) : (s.modWave c w f).traps = s.traps := by
  unfold State.modWave; split <;> rfl
@[simp] theorem State.modWave_frames (s : State) (c w : Nat) (f : Wave → Wave) : (s.modWave c w f).frames = s.frames := by
  unfold State.modWave; split <;> rfl
@[simp] theorem State.modWave_framePool (s : State) (c w : Nat) (f : Wave → Wave) : (s.modWave c w f).framePool = s.framePool := by
  unfold State.modWave; split <;> rfl
@[simp] theorem State.modWave_fab (s : State) (c w : Nat) (f : Wave → Wave) : (s.modWave c w f).fab = s.fab := by
  unfold State.modWave; split <;> rfl
@[simp] theorem State.modWave_svc (s : State) (c w : Nat) (f : Wave → Wave) : (s.modWave c w f).svc = s.svc := by
  unfold State.modWave; split <;> rfl

/-! ## What a change of a wave leaves of its core -/

@[simp] theorem State.modWave_core_crew (s : State) (c w d : Nat) (f : Wave → Wave) :
    ((s.modWave c w f).core d).crew = (s.core d).crew := by
  by_cases h : d = c
  · subst h; unfold State.modWave; split <;> simp [State.setWave]
  · rw [State.core_modWave_other s f h]
@[simp] theorem State.modWave_core_claim (s : State) (c w d : Nat) (f : Wave → Wave) :
    ((s.modWave c w f).core d).claim = (s.core d).claim := by
  by_cases h : d = c
  · subst h; unfold State.modWave; split <;> simp [State.setWave]
  · rw [State.core_modWave_other s f h]
@[simp] theorem State.modWave_core_reservedFor (s : State) (c w d : Nat) (f : Wave → Wave) :
    ((s.modWave c w f).core d).reservedFor = (s.core d).reservedFor := by
  by_cases h : d = c
  · subst h; unfold State.modWave; split <;> simp [State.setWave]
  · rw [State.core_modWave_other s f h]
@[simp] theorem State.modWave_core_busy (s : State) (c w d : Nat) (f : Wave → Wave) :
    ((s.modWave c w f).core d).busy = (s.core d).busy := by
  by_cases h : d = c
  · subst h; unfold State.modWave; split <;> simp [State.setWave]
  · rw [State.core_modWave_other s f h]
@[simp] theorem State.modWave_core_issued (s : State) (c w d : Nat) (f : Wave → Wave) :
    ((s.modWave c w f).core d).issued = (s.core d).issued := by
  by_cases h : d = c
  · subst h; unfold State.modWave; split <;> simp [State.setWave]
  · rw [State.core_modWave_other s f h]
@[simp] theorem State.modWave_core_agedFor (s : State) (c w d : Nat) (f : Wave → Wave) :
    ((s.modWave c w f).core d).agedFor = (s.core d).agedFor := by
  by_cases h : d = c
  · subst h; unfold State.modWave; split <;> simp [State.setWave]
  · rw [State.core_modWave_other s f h]
@[simp] theorem State.modWave_core_time (s : State) (c w d : Nat) (f : Wave → Wave) :
    ((s.modWave c w f).core d).time = (s.core d).time := by
  by_cases h : d = c
  · subst h; unfold State.modWave; split <;> simp [State.setWave]
  · rw [State.core_modWave_other s f h]
@[simp] theorem State.modWave_core_seen (s : State) (c w d : Nat) (f : Wave → Wave) :
    ((s.modWave c w f).core d).seen = (s.core d).seen := by
  by_cases h : d = c
  · subst h; unfold State.modWave; split <;> simp [State.setWave]
  · rw [State.core_modWave_other s f h]
@[simp] theorem State.modWave_core_l1 (s : State) (c w d : Nat) (f : Wave → Wave) :
    ((s.modWave c w f).core d).l1 = (s.core d).l1 := by
  by_cases h : d = c
  · subst h; unfold State.modWave; split <;> simp [State.setWave]
  · rw [State.core_modWave_other s f h]
@[simp] theorem State.modWave_core_tlb (s : State) (c w d : Nat) (f : Wave → Wave) :
    ((s.modWave c w f).core d).tlb = (s.core d).tlb := by
  by_cases h : d = c
  · subst h; unfold State.modWave; split <;> simp [State.setWave]
  · rw [State.core_modWave_other s f h]
@[simp] theorem State.modWave_core_walks (s : State) (c w d : Nat) (f : Wave → Wave) :
    ((s.modWave c w f).core d).walks = (s.core d).walks := by
  by_cases h : d = c
  · subst h; unfold State.modWave; split <;> simp [State.setWave]
  · rw [State.core_modWave_other s f h]
@[simp] theorem State.modWave_core_icache (s : State) (c w d : Nat) (f : Wave → Wave) :
    ((s.modWave c w f).core d).icache = (s.core d).icache := by
  by_cases h : d = c
  · subst h; unfold State.modWave; split <;> simp [State.setWave]
  · rw [State.core_modWave_other s f h]
@[simp] theorem State.modWave_core_pins (s : State) (c w d : Nat) (f : Wave → Wave) :
    ((s.modWave c w f).core d).pins = (s.core d).pins := by
  by_cases h : d = c
  · subst h; unfold State.modWave; split <;> simp [State.setWave]
  · rw [State.core_modWave_other s f h]
@[simp] theorem State.modWave_core_abuf (s : State) (c w d : Nat) (f : Wave → Wave) :
    ((s.modWave c w f).core d).abuf = (s.core d).abuf := by
  by_cases h : d = c
  · subst h; unfold State.modWave; split <;> simp [State.setWave]
  · rw [State.core_modWave_other s f h]
@[simp] theorem State.modWave_core_wbuf (s : State) (c w d : Nat) (f : Wave → Wave) :
    ((s.modWave c w f).core d).wbuf = (s.core d).wbuf := by
  by_cases h : d = c
  · subst h; unfold State.modWave; split <;> simp [State.setWave]
  · rw [State.core_modWave_other s f h]
@[simp] theorem State.modWave_core_cbuf (s : State) (c w d : Nat) (f : Wave → Wave) :
    ((s.modWave c w f).core d).cbuf = (s.core d).cbuf := by
  by_cases h : d = c
  · subst h; unfold State.modWave; split <;> simp [State.setWave]
  · rw [State.core_modWave_other s f h]
@[simp] theorem State.modWave_core_bars (s : State) (c w d : Nat) (f : Wave → Wave) :
    ((s.modWave c w f).core d).bars = (s.core d).bars := by
  by_cases h : d = c
  · subst h; unfold State.modWave; split <;> simp [State.setWave]
  · rw [State.core_modWave_other s f h]
@[simp] theorem State.modWave_core_squeues (s : State) (c w d : Nat) (f : Wave → Wave) :
    ((s.modWave c w f).core d).squeues = (s.core d).squeues := by
  by_cases h : d = c
  · subst h; unfold State.modWave; split <;> simp [State.setWave]
  · rw [State.core_modWave_other s f h]
@[simp] theorem State.modWave_core_chans (s : State) (c w d : Nat) (f : Wave → Wave) :
    ((s.modWave c w f).core d).chans = (s.core d).chans := by
  by_cases h : d = c
  · subst h; unfold State.modWave; split <;> simp [State.setWave]
  · rw [State.core_modWave_other s f h]
@[simp] theorem State.modWave_core_cmds (s : State) (c w d : Nat) (f : Wave → Wave) :
    ((s.modWave c w f).core d).cmds = (s.core d).cmds := by
  by_cases h : d = c
  · subst h; unfold State.modWave; split <;> simp [State.setWave]
  · rw [State.core_modWave_other s f h]
@[simp] theorem State.modWave_core_guards (s : State) (c w d : Nat) (f : Wave → Wave) :
    ((s.modWave c w f).core d).guards = (s.core d).guards := by
  by_cases h : d = c
  · subst h; unfold State.modWave; split <;> simp [State.setWave]
  · rw [State.core_modWave_other s f h]
@[simp] theorem State.modWave_core_guardWrites (s : State) (c w d : Nat) (f : Wave → Wave) :
    ((s.modWave c w f).core d).guardWrites = (s.core d).guardWrites := by
  by_cases h : d = c
  · subst h; unfold State.modWave; split <;> simp [State.setWave]
  · rw [State.core_modWave_other s f h]
@[simp] theorem State.modWave_core_guardBy (s : State) (c w d : Nat) (f : Wave → Wave) :
    ((s.modWave c w f).core d).guardBy = (s.core d).guardBy := by
  by_cases h : d = c
  · subst h; unfold State.modWave; split <;> simp [State.setWave]
  · rw [State.core_modWave_other s f h]
@[simp] theorem State.modWave_core_seals (s : State) (c w d : Nat) (f : Wave → Wave) :
    ((s.modWave c w f).core d).seals = (s.core d).seals := by
  by_cases h : d = c
  · subst h; unfold State.modWave; split <;> simp [State.setWave]
  · rw [State.core_modWave_other s f h]
@[simp] theorem State.modWave_core_carrs (s : State) (c w d : Nat) (f : Wave → Wave) :
    ((s.modWave c w f).core d).carrs = (s.core d).carrs := by
  by_cases h : d = c
  · subst h; unfold State.modWave; split <;> simp [State.setWave]
  · rw [State.core_modWave_other s f h]
@[simp] theorem State.modWave_core_cinits (s : State) (c w d : Nat) (f : Wave → Wave) :
    ((s.modWave c w f).core d).cinits = (s.core d).cinits := by
  by_cases h : d = c
  · subst h; unfold State.modWave; split <;> simp [State.setWave]
  · rw [State.core_modWave_other s f h]
@[simp] theorem State.modWave_core_mats (s : State) (c w d : Nat) (f : Wave → Wave) :
    ((s.modWave c w f).core d).mats = (s.core d).mats := by
  by_cases h : d = c
  · subst h; unfold State.modWave; split <;> simp [State.setWave]
  · rw [State.core_modWave_other s f h]
@[simp] theorem State.modWave_core_arrayFree (s : State) (c w d : Nat) (f : Wave → Wave) :
    ((s.modWave c w f).core d).arrayFree = (s.core d).arrayFree := by
  by_cases h : d = c
  · subst h; unfold State.modWave; split <;> simp [State.setWave]
  · rw [State.core_modWave_other s f h]
@[simp] theorem State.modWave_core_evSel (s : State) (c w d : Nat) (f : Wave → Wave) :
    ((s.modWave c w f).core d).evSel = (s.core d).evSel := by
  by_cases h : d = c
  · subst h; unfold State.modWave; split <;> simp [State.setWave]
  · rw [State.core_modWave_other s f h]
@[simp] theorem State.modWave_core_evCnt (s : State) (c w d : Nat) (f : Wave → Wave) :
    ((s.modWave c w f).core d).evCnt = (s.core d).evCnt := by
  by_cases h : d = c
  · subst h; unfold State.modWave; split <;> simp [State.setWave]
  · rw [State.core_modWave_other s f h]

end Sys2Proof.Machine
end

