-- ==== Sys2Proof/Laws/Issue.lean ====
section
/-! SUPPORT. What the issue of an instruction can do: under `issues` it is the instruction's own effect on `issuedAt`, and
otherwise the state of `start`; with the fields that `issuedAt`, `finish` and `fixed` leave alone. -/

namespace Sys2Proof.Machine

/-! ## The outcomes of an issue -/

/-- An instruction that meets `issues` begins with its own effect. -/
theorem start_of_issues {i : Instr} {s : State} {cur : Cursor} {x : Wave} {r : Row} {h : Hdr}
    (hi : issues i s cur x r h = true) : start i s = .go (s.ctxAt cur x h) (s.issuedAt cur x i r h) := by
  unfold issues at hi
  simp only [Bool.and_eq_true, beq_iff_eq, bne_iff_ne, ne_eq] at hi
  obtain ⟨⟨⟨⟨⟨⟨⟨⟨⟨⟨⟨h1, h2⟩, h3⟩, h4⟩, h5⟩, h6⟩, h7⟩, h8⟩, h9⟩, h10⟩, h11⟩, h12⟩ := hi
  have e6 : (x.stopAt cur).isSome = false := by cases hd : x.stopAt cur <;> simp_all
  have e8 : (privileged i r && x.asid != 0) = false := by
    cases hp : privileged i r <;> simp_all
  have e10 : s.dueTrap cur x i h = none := by simpa using h10
  have e11 : s.checkAt cur x i r h = none := by simpa using h11
  have e12 : (x.badLanes r (s.passAt cur x h) != 0) = false := by simp [h12]
  have e9 : (!r.uses.all (fun u => useInQuota u (quotaFor i x.quota))) = false := by rw [h9]; rfl
  have a1 : (decide (x.lanesAt cur = 0) || (cur.second.isNone && s.restHeld cur.core x)) = false := by
    cases hc : cur.second <;> simp_all
  have a2 : (!(cur.second.isSome || x.stallOver s.clock (x.chosen cur.pc cur.lanes))) = false := by
    cases hc : cur.second <;> simp_all
  have a3 : (!(cur.second.isSome || s.canIssue cur.core cur.wave x i r h)) = false := by
    cases hc : cur.second <;> simp_all
  unfold start
  simp only [h1, h2, h3, h4, a1, e6, a2, e8, e9, a3, e10, e11, e12, Bool.false_eq_true, if_false]

/-- The issue of an instruction that meets `issues`. -/
theorem issue_of_issues {i : Instr} {s : State} {cur : Cursor} {x : Wave} {r : Row} {h : Hdr} (body : Ctx → State → State)
    (hi : issues i s cur x r h = true) :
    issue i s body = .next (finish (s.ctxAt cur x h) (body (s.ctxAt cur x h) (s.issuedAt cur x i r h))) := by
  simp [issue, start_of_issues hi]

/-- As `issue_of_issues` for an instruction that waits for nothing. -/
theorem issueWhen_of_issues {i : Instr} {s : State} {cur : Cursor} {x : Wave} {r : Row} {h : Hdr}
    {wait : Ctx → State → Option (List Nat)} (body : Ctx → State → State) (hi : issues i s cur x r h = true)
    (hw : wait (s.ctxAt cur x h) (s.issuedAt cur x i r h) = none) :
    issueWhen i s wait body = .next (finish (s.ctxAt cur x h) (body (s.ctxAt cur x h) (s.issuedAt cur x i r h))) := by
  simp [issueWhen, start_of_issues hi, hw]

/-- An instruction that meets `issues` and still waits is held. -/
theorem issueWhen_hold {i : Instr} {s : State} {cur : Cursor} {x : Wave} {r : Row} {h : Hdr}
    {wait : Ctx → State → Option (List Nat)} (body : Ctx → State → State) {ps : List Nat} (hi : issues i s cur x r h = true)
    (hw : wait (s.ctxAt cur x h) (s.issuedAt cur x i r h) = some ps) :
    issueWhen i s wait body = .next ((s.issuedAt cur x i r h).hold i (s.ctxAt cur x h) ps) := by
  simp [issueWhen, start_of_issues hi, hw]

/-- Everything that an issue can do. -/
theorem issue_cases {i : Instr} {s : State} {body : Ctx → State → State} {u : State} (hu : issue i s body = .next u) :
    (∃ k t, start i s = .go k t ∧ u = finish k (body k t)) ∨ start i s = .stop u := by
  unfold issue at hu
  split at hu
  · rename_i k t hk
    exact .inl ⟨k, t, hk, (Host.Outcome.next.inj hu).symm⟩
  · rename_i t ht
    exact .inr ((Host.Outcome.next.inj hu) ▸ ht)

/-- Everything that the issue of an instruction that may wait can do. -/
theorem issueWhen_cases {i : Instr} {s : State} {wait : Ctx → State → Option (List Nat)} {body : Ctx → State → State}
    {u : State} (hu : issueWhen i s wait body = .next u) :
    (∃ k t, start i s = .go k t ∧ wait k t = none ∧ u = finish k (body k t))
      ∨ (∃ k t ps, start i s = .go k t ∧ wait k t = some ps ∧ u = t.hold i k ps) ∨ start i s = .stop u := by
  unfold issueWhen at hu
  split at hu
  · rename_i k t hk
    split at hu
    · rename_i ps hw
      exact .inr (.inl ⟨k, t, ps, hk, hw, (Host.Outcome.next.inj hu).symm⟩)
    · rename_i hw
      exact .inl ⟨k, t, hk, hw, (Host.Outcome.next.inj hu).symm⟩
  · rename_i t ht
    exact .inr (.inr ((Host.Outcome.next.inj hu) ▸ ht))

/-- An issue always answers a next state. -/
theorem issue_next (i : Instr) (s : State) (body : Ctx → State → State) : ∃ t, issue i s body = .next t := by
  unfold issue; split <;> exact ⟨_, rfl⟩

theorem issueWhen_next (i : Instr) (s : State) (wait : Ctx → State → Option (List Nat)) (body : Ctx → State → State) :
    ∃ t, issueWhen i s wait body = .next t := by
  unfold issueWhen; repeat' split
  all_goals exact ⟨_, rfl⟩

/-! ## The context and the state of an issue -/

@[simp] theorem State.ctxAt_core (s : State) (cur : Cursor) (x : Wave) (h : Hdr) : (s.ctxAt cur x h).core = cur.core := rfl
@[simp] theorem State.ctxAt_wave (s : State) (cur : Cursor) (x : Wave) (h : Hdr) : (s.ctxAt cur x h).wave = cur.wave := rfl
@[simp] theorem State.ctxAt_pc (s : State) (cur : Cursor) (x : Wave) (h : Hdr) : (s.ctxAt cur x h).pc = cur.pc := rfl
@[simp] theorem State.ctxAt_x (s : State) (cur : Cursor) (x : Wave) (h : Hdr) : (s.ctxAt cur x h).x = x := rfl
@[simp] theorem State.ctxAt_h (s : State) (cur : Cursor) (x : Wave) (h : Hdr) : (s.ctxAt cur x h).h = h := rfl
@[simp] theorem State.ctxAt_clock (s : State) (cur : Cursor) (x : Wave) (h : Hdr) : (s.ctxAt cur x h).clock = s.clock := rfl
@[simp] theorem State.ctxAt_fc (s : State) (cur : Cursor) (x : Wave) (h : Hdr) : (s.ctxAt cur x h).fc = s.freeCtr := rfl
@[simp] theorem State.ctxAt_pair (s : State) (cur : Cursor) (x : Wave) (h : Hdr) : (s.ctxAt cur x h).pair = cur.pair := rfl
@[simp] theorem State.ctxAt_lanes (s : State) (cur : Cursor) (x : Wave) (h : Hdr) : (s.ctxAt cur x h).lanes = x.lanesAt cur := rfl
@[simp] theorem State.ctxAt_pass (s : State) (cur : Cursor) (x : Wave) (h : Hdr) : (s.ctxAt cur x h).pass = s.passAt cur x h := rfl
@[simp] theorem State.ctxAt_op (s : State) (cur : Cursor) (x : Wave) (h : Hdr) : (s.ctxAt cur x h).op = s.nextId := rfl
@[simp] theorem State.ctxAt_asid (s : State) (cur : Cursor) (x : Wave) (h : Hdr) : (s.ctxAt cur x h).asid = x.asid := rfl
@[simp] theorem State.ctxAt_uid (s : State) (cur : Cursor) (x : Wave) (h : Hdr) : (s.ctxAt cur x h).uid = s.uidOf cur.core := rfl

@[simp] theorem State.issuedAt_clock (s : State) (cur : Cursor) (x : Wave) (i : Instr) (r : Row) (h : Hdr) :
    (s.issuedAt cur x i r h).clock = s.clock := rfl
@[simp] theorem State.issuedAt_agenda (s : State) (cur : Cursor) (x : Wave) (i : Instr) (r : Row) (h : Hdr) :
    (s.issuedAt cur x i r h).agenda = s.agenda := rfl
@[simp] theorem State.issuedAt_mem (s : State) (cur : Cursor) (x : Wave) (i : Instr) (r : Row) (h : Hdr) :
    (s.issuedAt cur x i r h).mem = s.mem := rfl
@[simp] theorem State.issuedAt_hostMem (s : State) (cur : Cursor) (x : Wave) (i : Instr) (r : Row) (h : Hdr) :
    (s.issuedAt cur x i r h).hostMem = s.hostMem := rfl
@[simp] theorem State.issuedAt_lineTs (s : State) (cur : Cursor) (x : Wave) (i : Instr) (r : Row) (h : Hdr) :
    (s.issuedAt cur x i r h).lineTs = s.lineTs := rfl
@[simp] theorem State.issuedAt_sliceM (s : State) (cur : Cursor) (x : Wave) (i : Instr) (r : Row) (h : Hdr) :
    (s.issuedAt cur x i r h).sliceM = s.sliceM := rfl
@[simp] theorem State.issuedAt_strictTs (s : State) (cur : Cursor) (x : Wave) (i : Instr) (r : Row) (h : Hdr) :
    (s.issuedAt cur x i r h).strictTs = s.strictTs := rfl
@[simp] theorem State.issuedAt_outTime (s : State) (cur : Cursor) (x : Wave) (i : Instr) (r : Row) (h : Hdr) :
    (s.issuedAt cur x i r h).outTime = s.outTime := rfl
@[simp] theorem State.issuedAt_clusters (s : State) (cur : Cursor) (x : Wave) (i : Instr) (r : Row) (h : Hdr) :
    (s.issuedAt cur x i r h).clusters = s.clusters := rfl
@[simp] theorem State.issuedAt_locks (s : State) (cur : Cursor) (x : Wave) (i : Instr) (r : Row) (h : Hdr) :
    (s.issuedAt cur x i r h).locks = s.locks := rfl
@[simp] theorem State.issuedAt_lineQ (s : State) (cur : Cursor) (x : Wave) (i : Instr) (r : Row) (h : Hdr) :
    (s.issuedAt cur x i r h).lineQ = s.lineQ := rfl
@[simp] theorem State.issuedAt_held (s : State) (cur : Cursor) (x : Wave) (i : Instr) (r : Row) (h : Hdr) :
    (s.issuedAt cur x i r h).held = s.held := rfl
@[simp] theorem State.issuedAt_reqs (s : State) (cur : Cursor) (x : Wave) (i : Instr) (r : Row) (h : Hdr) :
    (s.issuedAt cur x i r h).reqs = s.reqs := rfl
@[simp] theorem State.issuedAt_writeBacks (s : State) (cur : Cursor) (x : Wave) (i : Instr) (r : Row) (h : Hdr) :
    (s.issuedAt cur x i r h).writeBacks = s.writeBacks := rfl
@[simp] theorem State.issuedAt_watches (s : State) (cur : Cursor) (x : Wave) (i : Instr) (r : Row) (h : Hdr) :
    (s.issuedAt cur x i r h).watches = s.watches := rfl
@[simp] theorem State.issuedAt_shoots (s : State) (cur : Cursor) (x : Wave) (i : Instr) (r : Row) (h : Hdr) :
    (s.issuedAt cur x i r h).shoots = s.shoots := rfl
@[simp] theorem State.issuedAt_commits (s : State) (cur : Cursor) (x : Wave) (i : Instr) (r : Row) (h : Hdr) :
    (s.issuedAt cur x i r h).commits = s.commits := rfl
@[simp] theorem State.issuedAt_poison (s : State) (cur : Cursor) (x : Wave) (i : Instr) (r : Row) (h : Hdr) :
    (s.issuedAt cur x i r h).poison = s.poison := rfl
@[simp] theorem State.issuedAt_procs (s : State) (cur : Cursor) (x : Wave) (i : Instr) (r : Row) (h : Hdr) :
    (s.issuedAt cur x i r h).procs = s.procs := rfl
@[simp] theorem State.issuedAt_objs (s : State) (cur : Cursor) (x : Wave) (i : Instr) (r : Row) (h : Hdr) :
    (s.issuedAt cur x i r h).objs = s.objs := rfl
@[simp] theorem State.issuedAt_gens (s : State) (cur : Cursor) (x : Wave) (i : Instr) (r : Row) (h : Hdr) :
    (s.issuedAt cur x i r h).gens = s.gens := rfl
@[simp] theorem State.issuedAt_calls (s : State) (cur : Cursor) (x : Wave) (i : Instr) (r : Row) (h : Hdr) :
    (s.issuedAt cur x i r h).calls = s.calls := rfl
@[simp] theorem State.issuedAt_waiters (s : State) (cur : Cursor) (x : Wave) (i : Instr) (r : Row) (h : Hdr) :
    (s.issuedAt cur x i r h).waiters = s.waiters := rfl
@[simp] theorem State.issuedAt_launches (s : State) (cur : Cursor) (x : Wave) (i : Instr) (r : Row) (h : Hdr) :
    (s.issuedAt cur x i r h).launches = s.launches := rfl
@[simp] theorem State.issuedAt_nextSerial (s : State) (cur : Cursor) (x : Wave) (i : Instr) (r : Row) (h : Hdr) :
    (s.issuedAt cur x i r h).nextSerial = s.nextSerial := rfl
@[simp] theorem State.issuedAt_gathers (s : State) (cur : Cursor) (x : Wave) (i : Instr) (r : Row) (h : Hdr) :
    (s.issuedAt cur x i r h).gathers = s.gathers := rfl
@[simp] theorem State.issuedAt_traps (s : State) (cur : Cursor) (x : Wave) (i : Instr) (r : Row) (h : Hdr) :
    (s.issuedAt cur x i r h).traps = s.traps := rfl
@[simp] theorem State.issuedAt_frames (s : State) (cur : Cursor) (x : Wave) (i : Instr) (r : Row) (h : Hdr) :
    (s.issuedAt cur x i r h).frames = s.frames := rfl
@[simp] theorem State.issuedAt_framePool (s : State) (cur : Cursor) (x : Wave) (i : Instr) (r : Row) (h : Hdr) :
    (s.issuedAt cur x i r h).framePool = s.framePool := rfl
@[simp] theorem State.issuedAt_fab (s : State) (cur : Cursor) (x : Wave) (i : Instr) (r : Row) (h : Hdr) :
    (s.issuedAt cur x i r h).fab = s.fab := rfl
@[simp] theorem State.issuedAt_svc (s : State) (cur : Cursor) (x : Wave) (i : Instr) (r : Row) (h : Hdr) :
    (s.issuedAt cur x i r h).svc = s.svc := rfl
@[simp] theorem State.issuedAt_cursor (s : State) (cur : Cursor) (x : Wave) (i : Instr) (r : Row) (h : Hdr) :
    (s.issuedAt cur x i r h).cursor = none := rfl
@[simp] theorem State.issuedAt_nextId (s : State) (cur : Cursor) (x : Wave) (i : Instr) (r : Row) (h : Hdr) :
    (s.issuedAt cur x i r h).nextId = s.nextId + 1 := rfl

theorem State.core_issuedAt_other (s : State) {cur : Cursor} (x : Wave) (i : Instr) (r : Row) (h : Hdr) {d : Nat}
    (hd : d ≠ cur.core) : (s.issuedAt cur x i r h).core d = s.core d := by
  unfold State.issuedAt
  rw [State.core_modCore_other _ _ hd]
  rfl

theorem State.core_issuedAt_same (s : State) (cur : Cursor) (x : Wave) (i : Instr) (r : Row) (h : Hdr) :
    (s.issuedAt cur x i r h).core cur.core =
      { (s.core cur.core).afterIssue s.clock cur.wave r cur.pair with
        waves := Tbl.put (s.core cur.core).waves cur.wave
          (x.issued i r h (x.lanesAt cur) (s.passAt cur x h) cur.pc s.clock s.nextId cur.second) } := by
  unfold State.issuedAt
  rw [State.core_modCore_same]
  rfl

/-- The issuing wave after the issue. -/
@[simp] theorem State.wave?_issuedAt_same (s : State) (cur : Cursor) (x : Wave) (i : Instr) (r : Row) (h : Hdr) :
    (s.issuedAt cur x i r h).wave? cur.core cur.wave =
      some (x.issued i r h (x.lanesAt cur) (s.passAt cur x h) cur.pc s.clock s.nextId cur.second) := by
  simp [State.wave?, State.core_issuedAt_same]

theorem State.wave?_issuedAt_other (s : State) {cur : Cursor} (x : Wave) (i : Instr) (r : Row) (h : Hdr) {d v : Nat}
    (hd : d ≠ cur.core ∨ v ≠ cur.wave) : (s.issuedAt cur x i r h).wave? d v = s.wave? d v := by
  unfold State.wave?
  by_cases hc : d = cur.core
  · subst hc
    have hv : v ≠ cur.wave := by simpa using hd
    simp [State.core_issuedAt_same, Tbl.find_put_other _ _ hv]
  · rw [State.core_issuedAt_other _ _ _ _ _ hc]

@[simp] theorem Core.countEv_evSel (k : Core) (src n : Nat) : (k.countEv src n).evSel = k.evSel := rfl
@[simp] theorem Core.countEv_crew (k : Core) (src n : Nat) : (k.countEv src n).crew = k.crew := rfl
@[simp] theorem Core.countEv_claim (k : Core) (src n : Nat) : (k.countEv src n).claim = k.claim := rfl
@[simp] theorem Core.countEv_reservedFor (k : Core) (src n : Nat) : (k.countEv src n).reservedFor = k.reservedFor := rfl
@[simp] theorem Core.countEv_waves (k : Core) (src n : Nat) : (k.countEv src n).waves = k.waves := rfl
@[simp] theorem Core.countEv_busy (k : Core) (src n : Nat) : (k.countEv src n).busy = k.busy := rfl
@[simp] theorem Core.countEv_issued (k : Core) (src n : Nat) : (k.countEv src n).issued = k.issued := rfl
@[simp] theorem Core.countEv_agedFor (k : Core) (src n : Nat) : (k.countEv src n).agedFor = k.agedFor := rfl
@[simp] theorem Core.countEv_time (k : Core) (src n : Nat) : (k.countEv src n).time = k.time := rfl
@[simp] theorem Core.countEv_seen (k : Core) (src n : Nat) : (k.countEv src n).seen = k.seen := rfl
@[simp] theorem Core.countEv_l1 (k : Core) (src n : Nat) : (k.countEv src n).l1 = k.l1 := rfl
@[simp] theorem Core.countEv_tlb (k : Core) (src n : Nat) : (k.countEv src n).tlb = k.tlb := rfl
@[simp] theorem Core.countEv_walks (k : Core) (src n : Nat) : (k.countEv src n).walks = k.walks := rfl
@[simp] theorem Core.countEv_icache (k : Core) (src n : Nat) : (k.countEv src n).icache = k.icache := rfl
@[simp] theorem Core.countEv_pins (k : Core) (src n : Nat) : (k.countEv src n).pins = k.pins := rfl
@[simp] theorem Core.countEv_abuf (k : Core) (src n : Nat) : (k.countEv src n).abuf = k.abuf := rfl
@[simp] theorem Core.countEv_wbuf (k : Core) (src n : Nat) : (k.countEv src n).wbuf = k.wbuf := rfl
@[simp] theorem Core.countEv_cbuf (k : Core) (src n : Nat) : (k.countEv src n).cbuf = k.cbuf := rfl
@[simp] theorem Core.countEv_bars (k : Core) (src n : Nat) : (k.countEv src n).bars = k.bars := rfl
@[simp] theorem Core.countEv_squeues (k : Core) (src n : Nat) : (k.countEv src n).squeues = k.squeues := rfl
@[simp] theorem Core.countEv_chans (k : Core) (src n : Nat) : (k.countEv src n).chans = k.chans := rfl
@[simp] theorem Core.countEv_cmds (k : Core) (src n : Nat) : (k.countEv src n).cmds = k.cmds := rfl
@[simp] theorem Core.countEv_guards (k : Core) (src n : Nat) : (k.countEv src n).guards = k.guards := rfl
@[simp] theorem Core.countEv_guardWrites (k : Core) (src n : Nat) : (k.countEv src n).guardWrites = k.guardWrites := rfl
@[simp] theorem Core.countEv_guardBy (k : Core) (src n : Nat) : (k.countEv src n).guardBy = k.guardBy := rfl
@[simp] theorem Core.countEv_seals (k : Core) (src n : Nat) : (k.countEv src n).seals = k.seals := rfl
@[simp] theorem Core.countEv_carrs (k : Core) (src n : Nat) : (k.countEv src n).carrs = k.carrs := rfl
@[simp] theorem Core.countEv_cinits (k : Core) (src n : Nat) : (k.countEv src n).cinits = k.cinits := rfl
@[simp] theorem Core.countEv_mats (k : Core) (src n : Nat) : (k.countEv src n).mats = k.mats := rfl
@[simp] theorem Core.countEv_arrayFree (k : Core) (src n : Nat) : (k.countEv src n).arrayFree = k.arrayFree := rfl
@[simp] theorem State.issuedAt_core_crew (s : State) (cur : Cursor) (x : Wave) (i : Instr) (r : Row) (h : Hdr) (d : Nat) :
    ((s.issuedAt cur x i r h).core d).crew = (s.core d).crew := by
  by_cases hd : d = cur.core
  · subst hd; rw [State.core_issuedAt_same]; rfl
  · rw [State.core_issuedAt_other _ _ _ _ _ hd]
@[simp] theorem State.issuedAt_core_claim (s : State) (cur : Cursor) (x : Wave) (i : Instr) (r : Row) (h : Hdr) (d : Nat) :
    ((s.issuedAt cur x i r h).core d).claim = (s.core d).claim := by
  by_cases hd : d = cur.core
  · subst hd; rw [State.core_issuedAt_same]; rfl
  · rw [State.core_issuedAt_other _ _ _ _ _ hd]
@[simp] theorem State.issuedAt_core_reservedFor (s : State) (cur : Cursor) (x : Wave) (i : Instr) (r : Row) (h : Hdr) (d : Nat) :
    ((s.issuedAt cur x i r h).core d).reservedFor = (s.core d).reservedFor := by
  by_cases hd : d = cur.core
  · subst hd; rw [State.core_issuedAt_same]; rfl
  · rw [State.core_issuedAt_other _ _ _ _ _ hd]
@[simp] theorem State.issuedAt_core_time (s : State) (cur : Cursor) (x : Wave) (i : Instr) (r : Row) (h : Hdr) (d : Nat) :
    ((s.issuedAt cur x i r h).core d).time = (s.core d).time := by
  by_cases hd : d = cur.core
  · subst hd; rw [State.core_issuedAt_same]; rfl
  · rw [State.core_issuedAt_other _ _ _ _ _ hd]
@[simp] theorem State.issuedAt_core_seen (s : State) (cur : Cursor) (x : Wave) (i : Instr) (r : Row) (h : Hdr) (d : Nat) :
    ((s.issuedAt cur x i r h).core d).seen = (s.core d).seen := by
  by_cases hd : d = cur.core
  · subst hd; rw [State.core_issuedAt_same]; rfl
  · rw [State.core_issuedAt_other _ _ _ _ _ hd]
@[simp] theorem State.issuedAt_core_l1 (s : State) (cur : Cursor) (x : Wave) (i : Instr) (r : Row) (h : Hdr) (d : Nat) :
    ((s.issuedAt cur x i r h).core d).l1 = (s.core d).l1 := by
  by_cases hd : d = cur.core
  · subst hd; rw [State.core_issuedAt_same]; rfl
  · rw [State.core_issuedAt_other _ _ _ _ _ hd]
@[simp] theorem State.issuedAt_core_tlb (s : State) (cur : Cursor) (x : Wave) (i : Instr) (r : Row) (h : Hdr) (d : Nat) :
    ((s.issuedAt cur x i r h).core d).tlb = (s.core d).tlb := by
  by_cases hd : d = cur.core
  · subst hd; rw [State.core_issuedAt_same]; rfl
  · rw [State.core_issuedAt_other _ _ _ _ _ hd]
@[simp] theorem State.issuedAt_core_walks (s : State) (cur : Cursor) (x : Wave) (i : Instr) (r : Row) (h : Hdr) (d : Nat) :
    ((s.issuedAt cur x i r h).core d).walks = (s.core d).walks := by
  by_cases hd : d = cur.core
  · subst hd; rw [State.core_issuedAt_same]; rfl
  · rw [State.core_issuedAt_other _ _ _ _ _ hd]
@[simp] theorem State.issuedAt_core_icache (s : State) (cur : Cursor) (x : Wave) (i : Instr) (r : Row) (h : Hdr) (d : Nat) :
    ((s.issuedAt cur x i r h).core d).icache = (s.core d).icache := by
  by_cases hd : d = cur.core
  · subst hd; rw [State.core_issuedAt_same]; rfl
  · rw [State.core_issuedAt_other _ _ _ _ _ hd]
@[simp] theorem State.issuedAt_core_pins (s : State) (cur : Cursor) (x : Wave) (i : Instr) (r : Row) (h : Hdr) (d : Nat) :
    ((s.issuedAt cur x i r h).core d).pins = (s.core d).pins := by
  by_cases hd : d = cur.core
  · subst hd; rw [State.core_issuedAt_same]; rfl
  · rw [State.core_issuedAt_other _ _ _ _ _ hd]
@[simp] theorem State.issuedAt_core_abuf (s : State) (cur : Cursor) (x : Wave) (i : Instr) (r : Row) (h : Hdr) (d : Nat) :
    ((s.issuedAt cur x i r h).core d).abuf = (s.core d).abuf := by
  by_cases hd : d = cur.core
  · subst hd; rw [State.core_issuedAt_same]; rfl
  · rw [State.core_issuedAt_other _ _ _ _ _ hd]
@[simp] theorem State.issuedAt_core_wbuf (s : State) (cur : Cursor) (x : Wave) (i : Instr) (r : Row) (h : Hdr) (d : Nat) :
    ((s.issuedAt cur x i r h).core d).wbuf = (s.core d).wbuf := by
  by_cases hd : d = cur.core
  · subst hd; rw [State.core_issuedAt_same]; rfl
  · rw [State.core_issuedAt_other _ _ _ _ _ hd]
@[simp] theorem State.issuedAt_core_cbuf (s : State) (cur : Cursor) (x : Wave) (i : Instr) (r : Row) (h : Hdr) (d : Nat) :
    ((s.issuedAt cur x i r h).core d).cbuf = (s.core d).cbuf := by
  by_cases hd : d = cur.core
  · subst hd; rw [State.core_issuedAt_same]; rfl
  · rw [State.core_issuedAt_other _ _ _ _ _ hd]
@[simp] theorem State.issuedAt_core_bars (s : State) (cur : Cursor) (x : Wave) (i : Instr) (r : Row) (h : Hdr) (d : Nat) :
    ((s.issuedAt cur x i r h).core d).bars = (s.core d).bars := by
  by_cases hd : d = cur.core
  · subst hd; rw [State.core_issuedAt_same]; rfl
  · rw [State.core_issuedAt_other _ _ _ _ _ hd]
@[simp] theorem State.issuedAt_core_squeues (s : State) (cur : Cursor) (x : Wave) (i : Instr) (r : Row) (h : Hdr) (d : Nat) :
    ((s.issuedAt cur x i r h).core d).squeues = (s.core d).squeues := by
  by_cases hd : d = cur.core
  · subst hd; rw [State.core_issuedAt_same]; rfl
  · rw [State.core_issuedAt_other _ _ _ _ _ hd]
@[simp] theorem State.issuedAt_core_chans (s : State) (cur : Cursor) (x : Wave) (i : Instr) (r : Row) (h : Hdr) (d : Nat) :
    ((s.issuedAt cur x i r h).core d).chans = (s.core d).chans := by
  by_cases hd : d = cur.core
  · subst hd; rw [State.core_issuedAt_same]; rfl
  · rw [State.core_issuedAt_other _ _ _ _ _ hd]
@[simp] theorem State.issuedAt_core_cmds (s : State) (cur : Cursor) (x : Wave) (i : Instr) (r : Row) (h : Hdr) (d : Nat) :
    ((s.issuedAt cur x i r h).core d).cmds = (s.core d).cmds := by
  by_cases hd : d = cur.core
  · subst hd; rw [State.core_issuedAt_same]; rfl
  · rw [State.core_issuedAt_other _ _ _ _ _ hd]
@[simp] theorem State.issuedAt_core_guards (s : State) (cur : Cursor) (x : Wave) (i : Instr) (r : Row) (h : Hdr) (d : Nat) :
    ((s.issuedAt cur x i r h).core d).guards = (s.core d).guards := by
  by_cases hd : d = cur.core
  · subst hd; rw [State.core_issuedAt_same]; rfl
  · rw [State.core_issuedAt_other _ _ _ _ _ hd]
@[simp] theorem State.issuedAt_core_guardWrites (s : State) (cur : Cursor) (x : Wave) (i : Instr) (r : Row) (h : Hdr) (d : Nat) :
    ((s.issuedAt cur x i r h).core d).guardWrites = (s.core d).guardWrites := by
  by_cases hd : d = cur.core
  · subst hd; rw [State.core_issuedAt_same]; rfl
  · rw [State.core_issuedAt_other _ _ _ _ _ hd]
@[simp] theorem State.issuedAt_core_guardBy (s : State) (cur : Cursor) (x : Wave) (i : Instr) (r : Row) (h : Hdr) (d : Nat) :
    ((s.issuedAt cur x i r h).core d).guardBy = (s.core d).guardBy := by
  by_cases hd : d = cur.core
  · subst hd; rw [State.core_issuedAt_same]; rfl
  · rw [State.core_issuedAt_other _ _ _ _ _ hd]
@[simp] theorem State.issuedAt_core_seals (s : State) (cur : Cursor) (x : Wave) (i : Instr) (r : Row) (h : Hdr) (d : Nat) :
    ((s.issuedAt cur x i r h).core d).seals = (s.core d).seals := by
  by_cases hd : d = cur.core
  · subst hd; rw [State.core_issuedAt_same]; rfl
  · rw [State.core_issuedAt_other _ _ _ _ _ hd]
@[simp] theorem State.issuedAt_core_carrs (s : State) (cur : Cursor) (x : Wave) (i : Instr) (r : Row) (h : Hdr) (d : Nat) :
    ((s.issuedAt cur x i r h).core d).carrs = (s.core d).carrs := by
  by_cases hd : d = cur.core
  · subst hd; rw [State.core_issuedAt_same]; rfl
  · rw [State.core_issuedAt_other _ _ _ _ _ hd]
@[simp] theorem State.issuedAt_core_cinits (s : State) (cur : Cursor) (x : Wave) (i : Instr) (r : Row) (h : Hdr) (d : Nat) :
    ((s.issuedAt cur x i r h).core d).cinits = (s.core d).cinits := by
  by_cases hd : d = cur.core
  · subst hd; rw [State.core_issuedAt_same]; rfl
  · rw [State.core_issuedAt_other _ _ _ _ _ hd]
@[simp] theorem State.issuedAt_core_mats (s : State) (cur : Cursor) (x : Wave) (i : Instr) (r : Row) (h : Hdr) (d : Nat) :
    ((s.issuedAt cur x i r h).core d).mats = (s.core d).mats := by
  by_cases hd : d = cur.core
  · subst hd; rw [State.core_issuedAt_same]; rfl
  · rw [State.core_issuedAt_other _ _ _ _ _ hd]
@[simp] theorem State.issuedAt_core_arrayFree (s : State) (cur : Cursor) (x : Wave) (i : Instr) (r : Row) (h : Hdr) (d : Nat) :
    ((s.issuedAt cur x i r h).core d).arrayFree = (s.core d).arrayFree := by
  by_cases hd : d = cur.core
  · subst hd; rw [State.core_issuedAt_same]; rfl
  · rw [State.core_issuedAt_other _ _ _ _ _ hd]
@[simp] theorem State.issuedAt_core_evSel (s : State) (cur : Cursor) (x : Wave) (i : Instr) (r : Row) (h : Hdr) (d : Nat) :
    ((s.issuedAt cur x i r h).core d).evSel = (s.core d).evSel := by
  by_cases hd : d = cur.core
  · subst hd; rw [State.core_issuedAt_same]; rfl
  · rw [State.core_issuedAt_other _ _ _ _ _ hd]

/-! ## What an issue leaves of its wave -/

@[simp] theorem Wave.addSplit_asid (w : Wave) (p : Split) : (w.addSplit p).asid = w.asid := by unfold Wave.addSplit; split <;> rfl
@[simp] theorem Wave.checkNote_asid (x : Wave) (r : Row) (h : Hdr) (m : Lanes) (c : Nat) : (x.checkNote r h m c).asid = x.asid := by
  unfold Wave.checkNote; repeat' split
  all_goals rfl
@[simp] theorem Wave.moveTo_asid (w : Wave) (m : Lanes) (pc : PC) (st : SplitSt) (c : Nat) : (w.moveTo m pc st c).asid = w.asid := by
  unfold Wave.moveTo; rw [Wave.addSplit_asid]; rfl
@[simp] theorem Wave.issued_asid (x : Wave) (i : Instr) (r : Row) (h : Hdr) (m p : Lanes) (pc : PC) (c op : Nat) (z : Option Nat) :
    (x.issued i r h m p pc c op z).asid = x.asid := by
  unfold Wave.issued; simp only []; split
  · simp [Wave.postOp]
  · simp
@[simp] theorem Wave.addSplit_launched (w : Wave) (p : Split) : (w.addSplit p).launched = w.launched := by unfold Wave.addSplit; split <;> rfl
@[simp] theorem Wave.checkNote_launched (x : Wave) (r : Row) (h : Hdr) (m : Lanes) (c : Nat) : (x.checkNote r h m c).launched = x.launched := by
  unfold Wave.checkNote; repeat' split
  all_goals rfl
@[simp] theorem Wave.moveTo_launched (w : Wave) (m : Lanes) (pc : PC) (st : SplitSt) (c : Nat) : (w.moveTo m pc st c).launched = w.launched := by
  unfold Wave.moveTo; rw [Wave.addSplit_launched]; rfl
@[simp] theorem Wave.issued_launched (x : Wave) (i : Instr) (r : Row) (h : Hdr) (m p : Lanes) (pc : PC) (c op : Nat) (z : Option Nat) :
    (x.issued i r h m p pc c op z).launched = x.launched := by
  unfold Wave.issued; simp only []; split
  · simp [Wave.postOp]
  · simp
@[simp] theorem Wave.addSplit_v (w : Wave) (p : Split) : (w.addSplit p).v = w.v := by unfold Wave.addSplit; split <;> rfl
@[simp] theorem Wave.checkNote_v (x : Wave) (r : Row) (h : Hdr) (m : Lanes) (c : Nat) : (x.checkNote r h m c).v = x.v := by
  unfold Wave.checkNote; repeat' split
  all_goals rfl
@[simp] theorem Wave.moveTo_v (w : Wave) (m : Lanes) (pc : PC) (st : SplitSt) (c : Nat) : (w.moveTo m pc st c).v = w.v := by
  unfold Wave.moveTo; rw [Wave.addSplit_v]; rfl
@[simp] theorem Wave.issued_v (x : Wave) (i : Instr) (r : Row) (h : Hdr) (m p : Lanes) (pc : PC) (c op : Nat) (z : Option Nat) :
    (x.issued i r h m p pc c op z).v = x.v := by
  unfold Wave.issued; simp only []; split
  · simp [Wave.postOp]
  · simp
@[simp] theorem Wave.addSplit_s (w : Wave) (p : Split) : (w.addSplit p).s = w.s := by unfold Wave.addSplit; split <;> rfl
@[simp] theorem Wave.checkNote_s (x : Wave) (r : Row) (h : Hdr) (m : Lanes) (c : Nat) : (x.checkNote r h m c).s = x.s := by
  unfold Wave.checkNote; repeat' split
  all_goals rfl
@[simp] theorem Wave.moveTo_s (w : Wave) (m : Lanes) (pc : PC) (st : SplitSt) (c : Nat) : (w.moveTo m pc st c).s = w.s := by
  unfold Wave.moveTo; rw [Wave.addSplit_s]; rfl
@[simp] theorem Wave.issued_s (x : Wave) (i : Instr) (r : Row) (h : Hdr) (m p : Lanes) (pc : PC) (c op : Nat) (z : Option Nat) :
    (x.issued i r h m p pc c op z).s = x.s := by
  unfold Wave.issued; simp only []; split
  · simp [Wave.postOp]
  · simp
@[simp] theorem Wave.addSplit_p (w : Wave) (p : Split) : (w.addSplit p).p = w.p := by unfold Wave.addSplit; split <;> rfl
@[simp] theorem Wave.checkNote_p (x : Wave) (r : Row) (h : Hdr) (m : Lanes) (c : Nat) : (x.checkNote r h m c).p = x.p := by
  unfold Wave.checkNote; repeat' split
  all_goals rfl
@[simp] theorem Wave.moveTo_p (w : Wave) (m : Lanes) (pc : PC) (st : SplitSt) (c : Nat) : (w.moveTo m pc st c).p = w.p := by
  unfold Wave.moveTo; rw [Wave.addSplit_p]; rfl
@[simp] theorem Wave.issued_p (x : Wave) (i : Instr) (r : Row) (h : Hdr) (m p : Lanes) (pc : PC) (c op : Nat) (z : Option Nat) :
    (x.issued i r h m p pc c op z).p = x.p := by
  unfold Wave.issued; simp only []; split
  · simp [Wave.postOp]
  · simp
@[simp] theorem Wave.addSplit_j (w : Wave) (p : Split) : (w.addSplit p).j = w.j := by unfold Wave.addSplit; split <;> rfl
@[simp] theorem Wave.checkNote_j (x : Wave) (r : Row) (h : Hdr) (m : Lanes) (c : Nat) : (x.checkNote r h m c).j = x.j := by
  unfold Wave.checkNote; repeat' split
  all_goals rfl
@[simp] theorem Wave.moveTo_j (w : Wave) (m : Lanes) (pc : PC) (st : SplitSt) (c : Nat) : (w.moveTo m pc st c).j = w.j := by
  unfold Wave.moveTo; rw [Wave.addSplit_j]; rfl
@[simp] theorem Wave.issued_j (x : Wave) (i : Instr) (r : Row) (h : Hdr) (m p : Lanes) (pc : PC) (c op : Nat) (z : Option Nat) :
    (x.issued i r h m p pc c op z).j = x.j := by
  unfold Wave.issued; simp only []; split
  · simp [Wave.postOp]
  · simp
@[simp] theorem Wave.addSplit_falls (w : Wave) (p : Split) : (w.addSplit p).falls = w.falls := by unfold Wave.addSplit; split <;> rfl
@[simp] theorem Wave.checkNote_falls (x : Wave) (r : Row) (h : Hdr) (m : Lanes) (c : Nat) : (x.checkNote r h m c).falls = x.falls := by
  unfold Wave.checkNote; repeat' split
  all_goals rfl
@[simp] theorem Wave.moveTo_falls (w : Wave) (m : Lanes) (pc : PC) (st : SplitSt) (c : Nat) : (w.moveTo m pc st c).falls = w.falls := by
  unfold Wave.moveTo; rw [Wave.addSplit_falls]; rfl
@[simp] theorem Wave.issued_falls (x : Wave) (i : Instr) (r : Row) (h : Hdr) (m p : Lanes) (pc : PC) (c op : Nat) (z : Option Nat) :
    (x.issued i r h m p pc c op z).falls = x.falls := by
  unfold Wave.issued; simp only []; split
  · simp [Wave.postOp]
  · simp
@[simp] theorem Wave.addSplit_fpctl (w : Wave) (p : Split) : (w.addSplit p).fpctl = w.fpctl := by unfold Wave.addSplit; split <;> rfl
@[simp] theorem Wave.checkNote_fpctl (x : Wave) (r : Row) (h : Hdr) (m : Lanes) (c : Nat) : (x.checkNote r h m c).fpctl = x.fpctl := by
  unfold Wave.checkNote; repeat' split
  all_goals rfl
@[simp] theorem Wave.moveTo_fpctl (w : Wave) (m : Lanes) (pc : PC) (st : SplitSt) (c : Nat) : (w.moveTo m pc st c).fpctl = w.fpctl := by
  unfold Wave.moveTo; rw [Wave.addSplit_fpctl]; rfl
@[simp] theorem Wave.issued_fpctl (x : Wave) (i : Instr) (r : Row) (h : Hdr) (m p : Lanes) (pc : PC) (c op : Nat) (z : Option Nat) :
    (x.issued i r h m p pc c op z).fpctl = x.fpctl := by
  unfold Wave.issued; simp only []; split
  · simp [Wave.postOp]
  · simp
@[simp] theorem Wave.addSplit_chkctl (w : Wave) (p : Split) : (w.addSplit p).chkctl = w.chkctl := by unfold Wave.addSplit; split <;> rfl
@[simp] theorem Wave.checkNote_chkctl (x : Wave) (r : Row) (h : Hdr) (m : Lanes) (c : Nat) : (x.checkNote r h m c).chkctl = x.chkctl := by
  unfold Wave.checkNote; repeat' split
  all_goals rfl
@[simp] theorem Wave.moveTo_chkctl (w : Wave) (m : Lanes) (pc : PC) (st : SplitSt) (c : Nat) : (w.moveTo m pc st c).chkctl = w.chkctl := by
  unfold Wave.moveTo; rw [Wave.addSplit_chkctl]; rfl
@[simp] theorem Wave.issued_chkctl (x : Wave) (i : Instr) (r : Row) (h : Hdr) (m p : Lanes) (pc : PC) (c op : Nat) (z : Option Nat) :
    (x.issued i r h m p pc c op z).chkctl = x.chkctl := by
  unfold Wave.issued; simp only []; split
  · simp [Wave.postOp]
  · simp
@[simp] theorem Wave.addSplit_quota (w : Wave) (p : Split) : (w.addSplit p).quota = w.quota := by unfold Wave.addSplit; split <;> rfl
@[simp] theorem Wave.checkNote_quota (x : Wave) (r : Row) (h : Hdr) (m : Lanes) (c : Nat) : (x.checkNote r h m c).quota = x.quota := by
  unfold Wave.checkNote; repeat' split
  all_goals rfl
@[simp] theorem Wave.moveTo_quota (w : Wave) (m : Lanes) (pc : PC) (st : SplitSt) (c : Nat) : (w.moveTo m pc st c).quota = w.quota := by
  unfold Wave.moveTo; rw [Wave.addSplit_quota]; rfl
@[simp] theorem Wave.issued_quota (x : Wave) (i : Instr) (r : Row) (h : Hdr) (m p : Lanes) (pc : PC) (c op : Nat) (z : Option Nat) :
    (x.issued i r h m p pc c op z).quota = x.quota := by
  unfold Wave.issued; simp only []; split
  · simp [Wave.postOp]
  · simp
@[simp] theorem Wave.addSplit_scalewin (w : Wave) (p : Split) : (w.addSplit p).scalewin = w.scalewin := by unfold Wave.addSplit; split <;> rfl
@[simp] theorem Wave.checkNote_scalewin (x : Wave) (r : Row) (h : Hdr) (m : Lanes) (c : Nat) : (x.checkNote r h m c).scalewin = x.scalewin := by
  unfold Wave.checkNote; repeat' split
  all_goals rfl
@[simp] theorem Wave.moveTo_scalewin (w : Wave) (m : Lanes) (pc : PC) (st : SplitSt) (c : Nat) : (w.moveTo m pc st c).scalewin = w.scalewin := by
  unfold Wave.moveTo; rw [Wave.addSplit_scalewin]; rfl
@[simp] theorem Wave.issued_scalewin (x : Wave) (i : Instr) (r : Row) (h : Hdr) (m p : Lanes) (pc : PC) (c op : Nat) (z : Option Nat) :
    (x.issued i r h m p pc c op z).scalewin = x.scalewin := by
  unfold Wave.issued; simp only []; split
  · simp [Wave.postOp]
  · simp
@[simp] theorem Wave.addSplit_rt (w : Wave) (p : Split) : (w.addSplit p).rt = w.rt := by unfold Wave.addSplit; split <;> rfl
@[simp] theorem Wave.checkNote_rt (x : Wave) (r : Row) (h : Hdr) (m : Lanes) (c : Nat) : (x.checkNote r h m c).rt = x.rt := by
  unfold Wave.checkNote; repeat' split
  all_goals rfl
@[simp] theorem Wave.moveTo_rt (w : Wave) (m : Lanes) (pc : PC) (st : SplitSt) (c : Nat) : (w.moveTo m pc st c).rt = w.rt := by
  unfold Wave.moveTo; rw [Wave.addSplit_rt]; rfl
@[simp] theorem Wave.issued_rt (x : Wave) (i : Instr) (r : Row) (h : Hdr) (m p : Lanes) (pc : PC) (c op : Nat) (z : Option Nat) :
    (x.issued i r h m p pc c op z).rt = x.rt := by
  unfold Wave.issued; simp only []; split
  · simp [Wave.postOp]
  · simp
@[simp] theorem Wave.addSplit_base (w : Wave) (p : Split) : (w.addSplit p).base = w.base := by unfold Wave.addSplit; split <;> rfl
@[simp] theorem Wave.checkNote_base (x : Wave) (r : Row) (h : Hdr) (m : Lanes) (c : Nat) : (x.checkNote r h m c).base = x.base := by
  unfold Wave.checkNote; repeat' split
  all_goals rfl
@[simp] theorem Wave.moveTo_base (w : Wave) (m : Lanes) (pc : PC) (st : SplitSt) (c : Nat) : (w.moveTo m pc st c).base = w.base := by
  unfold Wave.moveTo; rw [Wave.addSplit_base]; rfl
@[simp] theorem Wave.issued_base (x : Wave) (i : Instr) (r : Row) (h : Hdr) (m p : Lanes) (pc : PC) (c op : Nat) (z : Option Nat) :
    (x.issued i r h m p pc c op z).base = x.base := by
  unfold Wave.issued; simp only []; split
  · simp [Wave.postOp]
  · simp
@[simp] theorem Wave.addSplit_level (w : Wave) (p : Split) : (w.addSplit p).level = w.level := by unfold Wave.addSplit; split <;> rfl
@[simp] theorem Wave.checkNote_level (x : Wave) (r : Row) (h : Hdr) (m : Lanes) (c : Nat) : (x.checkNote r h m c).level = x.level := by
  unfold Wave.checkNote; repeat' split
  all_goals rfl
@[simp] theorem Wave.moveTo_level (w : Wave) (m : Lanes) (pc : PC) (st : SplitSt) (c : Nat) : (w.moveTo m pc st c).level = w.level := by
  unfold Wave.moveTo; rw [Wave.addSplit_level]; rfl
@[simp] theorem Wave.issued_level (x : Wave) (i : Instr) (r : Row) (h : Hdr) (m p : Lanes) (pc : PC) (c op : Nat) (z : Option Nat) :
    (x.issued i r h m p pc c op z).level = x.level := by
  unfold Wave.issued; simp only []; split
  · simp [Wave.postOp]
  · simp
@[simp] theorem Wave.addSplit_poll (w : Wave) (p : Split) : (w.addSplit p).poll = w.poll := by unfold Wave.addSplit; split <;> rfl
@[simp] theorem Wave.checkNote_poll (x : Wave) (r : Row) (h : Hdr) (m : Lanes) (c : Nat) : (x.checkNote r h m c).poll = x.poll := by
  unfold Wave.checkNote; repeat' split
  all_goals rfl
@[simp] theorem Wave.moveTo_poll (w : Wave) (m : Lanes) (pc : PC) (st : SplitSt) (c : Nat) : (w.moveTo m pc st c).poll = w.poll := by
  unfold Wave.moveTo; rw [Wave.addSplit_poll]; rfl
@[simp] theorem Wave.issued_poll (x : Wave) (i : Instr) (r : Row) (h : Hdr) (m p : Lanes) (pc : PC) (c op : Nat) (z : Option Nat) :
    (x.issued i r h m p pc c op z).poll = x.poll := by
  unfold Wave.issued; simp only []; split
  · simp [Wave.postOp]
  · simp
@[simp] theorem Wave.addSplit_argp (w : Wave) (p : Split) : (w.addSplit p).argp = w.argp := by unfold Wave.addSplit; split <;> rfl
@[simp] theorem Wave.checkNote_argp (x : Wave) (r : Row) (h : Hdr) (m : Lanes) (c : Nat) : (x.checkNote r h m c).argp = x.argp := by
  unfold Wave.checkNote; repeat' split
  all_goals rfl
@[simp] theorem Wave.moveTo_argp (w : Wave) (m : Lanes) (pc : PC) (st : SplitSt) (c : Nat) : (w.moveTo m pc st c).argp = w.argp := by
  unfold Wave.moveTo; rw [Wave.addSplit_argp]; rfl
@[simp] theorem Wave.issued_argp (x : Wave) (i : Instr) (r : Row) (h : Hdr) (m p : Lanes) (pc : PC) (c op : Nat) (z : Option Nat) :
    (x.issued i r h m p pc c op z).argp = x.argp := by
  unfold Wave.issued; simp only []; split
  · simp [Wave.postOp]
  · simp
@[simp] theorem Wave.addSplit_crewNo (w : Wave) (p : Split) : (w.addSplit p).crewNo = w.crewNo := by unfold Wave.addSplit; split <;> rfl
@[simp] theorem Wave.checkNote_crewNo (x : Wave) (r : Row) (h : Hdr) (m : Lanes) (c : Nat) : (x.checkNote r h m c).crewNo = x.crewNo := by
  unfold Wave.checkNote; repeat' split
  all_goals rfl
@[simp] theorem Wave.moveTo_crewNo (w : Wave) (m : Lanes) (pc : PC) (st : SplitSt) (c : Nat) : (w.moveTo m pc st c).crewNo = w.crewNo := by
  unfold Wave.moveTo; rw [Wave.addSplit_crewNo]; rfl
@[simp] theorem Wave.issued_crewNo (x : Wave) (i : Instr) (r : Row) (h : Hdr) (m p : Lanes) (pc : PC) (c op : Nat) (z : Option Nat) :
    (x.issued i r h m p pc c op z).crewNo = x.crewNo := by
  unfold Wave.issued; simp only []; split
  · simp [Wave.postOp]
  · simp
@[simp] theorem Wave.addSplit_tasks (w : Wave) (p : Split) : (w.addSplit p).tasks = w.tasks := by unfold Wave.addSplit; split <;> rfl
@[simp] theorem Wave.checkNote_tasks (x : Wave) (r : Row) (h : Hdr) (m : Lanes) (c : Nat) : (x.checkNote r h m c).tasks = x.tasks := by
  unfold Wave.checkNote; repeat' split
  all_goals rfl
@[simp] theorem Wave.moveTo_tasks (w : Wave) (m : Lanes) (pc : PC) (st : SplitSt) (c : Nat) : (w.moveTo m pc st c).tasks = w.tasks := by
  unfold Wave.moveTo; rw [Wave.addSplit_tasks]; rfl
@[simp] theorem Wave.issued_tasks (x : Wave) (i : Instr) (r : Row) (h : Hdr) (m p : Lanes) (pc : PC) (c op : Nat) (z : Option Nat) :
    (x.issued i r h m p pc c op z).tasks = x.tasks := by
  unfold Wave.issued; simp only []; split
  · simp [Wave.postOp]
  · simp
@[simp] theorem Wave.addSplit_taskQueue (w : Wave) (p : Split) : (w.addSplit p).taskQueue = w.taskQueue := by unfold Wave.addSplit; split <;> rfl
@[simp] theorem Wave.checkNote_taskQueue (x : Wave) (r : Row) (h : Hdr) (m : Lanes) (c : Nat) : (x.checkNote r h m c).taskQueue = x.taskQueue := by
  unfold Wave.checkNote; repeat' split
  all_goals rfl
@[simp] theorem Wave.moveTo_taskQueue (w : Wave) (m : Lanes) (pc : PC) (st : SplitSt) (c : Nat) : (w.moveTo m pc st c).taskQueue = w.taskQueue := by
  unfold Wave.moveTo; rw [Wave.addSplit_taskQueue]; rfl
@[simp] theorem Wave.issued_taskQueue (x : Wave) (i : Instr) (r : Row) (h : Hdr) (m p : Lanes) (pc : PC) (c op : Nat) (z : Option Nat) :
    (x.issued i r h m p pc c op z).taskQueue = x.taskQueue := by
  unfold Wave.issued; simp only []; split
  · simp [Wave.postOp]
  · simp
@[simp] theorem Wave.addSplit_abase (w : Wave) (p : Split) : (w.addSplit p).abase = w.abase := by unfold Wave.addSplit; split <;> rfl
@[simp] theorem Wave.checkNote_abase (x : Wave) (r : Row) (h : Hdr) (m : Lanes) (c : Nat) : (x.checkNote r h m c).abase = x.abase := by
  unfold Wave.checkNote; repeat' split
  all_goals rfl
@[simp] theorem Wave.moveTo_abase (w : Wave) (m : Lanes) (pc : PC) (st : SplitSt) (c : Nat) : (w.moveTo m pc st c).abase = w.abase := by
  unfold Wave.moveTo; rw [Wave.addSplit_abase]; rfl
@[simp] theorem Wave.issued_abase (x : Wave) (i : Instr) (r : Row) (h : Hdr) (m p : Lanes) (pc : PC) (c op : Nat) (z : Option Nat) :
    (x.issued i r h m p pc c op z).abase = x.abase := by
  unfold Wave.issued; simp only []; split
  · simp [Wave.postOp]
  · simp
@[simp] theorem Wave.addSplit_abytes (w : Wave) (p : Split) : (w.addSplit p).abytes = w.abytes := by unfold Wave.addSplit; split <;> rfl
@[simp] theorem Wave.checkNote_abytes (x : Wave) (r : Row) (h : Hdr) (m : Lanes) (c : Nat) : (x.checkNote r h m c).abytes = x.abytes := by
  unfold Wave.checkNote; repeat' split
  all_goals rfl
@[simp] theorem Wave.moveTo_abytes (w : Wave) (m : Lanes) (pc : PC) (st : SplitSt) (c : Nat) : (w.moveTo m pc st c).abytes = w.abytes := by
  unfold Wave.moveTo; rw [Wave.addSplit_abytes]; rfl
@[simp] theorem Wave.issued_abytes (x : Wave) (i : Instr) (r : Row) (h : Hdr) (m p : Lanes) (pc : PC) (c op : Nat) (z : Option Nat) :
    (x.issued i r h m p pc c op z).abytes = x.abytes := by
  unfold Wave.issued; simp only []; split
  · simp [Wave.postOp]
  · simp
@[simp] theorem Wave.addSplit_waveObj (w : Wave) (p : Split) : (w.addSplit p).waveObj = w.waveObj := by unfold Wave.addSplit; split <;> rfl
@[simp] theorem Wave.checkNote_waveObj (x : Wave) (r : Row) (h : Hdr) (m : Lanes) (c : Nat) : (x.checkNote r h m c).waveObj = x.waveObj := by
  unfold Wave.checkNote; repeat' split
  all_goals rfl
@[simp] theorem Wave.moveTo_waveObj (w : Wave) (m : Lanes) (pc : PC) (st : SplitSt) (c : Nat) : (w.moveTo m pc st c).waveObj = w.waveObj := by
  unfold Wave.moveTo; rw [Wave.addSplit_waveObj]; rfl
@[simp] theorem Wave.issued_waveObj (x : Wave) (i : Instr) (r : Row) (h : Hdr) (m p : Lanes) (pc : PC) (c op : Nat) (z : Option Nat) :
    (x.issued i r h m p pc c op z).waveObj = x.waveObj := by
  unfold Wave.issued; simp only []; split
  · simp [Wave.postOp]
  · simp
@[simp] theorem Wave.addSplit_exitCtr (w : Wave) (p : Split) : (w.addSplit p).exitCtr = w.exitCtr := by unfold Wave.addSplit; split <;> rfl
@[simp] theorem Wave.checkNote_exitCtr (x : Wave) (r : Row) (h : Hdr) (m : Lanes) (c : Nat) : (x.checkNote r h m c).exitCtr = x.exitCtr := by
  unfold Wave.checkNote; repeat' split
  all_goals rfl
@[simp] theorem Wave.moveTo_exitCtr (w : Wave) (m : Lanes) (pc : PC) (st : SplitSt) (c : Nat) : (w.moveTo m pc st c).exitCtr = w.exitCtr := by
  unfold Wave.moveTo; rw [Wave.addSplit_exitCtr]; rfl
@[simp] theorem Wave.issued_exitCtr (x : Wave) (i : Instr) (r : Row) (h : Hdr) (m p : Lanes) (pc : PC) (c op : Nat) (z : Option Nat) :
    (x.issued i r h m p pc c op z).exitCtr = x.exitCtr := by
  unfold Wave.issued; simp only []; split
  · simp [Wave.postOp]
  · simp
@[simp] theorem Wave.addSplit_pend (w : Wave) (p : Split) : (w.addSplit p).pend = w.pend := by unfold Wave.addSplit; split <;> rfl
@[simp] theorem Wave.checkNote_pend (x : Wave) (r : Row) (h : Hdr) (m : Lanes) (c : Nat) : (x.checkNote r h m c).pend = x.pend := by
  unfold Wave.checkNote; repeat' split
  all_goals rfl
@[simp] theorem Wave.moveTo_pend (w : Wave) (m : Lanes) (pc : PC) (st : SplitSt) (c : Nat) : (w.moveTo m pc st c).pend = w.pend := by
  unfold Wave.moveTo; rw [Wave.addSplit_pend]; rfl
@[simp] theorem Wave.issued_pend (x : Wave) (i : Instr) (r : Row) (h : Hdr) (m p : Lanes) (pc : PC) (c op : Nat) (z : Option Nat) :
    (x.issued i r h m p pc c op z).pend = x.pend := by
  unfold Wave.issued; simp only []; split
  · simp [Wave.postOp]
  · simp
@[simp] theorem Wave.addSplit_outs (w : Wave) (p : Split) : (w.addSplit p).outs = w.outs := by unfold Wave.addSplit; split <;> rfl
@[simp] theorem Wave.checkNote_outs (x : Wave) (r : Row) (h : Hdr) (m : Lanes) (c : Nat) : (x.checkNote r h m c).outs = x.outs := by
  unfold Wave.checkNote; repeat' split
  all_goals rfl
@[simp] theorem Wave.moveTo_outs (w : Wave) (m : Lanes) (pc : PC) (st : SplitSt) (c : Nat) : (w.moveTo m pc st c).outs = w.outs := by
  unfold Wave.moveTo; rw [Wave.addSplit_outs]; rfl
@[simp] theorem Wave.issued_outs (x : Wave) (i : Instr) (r : Row) (h : Hdr) (m p : Lanes) (pc : PC) (c op : Nat) (z : Option Nat) :
    (x.issued i r h m p pc c op z).outs = x.outs := by
  unfold Wave.issued; simp only []; split
  · simp [Wave.postOp]
  · simp
@[simp] theorem Wave.addSplit_barW (w : Wave) (p : Split) : (w.addSplit p).barW = w.barW := by unfold Wave.addSplit; split <;> rfl
@[simp] theorem Wave.checkNote_barW (x : Wave) (r : Row) (h : Hdr) (m : Lanes) (c : Nat) : (x.checkNote r h m c).barW = x.barW := by
  unfold Wave.checkNote; repeat' split
  all_goals rfl
@[simp] theorem Wave.moveTo_barW (w : Wave) (m : Lanes) (pc : PC) (st : SplitSt) (c : Nat) : (w.moveTo m pc st c).barW = w.barW := by
  unfold Wave.moveTo; rw [Wave.addSplit_barW]; rfl
@[simp] theorem Wave.issued_barW (x : Wave) (i : Instr) (r : Row) (h : Hdr) (m p : Lanes) (pc : PC) (c op : Nat) (z : Option Nat) :
    (x.issued i r h m p pc c op z).barW = x.barW := by
  unfold Wave.issued; simp only []; split
  · simp [Wave.postOp]
  · simp
@[simp] theorem Wave.addSplit_barQ (w : Wave) (p : Split) : (w.addSplit p).barQ = w.barQ := by unfold Wave.addSplit; split <;> rfl
@[simp] theorem Wave.checkNote_barQ (x : Wave) (r : Row) (h : Hdr) (m : Lanes) (c : Nat) : (x.checkNote r h m c).barQ = x.barQ := by
  unfold Wave.checkNote; repeat' split
  all_goals rfl
@[simp] theorem Wave.moveTo_barQ (w : Wave) (m : Lanes) (pc : PC) (st : SplitSt) (c : Nat) : (w.moveTo m pc st c).barQ = w.barQ := by
  unfold Wave.moveTo; rw [Wave.addSplit_barQ]; rfl
@[simp] theorem Wave.issued_barQ (x : Wave) (i : Instr) (r : Row) (h : Hdr) (m p : Lanes) (pc : PC) (c op : Nat) (z : Option Nat) :
    (x.issued i r h m p pc c op z).barQ = x.barQ := by
  unfold Wave.issued; simp only []; split
  · simp [Wave.postOp]
  · simp
@[simp] theorem Wave.addSplit_scFence (w : Wave) (p : Split) : (w.addSplit p).scFence = w.scFence := by unfold Wave.addSplit; split <;> rfl
@[simp] theorem Wave.checkNote_scFence (x : Wave) (r : Row) (h : Hdr) (m : Lanes) (c : Nat) : (x.checkNote r h m c).scFence = x.scFence := by
  unfold Wave.checkNote; repeat' split
  all_goals rfl
@[simp] theorem Wave.moveTo_scFence (w : Wave) (m : Lanes) (pc : PC) (st : SplitSt) (c : Nat) : (w.moveTo m pc st c).scFence = w.scFence := by
  unfold Wave.moveTo; rw [Wave.addSplit_scFence]; rfl
@[simp] theorem Wave.issued_scFence (x : Wave) (i : Instr) (r : Row) (h : Hdr) (m p : Lanes) (pc : PC) (c op : Nat) (z : Option Nat) :
    (x.issued i r h m p pc c op z).scFence = x.scFence := by
  unfold Wave.issued; simp only []; split
  · simp [Wave.postOp]
  · simp
@[simp] theorem Wave.addSplit_cuts (w : Wave) (p : Split) : (w.addSplit p).cuts = w.cuts := by unfold Wave.addSplit; split <;> rfl
@[simp] theorem Wave.checkNote_cuts (x : Wave) (r : Row) (h : Hdr) (m : Lanes) (c : Nat) : (x.checkNote r h m c).cuts = x.cuts := by
  unfold Wave.checkNote; repeat' split
  all_goals rfl
@[simp] theorem Wave.moveTo_cuts (w : Wave) (m : Lanes) (pc : PC) (st : SplitSt) (c : Nat) : (w.moveTo m pc st c).cuts = w.cuts := by
  unfold Wave.moveTo; rw [Wave.addSplit_cuts]; rfl
@[simp] theorem Wave.issued_cuts (x : Wave) (i : Instr) (r : Row) (h : Hdr) (m p : Lanes) (pc : PC) (c op : Nat) (z : Option Nat) :
    (x.issued i r h m p pc c op z).cuts = x.cuts := by
  unfold Wave.issued; simp only []; split
  · simp [Wave.postOp]
  · simp
@[simp] theorem Wave.addSplit_bad (w : Wave) (p : Split) : (w.addSplit p).bad = w.bad := by unfold Wave.addSplit; split <;> rfl
@[simp] theorem Wave.checkNote_bad (x : Wave) (r : Row) (h : Hdr) (m : Lanes) (c : Nat) : (x.checkNote r h m c).bad = x.bad := by
  unfold Wave.checkNote; repeat' split
  all_goals rfl
@[simp] theorem Wave.moveTo_bad (w : Wave) (m : Lanes) (pc : PC) (st : SplitSt) (c : Nat) : (w.moveTo m pc st c).bad = w.bad := by
  unfold Wave.moveTo; rw [Wave.addSplit_bad]; rfl
@[simp] theorem Wave.issued_bad (x : Wave) (i : Instr) (r : Row) (h : Hdr) (m p : Lanes) (pc : PC) (c op : Nat) (z : Option Nat) :
    (x.issued i r h m p pc c op z).bad = x.bad := by
  unfold Wave.issued; simp only []; split
  · simp [Wave.postOp]
  · simp
@[simp] theorem Wave.addSplit_made (w : Wave) (p : Split) : (w.addSplit p).made = w.made := by unfold Wave.addSplit; split <;> rfl
@[simp] theorem Wave.checkNote_made (x : Wave) (r : Row) (h : Hdr) (m : Lanes) (c : Nat) : (x.checkNote r h m c).made = x.made := by
  unfold Wave.checkNote; repeat' split
  all_goals rfl
@[simp] theorem Wave.moveTo_made (w : Wave) (m : Lanes) (pc : PC) (st : SplitSt) (c : Nat) : (w.moveTo m pc st c).made = w.made := by
  unfold Wave.moveTo; rw [Wave.addSplit_made]; rfl
@[simp] theorem Wave.issued_made (x : Wave) (i : Instr) (r : Row) (h : Hdr) (m p : Lanes) (pc : PC) (c op : Nat) (z : Option Nat) :
    (x.issued i r h m p pc c op z).made = x.made := by
  unfold Wave.issued; simp only []; split
  · simp [Wave.postOp]
  · simp
@[simp] theorem Wave.addSplit_raised (w : Wave) (p : Split) : (w.addSplit p).raised = w.raised := by unfold Wave.addSplit; split <;> rfl
@[simp] theorem Wave.checkNote_raised (x : Wave) (r : Row) (h : Hdr) (m : Lanes) (c : Nat) : (x.checkNote r h m c).raised = x.raised := by
  unfold Wave.checkNote; repeat' split
  all_goals rfl
@[simp] theorem Wave.moveTo_raised (w : Wave) (m : Lanes) (pc : PC) (st : SplitSt) (c : Nat) : (w.moveTo m pc st c).raised = w.raised := by
  unfold Wave.moveTo; rw [Wave.addSplit_raised]; rfl
@[simp] theorem Wave.issued_raised (x : Wave) (i : Instr) (r : Row) (h : Hdr) (m p : Lanes) (pc : PC) (c op : Nat) (z : Option Nat) :
    (x.issued i r h m p pc c op z).raised = x.raised := by
  unfold Wave.issued; simp only []; split
  · simp [Wave.postOp]
  · simp

/-! ## The end of an issue, and fixed-latency results -/

/-- A split that is not stepped: at most the cursor changes. -/
theorem finish_of_not_step {k : Ctx} (hk : k.step = false) (t : State) :
    finish k t =
      if k.pair then
        { t with cursor := some ⟨k.core, k.wave, nextPc k.pc, k.lanes, false, some k.h.stall.toNat⟩ }
      else t := by
  simp [finish, hk]

/-- A fixed-latency result with no passing lane. -/
theorem fixed_of_none {k : Ctx} (h : k.pass = 0) (lat : Nat) (w : PWrite) (s : State) : fixed k lat w s = s := by
  simp [fixed, h]

theorem fixed_of_some {k : Ctx} (h : k.pass ≠ 0) (lat : Nat) (w : PWrite) (s : State) :
    fixed k lat w s = s.onWave k (fun y => { y with pend := y.pend ++
      [{ w with due := k.clock + lat - 1, early := k.clock + lat - 1, num := k.op }] }) := by
  unfold fixed; rw [if_neg h]

@[simp] theorem fixed_clock (k : Ctx) (lat : Nat) (w : PWrite) (s : State) : (fixed k lat w s).clock = s.clock := by
  unfold fixed; split <;> simp [State.onWave]
@[simp] theorem tokenWrite_clock (k : Ctx) (due : Nat) (d : Bool) (w : PWrite) (s : State) : (tokenWrite k due d w s).clock = s.clock := by
  unfold tokenWrite; split <;> simp [State.onWave]
@[simp] theorem fixed_cursor (k : Ctx) (lat : Nat) (w : PWrite) (s : State) : (fixed k lat w s).cursor = s.cursor := by
  unfold fixed; split <;> simp [State.onWave]
@[simp] theorem tokenWrite_cursor (k : Ctx) (due : Nat) (d : Bool) (w : PWrite) (s : State) : (tokenWrite k due d w s).cursor = s.cursor := by
  unfold tokenWrite; split <;> simp [State.onWave]
@[simp] theorem fixed_agenda (k : Ctx) (lat : Nat) (w : PWrite) (s : State) : (fixed k lat w s).agenda = s.agenda := by
  unfold fixed; split <;> simp [State.onWave]
@[simp] theorem tokenWrite_agenda (k : Ctx) (due : Nat) (d : Bool) (w : PWrite) (s : State) : (tokenWrite k due d w s).agenda = s.agenda := by
  unfold tokenWrite; split <;> simp [State.onWave]
@[simp] theorem fixed_freeCtr (k : Ctx) (lat : Nat) (w : PWrite) (s : State) : (fixed k lat w s).freeCtr = s.freeCtr := by
  unfold fixed; split <;> simp [State.onWave]
@[simp] theorem tokenWrite_freeCtr (k : Ctx) (due : Nat) (d : Bool) (w : PWrite) (s : State) : (tokenWrite k due d w s).freeCtr = s.freeCtr := by
  unfold tokenWrite; split <;> simp [State.onWave]
@[simp] theorem fixed_nextId (k : Ctx) (lat : Nat) (w : PWrite) (s : State) : (fixed k lat w s).nextId = s.nextId := by
  unfold fixed; split <;> simp [State.onWave]
@[simp] theorem tokenWrite_nextId (k : Ctx) (due : Nat) (d : Bool) (w : PWrite) (s : State) : (tokenWrite k due d w s).nextId = s.nextId := by
  unfold tokenWrite; split <;> simp [State.onWave]
@[simp] theorem fixed_mem (k : Ctx) (lat : Nat) (w : PWrite) (s : State) : (fixed k lat w s).mem = s.mem := by
  unfold fixed; split <;> simp [State.onWave]
@[simp] theorem tokenWrite_mem (k : Ctx) (due : Nat) (d : Bool) (w : PWrite) (s : State) : (tokenWrite k due d w s).mem = s.mem := by
  unfold tokenWrite; split <;> simp [State.onWave]
@[simp] theorem fixed_hostMem (k : Ctx) (lat : Nat) (w : PWrite) (s : State) : (fixed k lat w s).hostMem = s.hostMem := by
  unfold fixed; split <;> simp [State.onWave]
@[simp] theorem tokenWrite_hostMem (k : Ctx) (due : Nat) (d : Bool) (w : PWrite) (s : State) : (tokenWrite k due d w s).hostMem = s.hostMem := by
  unfold tokenWrite; split <;> simp [State.onWave]
@[simp] theorem fixed_lineTs (k : Ctx) (lat : Nat) (w : PWrite) (s : State) : (fixed k lat w s).lineTs = s.lineTs := by
  unfold fixed; split <;> simp [State.onWave]
@[simp] theorem tokenWrite_lineTs (k : Ctx) (due : Nat) (d : Bool) (w : PWrite) (s : State) : (tokenWrite k due d w s).lineTs = s.lineTs := by
  unfold tokenWrite; split <;> simp [State.onWave]
@[simp] theorem fixed_sliceM (k : Ctx) (lat : Nat) (w : PWrite) (s : State) : (fixed k lat w s).sliceM = s.sliceM := by
  unfold fixed; split <;> simp [State.onWave]
@[simp] theorem tokenWrite_sliceM (k : Ctx) (due : Nat) (d : Bool) (w : PWrite) (s : State) : (tokenWrite k due d w s).sliceM = s.sliceM := by
  unfold tokenWrite; split <;> simp [State.onWave]
@[simp] theorem fixed_strictTs (k : Ctx) (lat : Nat) (w : PWrite) (s : State) : (fixed k lat w s).strictTs = s.strictTs := by
  unfold fixed; split <;> simp [State.onWave]
@[simp] theorem tokenWrite_strictTs (k : Ctx) (due : Nat) (d : Bool) (w : PWrite) (s : State) : (tokenWrite k due d w s).strictTs = s.strictTs := by
  unfold tokenWrite; split <;> simp [State.onWave]
@[simp] theorem fixed_outTime (k : Ctx) (lat : Nat) (w : PWrite) (s : State) : (fixed k lat w s).outTime = s.outTime := by
  unfold fixed; split <;> simp [State.onWave]
@[simp] theorem tokenWrite_outTime (k : Ctx) (due : Nat) (d : Bool) (w : PWrite) (s : State) : (tokenWrite k due d w s).outTime = s.outTime := by
  unfold tokenWrite; split <;> simp [State.onWave]
@[simp] theorem fixed_clusters (k : Ctx) (lat : Nat) (w : PWrite) (s : State) : (fixed k lat w s).clusters = s.clusters := by
  unfold fixed; split <;> simp [State.onWave]
@[simp] theorem tokenWrite_clusters (k : Ctx) (due : Nat) (d : Bool) (w : PWrite) (s : State) : (tokenWrite k due d w s).clusters = s.clusters := by
  unfold tokenWrite; split <;> simp [State.onWave]
@[simp] theorem fixed_locks (k : Ctx) (lat : Nat) (w : PWrite) (s : State) : (fixed k lat w s).locks = s.locks := by
  unfold fixed; split <;> simp [State.onWave]
@[simp] theorem tokenWrite_locks (k : Ctx) (due : Nat) (d : Bool) (w : PWrite) (s : State) : (tokenWrite k due d w s).locks = s.locks := by
  unfold tokenWrite; split <;> simp [State.onWave]
@[simp] theorem fixed_lineQ (k : Ctx) (lat : Nat) (w : PWrite) (s : State) : (fixed k lat w s).lineQ = s.lineQ := by
  unfold fixed; split <;> simp [State.onWave]
@[simp] theorem tokenWrite_lineQ (k : Ctx) (due : Nat) (d : Bool) (w : PWrite) (s : State) : (tokenWrite k due d w s).lineQ = s.lineQ := by
  unfold tokenWrite; split <;> simp [State.onWave]
@[simp] theorem fixed_held (k : Ctx) (lat : Nat) (w : PWrite) (s : State) : (fixed k lat w s).held = s.held := by
  unfold fixed; split <;> simp [State.onWave]
@[simp] theorem tokenWrite_held (k : Ctx) (due : Nat) (d : Bool) (w : PWrite) (s : State) : (tokenWrite k due d w s).held = s.held := by
  unfold tokenWrite; split <;> simp [State.onWave]
@[simp] theorem fixed_reqs (k : Ctx) (lat : Nat) (w : PWrite) (s : State) : (fixed k lat w s).reqs = s.reqs := by
  unfold fixed; split <;> simp [State.onWave]
@[simp] theorem tokenWrite_reqs (k : Ctx) (due : Nat) (d : Bool) (w : PWrite) (s : State) : (tokenWrite k due d w s).reqs = s.reqs := by
  unfold tokenWrite; split <;> simp [State.onWave]
@[simp] theorem fixed_writeBacks (k : Ctx) (lat : Nat) (w : PWrite) (s : State) : (fixed k lat w s).writeBacks = s.writeBacks := by
  unfold fixed; split <;> simp [State.onWave]
@[simp] theorem tokenWrite_writeBacks (k : Ctx) (due : Nat) (d : Bool) (w : PWrite) (s : State) : (tokenWrite k due d w s).writeBacks = s.writeBacks := by
  unfold tokenWrite; split <;> simp [State.onWave]
@[simp] theorem fixed_watches (k : Ctx) (lat : Nat) (w : PWrite) (s : State) : (fixed k lat w s).watches = s.watches := by
  unfold fixed; split <;> simp [State.onWave]
@[simp] theorem tokenWrite_watches (k : Ctx) (due : Nat) (d : Bool) (w : PWrite) (s : State) : (tokenWrite k due d w s).watches = s.watches := by
  unfold tokenWrite; split <;> simp [State.onWave]
@[simp] theorem fixed_shoots (k : Ctx) (lat : Nat) (w : PWrite) (s : State) : (fixed k lat w s).shoots = s.shoots := by
  unfold fixed; split <;> simp [State.onWave]
@[simp] theorem fixed_commits (k : Ctx) (lat : Nat) (w : PWrite) (s : State) : (fixed k lat w s).commits = s.commits := by
  unfold fixed; split <;> simp [State.onWave]
@[simp] theorem tokenWrite_shoots (k : Ctx) (due : Nat) (d : Bool) (w : PWrite) (s : State) : (tokenWrite k due d w s).shoots = s.shoots := by
  unfold tokenWrite; split <;> simp [State.onWave]
@[simp] theorem tokenWrite_commits (k : Ctx) (due : Nat) (d : Bool) (w : PWrite) (s : State) : (tokenWrite k due d w s).commits = s.commits := by
  unfold tokenWrite; split <;> simp [State.onWave]
@[simp] theorem fixed_poison (k : Ctx) (lat : Nat) (w : PWrite) (s : State) : (fixed k lat w s).poison = s.poison := by
  unfold fixed; split <;> simp [State.onWave]
@[simp] theorem tokenWrite_poison (k : Ctx) (due : Nat) (d : Bool) (w : PWrite) (s : State) : (tokenWrite k due d w s).poison = s.poison := by
  unfold tokenWrite; split <;> simp [State.onWave]
@[simp] theorem fixed_procs (k : Ctx) (lat : Nat) (w : PWrite) (s : State) : (fixed k lat w s).procs = s.procs := by
  unfold fixed; split <;> simp [State.onWave]
@[simp] theorem tokenWrite_procs (k : Ctx) (due : Nat) (d : Bool) (w : PWrite) (s : State) : (tokenWrite k due d w s).procs = s.procs := by
  unfold tokenWrite; split <;> simp [State.onWave]
@[simp] theorem fixed_objs (k : Ctx) (lat : Nat) (w : PWrite) (s : State) : (fixed k lat w s).objs = s.objs := by
  unfold fixed; split <;> simp [State.onWave]
@[simp] theorem tokenWrite_objs (k : Ctx) (due : Nat) (d : Bool) (w : PWrite) (s : State) : (tokenWrite k due d w s).objs = s.objs := by
  unfold tokenWrite; split <;> simp [State.onWave]
@[simp] theorem fixed_gens (k : Ctx) (lat : Nat) (w : PWrite) (s : State) : (fixed k lat w s).gens = s.gens := by
  unfold fixed; split <;> simp [State.onWave]
@[simp] theorem tokenWrite_gens (k : Ctx) (due : Nat) (d : Bool) (w : PWrite) (s : State) : (tokenWrite k due d w s).gens = s.gens := by
  unfold tokenWrite; split <;> simp [State.onWave]
@[simp] theorem fixed_calls (k : Ctx) (lat : Nat) (w : PWrite) (s : State) : (fixed k lat w s).calls = s.calls := by
  unfold fixed; split <;> simp [State.onWave]
@[simp] theorem tokenWrite_calls (k : Ctx) (due : Nat) (d : Bool) (w : PWrite) (s : State) : (tokenWrite k due d w s).calls = s.calls := by
  unfold tokenWrite; split <;> simp [State.onWave]
@[simp] theorem fixed_waiters (k : Ctx) (lat : Nat) (w : PWrite) (s : State) : (fixed k lat w s).waiters = s.waiters := by
  unfold fixed; split <;> simp [State.onWave]
@[simp] theorem tokenWrite_waiters (k : Ctx) (due : Nat) (d : Bool) (w : PWrite) (s : State) : (tokenWrite k due d w s).waiters = s.waiters := by
  unfold tokenWrite; split <;> simp [State.onWave]
@[simp] theorem fixed_launches (k : Ctx) (lat : Nat) (w : PWrite) (s : State) : (fixed k lat w s).launches = s.launches := by
  unfold fixed; split <;> simp [State.onWave]
@[simp] theorem tokenWrite_launches (k : Ctx) (due : Nat) (d : Bool) (w : PWrite) (s : State) : (tokenWrite k due d w s).launches = s.launches := by
  unfold tokenWrite; split <;> simp [State.onWave]
@[simp] theorem fixed_nextSerial (k : Ctx) (lat : Nat) (w : PWrite) (s : State) : (fixed k lat w s).nextSerial = s.nextSerial := by
  unfold fixed; split <;> simp [State.onWave]
@[simp] theorem tokenWrite_nextSerial (k : Ctx) (due : Nat) (d : Bool) (w : PWrite) (s : State) : (tokenWrite k due d w s).nextSerial = s.nextSerial := by
  unfold tokenWrite; split <;> simp [State.onWave]
@[simp] theorem fixed_gathers (k : Ctx) (lat : Nat) (w : PWrite) (s : State) : (fixed k lat w s).gathers = s.gathers := by
  unfold fixed; split <;> simp [State.onWave]
@[simp] theorem tokenWrite_gathers (k : Ctx) (due : Nat) (d : Bool) (w : PWrite) (s : State) : (tokenWrite k due d w s).gathers = s.gathers := by
  unfold tokenWrite; split <;> simp [State.onWave]
@[simp] theorem fixed_traps (k : Ctx) (lat : Nat) (w : PWrite) (s : State) : (fixed k lat w s).traps = s.traps := by
  unfold fixed; split <;> simp [State.onWave]
@[simp] theorem tokenWrite_traps (k : Ctx) (due : Nat) (d : Bool) (w : PWrite) (s : State) : (tokenWrite k due d w s).traps = s.traps := by
  unfold tokenWrite; split <;> simp [State.onWave]
@[simp] theorem fixed_frames (k : Ctx) (lat : Nat) (w : PWrite) (s : State) : (fixed k lat w s).frames = s.frames := by
  unfold fixed; split <;> simp [State.onWave]
@[simp] theorem tokenWrite_frames (k : Ctx) (due : Nat) (d : Bool) (w : PWrite) (s : State) : (tokenWrite k due d w s).frames = s.frames := by
  unfold tokenWrite; split <;> simp [State.onWave]
@[simp] theorem fixed_framePool (k : Ctx) (lat : Nat) (w : PWrite) (s : State) : (fixed k lat w s).framePool = s.framePool := by
  unfold fixed; split <;> simp [State.onWave]
@[simp] theorem tokenWrite_framePool (k : Ctx) (due : Nat) (d : Bool) (w : PWrite) (s : State) : (tokenWrite k due d w s).framePool = s.framePool := by
  unfold tokenWrite; split <;> simp [State.onWave]
@[simp] theorem fixed_fab (k : Ctx) (lat : Nat) (w : PWrite) (s : State) : (fixed k lat w s).fab = s.fab := by
  unfold fixed; split <;> simp [State.onWave]
@[simp] theorem tokenWrite_fab (k : Ctx) (due : Nat) (d : Bool) (w : PWrite) (s : State) : (tokenWrite k due d w s).fab = s.fab := by
  unfold tokenWrite; split <;> simp [State.onWave]
@[simp] theorem fixed_svc (k : Ctx) (lat : Nat) (w : PWrite) (s : State) : (fixed k lat w s).svc = s.svc := by
  unfold fixed; split <;> simp [State.onWave]
@[simp] theorem tokenWrite_svc (k : Ctx) (due : Nat) (d : Bool) (w : PWrite) (s : State) : (tokenWrite k due d w s).svc = s.svc := by
  unfold tokenWrite; split <;> simp [State.onWave]

end Sys2Proof.Machine
end

