-- ==== Sys2Proof/Laws/Access.lean ====
section
/-! SUPPORT. What an issue leaves of translation, of the physical checks and of the queues: an instruction finds at
`issuedAt` what stood before its issue. -/

namespace Sys2Proof.Machine

section
variable (s : State) (cur : Cursor) (x : Wave) (i : Instr) (r : Row) (h : Hdr)

theorem State.xlate_issuedAt (c op asid va : Nat) :
    (s.issuedAt cur x i r h).xlate c op asid va = s.xlate c op asid va := by
  simp [State.xlate, Core.tlbFind]

@[simp] theorem Ctx.acc_issuedAt (k : Ctx) (need va len : Nat) :
    k.acc (s.issuedAt cur x i r h) need va len = k.acc s need va len := by
  unfold Ctx.acc
  congr 1
  funext a
  exact s.xlate_issuedAt cur x i r h _ _ _ _

@[simp] theorem State.crew?_issuedAt (c : Nat) : (s.issuedAt cur x i r h).crew? c = s.crew? c := by simp [State.crew?]

@[simp] theorem State.tenantOfAsid_issuedAt (a : Nat) : (s.issuedAt cur x i r h).tenantOfAsid a = s.tenantOfAsid a := by
  simp [State.tenantOfAsid]

@[simp] theorem State.placeOf_issuedAt (t : Nat) (leaf : DWord) (pa len : Nat) :
    (s.issuedAt cur x i r h).placeOf t leaf pa len = s.placeOf t leaf pa len := rfl

@[simp] theorem State.physFault_issuedAt (t : Nat) (ps : List Piece) :
    (s.issuedAt cur x i r h).physFault t ps = s.physFault t ps := by
  simp [State.physFault]

@[simp] theorem elemReqs_issuedAt (t : Nat) (q : Req) (ps : List Piece) (va size data : Nat) :
    elemReqs (s.issuedAt cur x i r h) t q ps va size data = elemReqs s t q ps va size data := by
  simp [elemReqs]

@[simp] theorem ldPlan_issuedAt (o : FmtM) (k : Ctx) (l : Nat) :
    ldPlan o k (s.issuedAt cur x i r h) l = ldPlan o k s l := by
  simp [ldPlan, plainAcc, thenPhys]

@[simp] theorem stPlan_issuedAt (o : FmtM) (k : Ctx) (l : Nat) :
    stPlan o k (s.issuedAt cur x i r h) l = stPlan o k s l := by
  simp [stPlan, plainAcc, thenPhys]

@[simp] theorem atomPlan_issuedAt (o : FmtM) (k : Ctx) (l : Nat) (q : Req) :
    atomPlan o k (s.issuedAt cur x i r h) l q = atomPlan o k s l q := by
  simp [atomPlan, plainAcc]

@[simp] theorem ldePlan_issuedAt (o : FmtM) (k : Ctx) (l : Nat) :
    ldePlan o k (s.issuedAt cur x i r h) l = ldePlan o k s l := by
  simp [ldePlan]

@[simp] theorem State.sqView_issuedAt (c z : Nat) : (s.issuedAt cur x i r h).sqView c z = s.sqView c z := by
  simp [State.sqView, Core.sqWord]

@[simp] theorem State.sqHead_issuedAt (c q : Nat) : (s.issuedAt cur x i r h).sqHead c q = s.sqHead c q := by
  simp [State.sqHead]

@[simp] theorem Core.bar_issuedAt (c b : Nat) : ((s.issuedAt cur x i r h).core c).bar b = (s.core c).bar b := by
  simp [Core.bar]

end

/-- A lane's plan in which no lane faults has no fault to take. -/
theorem planFaults_eq_nil {ps : List (Nat × LanePlan)} (h : ∀ e ∈ ps, ∃ rs, e.2 = .ok rs) : planFaults ps = [] := by
  unfold planFaults
  rw [List.filterMap_eq_nil_iff]
  intro e he
  obtain ⟨rs, hr⟩ := h e he
  simp [hr]

/-- No fault: nothing happens. -/
@[simp] theorem State.laneFaults_nil (s : State) (k : Ctx) : s.laneFaults k [] = s := rfl

end Sys2Proof.Machine
end

