-- ==== Sys2Proof/Laws/Lanes.lean ====
section
/-! SUPPORT. Sets of lanes: the list of a set holds its lanes, the set of that list is the set again, and lanes that hold one
value form one group. -/

namespace Sys2Proof.Machine

theorem mem_lanesOf {m : Lanes} {l : Nat} : l ∈ lanesOf m ↔ l < 32 ∧ m.getLsbD l = true := by simp [lanesOf]

theorem laneBit_getLsbD (l i : Nat) : (laneBit l).getLsbD i = (decide (i < 32) && decide (l = i)) := by
  rw [laneBit, BitVec.getLsbD_ofNat, Nat.testBit_two_pow]

theorem laneSet_getLsbD (ls : List Nat) (i : Nat) : (laneSet ls).getLsbD i = (decide (i < 32) && decide (i ∈ ls)) := by
  have key : ∀ m : Lanes, (ls.foldl (fun m l => m ||| laneBit l) m).getLsbD i
      = (m.getLsbD i || (decide (i < 32) && decide (i ∈ ls))) := by
    induction ls with
    | nil => simp
    | cons a t ih =>
      intro m
      rw [List.foldl_cons, ih, BitVec.getLsbD_or, laneBit_getLsbD, Bool.or_assoc, ← Bool.and_or_distrib_left]
      simp [eq_comm]
  exact (key 0).trans (by simp)

/-- The set of the lanes of a set is the set. -/
@[simp] theorem laneSet_lanesOf (m : Lanes) : laneSet (lanesOf m) = m := by
  apply BitVec.eq_of_getLsbD_eq
  intro i hi
  simp only [laneSet_getLsbD, mem_lanesOf, hi, true_and, decide_true, Bool.true_and, Bool.decide_eq_true]

theorem lanesOf_ne_nil {m : Lanes} (h : m ≠ 0) : lanesOf m ≠ [] := by
  intro e
  exact h (by rw [← laneSet_lanesOf m, e]; rfl)

theorem lanesOf_zero : lanesOf 0 = [] := by decide

/-- The set of lanes with one more in front. -/
theorem laneSet_cons (l : Nat) (ls : List Nat) : laneSet (l :: ls) = laneBit l ||| laneSet ls := by
  apply BitVec.eq_of_getLsbD_eq
  intro i hi
  rw [BitVec.getLsbD_or, laneSet_getLsbD, laneSet_getLsbD, laneBit_getLsbD, ← Bool.and_or_distrib_left]
  simp [eq_comm]

/-- Lanes that all hold x are one group. -/
theorem groupLanes_const (ls : List Nat) (x : Nat) (h : ls ≠ []) :
    groupLanes (ls.map (fun l => (l, x))) = [(x, laneSet ls)] := by
  induction ls with
  | nil => exact absurd rfl h
  | cons a t ih =>
    rw [List.map_cons, groupLanes, laneSet_cons]
    cases t with
    | nil => rfl
    | cons b u =>
      rw [ih (by simp)]
      simp

/-- The lanes of a set that all hold x are one group, the set. -/
theorem groupLanes_lanesOf {m : Lanes} (x : Nat) (h : m ≠ 0) : groupLanes ((lanesOf m).map (fun l => (l, x))) = [(x, m)] := by
  rw [groupLanes_const _ _ (lanesOf_ne_nil h), laneSet_lanesOf]

/-- As `groupLanes_lanesOf` for a function that gives x in every lane of the set. -/
theorem groupLanes_all {m : Lanes} {f : Nat → Nat} (x : Nat) (h : m ≠ 0) (hf : ∀ l ∈ lanesOf m, f l = x) :
    groupLanes ((lanesOf m).map (fun l => (l, f l))) = [(x, m)] := by
  rw [← groupLanes_lanesOf x h]
  exact congrArg groupLanes (List.map_congr_left (fun l hl => by rw [hf l hl]))

end Sys2Proof.Machine
end

