-- ==== Sys2Proof/Tests/Slice0.lean ====
section
/-! SUPPORT. The model's own tests: that WellFormed refuses what the spec refuses; words written out from the spec's
encodings; for every obligation with hypotheses, a state and operands that meet them together; and a few results of single
steps with values from the spec's examples and tables. -/

set_option Elab.async false

namespace Sys2Proof.Machine

/-! ## Small terms and a small state -/

/-- A header with the stall of class I2, no wait, no post and p7. -/
def tH : Hdr := { stall := 2, post := none, wait := none, pn := false, pred := 7 }

/-- Format A of v0, v2, v4 at a type. -/
def tA (t : Ty) : FmtA := FmtA.mk (.v 0) (.v 2) (.v 4) (.v 0) t .rne false false false false false false false 0 7 7 false

/-- As `tA` with one source. -/
def tA1 (t : Ty) : FmtA := { tA t with b := .v 0 }

/-- As `tA` with three sources. -/
def tA3 (t : Ty) : FmtA := { tA t with c := .v 6 }

/-- Format A without operands. -/
def tA0 : FmtA := { tA .none with a := .v 0, b := .v 0 }

/-- Format I of v0 and v2 at a type. -/
def tI (t : Ty) : FmtI := { d := .v 0, a := .v 2, imm := 5, ty := t, sub := 0, s := false, pd := 7 }

/-- Format I without operands. -/
def tI0 : FmtI := { tI .none with a := .v 0, imm := 0 }

/-- Format M: d and the address in v registers, nothing in b. -/
def tM (t : Ty) : FmtM := { d := .v 0, a := .v 2, ofs := 0, ty := t, ord := .rlx, scope := 0, mop := 0, b := .v 0 }

/-- Format C with every field 0. -/
def tC : FmtC := { disp := 0, slot := 0, a := .v 0, jx := 0, tk := 0, cnt := 0, sub := 0 }

/-- Format K of pairs in v registers. -/
def tK : FmtK := { d := .v 0, a := .v 2, b := .v 4, c := .v 0, sub := 0, imm := 0 }

/-- Format X with every field 0. -/
def tX : FmtX := { d := .v 0, a := .v 0, b := .v 0, guard := none, ch := 0, ty := .none, cmd := 0 }

/-- Core 0 with a supervisor crew of one wave whose 32 lanes stand at an instruction. -/
def tS : State := placeWord State.reset 0

/-- The cursor at that wave. -/
def tCur : Cursor := { core := 0, wave := 0, pc := placedPc, lanes := lowLanes 32, pair := false, second := none }

/-- That wave. -/
def tW : Wave := Wave.start 0 (lowLanes 32) placedPc 0 256 0

/-- `i` is well-formed and issues on wave `x` of state `s`. -/
def issuesOn (s : State) (x : Wave) (i : Instr) : Bool :=
  i.wellFormed && (match i.shape.row, i.shape.hdr with
    | some r, some h => issues i s tCur x r h
    | _, _ => false)

/-- `i` is well-formed and issues on the small state. -/
def ready (i : Instr) : Bool := issuesOn tS tW i

/-- The state with another wave in place of the small one. -/
def tWith (x : Wave) : State := tS.setWave 0 0 x

theorem test_small_state : tS.wave? 0 0 = some tW ∧ tS.cursor = some tCur := by decide +kernel

/-! ## Every instruction form issues: the hypotheses of the completion statements -/

theorem test_issues_integer : [Instr.add tH (tA .i32), .addc tH (tA .n64), .sub tH (tA .i64), .subb tH (tA .n32), .mul tH (tA .i32),
    .mulh tH (tA .n64), .mad tH (tA3 .i32), .div tH (tA .i32), .rem tH (tA .n64), .min tH (tA .i32), .max tH (tA .n32), .abs tH (tA1 .i32),
    .neg tH (tA1 .i64), .and tH (tA .b32), .or tH (tA .b64), .xor tH (tA .b32), .andn tH (tA .b32), .not tH (tA1 .b32), .shl tH (tA .b32),
    .shr tH (tA .b64), .sha tH (tA .b32), .rot tH (tA .b64), .shf tH (tA3 .b32), .bfe tH (tA .i32), .bfi tH (tA3 .b32), .popc tH (tA1 .b32),
    .clz tH (tA1 .b64), .ctz tH (tA1 .b32), .brev tH (tA1 .b64), .perm tH (tA3 .b32), .sel tH (tA .b32), .cmp tH { tA .i32 with d := .v 0, pd := 1 },
    .lea tH (tA .i32), .mov tH (tA1 .b64), .sxt tH (tA1 .i8), .zxt tH { tA1 .n16 with sub := 1 },
    .plop tH { tA .none with d := .v 0x80, a := .v 0, b := .v 1, c := .v 2, pd := 3 }].all ready = true := by decide +kernel

theorem test_issues_integer_imm : [Instr.addImm tH (tI .i32), .addcImm tH { tI .n32 with pd := 1 }, .subImm tH (tI .i64),
    .subbImm tH { tI .n32 with pd := 1 }, .mulImm tH (tI .i32), .mulhImm tH (tI .n32), .divImm tH (tI .i32), .remImm tH (tI .i64),
    .minImm tH (tI .i32), .maxImm tH (tI .n32), .andImm tH (tI .b32), .orImm tH (tI .b64), .xorImm tH (tI .b32), .andnImm tH (tI .b32),
    .shlImm tH (tI .b32), .shrImm tH (tI .b32), .shaImm tH (tI .b64), .rotImm tH (tI .b32), .bfeImm tH (tI .i32), .permImm tH (tI .b32),
    .selImm tH { tI .b32 with pd := 2 }, .cmpImm tH { tI .i32 with pd := 1 }, .leaImm tH (tI .i32), .movi tH { tI .b32 with a := .v 0 },
    .movi tH { tI .b64 with a := .v 0, sub := 1 }].all ready = true := by decide +kernel

theorem test_issues_special : [Instr.sread tH { tA1 .b32 with d := .s 3, b := .int 0 }, .sread tH { tA1 .b32 with d := .s 3, sub := 1 },
    .swrite tH { tA1 .b32 with d := .sp .fpctl }, .swrite tH { tA1 .b32 with d := .sp .chkctl },
    .swrite tH { tA1 .b64 with d := .sp (.scalewin 7) }].all ready = true := by decide +kernel

theorem test_issues_float : [Instr.fadd tH (tA .f32), .fsub tH (tA .f64), .fmul tH (tA .f16), .ffma tH (tA3 .bf16), .fmin tH (tA .f32),
    .fmax tH (tA .f64), .fcmp tH { tA .f32 with pd := 1 }, .fclass tH (tA1 .e4m3), .frcp tH (tA1 .f32), .frsq tH (tA1 .f64), .fsqrt tH (tA1 .f32),
    .fdiv tH (tA .f32), .fexp2 tH (tA1 .f16), .flog2 tH (tA1 .f32), .fsin tH (tA1 .f32), .fcos tH (tA1 .f32), .ftanh tH (tA1 .f32),
    .fscale tH (tA .f32), .frnd tH (tA1 .f32), .cvt tH { tA1 .i32 with c := .v 13 }, .dot4 tH (tA3 .e4m3), .hadd2 tH (tA .f16x2),
    .hmul2 tH (tA .bf16x2), .hfma2 tH (tA3 .f16x2), .faddImm tH (tI .f32), .fsubImm tH (tI .f64), .fmulImm tH (tI .f16), .fminImm tH (tI .f32),
    .fmaxImm tH (tI .f32), .fcmpImm tH { tI .f32 with pd := 1 }, .fscaleImm tH (tI .f32), .hadd2Imm tH (tI .f16x2),
    .hmul2Imm tH (tI .bf16x2)].all ready = true := by decide +kernel

theorem test_issues_exchange : [Instr.shfl tH (tA3 .b32), .shflImm tH { tI .b32 with sub := 3 }, .vote tH { tA0 with ps := 1, pd := 2 },
    .ballot tH { tA0 with ps := 1 }, .matchLanes tH (tA1 .b32), .redux tH (tA1 .i32), .laneperm tH { tA .b32 with b := .s 4 },
    .lanepermImm tH { tI .b32 with imm := 0xFFFFFF }].all ready = true := by decide +kernel

theorem test_issues_control : [Instr.bra tH tC, .brx tH { tC with a := .v 2 }, .call tH tC, .callx tH { tC with a := .v 2 }, .ret tH { tC with a := .v 2 },
    .join tH { tC with jx := 7 }, .waitj tH tC, .exit tH tC, .nop tH tC, .delay tH { tC with cnt := 63 }, .yield tH tC, .backoff tH tC,
    .twait tH { tC with tk := 15 }, .treset tH tC, .tread tH { tC with a := .v 4 }, .regq tH { tC with a := .v 4, cnt := 32 }].all ready = true := by
  decide +kernel

theorem test_issues_memory : [Instr.ld tH (tM .b32), .st tH (tM .b64), .lde tH { tM .f32 with b := .v 4 }, .lda tH (tM .b32), .sta tH (tM .b64),
    .ldw tH { tM .b32 with mop := 2 }, .ldc tH (tM .b32), .atom tH (tM .i32), .atom tH { tM .b64 with mop := 11, b := .v 8 },
    .atom tH { tM .b32 with mop := 23, b := .v 2 }, .red tH (tM .i32), .mcas tH (tM .b64), .fence tH { tM .none with a := .v 0, ord := .ar, mop := 1 },
    .wbr tH (tM .none), .invr tH (tM .none), .pref tH { tM .none with mop := 1 }, .ipref tH (tM .none), .ipin tH (tM .none), .iunpin tH (tM .none),
    .watch tH { tM .b32 with b := .v 4 }].all ready = true := by decide +kernel

theorem test_issues_queue : [Instr.barArrive tH { tA0 with a := .int 15, b := .v 2 }, .barWait tH { tA0 with a := .s 1, sub := 1 },
    .barSync tH { tA0 with a := .int 0, b := .int 1, sub := 2 }, .barArriveImm tH { tI0 with a := .int 1, imm := 4096 },
    .barSyncImm tH { tI0 with a := .int 1, imm := 1, sub := 2 }, .sqinit tH { tA0 with a := .int 2, b := .s 0, c := .s 1 },
    .sqpush tH { tA1 .b64 with a := .int 2 }, .sqpushCredit tH { tA1 .b64 with a := .int 2, sub := 1 }, .sqpop tH { tA1 .b64 with a := .int 2 },
    .sqpopFree tH { tA1 .b64 with a := .int 2, sub := 1 }].all ready = true := by decide +kernel

theorem test_issues_copy : [Instr.cpy tH { tX with cmd := 0x080000 }, .cpym tH { tX with cmd := 0x08440F }, .cpys tH { tX with cmd := 0x080000 },
    .cpyg tH { tX with cmd := 0x100000 }, .cpyx tH { tX with cmd := 0x200000 }, .cpy tH { tX with guard := some (21, false), ch := 3, cmd := 0x280000 },
    .seal tH { tA0 with a := .int 15 }].all ready = true := by decide +kernel

theorem test_issues_engines : [Instr.cptr tH { tA1 .b64 with a := .int 3 }, .cptrIptr tH { tA1 .b64 with a := .int 0, sub := 1 },
    .cptrStat tH { tA1 .b32 with a := .int 0, sub := 2 }, .cinit tH { tA0 with a := .int 1, b := .int 4 },
    .carr tH { tA0 with a := .int 1, b := .int 0, c := .int 4 }, .gset tH { tA0 with a := .int 1, b := .v 2 }, .gsetImm tH { tI0 with a := .int 1, imm := 3 },
    .gclr tH { tA0 with b := .v 2 }, .gclrImm tH { tI0 with imm := 3 }, .mma tH { tX with a := .v 2 }, .mzero tH { tX with a := .int 1, b := .int 2 },
    .mrd tH { tA1 .b32 with a := .s 0, b := .v 2, sub := 2 }, .mwr tH { tA1 .b32 with a := .int 1, b := .v 2 },
    .mred tH { tX with d := .int 2, a := .int 0, ty := .f32, cmd := 0x7F00 }, .mmap tH { tX with d := .v 23, a := .int 3, b := .v 24, ty := .f32, cmd := 0x1FC03 },
    .mcvt tH { tX with a := .int 1, ty := .bf16 }, .mtile tH { tA1 .none with a := .int 1 }].all ready = true := by decide +kernel

theorem test_issues_calls : [Instr.wcreate tH { tK with c := .int 1 }, .psend tH tK, .precv tH { tK with sub := 1 }, .wsadd tH { tK with c := .v 6, imm := 63 },
    .wsdel tH { tK with b := .v 0, imm := 63 }, .suspend tH { tK with imm := 0x7FFC }, .suspendX tH { tK with sub := 1, c := .v 6 }, .tarm tH tK,
    .tdisarm tH { tK with b := .v 0 }, .ecsig tH { tK with b := .int 1 }, .ecread tH { tK with b := .v 0 }, .qenq tH { tK with sub := 1 },
    .dcinit tH { tK with c := .int 3 }, .dcdec tH { tK with b := .v 0 }, .objnew tH { tK with a := .v 0, sub := 6 }, .objdel tH { tK with b := .v 0 },
    .objinfo tH { tK with b := .v 0 }, .nslook tH { tK with a := .v 0 }, .nsbind tH { tK with sub := 1 }, .grantrev tH { tK with b := .v 0 },
    .syscall tH { tK with a := .int 0, imm := 0x10A }, .launch tH { tK with a := .int 0 }, .lstat tH { tK with a := .v 0 },
    .ctadmit tH { tK with a := .v 0 }].all ready = true := by decide +kernel

theorem test_issues_dusk : [Instr.phint tH { tI0 with a := .s 0 }, .phintFull tH { tI0 with sub := 1 }, .trap tH { tI0 with imm := 0xFFFF },
    .bkpt tH { tI0 with imm := 1 }, .rett tH { tC with a := .v 2 }, .rettStep tH { tC with a := .v 2, sub := 1 }, .csave tH { tA1 .none with a := .v 2 },
    .crest tH { tA .none with a := .v 2, b := .v 4 }, .ptinv tH { tM .none with b := .v 4 }, .ptinvRsm tH { tM .none with b := .v 4, mop := 1 },
    .ptinvEnd tH { tM .none with b := .v 4, mop := 2 }].all ready = true := by decide +kernel

/-! ## Witnesses of the further hypotheses of completion, at boundary values -/

/-- The small wave with s registers. -/
def tRegs (es : List (Nat × Word)) : Wave := { tW with s := es }

/-- The small wave whose A region holds 4,096 bytes, with s registers. -/
def tRegsA (es : List (Nat × Word)) : Wave := { tW with s := es, abytes := 4096 }

/-- A wave of one lane with s registers. -/
def tOne (es : List (Nat × Word)) : Wave := { Wave.start 0 1 placedPc 0 256 0 with s := es }

/-- The context of an instruction on wave `x`. -/
def tK0 (s : State) (x : Wave) : Ctx := s.ctxAt tCur x tH

/-- `i` issues on wave `x`, and `ok` holds of its context and of the state of its issue. -/
def witnessAt (s : State) (x : Wave) (i : Instr) (ok : Ctx → State → Bool) : Bool :=
  let u := s.setWave 0 0 x
  issuesOn u x i && (match i.shape.row with
    | some r => ok (tK0 u x) (u.issuedAt tCur x i r tH)
    | none => false)

/-- The header with PN: no lane passes. -/
def tHn : Hdr := { tH with pn := true }

/-- `i` issues with no passing lane. -/
def noLane (i : Instr) : Bool := ready i && (tS.passAt tCur tW tHn == 0)

/-- Every lane passes. -/
def everyLane (k : Ctx) (p : Nat → Bool) : Bool := k.pass != 0 && (lanesOf k.pass).all p

theorem test_no_lane_passes : tS.passAt tCur tW tHn = 0 ∧ tS.passAt tCur tW tH = lowLanes 32 := by decide +kernel

theorem test_wit_Transfer : witnessAt tS (tRegs [(2, 0x10030)]) (.brx tH { tC with a := .s 2 }) (fun k _ => everyLane k (fun l => pcOk (k.u64 (.s 2) l))) = true
    ∧ witnessAt tS (tRegs [(2, 0x1000C)]) (.callx tH { tC with a := .s 2 }) (fun k _ => everyLane k (fun l => pcOk (k.u64 (.s 2) l))) = true
    ∧ witnessAt tS (tRegs [(2, 0x10000)]) (.ret tH { tC with a := .s 2 }) (fun k _ => everyLane k (fun l => pcOk (k.u64 (.s 2) l))) = true := by
  decide +kernel

theorem test_wit_TransferTraps : pcOk 0x1003C = false ∧ pcOk 0x10004 = false
    ∧ witnessAt tS (tRegs [(2, 0x1003C)]) (.brx tH { tC with a := .s 2 }) (fun k _ => everyLane k (fun l => k.u64 (.s 2) l == 0x1003C)) = true
    ∧ witnessAt tS (tRegs [(2, 0x10004)]) (.ret tH { tC with a := .s 2 }) (fun k _ => everyLane k (fun l => k.u64 (.s 2) l == 0x10004)) = true := by
  decide +kernel

theorem test_wit_UnassignedOpcode : tS.cursor = some tCur ∧ tS.wave? 0 0 = some tW ∧ tCur.second = none ∧ tS.restHeld 0 tW = false ∧ tW.stopAt tCur = none
    ∧ tW.stallOver tS.clock (tW.chosen tCur.pc tCur.lanes) = true := by decide +kernel

/-- The small state with page 0 mapped to 0x1000000 with every right at a page kind and format, and the firewall open. -/
def tMem (kind fmtc : Nat) : State :=
  let leaf : DWord := BitVec.ofNat 64 (0x10000F + kind * 2 ^ 48 + fmtc * 2 ^ 50)
  let u : State := tS.modCore 0 (fun k => { k with tlb := [{ asid := 0, page := 0, big := false, leaf := leaf }] })
  { u with svc := { u.svc with firewall := [(u.tenantOfAsid 0 * 16, 0x80003FFF00000000)] } }

/-- An access is translated and meets no physical cause. -/
def okAcc (s : State) (a : Acc) (p : Piece → Bool) : Bool :=
  match a with | .ok ps => ps.all p && (s.physFault (s.tenantOfAsid 0) ps).isNone | _ => false

/-- A plan is made. -/
def okPlan (p : LanePlan) : Bool := match p with | .ok _ => true | .error _ => false

theorem test_wit_Load : witnessAt (tMem 1 0) (tRegs [(2, 65504)]) (.ld tH { tM .b32 with a := .s 2, mop := 2 })
    (fun k s => everyLane k (fun l => okAcc s (k.acc s rightR (k.ea { tM .b32 with a := .s 2 } l) 16) (fun _ => true))) = true := by decide +kernel

theorem test_wit_Buffer :
    let fits := fun (o : FmtM) (n limit unit : Nat) (k : Ctx) (_ : State) => everyLane k (fun l => decide (0 ≤ k.bufAddr o l
      ∧ k.bufAddr o l + (n : Nat) ≤ (limit : Int) ∧ (k.bufAddr o l).toNat % n = 0
      ∧ (k.bufAddr o l).toNat / unit = ((k.bufAddr o l).toNat + n - 1) / unit))
    let a := fun (n : Nat) => [(0, BitVec.ofNat 32 n)]
    witnessAt tS (tRegsA (a 4088)) (.lda tH { tM .b64 with a := .s 0 }) (fits { tM .b64 with a := .s 0 } 8 4096 16) = true
    ∧ witnessAt tS (tRegs (a 524284)) (.ldw tH { tM .b32 with a := .s 0 }) (fits { tM .b32 with a := .s 0 } 4 Config.wbufBytes 32768) = true
    ∧ witnessAt tS (tRegs (a 0)) (.ldc tH { tM .b32 with a := .s 0 }) (fits { tM .b32 with a := .s 0 } 4 Config.cbufBytes 512) = true
    ∧ witnessAt tS (tRegsA (a 0)) (.sta tH { tM .b32 with a := .s 0 }) (fits { tM .b32 with a := .s 0 } 4 4096 16) = true := by decide +kernel

theorem test_wit_Store : witnessAt (tMem 0 0) (tRegs [(2, 65528)]) (.st tH { tM .b64 with a := .s 2 })
    (fun k s => everyLane k (fun l => okAcc s (k.acc s rightW (k.ea { tM .b64 with a := .s 2 } l) 8) (fun p => !p.partialCell))) = true := by
  decide +kernel

theorem test_wit_DecodeLoad : witnessAt (tMem 1 1) tW (.lde tH { tM .f32 with b := .v 4 }) (fun k s =>
    waitMisses ((lanesOf k.pass).flatMap (ldeAccs { tM .f32 with b := .v 4 } k s)) == none
      && everyLane k (fun l => okPlan (ldePlan { tM .f32 with b := .v 4 } k s l))) = true := by decide +kernel

theorem test_wit_Atomic :
    let o : FmtM := { tM .i32 with a := .s 2, b := .v 4 }
    let ob : FmtM := { tM .i32 with a := .s 0, b := .v 4, mop := 16 }
    witnessAt (tMem 1 0) (tRegs [(2, 65532)]) (.atom tH o) (fun k s => atomWait o k s == none
      && everyLane k (fun l => okPlan (atomPlan o k s l (k.req (.atom 0) l k.op)))) = true
    ∧ witnessAt (tMem 1 0) (tRegsA [(0, 4092)]) (.atom tH ob) (fun k s => atomWait ob k s == none
      && everyLane k (fun l => okPlan (atomPlan ob k s l (k.req (.atom 0) l k.op)))) = true
    ∧ witnessAt (tMem 1 0) (tRegs [(2, 0)]) (.red tH { o with b := .v 0 }) (fun k s => atomWait { o with b := .v 0 } k s == none
      && everyLane k (fun l => okPlan (atomPlan { o with b := .v 0 } k s l (k.req (.red 0) l k.op)))) = true := by decide +kernel

/-- An `mcas` block of one entry at 0: the word at 256 is to hold 0 and to become 7. -/
def tBlock : State := { tMem 1 0 with mem := Memory.write (Memory.write [] 0x1000008 8 256) 0x1000018 8 7 }

theorem test_wit_Mcas : witnessAt tBlock (tOne []) (.mcas tH (tM .b64)) (fun k s => mcasWait (tM .b64) k s == none
    && everyLane k (fun l => match mcasStage (tM .b64) k s l with | .ready _ ents _ => ents == [(256, 0, 7)] | _ => false)) = true := by decide +kernel

theorem test_wit_Cache :
    let o : FmtM := { tM .none with b := .s 4 }
    let good := fun (need : Nat) (k : Ctx) (s : State) => cacheWait need o k s == none && everyLane k (fun l =>
      let x := rangeAcc k s need (k.ea o l) (k.u32 o.b l)
      x.2 == none && (s.physFault (s.tenantOfAsid k.asid) (x.1.filter (fun p => leafKind p.leaf == 2))).isNone)
    witnessAt (tMem 2 0) (tOne [(4, 65536)]) (.wbr tH o) (good rightW) = true
    ∧ witnessAt (tMem 2 0) (tOne [(4, 1)]) (.invr tH o) (good rightR) = true
    ∧ witnessAt (tMem 2 0) (tOne [(4, 512)]) (.ipin tH o) (fun k s => ipinWait o k s == none && everyLane k (fun l =>
        (iLines (k.ea o l) (k.u32 o.b l)).all (fun a => !outside a 64 && (match s.fetchLine k.core k.asid a with | .ok _ => true | .error _ => false)))) = true := by
  decide +kernel

/-- The small state with an event counter of the supervisor process at Catalogue index 1. -/
def tEvent : State := { tMem 1 0 with objs := [(1, { gen := 1, owner := 0, time := 0, body := .event 5 })] }

theorem test_wit_Watch :
    let o : FmtM := { tM .b32 with b := .s 4 }
    witnessAt tEvent (tRegs [(4, BitVec.ofNat 32 (handleOf 1 1 6)), (5, BitVec.ofNat 32 (handleOf 1 1 6 / 2 ^ 32))]) (.watch tH o) (fun k s =>
      ldWait rightR 4 o k s == none && everyLane k (fun l => okPlan (watchPlan o k s l))) = true := by decide +kernel

theorem test_wit_AccessFaults : (let k := tK0 tS (tRegs [(2, 0xFFFFFFFF), (3, 0x00FFFFFF)])
      2 ^ 56 < k.ea { tM .b32 with a := .s 2 } 0 + vecN 0 * (Ty.b32.bits / 8))
    ∧ (let k := tK0 tS (tRegs [(0, 4093)])
      (4096 : Int) < k.bufAddr { tM .b32 with a := .s 0 } 0 + 4)
    ∧ (tK0 tS tW).bufAddr { tM .b32 with ofs := 0xFFFFF } 0 < 0
    ∧ (let k := tK0 tS (tRegs [(0, 4091)])
      0 ≤ k.bufAddr { tM .b32 with a := .s 0 } 0 ∧ k.bufAddr { tM .b32 with a := .s 0 } 0 + 4 ≤ (4096 : Int)
        ∧ (k.bufAddr { tM .b32 with a := .s 0 } 0).toNat % 4 ≠ 0)
    ∧ (let s := tMem 1 0
       let k := tK0 s (tRegs [(2, 65530)])
       okAcc s (k.acc s (rightR + rightW) (k.ea { tM .i32 with a := .s 2 } 0) (atomSize 0 .i32)) (fun _ => true) = true
         ∧ k.ea { tM .i32 with a := .s 2 } 0 % atomSize 0 .i32 ≠ 0)
    ∧ (65536 - 8) % 65536 + 8 ≤ 65536
    ∧ (tMem 1 0).xlate 0 0 0 (65536 - 8) = .hit 0x000100000010000F 0x100FFF8 := by decide +kernel

theorem test_wit_Barrier :
    let legal := fun (k : Ctx) (b : Nat) => decide (k.x.taskQueue = none ∧ b ≤ 15)
    let agree := fun (k : Ctx) (s : State) (b n : Nat) (cnt : Nat → Nat) => decide (1 ≤ n ∧ n ≤ 4096) && everyLane k (fun l => cnt l == n)
      && decide (((s.core k.core).bar b).cnt = 0 ∨ ((s.core k.core).bar b).cnt.toNat = n)
    let a : FmtA := { tA0 with a := .int 15, b := .s 2 }
    witnessAt tS (tRegs [(2, 4096)]) (.barArrive tH a) (fun k s => legal k (k.u32 a.a k.low) && agree k s (k.u32 a.a k.low) 4096 (k.u32 a.b)) = true
    ∧ witnessAt tS tW (.barWait tH { tA0 with a := .int 0, sub := 1 }) (fun k _ => k.pass != 0 && legal k 0) = true
    ∧ witnessAt tS (tRegs [(2, 1)]) (.barSync tH { a with sub := 2 }) (fun k s => legal k 15 && agree k s 15 1 (k.u32 a.b)) = true
    ∧ witnessAt tS tW (.barArriveImm tH { tI0 with a := .int 1, imm := 4096 }) (fun k s => legal k 1 && agree k s 1 4096 (fun _ => 4096)) = true
    ∧ witnessAt tS tW (.barSyncImm tH { tI0 with a := .int 1, imm := 1, sub := 2 }) (fun k s => legal k 1 && agree k s 1 1 (fun _ => 1)) = true
    ∧ noLane (.barArrive tHn a) = true ∧ noLane (.barSyncImm tHn { tI0 with a := .int 1, imm := 1, sub := 2 }) = true := by decide +kernel

theorem test_wit_BarrierTraps :
    let a : FmtA := { tA0 with a := .s 1, b := .s 2 }
    witnessAt tS (tRegs [(1, 16), (2, 1)]) (.barArrive tH a) (fun k _ => k.pass != 0 && decide (15 < k.u32 a.a k.low)) = true
    ∧ witnessAt tS { tRegs [(2, 1)] with taskQueue := some 1 } (.barArrive tH a) (fun k _ => k.pass != 0 && k.x.taskQueue.isSome) = true
    ∧ witnessAt tS tW (.barArrive tH a) (fun k _ => everyLane k (fun l => k.u32 a.b l == 0)) = true
    ∧ witnessAt tS (tRegs [(2, 4097)]) (.barArrive tH a) (fun k _ => everyLane k (fun l => decide (4096 < k.u32 a.b l))) = true := by decide +kernel

theorem test_wit_BarrierPhase :
    let k := Core.idle.barArrive 0 1 32 0 (lowLanes 32)
    let late := Core.idle.barArrive 0 1 32 1 (lowLanes 32)
    (k.bar 1).cnt ≠ 0 ∧ (k.bar 1).cnt.toNat ≤ (k.bar 1).arr.toNat + (k.bar 1).drop.toNat ∧ (k.bar 1).pb = 0 ∧ (k.bar 1).open_ = 0
    ∧ (Core.idle.bar 1).cnt = 0 ∧ (late.bar 1).open_ ≠ 0
    ∧ ((Core.idle.barArrive 0 1 33 0 (lowLanes 32)).bar 1).arr.toNat + 0 < 33 := by decide +kernel

/-- The small state with a queue of capacity 32 at 0 that holds `used` entries and `allow` credits. -/
def tQueue (used allow : Nat) : State :=
  tS.modCore 0 (fun k => { k with squeues := [(2, 0)], abuf := Memory.write [] 0 16 (used * 2 ^ 32 + 32 * 2 ^ 64 + allow * 2 ^ 80) })

theorem test_wit_Queue :
    let o : FmtA := { tA1 .b64 with a := .int 2 }
    let stands := fun (k : Ctx) (s : State) (p : SqHead → Bool) => k.pass != 0 && match s.sqHead k.core (k.u32 o.a k.low) with
      | some x => decide ((lanesOf k.pass).length ≤ x.cap) && p x
      | none => false
    let n := fun (k : Ctx) => (lanesOf k.pass).length
    let i : FmtA := { tA0 with a := .int 2, b := .s 0, c := .s 1 }
    let pops := fun (k : Ctx) (s : State) => stands k s (fun x => decide (n k ≤ x.used ∧ slotsOut k x x.head (n k) = false))
    witnessAt tS (tRegsA [(0, 4064), (1, 2)]) (.sqinit tH i) (fun k _ => decide (k.u32 i.a k.low ≤ 31
      ∧ k.x.taskQueue = none ∧ k.u32 i.b k.low % 16 = 0 ∧ 2 ≤ k.u32 i.c k.low ∧ k.u32 i.c k.low ≤ 1024
      ∧ k.u32 i.b k.low + 16 + 8 * k.u32 i.c k.low ≤ k.x.abytes)) = true
    ∧ witnessAt (tQueue 0 32) (tRegsA []) (.sqpush tH o) (fun k s => stands k s (fun x => decide (
      x.used + n k ≤ x.cap ∧ n k ≤ x.allow ∧ slotsOut k x x.tail (n k) = false))) = true
    ∧ witnessAt (tQueue 32 0) (tRegsA []) (.sqpushCredit tH { o with sub := 1 }) (fun k s => stands k s (fun _ => true)) = true
    ∧ witnessAt (tQueue 32 0) (tRegsA []) (.sqpop tH o) pops = true
    ∧ witnessAt (tQueue 32 0) (tRegsA []) (.sqpopFree tH { o with sub := 1 }) pops = true
    ∧ noLane (.sqpush tHn o) = true
    ∧ witnessAt (tQueue 1 32) (tRegsA []) (.sqpush tH o) (fun k s => stands k s (fun x => decide (x.cap < x.used + n k))) = true
    ∧ witnessAt (tQueue 0 31) (tRegsA []) (.sqpush tH o) (fun k s => stands k s (fun x => decide (x.allow < n k))) = true
    ∧ witnessAt (tQueue 31 1) (tRegsA []) (.sqpop tH o) (fun k s => stands k s (fun x => decide (x.used < n k))) = true := by
  decide +kernel

theorem test_wit_DeferredArrival :
    let o : FmtA := { tA0 with a := .int 15, b := .int 0, c := .s 2 }
    witnessAt tS (tRegs [(2, 4096)]) (.carr tH o) (fun k t => decide (k.x.taskQueue = none ∧ k.u32 o.a k.low ≤ 15)
      && everyLane k (fun l => k.u32 o.c l == 4096) && decide (((t.core k.core).bar 15).cnt = 0 ∨ ((t.core k.core).bar 15).cnt.toNat = 4096)) = true
    ∧ witnessAt tS { tRegs [(2, 1)] with taskQueue := some 1 } (.carr tH o) (fun k _ => k.pass != 0 && k.x.taskQueue.isSome) = true
    ∧ noLane (.carr tHn o) = true := by decide +kernel

theorem test_wit_WavePort :
    let o : FmtA := { tA1 .b32 with a := .s 0, b := .s 1, sub := 2 }
    let good := fun (k : Ctx) (_ : State) => decide (k.u32 o.a k.low ≤ 127) && everyLane k (fun l => decide (k.u32 o.b l + 4 ≤ 16384 ∧ k.u32 o.b l % 4 = 0))
    witnessAt tS (tRegs [(0, 127), (1, 16380)]) (.mrd tH o) good = true ∧ witnessAt tS tW (.mwr tH o) good = true ∧ noLane (.mrd tHn o) = true
    ∧ witnessAt tS (tRegs [(0, 128)]) (.mrd tH o) (fun k _ => decide (127 < k.u32 o.a k.low) && everyLane k (fun l => k.u32 o.b l == 0)) = true := by
  decide +kernel

theorem test_wit_Calls :
    let o : FmtK := { tK with b := .s 4, c := .int 1 }
    witnessAt tS (tRegs [(4, 0x10000)]) (.wcreate tH o) (fun k _ => everyLane k (fun l => pcOk (k.u64 o.b l))) = true := by decide +kernel

theorem test_wit_RecordCalls :
    let o : FmtK := { tK with b := .s 4 }
    let good := fun (n need : Nat) (b : Opnd) (k : Ctx) (s : State) => everyLane k (fun l => okAcc s (k.acc s need (k.u64 b l) n) (fun _ => true) && k.u64 b l % 64 == 0)
    let top := tRegs [(4, 65472)]
    [Instr.psend tH o, .precv tH { o with sub := 1 }].all (fun i => witnessAt (tMem 1 0) top i (good 64 (rightR + rightW) o.b)) = true
    ∧ [Instr.qenq tH o, .dcinit tH { o with c := .int 3 }, .launch tH o, .ctadmit tH { o with a := .v 0 }].all
        (fun i => witnessAt (tMem 1 0) top i (good 64 rightR o.b)) = true
    ∧ witnessAt (tMem 1 0) top (.objnew tH { o with a := .v 0, b := .int 1, c := .s 4, sub := 5 }) (good 64 rightR (.s 4)) = true
    ∧ witnessAt (tMem 1 0) (tRegs [(4, 65408)]) (.syscall tH { o with a := .int 0 }) (good 128 (rightR + rightW) o.b) = true
    ∧ noLane (.syscall tHn { o with a := .int 0 }) = true := by decide +kernel

theorem test_wit_Suspend :
    let o : FmtK := { tK with imm := 0x0000 }
    let x : FmtK := { tK with c := .s 6, sub := 1 }
    witnessAt tS tW (.suspend tH o) (fun k t => k.pass != 0 && (t.entryCheck k.core k.asid (suspendTarget o k.pc)).2 == none) = true
    ∧ witnessAt tS (tRegs [(6, 0x10000)]) (.suspendX tH x) (fun k t => k.pass != 0 && (t.entryCheck k.core k.asid (k.u64 x.c k.low)).2 == none) = true
    ∧ noLane (.suspend tHn o) = true ∧ noLane (.suspendX tHn x) = true := by decide +kernel

theorem test_wit_Dusk :
    let o : FmtI := { tI0 with a := .s 0 }
    let at_ := fun (k : Ctx) => k.u32 o.a (lowestLane k.lanes)
    witnessAt tS (tRegsA [(0, 3968)]) (.phint tH o) (fun k _ => decide (at_ k % 128 = 0 ∧ at_ k + 128 ≤ k.x.abytes)) = true
    ∧ witnessAt tS (tRegsA [(0, 127)]) (.phint tH o) (fun k _ => decide (at_ k % 128 ≠ 0)) = true
    ∧ witnessAt tS (tRegsA [(0, 4096)]) (.phint tH o) (fun k _ => decide (at_ k % 128 = 0 ∧ k.x.abytes < at_ k + 128)) = true
    ∧ tS.asidOf 1023 127 = 0 := by decide +kernel

theorem test_wit_Supervisor :
    let o : FmtM := { tM .none with a := .s 2, b := .s 4 }
    let inside := fun (k : Ctx) (_ : State) => everyLane k (fun l => k.u32 o.b l == 0 || !outside (k.ea o l) (k.u32 o.b l))
    witnessAt tS tW (.ptinv tH o) inside = true ∧ witnessAt tS (tRegs [(2, 0xFFFFFF00), (3, 0x00FFFFFF), (4, 256)]) (.ptinvRsm tH { o with mop := 1 }) inside = true
    ∧ witnessAt tS (tRegs [(4, 65536)]) (.ptinvEnd tH { o with mop := 2 }) inside = true := by decide +kernel

/-! ## Decoding: every constructor's word, written out from Table 2-3, the format's table and Table 2-15 -/

/-- The word decodes to the instruction. -/
def decodesTo (e : Nat × Instr) : Bool := match decode e.1 with | .ok i => i == e.2 | .error _ => false

theorem test_decode_integer : ([(0x0020003800008080018003F0, Instr.add tH (tA .i32)), (0x0120003800008080040003F0, .addc tH (tA .n64)),
    (0x0220003800008080020003F0, .sub tH (tA .i64)), (0x0320003800008080038003F0, .subb tH (tA .n32)), (0x0420003800008080018003F0, .mul tH (tA .i32)),
    (0x0520003800008080040003F0, .mulh tH (tA .n64)), (0x0620003800008080618003F0, .mad tH (tA3 .i32)),
    (0x0720003800008080018003F0, .div tH (tA .i32)), (0x0820003800008080040003F0, .rem tH (tA .n64)), (0x0920003800008080018003F0, .min tH (tA .i32)),
    (0x0A20003800008080038003F0, .max tH (tA .n32)), (0x0B20003800008000018003F0, .abs tH (tA1 .i32)),
    (0x0C20003800008000020003F0, .neg tH (tA1 .i64)), (0x0D20003800008080048003F0, .and tH (tA .b32)), (0x0E20003800008080050003F0, .or tH (tA .b64)),
    (0x0F20003800008080048003F0, .xor tH (tA .b32)), (0x1020003800008080048003F0, .andn tH (tA .b32)),
    (0x1120003800008000048003F0, .not tH (tA1 .b32)), (0x1220003800008080048003F0, .shl tH (tA .b32)), (0x1320003800008080050003F0, .shr tH (tA .b64)),
    (0x1420003800008080048003F0, .sha tH (tA .b32)), (0x1520003800008080050003F0, .rot tH (tA .b64)), (0x1620003800008080648003F0, .shf tH (tA3 .b32)),
    (0x1720003800008080018003F0, .bfe tH (tA .i32)), (0x1820003800008080648003F0, .bfi tH (tA3 .b32)),
    (0x1920003800008000048003F0, .popc tH (tA1 .b32)), (0x1A20003800008000050003F0, .clz tH (tA1 .b64)),
    (0x1B20003800008000048003F0, .ctz tH (tA1 .b32)), (0x1C20003800008000050003F0, .brev tH (tA1 .b64)),
    (0x1D20003800008080648003F0, .perm tH (tA3 .b32)), (0x1E20003800008080048003F0, .sel tH (tA .b32)),
    (0x1F20003800008080018000F0, .cmp tH { tA .i32 with d := .v 0, pd := 1 }), (0x2020003800008080018003F0, .lea tH (tA .i32)),
    (0x2120003800008000050003F0, .mov tH (tA1 .b64)), (0x2320003800008000008003F0, .sxt tH (tA1 .i8)),
    (0x2420003800008000030007F0, .zxt tH { tA1 .n16 with sub := 1 }),
    (0x2520003840000020200001F0, .plop tH { tA .none with d := .v 0x80, a := .v 0, b := .v 1, c := .v 2, pd := 3 })] : List (Nat × Instr)).all
    decodesTo = true := by decide +kernel

theorem test_decode_integer_imm : ([(0x00200039000080000001460E, Instr.addImm tH (tI .i32)),
    (0x012000390000800000014E02, .addcImm tH { tI .n32 with pd := 1 }), (0x02200039000080000001480E, .subImm tH (tI .i64)),
    (0x032000390000800000014E02, .subbImm tH { tI .n32 with pd := 1 }), (0x04200039000080000001460E, .mulImm tH (tI .i32)),
    (0x052000390000800000014E0E, .mulhImm tH (tI .n32)), (0x07200039000080000001460E, .divImm tH (tI .i32)),
    (0x08200039000080000001480E, .remImm tH (tI .i64)), (0x09200039000080000001460E, .minImm tH (tI .i32)),
    (0x0A2000390000800000014E0E, .maxImm tH (tI .n32)), (0x0D200039000080000001520E, .andImm tH (tI .b32)),
    (0x0E200039000080000001540E, .orImm tH (tI .b64)), (0x0F200039000080000001520E, .xorImm tH (tI .b32)),
    (0x10200039000080000001520E, .andnImm tH (tI .b32)), (0x12200039000080000001520E, .shlImm tH (tI .b32)),
    (0x13200039000080000001520E, .shrImm tH (tI .b32)), (0x14200039000080000001540E, .shaImm tH (tI .b64)),
    (0x15200039000080000001520E, .rotImm tH (tI .b32)), (0x17200039000080000001460E, .bfeImm tH (tI .i32)),
    (0x1D200039000080000001520E, .permImm tH (tI .b32)), (0x1E2000390000800000015204, .selImm tH { tI .b32 with pd := 2 }),
    (0x1F2000390000800000014602, .cmpImm tH { tI .i32 with pd := 1 }), (0x20200039000080000001460E, .leaImm tH (tI .i32)),
    (0x22200039000000000001520E, .movi tH { tI .b32 with a := .v 0 }), (0x22200039000000000001542E, .movi tH { tI .b64 with a := .v 0, sub := 1 })] : List (Nat × Instr)).all
    decodesTo = true := by decide +kernel

theorem test_decode_special : ([(0x262000388180A800048003F0, Instr.sread tH { tA1 .b32 with d := .s 3, b := .int 0 }),
    (0x2620003881808000048007F0, .sread tH { tA1 .b32 with d := .s 3, sub := 1 }),
    (0x27200038B5808000048003F0, .swrite tH { tA1 .b32 with d := .sp .fpctl }),
    (0x27200038B6008000048003F0, .swrite tH { tA1 .b32 with d := .sp .chkctl }),
    (0x27200038BA008000050003F0, .swrite tH { tA1 .b64 with d := .sp (.scalewin 7) })] : List (Nat × Instr)).all
    decodesTo = true := by decide +kernel

theorem test_decode_float : ([(0x4020003800008080068003F0, Instr.fadd tH (tA .f32)), (0x4120003800008080070003F0, .fsub tH (tA .f64)),
    (0x4220003800008080058003F0, .fmul tH (tA .f16)), (0x4320003800008080660003F0, .ffma tH (tA3 .bf16)),
    (0x4420003800008080068003F0, .fmin tH (tA .f32)), (0x4520003800008080070003F0, .fmax tH (tA .f64)),
    (0x4620003800008080068000F0, .fcmp tH { tA .f32 with pd := 1 }), (0x4720003800008000078003F0, .fclass tH (tA1 .e4m3)),
    (0x4820003800008000068003F0, .frcp tH (tA1 .f32)), (0x4920003800008000070003F0, .frsq tH (tA1 .f64)),
    (0x4A20003800008000068003F0, .fsqrt tH (tA1 .f32)), (0x4B20003800008080068003F0, .fdiv tH (tA .f32)),
    (0x4C20003800008000058003F0, .fexp2 tH (tA1 .f16)), (0x4D20003800008000068003F0, .flog2 tH (tA1 .f32)),
    (0x4E20003800008000068003F0, .fsin tH (tA1 .f32)), (0x4F20003800008000068003F0, .fcos tH (tA1 .f32)),
    (0x5020003800008000068003F0, .ftanh tH (tA1 .f32)), (0x5120003800008080068003F0, .fscale tH (tA .f32)),
    (0x5220003800008000068003F0, .frnd tH (tA1 .f32)), (0x5320003800008000D18003F0, .cvt tH { tA1 .i32 with c := .v 13 }),
    (0x5420003800008080678003F0, .dot4 tH (tA3 .e4m3)), (0x5520003800008080090003F0, .hadd2 tH (tA .f16x2)),
    (0x5620003800008080098003F0, .hmul2 tH (tA .bf16x2)), (0x5720003800008080690003F0, .hfma2 tH (tA3 .f16x2)),
    (0x402000390000800000015A0E, .faddImm tH (tI .f32)), (0x412000390000800000015C0E, .fsubImm tH (tI .f64)),
    (0x42200039000080000001560E, .fmulImm tH (tI .f16)), (0x442000390000800000015A0E, .fminImm tH (tI .f32)),
    (0x452000390000800000015A0E, .fmaxImm tH (tI .f32)), (0x462000390000800000015A02, .fcmpImm tH { tI .f32 with pd := 1 }),
    (0x512000390000800000015A0E, .fscaleImm tH (tI .f32)), (0x55200039000080000001640E, .hadd2Imm tH (tI .f16x2)),
    (0x56200039000080000001660E, .hmul2Imm tH (tI .bf16x2))] : List (Nat × Instr)).all
    decodesTo = true := by decide +kernel

theorem test_decode_exchange : ([(0x6020003800008080648003F0, Instr.shfl tH (tA3 .b32)),
    (0x60200039000080000001526E, .shflImm tH { tI .b32 with sub := 3 }), (0x612000380000000000000110, .vote tH { tA0 with ps := 1, pd := 2 }),
    (0x622000380000000000000390, .ballot tH { tA0 with ps := 1 }), (0x6320003800008000048003F0, .matchLanes tH (tA1 .b32)),
    (0x6420003800008000018003F0, .redux tH (tA1 .i32)), (0x652000380000A080048003F0, .laneperm tH { tA .b32 with b := .s 4 }),
    (0x652000390000803FFFFFD20E, .lanepermImm tH { tI .b32 with imm := 0xFFFFFF })] : List (Nat × Instr)).all
    decodesTo = true := by decide +kernel

theorem test_decode_control : ([(0x7020003B0000000000000000, Instr.bra tH tC), (0x7120003B0000000000200000, .brx tH { tC with a := .v 2 }),
    (0x7220003B0000000000000000, .call tH tC), (0x7320003B0000000000200000, .callx tH { tC with a := .v 2 }),
    (0x7420003B0000000000200000, .ret tH { tC with a := .v 2 }), (0x7520003B00000000000E0000, .join tH { tC with jx := 7 }),
    (0x7620003B0000000000000000, .waitj tH tC), (0x7720003B0000000000000000, .exit tH tC), (0x7820003B0000000000000000, .nop tH tC),
    (0x7920003B0000000000001F80, .delay tH { tC with cnt := 63 }), (0x7A20003B0000000000000000, .yield tH tC),
    (0x7B20003B0000000000000000, .backoff tH tC), (0x7C20003B000000000001E000, .twait tH { tC with tk := 15 }),
    (0x7D20003B0000000000000000, .treset tH tC), (0x7E20003B0000000000400000, .tread tH { tC with a := .v 4 }),
    (0x7F20003B0000000000401000, .regq tH { tC with a := .v 4, cnt := 32 })] : List (Nat × Instr)).all
    decodesTo = true := by decide +kernel

theorem test_decode_memory : ([(0x8020003A0000800001200000, Instr.ld tH (tM .b32)), (0x8120003A0000800001400000, .st tH (tM .b64)),
    (0x8220003A0000800001A00010, .lde tH { tM .f32 with b := .v 4 }), (0x8320003A0000800001200000, .lda tH (tM .b32)),
    (0x8420003A0000800001400000, .sta tH (tM .b64)), (0x8520003A0000800001201000, .ldw tH { tM .b32 with mop := 2 }),
    (0x8620003A0000800001200000, .ldc tH (tM .b32)), (0x8720003A0000800000600000, .atom tH (tM .i32)),
    (0x8720003A0000800001405820, .atom tH { tM .b64 with mop := 11, b := .v 8 }),
    (0x8720003A000080000120B808, .atom tH { tM .b32 with mop := 23, b := .v 2 }), (0x8820003A0000800000600000, .red tH (tM .i32)),
    (0x8920003A0000800001400000, .mcas tH (tM .b64)), (0x8A20003A0000000000180800, .fence tH { tM .none with a := .v 0, ord := .ar, mop := 1 }),
    (0x8B20003A0000800000000000, .wbr tH (tM .none)), (0x8C20003A0000800000000000, .invr tH (tM .none)),
    (0x8D20003A0000800000000800, .pref tH { tM .none with mop := 1 }), (0x8E20003A0000800000000000, .ipref tH (tM .none)),
    (0x8F20003A0000800000000000, .ipin tH (tM .none)), (0x9020003A0000800000000000, .iunpin tH (tM .none)),
    (0x9120003A0000800001200010, .watch tH { tM .b32 with b := .v 4 })] : List (Nat × Instr)).all
    decodesTo = true := by decide +kernel

theorem test_decode_queue : ([(0x922000380053C040000003F0, Instr.barArrive tH { tA0 with a := .int 15, b := .v 2 }),
    (0x9220003800404000000007F0, .barWait tH { tA0 with a := .s 1, sub := 1 }),
    (0x922000380050282000000BF0, .barSync tH { tA0 with a := .int 0, b := .int 1, sub := 2 }),
    (0x92200039005040000400000E, .barArriveImm tH { tI0 with a := .int 1, imm := 4096 }),
    (0x92200039005040000000404E, .barSyncImm tH { tI0 with a := .int 1, imm := 1, sub := 2 }),
    (0x932000380050A010100003F0, .sqinit tH { tA0 with a := .int 2, b := .s 0, c := .s 1 }),
    (0x9420003800508000050003F0, .sqpush tH { tA1 .b64 with a := .int 2 }),
    (0x9420003800508000050007F0, .sqpushCredit tH { tA1 .b64 with a := .int 2, sub := 1 }),
    (0x9520003800508000050003F0, .sqpop tH { tA1 .b64 with a := .int 2 }),
    (0x9520003800508000050007F0, .sqpopFree tH { tA1 .b64 with a := .int 2, sub := 1 })] : List (Nat × Instr)).all
    decodesTo = true := by decide +kernel

theorem test_decode_copy : ([(0xA020003D0000000000080000, Instr.cpy tH { tX with cmd := 0x080000 }),
    (0xA120003D000000000008440F, .cpym tH { tX with cmd := 0x08440F }), (0xA220003D0000000000080000, .cpys tH { tX with cmd := 0x080000 }),
    (0xA320003D0000000000100000, .cpyg tH { tX with cmd := 0x100000 }), (0xA420003D0000000000200000, .cpyx tH { tX with cmd := 0x200000 }),
    (0xA020003D0000001570280000, .cpy tH { tX with guard := some (21, false), ch := 3, cmd := 0x280000 }),
    (0xA52000380053C000000003F0, .seal tH { tA0 with a := .int 15 })] : List (Nat × Instr)).all
    decodesTo = true := by decide +kernel

theorem test_decode_engines : ([(0xA62000380050C000050003F0, Instr.cptr tH { tA1 .b64 with a := .int 3 }),
    (0xA620003800500000050007F0, .cptrIptr tH { tA1 .b64 with a := .int 0, sub := 1 }),
    (0xA62000380050000004800BF0, .cptrStat tH { tA1 .b32 with a := .int 0, sub := 2 }),
    (0xA720003800506880000003F0, .cinit tH { tA0 with a := .int 1, b := .int 4 }),
    (0xA820003800506814400003F0, .carr tH { tA0 with a := .int 1, b := .int 0, c := .int 4 }),
    (0xA920003800504040000003F0, .gset tH { tA0 with a := .int 1, b := .v 2 }),
    (0xA9200039005040000000C00E, .gsetImm tH { tI0 with a := .int 1, imm := 3 }), (0xAA20003800000040000003F0, .gclr tH { tA0 with b := .v 2 }),
    (0xAA200039000000000000C00E, .gclrImm tH { tI0 with imm := 3 }), (0xB020003D0000800000000000, .mma tH { tX with a := .v 2 }),
    (0xB120003D0050684000000000, .mzero tH { tX with a := .int 1, b := .int 2 }),
    (0xB22000380040004004800BF0, .mrd tH { tA1 .b32 with a := .s 0, b := .v 2, sub := 2 }),
    (0xB320003800504040048003F0, .mwr tH { tA1 .b32 with a := .int 1, b := .v 2 }),
    (0xB420003DA150000006807F00, .mred tH { tX with d := .int 2, a := .int 0, ty := .f32, cmd := 0x7F00 }),
    (0xB520003D0BD0C3000681FC03, .mmap tH { tX with d := .v 23, a := .int 3, b := .v 24, ty := .f32, cmd := 0x1FC03 }),
    (0xB620003D0050400006000000, .mcvt tH { tX with a := .int 1, ty := .bf16 }),
    (0xB720003800504000000003F0, .mtile tH { tA1 .none with a := .int 1 })] : List (Nat × Instr)).all
    decodesTo = true := by decide +kernel

theorem test_decode_calls : ([(0xC020003C0000809410000000, Instr.wcreate tH { tK with c := .int 1 }), (0xC120003C0000808000000000, .psend tH tK),
    (0xC220003C0000808001000000, .precv tH { tK with sub := 1 }), (0xC320003C0000808060003F00, .wsadd tH { tK with c := .v 6, imm := 63 }),
    (0xC420003C0000800000003F00, .wsdel tH { tK with b := .v 0, imm := 63 }), (0xC520003C00008080007FFC00, .suspend tH { tK with imm := 0x7FFC }),
    (0xC520003C0000808061000000, .suspendX tH { tK with sub := 1, c := .v 6 }), (0xC620003C0000808000000000, .tarm tH tK),
    (0xC720003C0000800000000000, .tdisarm tH { tK with b := .v 0 }), (0xC820003C0000A82000000000, .ecsig tH { tK with b := .int 1 }),
    (0xC920003C0000800000000000, .ecread tH { tK with b := .v 0 }), (0xCA20003C0000808001000000, .qenq tH { tK with sub := 1 }),
    (0xCB20003C0000809430000000, .dcinit tH { tK with c := .int 3 }), (0xCC20003C0000800000000000, .dcdec tH { tK with b := .v 0 }),
    (0xCD20003C0000008006000000, .objnew tH { tK with a := .v 0, sub := 6 }), (0xCE20003C0000800000000000, .objdel tH { tK with b := .v 0 }),
    (0xCF20003C0000800000000000, .objinfo tH { tK with b := .v 0 }), (0xD020003C0000008000000000, .nslook tH { tK with a := .v 0 }),
    (0xD120003C0000808001000000, .nsbind tH { tK with sub := 1 }), (0xD220003C0000800000000000, .grantrev tH { tK with b := .v 0 }),
    (0xD320003C0050008000010A00, .syscall tH { tK with a := .int 0, imm := 0x10A }), (0xE020003C0050008000000000, .launch tH { tK with a := .int 0 }),
    (0xE120003C0000008000000000, .lstat tH { tK with a := .v 0 }), (0xE220003C0000008000000000, .ctadmit tH { tK with a := .v 0 })] : List (Nat × Instr)).all
    decodesTo = true := by decide +kernel

theorem test_decode_dusk : ([(0xE3200039004000000000000E, Instr.phint tH { tI0 with a := .s 0 }),
    (0xE3200039000000000000002E, .phintFull tH { tI0 with sub := 1 }), (0xE4200039000000003FFFC00E, .trap tH { tI0 with imm := 0xFFFF }),
    (0xE5200039000000000000400E, .bkpt tH { tI0 with imm := 1 }), (0xE620003B0000000000200000, .rett tH { tC with a := .v 2 }),
    (0xE620003B0000000000200008, .rettStep tH { tC with a := .v 2, sub := 1 }), (0xE720003800008000000003F0, .csave tH { tA1 .none with a := .v 2 }),
    (0xE820003800008080000003F0, .crest tH { tA .none with a := .v 2, b := .v 4 }),
    (0xE920003A0000800000000010, .ptinv tH { tM .none with b := .v 4 }),
    (0xE920003A0000800000000810, .ptinvRsm tH { tM .none with b := .v 4, mop := 1 }),
    (0xE920003A0000800000001010, .ptinvEnd tH { tM .none with b := .v 4, mop := 2 })] : List (Nat × Instr)).all
    decodesTo = true := by decide +kernel

/-! ## WellFormed refuses: one ill-formed term for each check -/

/-- Every term is refused. -/
def refusesAll (l : List Instr) : Bool := l.all (fun i => !i.wellFormed)

/-- The header: a post where the row allows none (R40). -/
theorem test_wf_header : refusesAll [.add { tH with post := some 1 } (tA .i32), .nop { tH with post := some 0 } tC,
    .st { tH with post := some 0 } (tM .b32)] = true := by decide +kernel

/-- Operand fields: an unused field, an odd register at a 64-bit type, a constant destination, a floating constant at an integer
type, a v register under S = 1, an s register under S = 0, a group that is not a multiple (R44 to R48, R236). -/
theorem test_wf_operands : refusesAll [.add tH { tA .i32 with c := .v 1 }, .add tH { tA .i64 with a := .v 3 }, .add tH { tA .i32 with d := .int 0 },
    .add tH { tA .i32 with b := .fconst .half }, .add tH { tA .i32 with s := true }, .add tH { tA .i32 with d := .s 0 },
    .ld tH { tM .b32 with d := .v 2, mop := 2 }, .ld tH { tM .b32 with a := .v 3 }, .cpys tH { tX with b := .v 2, cmd := 0x080000 },
    .call tH { tC with a := .v 2 }, .watch tH { tM .b32 with b := .v 3 }, .sread tH { tA1 .b32 with b := .int 0 }, .swrite tH { tA1 .b32 with d := .sp .argp }]
    = true := by decide +kernel

/-- Predicate fields that name none must hold 7 (R45), and a predicate result and S = 1 exclude each other (R136). -/
theorem test_wf_predicates : refusesAll [.mul tH { tA .i32 with pd := 0 }, .add tH { tA .i32 with ps := 0 }, .mulImm tH { tI .i32 with pd := 1 },
    .add tH { tA .i32 with d := .s 0, a := .s 2, b := .s 4, s := true, pd := 1 }] = true := by decide +kernel

/-- Types (R54, R55). -/
theorem test_wf_types : refusesAll [.add tH (tA .f32), .add tH (tA .none), .and tH (tA .i32), .fadd tH (tA .i32), .abs tH (tA1 .n32), .shf tH (tA3 .b64),
    .cvt tH { tA1 .f32 with c := .v 13 }, .redux tH { tA1 .b32 with sub := 0 }, .atom tH { tM .f32 with b := .v 4 }, .lda tH (tM .i32),
    .mred tH { tX with ty := .f16 }, .nop tH { tC with sub := 1 }] = true := by decide +kernel

/-- Rounding, SAT, ABS and NEG, and SUB (R55). -/
theorem test_wf_modifiers : refusesAll [.add tH { tA .i32 with rnd := .rtz }, .addc tH { tA .i32 with sat := true }, .add tH { tA .i32 with negA := true },
    .fmin tH { tA .f32 with rnd := .rup }, .fadd tH { tA .f32 with absC := true }, .add tH { tA .i32 with sub := 1 }, .lea tH { tA .i32 with sub := 5 },
    .cmp tH { tA .b32 with sub := 2 }, .movi tH { tI .b32 with a := .v 0, sub := 1 }, .fcmpImm tH { tI .f32 with sub := 7 }] = true := by decide +kernel

/-- Immediates (R49, R147, R149, R171, R197). -/
theorem test_wf_immediates : refusesAll [.faddImm tH { tI .f16 with imm := 0x10000 }, .bfeImm tH { tI .i32 with imm := 0x10000 },
    .permImm tH { tI .b32 with imm := 0x10000 }, .lanepermImm tH { tI .b32 with imm := 0x1000000 }, .regq tH { tC with a := .v 4, cnt := 0 },
    .regq tH { tC with a := .v 4, cnt := 33 }, .trap tH { tI0 with imm := 0x10000 }, .wsadd tH { tK with c := .v 6, imm := 64 },
    .suspend tH { tK with imm := 5 }] = true := by decide +kernel

/-- Format C: a slot above 4, and fields that the form does not use (R46, R51). -/
theorem test_wf_control : refusesAll [.bra tH { tC with slot := 5 }, .nop tH { tC with disp := 1 }, .bra tH { tC with jx := 1 }, .nop tH { tC with tk := 1 },
    .nop tH { tC with cnt := 1 }] = true := by decide +kernel

/-- Ordering, scope and sub-operation of the memory forms (R236, Table 9-2). -/
theorem test_wf_memory : refusesAll [.ld tH { tM .b32 with ord := .rel }, .ld tH { tM .b32 with ord := .acq, scope := 6 }, .ld tH { tM .b32 with scope := 1 },
    .st tH { tM .b32 with ord := .acq }, .ld tH { tM .b32 with mop := 3 }, .ld tH { tM .i16 with mop := 1 }, .fence tH { tM .none with a := .v 0 },
    .fence tH { tM .none with a := .v 0, ord := .acq, mop := 1 }, .fence tH { tM .none with a := .v 0, ord := .ar, ofs := 4 },
    .red tH { tM .b32 with mop := 6 }, .pref tH { tM .none with mop := 2 }, .ptinv tH { tM .none with scope := 1 }] = true := by decide +kernel

/-- CMD of the copy and matrix commands, and CH of a matrix command (R53, R276, R299). -/
theorem test_wf_commands : refusesAll [.cpy tH { tX with cmd := 0 }, .cpy tH { tX with cmd := 0x080100 }, .cpy tH { tX with cmd := 0x080400 },
    .cpym tH { tX with cmd := 0x080000 }, .cpyx tH { tX with cmd := 0x080000 }, .cpy tH { tX with cmd := 0x0C0000 }, .mma tH { tX with cmd := 1 },
    .mma tH { tX with ch := 1 }, .mmap tH { tX with ty := .f32, cmd := 5 }, .mcvt tH { tX with ty := .f32 }] = true := by decide +kernel

/-- The calls: SUB and IMM (Tables 13-6, 14-1). -/
theorem test_wf_calls : refusesAll [.psend tH { tK with sub := 2 }, .objnew tH { tK with a := .v 0, sub := 7 }, .objnew tH { tK with a := .v 0, sub := 1 },
    .launch tH { tK with imm := 1 }, .ecsig tH { tK with d := .v 2, b := .int 1 }] = true := by decide +kernel

/-- Events are not slots, and a raw slot is one with an unassigned major opcode (R56). -/
theorem test_wf_events : refusesAll [.precessionEval, .homeLoad 1, .unassignedOpcode 0] = true
    ∧ (Instr.unassignedOpcode (BitVec.ofNat 96 (0xFF * 2 ^ 88))).wellFormed = true := by decide +kernel

/-! ## Witnesses of the statements about events: what an event acts on is pending -/

/-- A load of a RELEASED word by lane 0 of the small wave. -/
def tReq : Req :=
  { id := 1, uid := tS.uidOf 0, asid := 0, core := 0, wave := 0, lane := 0, op := 1, kind := .load, place := .mem, pageKind := 1, addr := 0x1000000, size := 4,
    va := 0, elem := 0, off := 0, ord := .rlx, scope := 0, ty := .b32, data := 7, data2 := 0, age := 0, st := .waiting, pc := placedPc, lodged := none }

/-- The small state, mapped, with one request in flight. -/
def tIn (r : Req) : State := { tMem 1 0 with reqs := [r] }

/-- A host with a trained port and a window. -/
def tHost (r : Req) : State := { tIn r with fab := { (tIn r).fab with portsUp := [(0, (64, 16))] } }

/-- `nop` at the small wave's PC, 4,096 cycles after it became ready. -/
def tAged : State := { placeWord State.reset (0x78 * 2 ^ 88 + 7 * 2 ^ 67 + 3 * 2 ^ 64) with clock := 4096 }

/-- A held trap of the small wave. -/
def tTrap : PTrap :=
  { id := 9, uid := tS.uidOf 0, asid := 0, core := 0, wave := 0, lanes := 1, cause := 0x12, secondary := 0, pc := placedPc, addr := 0, tok := none, carr := none, chan := none, op := 1 }

/-- An outstanding load. -/
def tOut : OutOp := { id := 1, lanes := 1, pc := placedPc, kind := .load (.v 0) .b32 1, acq := false, pollLane := 0, pollAddr := 0, pollVal := none, fl := 0 }

theorem test_wit_WaveEvents :
    (tAged.wave? 0 0 = some tW ∧ ((byReady tW.splits).filterMap (tAged.readyBut 0 tW)).head?.isSome = true ∧ tW.agedAt = none
      ∧ tW.waitSince + 4096 ≤ tAged.clock)
    ∧ ((tWith { tW with splits := [] }).wave? 0 0 = some { tW with splits := [] } ∧ tW.toks = [])
    ∧ (outside 0 64 = false ∧ ((tMem 1 0).core 0).icache.all (fun x => x.line != 0) = true
      ∧ (tMem 1 0).agentBusy [] (fetchNum 0 0) = false
      ∧ (match (tMem 1 0).fetchLine 0 0 0 with | .ok _ => true | .error _ => false) = true
      ∧ (match (tMem 1 0).fetchLine 0 0 0x20000 with | .ok _ => false | .error _ => true) = true)
    ∧ (tS.wave? 0 0 = some tW ∧ tW.outs = [])
    ∧ (({ tS with traps := [tTrap] } : State).traps.find? (fun t => t.id == 9) = some tTrap ∧ tTrap.uid = tS.uidOf 0 ∧ tTrap.free = true
      ∧ tS.gathers? tTrap = false ∧ tW.holds 1 = false ∧ ({ tTrap with tok := some (0, 1) } : PTrap).free = false)
    ∧ Tbl.find ((tQueue 0 32).core 0).squeues 2 = some 0 := by decide +kernel

/-- A write-back of a MANUAL line. -/
def tBack : WriteBack := { id := 5, op := 0, uid := 1, core := 0, asid := 0, line := 9, pages := [(0, 0)], data := [], mask := 1, bad := 0, time := 0, age := 0 }

/-- A watch that has fired. -/
def tFired : Watch := { id := 6, uid := 1, line := 9, host := false, counter := 1, fired := true }

theorem test_wit_MemoryEvents :
    let st : Req := { tReq with kind := .store }
    let mc : Req := { tReq with kind := .mcas [⟨0x1000000, 1, 0, 7⟩] [] }
    let md : Req := { tReq with kind := .mcas [⟨0x1000000, 1, 0, 7⟩] [lineNo 0x1000000] }
    let copy : Copy := { data := [], held := 0, bad := 0, dirty := 0, manual := false, pages := [], wts := 0, rts := 8, filled := 0 }
    ((tIn tReq).req? 1 = some tReq ∧ (tIn tReq).hits tReq = false ∧ (tIn tReq).writeBacks = [])
    ∧ ((tIn st).req? 1 = some st ∧ (tIn st).canPerform st = true ∧ (tIn { st with pageKind := 2 }).canPerform { st with pageKind := 2 } = true)
    ∧ (tIn { st with st := .unacked 3 0 }).req? 1 = some { st with st := .unacked 3 0 }
    ∧ Tbl.find ((tS.modCore 0 (fun k => { k with l1 := [(l1Key 5 false, copy)] })).core 0).l1 (l1Key 5 false) = some copy
    ∧ Tbl.find ({ tS with lineTs := [(5, ⟨1, 2⟩)] } : State).lineTs 5 = some ⟨1, 2⟩
    ∧ tS.versionOpen 0 = false
    ∧ (tIn { tReq with kind := .atom 0 }).canPerform { tReq with kind := .atom 0 } = true ∧ (tIn tReq).poisoned tReq = false
    ∧ (tIn { tReq with kind := .red 5 }).canPerform { tReq with kind := .red 5 } = true
    ∧ ((tIn mc).wantsLock mc = some (lineNo 0x1000000) ∧ Tbl.find (tIn mc).locks (lineNo 0x1000000) = none
      ∧ (tIn mc).mayServe (lineNo 0x1000000) 1 = true)
    ∧ (md.waits = true ∧ mcasLines [⟨0x1000000, 1, 0, 7⟩] = [lineNo 0x1000000])
    ∧ ((tIn { tReq with kind := .wbr [(0x1000000, 128, 2)] }).canPerform { tReq with kind := .wbr [(0x1000000, 128, 2)] } = true
      ∧ (tIn { tReq with kind := .invr [] }).canPerform { tReq with kind := .invr [] } = true)
    ∧ (tIn { tReq with kind := .invr [], st := .unacked 0 0 }).writeBacks = []
    ∧ ({ tS with writeBacks := [tBack], watches := [tFired] } : State).writeBacks.find? (fun w => w.id == 5) = some tBack
    ∧ Tbl.find tS.locks tBack.line = none ∧ tS.mayServe tBack.line tBack.id = true ∧ Memory.wf tS.mem = true
    ∧ (let rs := [(0x1000000, 128, 2), (0x1000080, 128, 1)]
       let old : Copy := { copy with data := [(0, 7)], held := 1, dirty := 1, manual := true }
       let s := tS.modCore 0 (fun k => { k with l1 := [(l1Key 0x20000 true, old)] })
       Tbl.wf (s.core 0).l1 = true ∧ Tbl.find (s.core 0).l1 (l1Key 0x20000 true) = some old
         ∧ inRanges (rs.filter (fun e => e.2.2 == 2)) 0x20000 = true ∧ inRanges (rs.filter (fun e => e.2.2 == 1)) 0x20001 = true
         ∧ (cacheOp1 s { tReq with kind := .invr rs } rs true).writeBacks.map (fun w => (w.line, w.mask)) = [(0x20000, 1)])
    ∧ ({ tS with watches := [tFired] } : State).watches.find? (fun w => w.id == 6 && w.fired) = some tFired
    ∧ ({ tW with outs := [tOut] } : Wave).outs.find? (fun o => o.id == 1) = some tOut
    ∧ (tIn { tReq with kind := .watch 1 }).canPerform { tReq with kind := .watch 1 } = true
    ∧ ((tHost { tReq with place := .host, pageKind := 0 }).canPerform { tReq with place := .host, pageKind := 0 } = true
      ∧ (tHost { st with place := .host, pageKind := 0 }).canPerform { st with place := .host, pageKind := 0 } = true
      ∧ (tHost tReq).overdue none = false ∧ (tHost tReq).fab.portsUp ≠ []) := by decide +kernel

theorem test_wit_StoreWrites : let r : Req := { tReq with kind := .store, addr := 0x100007C }
    (tIn r).req? 1 = some r ∧ (tIn r).canPerform r = true ∧ (tIn r).versionOpen 0 = false ∧ Memory.wf (tIn r).mem = true ∧ Memory.wf (tIn r).hostMem = true
    ∧ (match exec (.homeStore 1) (tIn r) with
      | .next t => Memory.read t.mem 0x100007C 4 == 7 && t.tsOf (lineNo 0x100007C) == ⟨1, 1⟩
      | _ => false) = true := by decide +kernel

/-- A copy of 16 bytes from memory at 0 to the A-buffer at 0, issued by lane 0. -/
def tCopy : CopyCmd :=
  { task := false, id := 1, asid := 0, op := .cpy, wave := 0, lane := 0, pc := placedPc, chan := 0, src := 0, dst := 0, ssp := 0, dsp := 1, rb := 16, rn := 1, b2 := 0, b3 := 0,
    dec := false, rnd := .rne, sat := false, ty := .none, be := false, bar := 0, mask := 0, guard := none, resolved := none, batch := none, scalewin := [],
    accepted := false, started := false, rows := [], start := 0, done := 0, flags := 0, abase := 0, abytes := 4096, after := none, age := 0, pages := [], lodged := none }

/-- The small state, mapped, one cycle on, with a copy command and its channel's queue. -/
def tCmd (x : CopyCmd) (queue : List Nat) : State :=
  let u := (tMem 1 0).modCore 0 (fun k => { k with cmds := [(1, x)], chans := [(0, { queue := queue, iptr := 0, wptr := 0, halt := false, mcause := 0 })] })
  { u with clock := 1 }

theorem test_wit_CopyEvents :
    let acc : CopyCmd := { tCopy with accepted := true, rows := [0] }
    let run : CopyCmd := { acc with started := true }
    let out : CopyCmd := { run with ssp := 1, dsp := 0 }
    let carr : CarrOp := { id := 1, wave := 0, lane := 0, bar := 1, cmds := [] }
    let u := tS.modCore 0 (fun k => { k with carrs := [carr], cinits := [{ id := 1, bar := 1, amount := 4, due := 8 }] })
    (Tbl.find ((tCmd tCopy []).core 0).cmds 1 = some tCopy ∧ tCopy.age < (tCmd tCopy []).clock
      ∧ (((tCmd tCopy []).core 0).cmds.all (fun e => !acceptsBefore e.2 tCopy)) = true ∧ (((tCmd tCopy []).core 0).chan 0).halt = false ∧ tCopy.total ≠ 0)
    ∧ (let s := (tCmd acc [1]).settle 0
       Tbl.find (s.core 0).cmds 1 = some acc ∧ s.enginesRest 0 = false ∧ s.cmdOrdered 0 0 0 1 none = true ∧ s.copyBad 0 acc = none
         ∧ (s.core 0).nextCmd 0 = some 1)
    ∧ ((tCmd { acc with abytes := 15 } [1]).settle 0).copyBad 0 { acc with abytes := 15 } ≠ none
    ∧ (((tCmd out [1]).core 0).headCmd 1 = some out ∧ out.done < out.total ∧ (tCmd out [1]).enginesRest 0 = false)
    ∧ (((tCmd { run with done := 16 } [1]).core 0).headCmd 1 = some { run with done := 16 } ∧ ({ run with done := 16 } : CopyCmd).total ≤ 16)
    ∧ (let bad : CopyCmd := { run with src := 0x10000 }
       ((tCmd bad [1]).core 0).headCmd 1 = some bad ∧ (match (tCmd bad [1]).copyOne 0 bad 0 with | .error _ => true | .ok _ => false) = true)
    ∧ ((u.core 0).carrs.find? (fun r => r.wave == 0 && r.lane == 0 && r.cmds.all (fun i => (Tbl.find (u.core 0).cmds i).isNone)) = some carr
      ∧ u.releasedTo 0 0 0 1 = true ∧ u.traps = [])
    ∧ ((u.core 0).cinits.find? (fun x => x.id == 1)).isSome = true := by decide +kernel

/-- A matrix command of lane 0 of the small wave. -/
def tMat (kind : MatOp) (st : MatSt) : MatCmd :=
  { id := 1, asid := 0, wave := 0, lanes := 1, threads := 1, pc := placedPc, kind := kind, guard := none, resolved := none, after := none, posted := false, abase := 0,
    abytes := 4096, at_ := 0, st := st, tileOut := [], abufOut := [], regOut := [], flags := 0 }

/-- A running package, four cycles on, with one matrix command. -/
def tTile (m : MatCmd) : State :=
  let u := tS.modCore 0 (fun k => { k with mats := [m], abuf := Memory.write [] 0 8 (12 * 2 ^ 42 + 12 * 2 ^ 37 + 7 * 2 ^ 24 + 256) })
  { u with clock := 4, svc := { u.svc with boot := .running } }

theorem test_wit_MatrixEvents :
    let q := fun (k : MatOp) => tMat k .queued
    let is := tMat (.mzero 0 1) .issued
    let mma := fun (a : Nat) => (tTile (q (.mma a none))).settleMats 0
    ((tTile is).core 0).mat? 1 = some is ∧ is.at_ < (tTile is).clock ∧ (tTile is).preempted 0 = none
    ∧ ((tTile is).core 0).mats.all (fun y => !matBefore y is) = true
    ∧ [0, 1, 4096].all (fun a => ((mma a).core 0).mat? 1 == some (q (.mma a none)) && decide ((q (.mma a none)).at_ + 4 ≤ (mma a).clock)
        && (mma a).matReleased 0 (q (.mma a none)) && ((mma a).core 0).olderMats (q (.mma a none)) == []) = true
    ∧ (mma 0).poisonAt 0 .abuf 0 64 = false ∧ ({ mma 0 with poison := [⟨.abuf 0 0, ~~~ 0⟩] } : State).poisonAt 0 .abuf 0 64 = true
    ∧ blockBad 4096 (Memory.read ((mma 0).core 0).abuf 0 64) false = none ∧ (blockBad 4096 (2 ^ 511) false).isSome = true
    ∧ (let m := q (.mzero 0 1)
       ((tTile m).settleMats 0).eligible 0 m = true ∧ (((tTile m).settleMats 0).core 0).unitFree 4 m = true ∧ matBad m = none
         ∧ ((tTile m).settleMats 0).matPoisoned 0 m = false ∧ m.kind.unit ≠ 0)
    ∧ (matBad (q (.mzero 127 2))).isSome = true ∧ ((tTile (q (.mzero 127 2))).settleMats 0).eligible 0 (q (.mzero 127 2)) = true
    ∧ ((tTile (tMat (.mma 0 none) (.running 4))).core 0).mat? 1 = some (tMat (.mma 0 none) (.running 4)) ∧ (tTile is).poison = []
    ∧ (MatOp.mma 0 none).unit = 0 ∧ (MatOp.mzero 0 1).unit = 1 ∧ (MatOp.mwr 0 []).unit = 2 := by decide +kernel

/-! ## Witnesses of the statements about calls, Transit, Dusk, the fabric and the service cores -/

theorem test_wit_Functions : (0 : Nat) % 2 ^ 32 = 0 ∧ (6 : Nat) % 2 ^ 32 ≠ 0 ∧ (2 ^ 32 - 1 : Nat) < 2 ^ 32 ∧ (31 : Nat) < 32 ∧ (3 : Nat) < 4
    ∧ (let f := fmtOf .f32
       (f.dec (f.flush 0x7FC00000)).isNan = true ∧ (f.dec (f.flush 0x7F800001)).isSig = true ∧ f.dec (f.flush 0x7F800000) = .inf false
       ∧ f.dec (f.flush 0xFF800000) = .inf true ∧ (∃ e, f.dec (f.flush 0) = .num false 0 e) ∧ (∃ e, f.dec (f.flush 0x80000000) = .num true 0 e)
       ∧ f.noInf = false) := by
  refine ⟨by decide, by decide, by decide, by decide, by decide, by decide +kernel, by decide +kernel, by decide +kernel, by decide +kernel,
    ⟨_, rfl⟩, ⟨_, rfl⟩, by decide +kernel⟩

theorem test_wit_negative : (let f := fmtOf .f32
    ((match f.dec (f.flush 0xBF800000) with | .num true (_ + 1) _ => true | _ => false)
      && (match f.dec (f.flush 0x3F800000) with | .num false (_ + 1) _ => true | _ => false)) = true) := by decide +kernel

/-- Operands of no call. -/
def tMaker : Maker :=
  { sregs := [], argp := 0, windows := [], rt := false, crewNo := 0, abase := 0, abytes := 0, queue := none }

/-- A call of lane 0 of the small wave with a handle in a. -/
def tCall (kind : CallOp) (a b c : Nat) : Call :=
  { id := 1, uid := tS.uidOf 0, core := 0, asid := 0, tenant := 0, wave := 0, lane := 0, lanes := 1, op := 1, pc := placedPc, kind := kind, d := .v 0
    writes := true, a := BitVec.ofNat 64 a, b := BitVec.ofNat 64 b, c := BitVec.ofNat 64 c, noA := false, noB := false, noC := false
    maker := tMaker, susp := false, recs := [], tok := none, depth := 0, sent := none, lodged := none, lost := false }

/-- An object of the supervisor process. -/
def tObj (b : ObjBody) : Obj := { gen := 1, owner := 0, time := 0, body := b }

/-- The small state with the call and an object at index 1. -/
def tAsk (x : Call) (b : ObjBody) : State := { tS with calls := [x], objs := [(1, tObj b), (2, tObj (.event 0))] }

/-- The call is ready and its handle is that of the object. -/
def askOk (kind : CallOp) (b : ObjBody) (bv cv : Nat) : Bool :=
  let x := tCall kind (handleOf 1 1 b.type) bv cv
  let s := tAsk x b
  (s.calls.find? (fun y => y.id == 1)) == some x && s.callReady x && !s.versionOpen x.core && s.owned x.asid x.a.toNat == some (tObj b)

/-- A waiter of the small wave that has fired. -/
def tWaiter (on : WaitOn) : Waiter :=
  { id := 3, uid := tS.uidOf 0, wave := 0, lanes := 1, on := on, cont := placedPc, d := .v 0, writes := true, fired := some 7, time := 0 }

theorem test_wit_Calls_objects :
    ([CallOp.ecsig, .ecread, .tdisarm, .objdel, .objinfo].all (fun k => askOk k (.event 5) 1 0)
      && askOk (.wsadd 3) (.waitset []) (handleOf 2 1 6) 9 && askOk (.wsdel 3) (.waitset [(3, (2, 9))]) 0 0
      && [0, 1000, 1, 999].all (fun p => askOk .tarm (.timer 2 0 0 0 0) 10 p) && askOk .tdisarm (.timer 2 1 5 0 0) 0 0) = true
    ∧ (let s := tAsk (tCall (.wsadd 3) (handleOf 1 1 4) (handleOf 2 1 6) 9) (.waitset [])
       s.owned 0 (handleOf 2 1 6) = some (tObj (.event 0)))
    ∧ (let x := tCall .ecsig (handleOf 9 1 6) 0 0
       (tAsk x (.event 5)).callReady x = true ∧ (tAsk x (.event 5)).owned 0 x.a.toNat = none)
    ∧ (let x := tCall .lstat 0 7 0
       (tAsk x (.event 5)).calls.find? (fun y => y.id == 1) = some x ∧ (tAsk x (.event 5)).callReady x = true) := by decide +kernel

theorem test_wit_CallEvents :
    (({ tS with waiters := [tWaiter (.counter 1 5)] } : State).firedWaiter 3 = some (tWaiter (.counter 1 5), 7)
      ∧ (tWaiter (.counter 1 5)).on.isSuspend = true ∧ (tWaiter (.change 1)).on.isSuspend = false ∧ (tWaiter (.change 1)).on ≠ .lost
      ∧ ({ tS with waiters := [tWaiter (.change 1)] } : State).firedWaiter 3 = some (tWaiter (.change 1), 7))
    ∧ Tbl.find (tAsk (tCall .tarm 0 0 0) (.timer 2 1 0 0 0)).objs 1 = some (tObj (.timer 2 1 0 0 0))
    ∧ (0 : Nat) ≤ tS.clock := by decide +kernel

/-- A task queue at 0 with records of 64 bytes and a capacity of 1, for stage 0. -/
def tTasks (tasks : List Task) (held : List HeldTask) : TaskQ :=
  { arena := 0, recsz := 64, cap := 1, q8 := 1, lvl := 0, stage := 0, abytes := 0, contract := none, tasks := tasks, used := [], held := held, waves := 0 }

/-- Core 0 is a core of stage 0. -/
def tStage (q : TaskQ) : State :=
  let u : State := State.reset.modCore 0 (fun k => { k with crew := some { Crew.fresh 5 0 0 0 with stage := some 0 } })
  { u with objs := [(1, tObj (.queue q))] }

theorem pickFrom_isSome {α : Type} (fc : Nat) (l : List α) (h : l ≠ []) : (pickFrom fc l).isSome = true := by
  unfold pickFrom
  cases hx : l[Config.freePick fc % l.length]? with
  | some x => rfl
  | none =>
    cases l with
    | nil => exact absurd rfl h
    | cons a t => rfl

theorem pickFree_one (fc : Nat) : pickFree fc 1 [] = some 0 := by
  unfold pickFree
  simp [Nat.mod_one]

theorem test_wit_TaskWave : let t : Task := { slot := 0, depth := 0, entry := 0x10000, reserved := false, time := 0 }
    let q := tTasks [t] []
    Tbl.find (tStage q).objs 1 = some (tObj (.queue q)) ∧ q.gather = [t] ∧ (tStage q).stageFor 0 0 q = some (tStage q)
    ∧ ((tStage q).core 0).freeWaves (q.q8 * 8) ≠ [] ∧ ((tStage q).core 0).placeFor q.abytes = some 0 ∧ pcOk t.entry = true := by decide +kernel

theorem test_wit_TaskWave_slot : ∃ w, pickFrom (tStage (tTasks [] [])).freeCtr (((tStage (tTasks [] [])).core 0).freeWaves 8) = some w :=
  Option.isSome_iff_exists.mp (pickFrom_isSome _ _ (by decide +kernel))

theorem test_wit_HeldSuccessor : let h : HeldTask := { dep := 4, gen := 1, record := [], time := 0 }
    let q := tTasks [] [h]
    Tbl.find (tStage q).objs 1 = some (tObj (.queue q)) ∧ ({ q with held := [] } : TaskQ).general (tStage q).freeCtr = some 0
      ∧ (tStage q).agentBusy ((tStage q).procRanges 0 q.arena q.recsz) (heldNum 1) = false := by
  refine ⟨by decide +kernel, ?_, by decide +kernel⟩
  simpa [TaskQ.general, tTasks] using pickFree_one _

/-- A normal launch of 16 crews. -/
def tLaunch : Launch :=
  { asid := 0, entry := placedPc, argbase := 0, count := 16, waves := 1, quota8 := 32, gang := false, lvl := 2, rt := false, abytes := 0, tenant := 0
    ver := false, argsz := 0, terms := none, contract := none, firstK := 0, done := 0, insts := [Inst.fresh 0], complete := false, time := 0 }

/-- A contract for cluster 0 with a period and a deadline of 1 ms. -/
def tTerms : Contract :=
  { period := 1000000, deadline := 1000000, budget := 1, abort := true, tenant := 0, start := 0, missCtr := 0, clusters := 1, active := true, opened := 1 }

/-- Its launch. -/
def tBound : Launch := { tLaunch with terms := some tTerms, contract := some 1 }

/-- A running package with a launch numbered 1 and the contract at index 1. -/
def tTransit (l : Launch) : State :=
  { State.reset with launches := [(1, l)], objs := [(1, tObj (.contract tTerms))], svc := { State.reset.svc with boot := .running } }

/-- Core 0 with a crew. -/
def tCrewOn (s : State) (f : Crew → Crew) : State := s.modCore 0 (fun k => { k with crew := some (f (Crew.fresh 5 0 0 0)) })

theorem test_wit_Claims :
    (let s := tTransit tBound
     s.rtResume 0 = none ∧ (((s.freeCores 0).filterMap (fun c => (s.instanceOn c).map (fun i => (c, i)))).head?).isSome = true)
    ∧ (let s := tTransit tLaunch
       s.rtResume 0 = none ∧ s.normalResume 0 = none ∧ (s.freeCores 0).all (fun c => (s.instanceOn c).isNone) = true ∧ s.gathered 0 = none
         ∧ s.normalWork.head?.isSome = true ∧ (s.freeCores 0).isEmpty = false)
    ∧ (let s := tTransit { tLaunch with gang := true, count := 128 }
       let g : State := { s with gathers := [(0, (0, 1))], cores := (List.range 8).map (fun c => (c, { Core.idle with reservedFor := some (.gang 1) })) }
       (s.freeClusters 0).isEmpty = false ∧ s.normalWork.head?.isSome = true ∧ (g.gathered 0).isSome = true ∧ g.normalResume 0 = none)
    ∧ (let s := (tTransit tLaunch).modCore 0 (fun k => { k with claim := some { serial := 1, index := 0, inst := 0 } })
       (s.core 0).claim = some { serial := 1, index := 0, inst := 0 } ∧ Tbl.find s.launches 1 = some tLaunch ∧ s.framePool = []
         ∧ ({ s with framePool := [0x2000000] } : State).framePool = 0x2000000 :: [])
    ∧ (let s := tCrewOn (tTransit tLaunch) id
       s.crew? 0 = some (Crew.fresh 5 0 0 0) ∧ (Crew.fresh 5 0 0 0).stage = none ∧ s.crewQuiet 0 5 = true ∧ s.versionOpen 0 = false
         ∧ s.manualLines 0 = [] ∧ s.backsOpen 5 = false)
    ∧ (let s : State := { State.reset with gathers := [(0, (0, 1))] }
       Tbl.find s.gathers 0 = some (0, 1) ∧ s.normalWork.any (fun e => e.1 == 1) = false) := by decide +kernel

theorem test_wit_Instances :
    (let s : State := { tTransit tBound with clock := 1000000 }
     s.boundLaunch 1 = some (1, tBound)
       ∧ (let u := tBound.insts.foldl (fun (v : State) (i : Inst) => contractDeadline 1 i.k v) s
          u.contractAt 1 = some tTerms ∧ (match u.boundLaunch 1 with
            | some (_, l) => decide (tTerms.start + (l.firstK + tTerms.opened) * tTerms.period ≤ u.clock)
            | none => false) = true)
       ∧ tBound.insts.find? (fun i => i.k == 0) = some (Inst.fresh 0) ∧ tTerms.deadlineOf 0 ≤ s.clock ∧ (Inst.fresh 0).claims = true
       ∧ (Inst.fresh 0).ended = none)
    ∧ (let s : State := { tCrewOn (tTransit tBound) (fun k => { k with serial := 1, rt := true }) with clock := 1000 * 1000 }
       (match s.chargedTo 1 0 with
        | some (_, i, k) => !i.spent.contains 0 && decide (tTerms.shareCycles ≤ Tbl.getD i.charge 0 0 + s.uncharged 0 k)
        | none => false) = true)
    ∧ (let s : State := { tTransit tLaunch with clock := 10000 }
       s.clock / s.tenMicros = 0 + 1 ∧ ((Tbl.getD s.svc.moved 0 Moved.zero).roll 1).closed ≠ 1 ∧ s.svc.nextEval ≤ s.clock)
    ∧ (let k : Crew := { Crew.fresh 5 0 0 0 with stage := some 0, draining := true }
       let s := tCrewOn (tTransit tLaunch) (fun _ => k)
       s.crew? 0 = some k ∧ (s.core 0).waves = [] ∧ (let t := s.modCore 0 (fun y => y.closeGuards s.clock)
         t.crewQuiet 0 5 = true ∧ t.manualLines 0 = [] ∧ t.backsOpen 5 = false)) := by decide +kernel

/-- A request on a crew. -/
def tPre : Preempt := { reason := 1, at_ := 0, forced := false, hold := false, dest := none }

/-- The small state's crew changed. -/
def tPreempt (f : Crew → Crew) : State := tS.modCrew 0 f

/-- A saved crew's frame. -/
def tFrame (state : Nat) : Frame := { Frame.idle 0 with state := state, crew := some (Crew.fresh 5 0 0 0), corePos := 0 }

theorem test_wit_DuskEvents :
    (let s := tPreempt (fun k => { k with asked := some tPre })
     ((s.crew? 0).bind (fun k => k.asked)) = some tPre)
    ∧ (let s : State := { tPreempt (fun k => { k with preempt := some tPre }) with clock := 8192 }
       s.preempted 0 = some tPre ∧ s.enginesRest 0 = false ∧ tPre.at_ + 8192 ≤ s.clock)
    ∧ (let s := (tPreempt (fun k => { k with preempt := some { tPre with forced := true } }))
       s.saveGroup 0 = [0] ∧ s.crewDrained 0 = true ∧ s.manualLines 0 = [] ∧ s.backsOpen (s.uidOf 0) = false)
    ∧ (let s : State := { State.reset with frames := [(0x1000000, tFrame 0)] }
       s.savingAt 0 = some (0x1000000, Crew.fresh 5 0 0 0) ∧ s.frameGroup 0x1000000 = [0x1000000] ∧ Tbl.find s.frames 0x1000000 = some (tFrame 0)
         ∧ (tFrame 0).due ≤ s.clock ∧ (tFrame 0).hold = false)
    ∧ (let f : Frame := { tFrame 2 with target := some 9 }
       let s : State := { State.reset with frames := [(0x1000000, f)] }
       Tbl.find s.frames 0x1000000 = some f ∧ s.awaits 0x1000000 9 = true
         ∧ s.frames.find? (fun e => e.2.state == 2 && e.2.corePos == 0 && e.2.target == some 9 && e.2.crew.isSome) = some (0x1000000, f))
    ∧ (let k : Crew := { Crew.fresh 5 0 0 0 with rt := true, serial := 1 }
       let f : Frame := { tFrame 2 with resume := true, crew := some k }
       let s : State := { tTransit tBound with frames := [(0x1000000, f)] }
       s.rtResume (dieOf 0) = some (0x1000000, 0))
    ∧ (let r : Req := { tReq with kind := .store, pageKind := 0 }
       let s : State := { tPreempt (fun k => { k with version := .opened [] }) with reqs := [r] }
       r ∈ s.reqs ∧ r.waits = true ∧ s.needsCommit r = true)
    ∧ (let h : Shoot := { id := 4, asid := 0, lo := 0, hi := 65536, mode := 0, call := none }
       let s : State := { tS with shoots := [h] }
       s.shoots.find? (fun x => x.id == 4) = some h ∧ s.shootOpen h = false ∧ s.shootLines h 0 = [] ∧ s.writeBacks = []
         ∧ (s.shootDrop h).shootLines h 0 = []) := by decide +kernel

/-- A call of the supervisor that names core 0, or another number. -/
def tSuper (a b c : Nat) : Call := tCall .csave a b c

theorem test_wit_SupervisorBegins : (match tS.crew? 0 with | some k => decide (k.stage = none ∧ k.startedAt ≤ tS.clock) | none => false) = true
    ∧ (match (tPreempt (fun k => { k with startedAt := 9 })).crew? 0 with | some k => decide (k.stage = none ∧ 0 < k.startedAt) | none => false) = true
    ∧ (tSuper 0 0 0).a.toNat ≤ 1023 ∧ tS.crew? 7 = none ∧ tS.savingAt 7 = none ∧ Tbl.find tS.frames 64 = none
    ∧ (tSuper 0 0 0).b.toNat % 2 ^ 32 = 0 ∧ Tbl.find tS.procs 0 = none
    ∧ (tSuper 0 5 0).b.toNat % 2 ^ 32 ≠ 0
    ∧ (Tbl.find [(0, ({ root := 0, tenant := 0, faultPort := 0, pagerPort := 0, frames := [] } : Proc))] 0).isSome = true := by decide +kernel

/-- A unit of traffic from die 2 of package 7. -/
def tFlit (b : RemoteBody) : RemoteMsg := { pkg := 7, die := 2, seq := 0, serial := 11, body := b }

/-- A message without pages for the port at index 3. -/
def tMessage (waits : Bool) : RemoteMsg := tFlit (.message 3 1 0xFFFE 0 5 [] [] waits)

/-- A running package with a port of capacity 1 at index 3, messages in it, and traffic that has arrived. -/
def tFabric (msgs : List Msg) (arrived : List RemoteMsg) : State :=
  { State.reset with
    objs := [(3, tObj (.port 1 msgs 0))], svc := { State.reset.svc with boot := .running },
    fab := { State.reset.fab with pkgNo := 1, arrived := arrived, portsUp := [(0, (64, 16))] } }

/-- A message of package 7 in a port. -/
def tQueued : Msg := { payload := [], tag := 5, pkg := 7, asid := 0, grant := none, gva := 0, pages := [], serial := 11, time := 0 }

theorem test_wit_FabricEvents :
    ((tFabric [] []).linkOn 7 2 = true ∧ (tMessage false).seq = Tbl.getD (tFabric [] []).fab.inSeq (streamOf 7 2) 0 ∧ isMessage (tMessage false) = true)
    ∧ [[], [tQueued]].all (fun ms => let s := tFabric ms [tMessage false]
        let m := tMessage false
        s.fab.arrived.find? (fun x => x.pkg == 7 && x.serial == 11 && isMessage x) == some m
          && s.oldestOf m
          && Tbl.find (s.dropArrived m).objs 3 == some (tObj (.port 1 ms 0)) && (s.dropArrived m).portFull 3 == !ms.isEmpty
          && decide ((s.dropArrived m).staged ≤ stagingBytes)) = true
    ∧ (let g : SentGrant := { asid := 0, gva := 0, pages := [], pkg := 7, index := 3, gen := 1, handle := 3, tag := 0, payload := [] }
       let s := tFabric [] [tFlit .taken]
       let u : State := { s with fab := { s.fab with sent := [(11, g)] } }
       u.fab.sent.find? (fun e => handleIdx e.2.handle == 3
         && u.fab.arrived.any (fun m => m.pkg == e.2.pkg && m.serial == e.1 && m.body == RemoteBody.taken && u.oldestOf m)) = some (11, g))
    ∧ (let v := tFlit (.revoke 3)
       let s := tFabric [tQueued] [v]
       s.fab.arrived.find? (fun m => m.pkg == 7 && m.serial == 11 && (match m.body with | .revoke _ => true | _ => false)) = some v ∧ s.oldestOf v = true
         ∧ (s.dropArrived v).queuedFrom 7 11 = some (3, 1, [tQueued], 0)
         ∧ ((tFabric [] [v]).dropArrived v).queuedFrom 7 11 = none)
    ∧ (let s := tFabric [] []
       let e : OutMsg := { pkg := 7, die := 0, serial := 1, body := .room, at_ := 0, acked := false }
       let u : State := { s with clock := 2000000, fab := { s.fab with outbox := [e], routes := [(7, [])] } }
       u.lost 7 = false ∧ e ∈ u.fab.outbox ∧ e.at_ + 2000000 ≤ u.clock)
    ∧ (let r : Req := { tReq with place := .host, pageKind := 0, lodged := some 0 }
       let s : State := { tHost r with clock := 1000000 }
       s.reqs = [r] ∧ r.waits = true ∧ r.lodged = some 0 ∧ s.fab.portsUp ≠ [])
    ∧ (State.reset.svc.boot ≠ .bringup ∧ State.reset.svc.stopped = false ∧ (Tbl.find (tFabric [] []).fab.portsUp 0).isSome = true
      ∧ ((tFabric [] []).dvsecRead 0x20).isSome = true ∧ (tFabric [] []).fab.hostQ = [] ∧ ({ tFabric [] [] with fab := { (tFabric [] []).fab with sharedSize := 2 ^ 28 } } : State).inShared 0 8 = true
      ∧ (tFabric [] []).agentBusy [((tFabric [] []).sharedBase, 8)] (tFabric [] []).nextId = false
      ∧ (tFabric [] []).booted = true ∧ State.reset.booted = false ∧ ((tFabric [] []).doeAnswer 1).isSome = true) := by decide +kernel

/-- A running package with a command ring at the base of the shared region that holds one record of function `fn` in its slot 0. -/
def tRing (fn : Nat) : State :=
  let s : State := { State.reset with svc := { State.reset.svc with boot := .running } }
  let base := s.sharedBase
  let m := Memory.write (Memory.write [] base 4 1) (base + 260) 2 fn
  { s with mem := m, fab := { s.fab with ewccmd := 1, ewcUp := true } }

/-- An entry of a mailbox ring: lane 0 of the small wave calls function `fn` with its record at 0. -/
def tEntry (fn asid : Nat) : RingEnt :=
  { id := 2, sc := 0, fn := fn, uid := 99, core := 0, wave := 0, asid := asid, lanes := 1, todo := 1, recs := [(0, 0)], bitmap := none, call := 1, answers := [] }

/-- Fuses with one key, and the lowest version that they admit. -/
def tFuses : Fuses := { keys := [(9, false), (8, true)], rollback := 5 }

/-- An image of a version, signed twice with the first of those keys. -/
def tImage (version : Nat) : SignedImage := { ecdsa := ⟨9, true⟩, lms := ⟨9, true⟩, version := version, bytes := [] }

/-- A package reset that finds a main image. -/
def tBoot (main : SignedImage) : BootBlock :=
  { fuses := tFuses, main := main, bringup := tImage 5, identity := tImage 5, failingCheck := 0, powerCeiling := 4000, linkCeilings := List.replicate 18 200
    firmware := [], sharedSize := 2 ^ 38 }

theorem test_wit_ServiceEvents :
    [0, 1, 2, 3, 4, 5].all (fun fn => let s := tRing fn
      match s.ringOf s.fab.ewccmd with
      | some (base, logn) => s.fab.ewcWait.isNone && s.fab.ewcUp && !s.agentBusy (ringRange base logn) ringNum && Memory.read s.mem base 4 != s.ringHead base
          && (s.ewcRec base logn (s.ringHead base)).seq == s.ringHead base && (s.ewcRec base logn (s.ringHead base)).flagsOk
          && (s.ewcRec base logn (s.ringHead base)).fn == fn
      | none => false) = true
    ∧ [(1, 0), (4, 3), (0x100, 0), (0x10A, 0), (0x100, 3), (5, 0)].all (fun p => let e := tEntry p.1 p.2
        let s : State := { State.reset with svc := { State.reset.svc with rings := [e] } }
        s.svc.rings.find? (fun x => x.id == 2) == some e && s.svcTurn e && lowestLane e.todo == 0 && !s.svcOut e
          && !s.agentBusy (s.svcRanges e 0) e.id
          && (match s.svcRead e 0 with
            | .ok (t, _) => (match t.svcWrite e 0 8 [] with
              | .ok u => (match u.svcWrite e 0 0 (bytesOf 4 0) with | .ok _ => true | _ => false)
              | _ => false)
            | _ => false)) = true
    ∧ listedFn 5 = false ∧ ({ State.reset with clock := 10000 } : State).svc.nextTick ≤ 10000
    ∧ State.reset.unitOk (.mem 0) = true ∧ State.reset.unitOk (.abuf 1023 0) = true
    ∧ [tImage 5, tImage 4].all (fun m => bootOk (tBoot m)) = true ∧ imagePasses (tImage 5) tFuses = true ∧ imagePasses (tImage 4) tFuses = false := by decide +kernel

/-! ## Witnesses of the statements about the machine as a whole -/

/-- The word of `nop` with a stall of 2. -/
def tNop : Nat := 0x78 * 2 ^ 88 + 2 * 2 ^ 84 + 7 * 2 ^ 67 + 3 * 2 ^ 64

/-- The small state with a word at the PC. -/
def tRuns (w : Nat) : State := placeWord State.reset w

theorem test_wit_StepRuns : let s := tRuns tNop
    s.cursor = some tCur ∧ s.agenda = [] ∧ tW.execSplits tCur.pc tCur.lanes ≠ []
    ∧ (match (s.core 0).lineAt 0 tCur.pc with
       | some bits => lineParityOk (lineWord bits) && slotParityOk bits (slotOf tCur.pc) && lineWordOk (lineWord bits)
           && (match decode (lineSlot bits (slotOf tCur.pc)) with | .ok i => i == .nop tH tC | _ => false)
       | none => false) = true
    ∧ (tW.execSplits tCur.pc tCur.lanes).all (fun p => p.origin.isNone && !p.stepOne) = true
    ∧ ({ tS with cursor := none, agenda := [.precessionEval] } : State).agenda = [.precessionEval] ∧ State.reset.cursor = none ∧ State.reset.agenda = []
    := by decide +kernel

/-- The outcome is a next state. -/
def goesOn (o : Host.Outcome State Fault Refusal) : Bool := match o with | .next _ => true | _ => false

theorem test_wit_Frames : goesOn (exec (.add tH (tA .i32)) tS) = true ∧ goesOn (exec (.ld tH (tM .b32)) tS) = true
    ∧ goesOn (exec (.syscall tHn { tK with a := .int 0 }) tS) = true ∧ goesOn (step (tRuns tNop)) = true ∧ goesOn (step State.reset) = true := by
  decide +kernel

theorem test_wit_LandingWrites : Tbl.wf tW.v = true ∧ Tbl.wf tW.s = true ∧ tW.cuts = [] ∧ tW.stands 0 1 (keyV 5 3) = true
    ∧ tW.stands 0 1 (keyS 5) = true ∧ 5 < tW.quota ∧ tW.lanes.getLsbD 3 = true
    ∧ ({ tW with made := [(keyV 5 3, (4, 9))] } : Wave).stands 4 1 (keyV 5 3) = false := by decide +kernel

theorem test_wit_IssueTraps :
    ({ tW with notBefore := 9 } : Wave).stallOver tS.clock (tW.chosen tCur.pc tCur.lanes) = false ∧ tW.lanesAt tCur ≠ 0
    ∧ (tW.stopAll 0x0B).stopAt tCur = some 0x0B ∧ ({ tW with asid := 3 } : Wave).asid ≠ 0
    ∧ (Instr.csave tH { tA1 .none with a := .v 2 }).shape.row.isSome = true
    ∧ (match (Instr.add tH { tA .i32 with d := .v 8 }).shape.row with
       | some r => r.uses.any (fun u => !useInQuota u (quotaFor (.add tH { tA .i32 with d := .v 8 }) 8))
           && r.uses.all (fun u => useInQuota u (quotaFor (.add tH (tA .i32)) 256))
       | none => false) = true := by decide +kernel

/-- A wave with an operation outstanding on token 0. -/
def tBusy : Wave := { tW with toks := [(0, [{ id := 1, q := 1, done := false, at_ := 0, poll := none, fl := 0 }])] }

theorem test_wit_IssueWaits : (match (Instr.add tH (tA .i32)).shape.row with
    | some r => tS.canIssue 0 0 tBusy (.add { tH with wait := some (0, 0) } (tA .i32)) r { tH with wait := some (0, 0) }
    | none => true) = false := by decide +kernel

theorem test_wit_TrapTaken : tS.wave? 0 0 = some tW ∧ (1 : Lanes) &&& tW.lanes ≠ 0 ∧ tS.versionOpen 0 = false
    ∧ (tPreempt (fun k => { k with version := .opened [] })).versionOpen 0 = true ∧ (0x12 : Nat) ∉ [0x0A, 0x0B, 0x10, 0x11]
    ∧ (0 : Lanes) &&& tW.lanes = 0 := by decide +kernel

/-- A process whose fault port is the port at index 3. -/
def tProc : Proc := { root := 0, tenant := 0, faultPort := BitVec.ofNat 64 (handleOf 3 1 2), pagerPort := 0, frames := [] }

theorem test_wit_FaultRecord : let s : State := { tFabric [] [] with procs := [(0, tProc)] }
    Tbl.find s.procs (s.asidOf 0 0) = some tProc ∧ s.named (handleOf 3 1 2) = some (tObj (.port 1 [] 0))
    ∧ (tFabric [tQueued] []).named (handleOf 3 1 2) = some (tObj (.port 1 [tQueued] 0)) := by decide +kernel

theorem test_wit_Versions : (tPreempt (fun k => { k with version := .discarded })).versionGone 0 = true
    ∧ Memory.wf tS.mem = true ∧ Memory.wf tS.hostMem = true := by decide +kernel

/-! ## Witnesses of what each call does, of gathering and gangs, of the commit, and of the values of floating-point results -/

/-- The bits of 8 bytes at each of some offsets of a record. -/
def tRec (fs : List (Nat × Nat)) : Nat := (fs.map (fun e => e.2 * 2 ^ (8 * e.1))).sum

/-- The small state, mapped, with a record at 0, a call and objects from index 1 on; tables of the supervisor process map page 1. -/
def tDo (x : Call) (rec : Nat) (os : List Obj) : State :=
  let p : Proc := { root := 0x2000000, tenant := 0, faultPort := 0, pagerPort := 0, frames := [] }
  { tMem 1 0 with
    mem := Memory.write (Memory.write (Memory.write (Memory.write [] 0x1000000 64 rec) 0x2000000 8 0x201001) 0x2010000 8 0x202001) 0x2020008 8
      (0x301007 + 2 ^ 48 + 2 ^ 58), calls := [x], objs := os.zipIdx.map (fun e => (e.2 + 1, e.1)), procs := [(0, p)] }

/-- The call is ready there, and `ok` holds. -/
def tDoes (x : Call) (rec : Nat) (os : List Obj) (ok : State → Bool) : Bool :=
  let s := tDo x rec os
  s.calls.find? (fun y => y.id == x.id) == some x && s.callReady x && !s.versionOpen x.core && ok s

/-- The call's thread reads n bytes of its record, of which `ok` holds. -/
def tReads (x : Call) (n : Nat) (s : State) (ok : State → List Byte → Bool) : Bool :=
  match s.threadRead x x.b.toNat n with | .ok (t, b) => ok t b | _ => false

/-- The call's thread can write n bytes at an address. -/
def tWrites (x : Call) (va n : Nat) (s : State) : Bool := match s.threadWrite x va (bytesOf n 0) with | .ok _ => true | _ => false

/-- A die whose Catalogue holds nothing has an index for a new object. -/
theorem newObj_isSome (s : State) (die asid : Nat) (b : ObjBody) (h : s.takenIdx die = []) : (s.newObj die asid b).isSome = true := by
  simp [State.newObj, h, pickFree]

theorem test_wit_CallEffects_created :
    (let x : Call := { tCall (.objnew 2) 0 1024 0 with noC := true }
     tDoes x 0 [] (fun s => s.takenIdx (dieOf x.core) == []) = true)
    ∧ tDoes { tCall (.objnew 2) 0 1025 0 with noC := true } 0 [] (fun _ => true) = true
    ∧ tDoes (tCall (.objnew 4) 0 0 (handleOf 1 1 6)) 0 [tObj (.event 0)] (fun s => s.counterFault 0 (handleOf 1 1 6) == none) = true
    ∧ (let x := tCall (.objnew 5) 0 0 0
       let bits := tRec [(0, 1024), (8, 64), (10, 4), (12, 1)]
       tDoes x bits [] (fun s => match s.threadRead x x.c.toNat 64 with
         | .ok (t, r) => (match queueDesc r with
           | some (q, c) => decide (c = 0) && (match t.arenaFault x q.arena ((q.cap + 8) * q.recsz) with | .ok _ => true | _ => false)
           | none => false)
         | _ => false) = true)
    ∧ (let cfg := 32 + 32 * 256 + 3 * 2 ^ 14
       let x : Call := { tCall .wcreate 0 0x10000 cfg with noA := true }
       tDoes x 0 [] (fun s => (s.entryCheck 0 0 0x10000).2 == none && ((s.entryCheck 0 0 0x10000).1.core 0).freeWaves 256 != []) = true
         ∧ tDoes { x with b := 4 } 0 [] (fun s => (s.entryCheck 0 0 4).2.isSome) = true
         ∧ ({ (tMem 1 0).core 0 with waves := (List.range 32).map (fun n => (n, tW)) } : Core).freeWaves 256 = []) := by
  decide +kernel

/-- A task queue with a slot 0 that is free, or taken. -/
def tFull (used : List Nat) : TaskQ := { tTasks [] [] with used := used }

theorem test_wit_CallEffects_tasks :
    (∀ fc d, (tFull []).slotFor fc d = some 0) ∧ (∀ fc, (tFull [0]).slotFor fc 0 = none ∧ (tFull [0]).slotFor fc 8 = some 8) ∧ (∀ fc, (tFull [0]).general fc = none)
    ∧ (let x := tCall (.qenq true) (handleOf 1 1 5) 0 0
       tDoes x 0 [tObj (.queue (tFull []))] (fun s => s.owned 0 x.a.toNat == some (tObj (.queue (tFull []))) && tReads x 64 s (fun t _ => tWrites x 0 64 t)) = true)
    ∧ (let x := tCall .dcinit (handleOf 1 1 5) 0 3
       tDoes x 0 [tObj (.queue (tFull []))] (fun s => tReads x 64 s (fun _ _ => true)) = true)
    ∧ (let x := tCall .dcdec (handleOf 1 1 6) 0 0
       [(2, 0), (0, 2), (0, 1)].all (fun e => tDoes x 0 [tObj (.dep e.1 e.2 (handleOf 2 1 5) []), tObj (.queue (tFull []))] (fun s =>
         s.owned 0 x.a.toNat == some (tObj (.dep e.1 e.2 (handleOf 2 1 5) [])) && s.owned 0 (handleOf 2 1 5) == some (tObj (.queue (tFull [])))
           && tWrites x 0 0 s)) = true) := by
  have e : (List.filter (fun i => decide (i < 1)) ([] : List Nat)) = [] := rfl
  refine ⟨fun fc d => ?_, fun fc => ?_, fun fc => ?_, by decide +kernel, by decide +kernel, by decide +kernel⟩
  · simp [TaskQ.slotFor, TaskQ.general, tFull, tTasks, pickFree_one]
  · simp [TaskQ.slotFor, TaskQ.general, tFull, tTasks, pickFree, Nat.mod_one]
  · simp [TaskQ.general, tFull, tTasks, pickFree, Nat.mod_one]

theorem test_wit_CallEffects_waits :
    [ObjBody.event 3, .waitset []].all (fun b => tDoes (tCall (.suspend placedPc) (handleOf 1 1 b.type) 1 0) 0 [tObj b] (fun s =>
      s.owned 0 (handleOf 1 1 b.type) == some (tObj b))) = true
    ∧ tDoes (tCall (.syscall 1) 0 0 0) 0 [] (fun s => decide ((s.svc.rings.filter (fun e => e.sc == 0)).length < 256)) = true
    ∧ ((List.replicate 256 (tEntry 1 0)).filter (fun e => e.sc == 0)).length = 256
    ∧ [[], [(5, (⟨0, 1, 1⟩ : Binding))], [(5, ⟨9, 1, 1⟩)]].all (fun l => tDoes (tCall .nslook 0 5 0) 0 [] (fun s =>
        let u : State := { s with fab := { s.fab with pkgBind := l } }
        u.lost 9 && !u.lost 0 && u.holderOf 5 == 0)) = true
    ∧ tDoes (tCall (.nsbind true) (handleOf 1 1 2) 5 0) 0 [tObj (.port 1 [] 0)] (fun s =>
        let u : State := { s with fab := { s.fab with map := [(nameIndex 5, 7)], routes := [(7, [])] } }
        s.owned 0 (handleOf 1 1 2) == some (tObj (.port 1 [] 0)) && u.holderOf 5 == 7 && !u.lost 7) = true := by decide +kernel

/-- A message of the small process in a port, with pages. -/
def tMail (n : Nat) : Msg :=
  { payload := [], tag := 5, pkg := 0, asid := 0, grant := none, gva := 0, pages := List.replicate n ⟨1, 0, 0, 0, 0, 0x3010000, []⟩, serial := 11, time := 0 }

theorem test_wit_CallEffects_ports :
    (let x := tCall (.psend true) (handleOf 1 1 2) 0 0
     let plain := tRec []
     let page := tRec [(12, 1), (16, 65536)]
     [[], [tMail 0]].all (fun ms => tDoes x plain [tObj (.port 1 ms 0)] (fun s => tReads x 64 s (fun t r => match sendDesc r with
       | some d => (match t.grantLeaves 0 d.gva d.npg with | .ok (some []) => true | _ => false) && t.portFull 1 == !ms.isEmpty
           && (match t.threadAcc x rightW (x.b.toNat + 40) 8 with | .ok _ => true | _ => false)
           && (match t.threadRead x d.data d.len with | .ok (u, _) => tWrites x 40 8 u | _ => false)
       | none => false))) = true
     ∧ tDoes x page [tObj (.port 1 [] 0)] (fun s => tReads x 64 s (fun t r => match sendDesc r with
       | some d => d.npg == 1 && (match t.grantLeaves 0 d.gva d.npg with | .ok (some [_]) => true | _ => false)
       | none => false)) = true
     ∧ [(0, some true), (131072, none), (1, some false)].all (fun e => match (tDo x plain []).grantLeaves 0 (65536 + e.1) 1 with
       | .ok (some _) => e.2 == some true | .ok none => e.2 == none | .error _ => e.2 == some false) = true
     ∧ [false, true].all (fun dead => tDoes x plain [tObj (.proxy 7 0 3 1 dead)] (fun s =>
         let u : State := { s with fab := { s.fab with routes := [(7, [])] } }
         s.owned 0 x.a.toNat == some (tObj (.proxy 7 0 3 1 dead)) && s.lost 7 && !u.lost 7)) = true)
    ∧ (let x := tCall (.precv true) (handleOf 1 1 2) 0 0
       let page := tRec [(12, 1), (16, 131072)]
       [([], false), ([tMail 0], false), ([tMail 2], true), ([tMail 1], false)].all (fun e => tDoes x page [tObj (.port 1 e.1 0)] (fun s =>
         tReads x 64 s (fun t r => match recvDesc r with
           | some d => e.1.all (fun m => decide (d.maxpg < m.pages.length) == e.2 && m.pkg == t.fab.pkgNo
               && (e.2 || (t.landing 0 d.lva m.pages.length).isSome))
             && tWrites x d.buf 0 t && tWrites x (x.b.toNat + 24) 20 t
           | none => false))) = true
       ∧ (tDo x page []).landing 0 65536 1 = none)
    ∧ (let x := tCall .grantrev (handleOf 1 1 8) 0 0
       [0, 1, 2].all (fun st => tDoes x 0 [tObj (.grant st 1 (some 2) 11), tObj (.port 1 [tMail 1] 0)] (fun s =>
         s.owned 0 x.a.toNat == some (tObj (.grant st 1 (some 2) 11)) && s.fab.pkgNo == 0
           && [tMail 1].find? (fun m => m.serial == 11 && m.pkg == 0) == some (tMail 1))) = true) := by decide +kernel

theorem test_wit_CallEffects_launches :
    (let x : Call := { tCall .launch 0 0 0 with noA := true }
     let bits := fun (waves : Nat) => tRec [(0, 0x10000), (16, 1), (20, waves), (21, 32)]
     [(1, none), (128, some 15), (0, some 14)].all (fun e => tDoes x (bits e.1) [] (fun s => tReads x 64 s (fun t b =>
       let r := launchRec b
       let q := t.entryCheck 0 0 r.entry
       t.launchHandles 0 r == none && (Tbl.find t.procs 0).isSome && q.2 == none && q.1.launchStatus 0 r (launchReserved b) == e.2))) = true
     ∧ tDoes x (bits 1 + 4) [] (fun s => tReads x 64 s (fun t b => (t.entryCheck 0 0 (launchRec b).entry).2.isSome)) = true
     ∧ tDoes { x with noA := false, a := 9 } (bits 1) [] (fun s => (Tbl.find s.procs 9).isNone) = true)
    ∧ (let x := tCall .ctadmit 0 0 0
       let bits := fun (budget : Nat) => tRec [(0, 1000), (4, 1000), (8, budget), (32, 1)]
       tDoes x (bits 0) [] (fun s => tReads x 64 s (fun _ b => (contractDesc b s.clock).isNone)) = true
       ∧ [(8000, false), (1, true)].all (fun e => tDoes x (bits e.1) [] (fun s => tReads x 64 s (fun _ b => match contractDesc b s.clock with
         | some c => decide (c.missCtr = 0) && s.admissible c == e.2 && c.cores == 8 && decide (8 ≤ budgetCores (s.budget 0))
             && decide (budgetCores (({ s with svc := { s.svc with budgets := [(0, 7)] } } : State).budget 0) < 8)
         | none => false))) = true) := by decide +kernel

/-- A launch of a gang. -/
def tGang : Launch := { tLaunch with gang := true }

/-- Every cluster of die 0 has a crew on its first core. -/
def tBusyDie : State :=
  { tTransit tGang with cores := (List.range 16).map (fun x => (x * 8, { Core.idle with crew := some (Crew.fresh (x + 1) 0 0 0) })) }

theorem test_wit_GangGather : Tbl.find tBusyDie.gathers 0 = none ∧ tBusyDie.dieRuns 0 = true ∧ tBusyDie.normalWork.head? = some (1, tGang)
    ∧ tBusyDie.freeClusters 0 = [] ∧ tBusyDie.gatherAt 0 2 = some 0 ∧ tBusyDie.qualifies 0 15 2 = true ∧ tBusyDie.moveTarget 0 8 = some 1 := by decide +kernel

theorem test_wit_GangMove : (tBusyDie.crew? 8).map (fun k => (k.gang, k.preempt, k.asked)) = some (none, none, none)
    ∧ (tTransit tGang).freeClusters 0 ≠ [] := by decide +kernel

/-- Every core of cluster 0 has claimed an index of the gang. -/
def tClaimed : State := { tTransit tGang with cores := (List.range 8).map (fun n => (n, { Core.idle with claim := some ⟨1, n, 0⟩ })) }

theorem test_wit_GangStart : ((clusterCores 0).filterMap (fun n => ((tClaimed.core n).claim).map (fun y => (n, y)))).length = 8
    ∧ tClaimed.framePool = [] := by decide +kernel

theorem test_wit_Commit :
    (let m : Commit := { id := 7, uid := tS.uidOf 0, core := 0, age := 0 }
     let s : State := { tPreempt (fun k => { k with version := .opened [] }) with commits := [m] }
     s.versionOpen 0 = true ∧ s.committing 0 = true ∧ s.commits.find? (fun x => x.uid == s.uidOf 0) = some m ∧ s.versionSpan 0 = [])
    ∧ (let f : Frame := { tFrame 0 with hold := true }
       let s : State := { State.reset with frames := [(0x1000000, f)] }
       s.savingAt 0 = some (0x1000000, Crew.fresh 5 0 0 0) ∧ f.hold = true ∧ f.due ≤ s.clock)
    ∧ (tPreempt (fun k => { k with preempt := some tPre })).saveSpoilt 0 ((tPreempt (fun k => { k with preempt := some tPre })).core 0) (savePlan
        ((tPreempt (fun k => { k with preempt := some tPre })).core 0) 0) = false
    ∧ (tW.splits.length ≤ 32 ∧ tW.quota < 512 ∧ tW.base < 4 ∧ tW.level < 4 ∧ ∀ p ∈ tW.splits, splitDetail p.st < 256)
    ∧ ({ tFrame 2 with engine := none } : Frame).crew ≠ none := by decide +kernel

theorem test_wit_FloatValues :
    (let f := fmtOf .f32
     (∃ m e, f.dec (f.flush 0x3F800000) = .num false m e ∧ 0 < m) ∧ (∃ m e, f.dec (f.flush 0xC0000000) = .num true m e ∧ 0 < m)
       ∧ (f.dec 0x7F7FFFFF).finite = true ∧ (f.dec 0).finite = true)
    ∧ (∀ t ∈ [Ty.f16, .bf16, .f64, .e4m3, .e5m2], ∃ m e, (fmtOf t).dec 1 = .num false m e ∧ 0 < m)
    ∧ intVal .i8 0x80 = -128 ∧ intVal .n64 1 = 1
    ∧ closeTo ⟨false, 2 ^ 24, -24, 0, 0⟩ (.num false 1 0) 1 (-24) = true := by
  refine ⟨⟨⟨_, _, rfl, by decide⟩, ⟨_, _, rfl, by decide⟩, by decide +kernel, by decide +kernel⟩, ?_, by decide, by decide, by decide +kernel⟩
  intro t h
  fin_cases h <;> exact ⟨_, _, rfl, by decide⟩

/-! ## Results: one step each, with values from the spec's words or worked by hand from them -/

/-- The register writes that an issue leaves, as (register × 32 + lane, value), of the first instruction in flight. -/
def tPend (i : Instr) (es : List (Nat × Word)) : List (Nat × Word) :=
  match exec i (tWith { tW with v := es, splits := [Split.fresh placedPc 1 .ready 0] }) with
  | .next t => match t.wave? 0 0 with | some y => (y.pend.map (fun e => e.v)).flatten | none => []
  | _ => []

/-- R140: the sum is cut to the width. -/
theorem test_add_wraps : tPend (.add tH (tA .i32)) [(64, 0x7FFFFFFF), (128, 1)] = [(0, 0x80000000)] := by decide +kernel

/-- R142: division by zero gives all ones, min(T) / −1 gives min(T). -/
theorem test_div_corners : tPend (.div tH (tA .i32)) [(64, 5)] = [(0, 0xFFFFFFFF)]
    ∧ tPend (.div tH (tA .i32)) [(64, 0x80000000), (128, 0xFFFFFFFF)] = [(0, 0x80000000)]
    ∧ tPend (.div tH (tA .i32)) [(64, 0xFFFFFFF9), (128, 2)] = [(0, 0xFFFFFFFD)] := by decide +kernel

/-- R145: a shift by the width gives 0, or the sign. -/
theorem test_shift_width : tPend (.shl tH (tA .b32)) [(64, 3), (128, 32)] = [(0, 0)]
    ∧ tPend (.sha tH (tA .b32)) [(64, 0x80000000), (128, 0xFFFFFFFF)] = [(0, 0xFFFFFFFF)] := by decide +kernel

/-- R149: the two examples of `perm` at a literal. -/
theorem test_perm_examples : tPend (.permImm tH { tI .b32 with imm := 0x0123 }) [(64, 0x11223344)] = [(0, 0x44332211)]
    ∧ tPend (.permImm tH { tI .b32 with imm := 0x8880 }) [(64, 0x11223384)] = [(0, 0xFFFFFF84)] := by decide +kernel

/-- R76, R177: 1 + 2^-24 is a tie and goes to the even neighbour 1; toward +∞ it gives the next number. -/
theorem test_fadd_ties : tPend (.fadd tH (tA .f32)) [(64, 0x3F800000), (128, 0x33800000)] = [(0, 0x3F800000)]
    ∧ tPend (.fadd tH { tA .f32 with rnd := .rup }) [(64, 0x3F800000), (128, 0x33800000)] = [(0, 0x3F800001)] := by decide +kernel

/-- Table 3-9: 0 × ∞ is the canonical NaN. -/
theorem test_fmul_invalid : tPend (.fmul tH (tA .f32)) [(128, 0x7F800000)] = [(0, 0x7FC00000)] := by decide +kernel

/-- R79: a subnormal times a power of two is exact, and 2^-149 / 2 rounds to even, 0. -/
theorem test_fmul_subnormal : tPend (.fmul tH (tA .f64)) [(64, 1), (128, 0), (160, 0x3FE00000)] = [(0, 0), (32, 0)]
    ∧ tPend (.fmul tH (tA .f64)) [(64, 2), (128, 0), (160, 0x3FE00000)] = [(0, 1), (32, 0)] := by decide +kernel

/-- R30: a step over `nop` leaves the split at the next slot, 12 bytes on. -/
theorem test_nop_advances : (match step (tRuns tNop) with
    | .next t => (match t.wave? 0 0 with | some y => y.splits.map (fun p => (p.pc, p.mask)) | none => [])
    | _ => []) = [(0x1000C, lowLanes 32)] := by decide +kernel

/-- R164: `exit` takes its lanes out of the wave. -/
theorem test_exit_empties : (match exec (.exit tH tC) tS with
    | .next t => (match t.wave? 0 0 with | some y => y.splits.map (fun p => p.mask) | none => [])
    | _ => [1]) = [] := by decide +kernel

/-- R51: `bra` by −1 line to slot 2 of the line before. -/
theorem test_bra_back : (match exec (.bra tH { tC with disp := -1, slot := 2 }) tS with
    | .next t => (match t.wave? 0 0 with | some y => y.splits.map (fun p => p.pc) | none => [])
    | _ => []) = [0xFFD8] := by decide +kernel

/-- R354, Table 13-11: an unassigned opcode sends the record with its cause, lanes, PC and wave to the fault port. -/
theorem test_fault_record : (match exec (.unassignedOpcode (BitVec.ofNat 96 (0xFF * 2 ^ 88)))
      { tS with procs := [(0, tProc)], objs := [(3, tObj (.port 1 [] 0))] } with
    | .next t => (match Tbl.find t.objs 3 with
      | some o => (match o.body with
        | .port _ (m :: _) _ => (recNum m.payload 0 4, recNum m.payload 4 4, recNum m.payload 8 8, recNum m.payload 24 4)
        | _ => (0, 0, 0, 0))
      | none => (0, 0, 0, 0))
    | _ => (0, 0, 0, 0)) = (1, 0xFFFFFFFF, 0x10000, 0) := by decide +kernel

/-- R248: an atomic addition writes the sum at its home. -/
theorem test_atom_adds : (match exec (.atomicPerform 1) { tIn { tReq with kind := .atom 0 } with mem := Memory.write [] 0x1000000 4 0xFFFFFFFE } with
    | .next t => Memory.read t.mem 0x1000000 4
    | _ => 0) = 5 := by decide +kernel

/-- R265: the arrival that completes the phase raises PHASE and clears ARR. -/
theorem test_barrier_completes : (match exec (.barArriveImm tH { tI0 with a := .int 1, imm := 32 }) tS with
    | .next t => (((t.core 0).bar 1).phase, ((t.core 0).bar 1).arr, ((t.core 0).bar 1).cnt)
    | _ => (0, 0, 0)) = (1, 0, 0) := by decide +kernel

/-- R281: 16 bytes at 0x1000000 go to the A-buffer at 0. -/
theorem test_copy_delivers : (match exec (.copyDeliver 0 1 4096) { tCmd { tCopy with accepted := true, started := true, rows := [0] } [1] with
      mem := Memory.write [] 0x1000000 8 0x1122334455667788 } with
    | .next t => (Memory.read (t.core 0).abuf 0 8, ((t.core 0).chan 0).wptr)
    | _ => (0, 0)) = (0x1122334455667788, 16) := by decide +kernel

end Sys2Proof.Machine
end

section
/-! PROOFS. The steps of the wave engine (R27, R37, R102, R114, R120, R131, R142, R166, R206, R222, R269): one rule for
each step, under the conditions in which it acts. -/

namespace Sys2Proof.Machine

/-! ## Rules of the operations that the steps share -/

/-- A change of a core is decided by what it makes of that core as it stands. -/
theorem State.modCore_congr {s : State} {c : Nat} {f g : Core → Core} (h : f (s.core c) = g (s.core c)) :
    s.modCore c f = s.modCore c g := by
  unfold State.modCore
  rw [h]

/-- An agent whose ranges no lock and no earlier request holds is served at once (R218). -/
theorem State.asAgent_of_free {s : State} {rs : List (Nat × Nat)} {agent num : Nat} {f : State → State}
    (h : s.agentBusy rs num = false) : s.asAgent rs agent num f = f (s.agentServed num) := by
  simp [State.asAgent, h]

theorem Wave.spent_iff (w : Wave) : w.spent = true ↔ w.splits = [] ∧ ∀ e ∈ w.toks, e.2 = [] := by
  simp [Wave.spent]

/-! ## Tokens, ages, yields and retirement -/

theorem Wave.retireTok_eq (w : Wave) (clock t : Nat) : w.retireTok clock t =
    let gone := (w.tok t).takeWhile (·.done)
    let n := retireNow clock 0 gone
    if gone = [] then w
    else (gone.filterMap (·.poll)).foldl Wave.polled (raiseRetired 0 gone
      { w with toks := Tbl.put w.toks t ((w.tok t).dropWhile (·.done)),
               falls := if n = 0 then w.falls else Tbl.put w.falls t (clock, w.countBefore clock t - w.count t + n) }) := by
  simp only [Wave.retireTok, List.isEmpty_iff]

/-- R131: an unaged wave that has waited for 4,096 cycles, and has a split that only a busy datapath may hold, becomes
aged. -/
theorem waveAged_of_waited {core wave : Nat} {s : State} {w : Wave} {r : Row} (hw : s.wave? core wave = some w)
    (hr : ((byReady w.splits).filterMap (s.readyBut core w)).head? = some r) (hage : w.agedAt = none)
    (hwait : w.waitSince + 4096 ≤ s.clock) :
    waveAged core wave s = (s.setWave core wave { w with agedAt := some s.clock }).modCore core (fun k =>
      if r.path = .none then k else { k with agedFor := k.agedFor ++ [(quadOf wave * 8 + pathIndex r.path, wave)] }) := by
  simp [waveAged, hw, hr, hage, hwait]

theorem execYieldExpiry_eq (core wave : Nat) (s : State) : execYieldExpiry core wave s = .next (s.modWave core wave (fun w =>
    if ∃ t, w.yieldUntil = some t ∧ t ≤ s.clock then { w with yieldUntil := none } else w)) := by
  unfold execYieldExpiry
  congr 2
  funext w
  cases w.yieldUntil <;> simp

/-- R102: a wave without lanes and without an outstanding token retires. -/
theorem waveRetire_of_spent {core wave : Nat} {s : State} {w : Wave} (hw : s.wave? core wave = some w) (hspent : w.spent = true) :
    waveRetire core wave s = (((((s.flushTraps core wave).noteBusy core wave).orphan core wave s.nextId).fresh.2.taskWaveEnd
      w.taskQueue).waveDone core w).lastWave core := by
  simp [waveRetire, hw, hspent]

/-! ## Lines and translations -/

/-- R37: a line that the cache lacks is read for a process with a wave on the core, once no lock holds its walk. -/
theorem execIcacheLineFill_of_free {core asid line : Nat} {s : State} (hwave : ∃ e ∈ (s.core core).waves, e.2.asid = asid)
    (hline : line % 64 = 0) (hin : outside line 64 = false)
    (habsent : ∀ x ∈ (s.core core).icache, ¬(x.asid = asid ∧ x.line = line))
    (hfree : s.agentBusy (if ((s.core core).tlbFind asid line).isSome = true then [] else s.walkRanges asid line)
      (fetchNum core line) = false) :
    let u := s.agentServed (fetchNum core line)
    (∀ t, u.fetchLine core asid line = .ok t → execIcacheLineFill core asid line s = .next t)
    ∧ (∀ e, u.fetchLine core asid line = .error e →
      execIcacheLineFill core asid line s = .next (u.fetchFault core asid line e)) := by
  have hstart : line / 64 * 64 = line := Nat.div_mul_cancel (Nat.dvd_of_mod_eq_zero hline)
  have hproc : (s.core core).waves.any (fun e => e.2.asid == asid) = true := by simpa using hwave
  have hlacks : (s.core core).icache.any (fun x => x.asid == asid && x.line == line) = false := by simpa using habsent
  refine ⟨fun t hok => ?_, fun e herr => ?_⟩
  · simp [execIcacheLineFill, hstart, hproc, hlacks, hin, State.asAgent_of_free hfree, hok]
  · simp [execIcacheLineFill, hstart, hproc, hlacks, hin, State.asAgent_of_free hfree, herr]

/-- R206: the answer of a walk, core by core of the cluster. -/
theorem walkAnswer_eq (core asid page : Nat) (s : State) : walkAnswer core asid page s =
    ((List.range 8).map (fun i => core / 8 * 8 + i)).foldl (fun (t : State) c =>
      if (t.core c).walks.any (fun x => x.asid == asid && x.page == page && x.cause.isNone) then
        match s.walk asid (page * 65536) with
        | .ok _ => (t.fillTlb c asid (page * 65536)).modCore c (fun k =>
          { k with walks := k.walks.filter (fun x => !(x.asid == asid && x.page == page)) })
        | .error e => t.modCore c (fun k => { k with walks := (k.walks.map (fun x =>
          if x.asid = asid ∧ x.page = page ∧ x.cause = none then { x with cause := some e } else x)).filter (fun x =>
            t.held.any (fun y => y.k.op == x.op)) })
      else t) s := by
  unfold walkAnswer
  congr 1
  funext t c
  cases (t.core c).walks.any (fun x => x.asid == asid && x.page == page && x.cause.isNone) <;> rfl

theorem tlbWalkComplete_of_free {core asid page : Nat} {s : State} {x : Walk}
    (hx : (s.core core).walks.find? (fun x => x.asid == asid && x.page == page && x.cause.isNone) = some x)
    (hfree : s.agentBusy (s.walkRanges asid (page * 65536)) x.op = false) :
    tlbWalkComplete core asid page s = walkAnswer core asid page (s.agentServed x.op) := by
  simp only [tlbWalkComplete, hx, State.asAgent_of_free hfree]

/-! ## Wakes and traps -/

/-- R222: the missing lanes go on once operation `op` is neither outstanding nor still to be written. -/
theorem execMissSplitWake_of_written {core wave op : Nat} {s : State} {w : Wave} (hw : s.wave? core wave = some w)
    (houts : ∀ o ∈ w.outs, o.id ≠ op) (hpend : ∀ e ∈ w.pend, e.num ≠ op) :
    execMissSplitWake core wave op s = .next (s.modWave core wave (fun y =>
      y.wakeSusp s.clock (fun p => p.waitsFor (.miss op)) (fun p => p.pc))) := by
  have hdone : w.outs.any (fun o => o.id == op) = false := by simpa using houts
  have hwritten : w.pend.any (fun e => e.num == op) = false := by simpa using hpend
  simp [execMissSplitWake, hw, hdone, hwritten]

/-- R269: a queue that the core knows wakes the splits that saw another header. -/
theorem execSqHeaderWake_of_known {core q z : Nat} {s : State} (hz : Tbl.find (s.core core).squeues q = some z) :
    execSqHeaderWake core q s =
      .next (s.modCore core (fun k => k.sqWake q s.clock (fun seen => s.sqView core z != seen))) := by
  unfold execSqHeaderWake
  exact congrArg Host.Outcome.next (State.modCore_congr (by simp only [hz]))

section
variable {trap : Nat} {s : State} {t : PTrap} {w : Wave} (ht : s.traps.find? (fun t => t.id == trap) = some t)
  (huid : t.uid = s.uidOf t.core) (hw : s.wave? t.core t.wave = some w) (hall : s.gathers? t = false)
include ht huid hw hall

/-- R27: a trap without a channel is taken when no instruction holds its lanes. -/
theorem trapDelivery_of_free (hfree : t.free = true) (hholds : w.holds t.lanes = false) :
    trapDelivery trap s = s.deliver t t.lanes := by
  simp [trapDelivery, ht, ← huid, hw, hall, hfree, hholds]

/-- R27: a trap with a channel is delivered in the lanes that have exited. -/
theorem trapDelivery_of_channel (hfree : t.free = false) : trapDelivery trap s = s.deliver t (t.lanes &&& ~~~ w.lanes) := by
  simp [trapDelivery, ht, ← huid, hw, hall, hfree]

end

/-! ## The steps together -/

/-- Settles O39, by the rule of each step. -/
theorem waveEvents : Obligations.WaveEvents := by
  unfold Obligations.WaveEvents
  refine ⟨fun _ _ _ => rfl, fun _ _ _ _ => rfl, fun core wave t s => ?tokens, fun core wave s w r hw hr hage hwait => ?aged,
    execYieldExpiry_eq, fun core wave s w hw hsplits htoks => ?retired,
    fun core asid line s hwave hline hin habsent hfree => ?lines, fun core asid page s u x hx hfree hu => ?walks,
    fun core wave op s w => execMissSplitWake_of_written, fun trap s t w ht huid hw hall => ?traps,
    fun core q z s => execSqHeaderWake_of_known⟩
  case tokens =>
    refine congrArg (fun f => Host.Outcome.next (s.modWave core wave f)) (funext fun w => ?_)
    exact w.retireTok_eq s.clock t
  case aged => exact congrArg Host.Outcome.next (waveAged_of_waited hw hr hage hwait)
  case retired => exact congrArg Host.Outcome.next (waveRetire_of_spent hw (w.spent_iff.mpr ⟨hsplits, htoks⟩))
  case lines => exact execIcacheLineFill_of_free hwave hline hin habsent hfree
  case walks =>
    subst hu
    exact congrArg Host.Outcome.next ((tlbWalkComplete_of_free hx hfree).trans (walkAnswer_eq core asid page _))
  case traps =>
    exact ⟨fun hfree hholds => congrArg Host.Outcome.next (trapDelivery_of_free ht huid hw hall hfree hholds),
      fun hfree => congrArg Host.Outcome.next (trapDelivery_of_channel ht huid hw hall hfree)⟩

/-! ## The state that package reset leaves -/

/-- At reset no core is listed, so each is idle. -/
theorem State.core_reset (c : Nat) : State.reset.core c = Core.idle := rfl

/-- At reset MAP lists no name, so each is held by its own package (R411). -/
theorem State.holderOf_reset (name : Nat) : State.reset.holderOf name = State.reset.fab.pkgNo := by
  have hmap : Tbl.getD State.reset.fab.map (nameIndex name) 0xFFFF = 0xFFFF := rfl
  simp only [State.holderOf, hmap, if_true]

/-- At reset no line is listed and every slice's floor is 0 (R213, R215). -/
theorem State.tsOf_reset (line : Nat) : State.reset.tsOf line = { wts := 0, rts := 0 } := rfl

/-- Memory is empty at reset, which is its canonical form. -/
theorem State.memOk_reset : State.reset.MemOk := ⟨rfl, rfl⟩

/-- Settles O47: no table of the reset state lists an entry, so every read gives the default of its table. -/
theorem resetState : Obligations.ResetState := by
  unfold Obligations.ResetState
  exact ⟨rfl, State.tsOf_reset, fun c => congrArg Core.time (State.core_reset c), fun _ => rfl, State.holderOf_reset, rfl, rfl, rfl,
    rfl, rfl, fun _ => rfl, fun _ => rfl, fun _ => rfl, fun c => congrArg Core.crew (State.core_reset c),
    fun c w => congrArg (fun k : Core => Tbl.find k.waves w) (State.core_reset c), rfl, rfl, rfl, rfl, rfl, rfl, State.memOk_reset⟩

end Sys2Proof.Machine
end

section
/-! PROOFS. The fields of a slot (R38, R43, R47 to R54): what packs into its width is read back, field by field, header by header
and format by format. -/

namespace Sys2Proof

/-! ## Packing -/

/-- Every value of `vs` lies within the field width at its place in `ws`. -/
def Fits (ws vs : List Nat) : Prop := List.Forall₂ (fun w v => v < 2 ^ w) ws vs

theorem fits_nil : Fits [] [] := List.Forall₂.nil

theorem fits_cons {w v : Nat} {ws vs : List Nat} : Fits (w :: ws) (v :: vs) ↔ v < 2 ^ w ∧ Fits ws vs := List.forall₂_cons

theorem unpack_pack {ws vs : List Nat} (hfits : Fits ws vs) : unpack ws (pack (ws.zip vs)) = vs := by
  induction hfits with
  | nil => rfl
  | cons hlt _ ih =>
    simp [unpack, pack, Nat.mod_eq_of_lt hlt, Nat.add_mul_div_left, Nat.div_eq_of_lt hlt, ih]

theorem pack_lt (l : List (Nat × Nat)) : pack l < 2 ^ (l.map Prod.fst).sum := by
  induction l with
  | nil => simp [pack]
  | cons e t ih =>
    obtain ⟨w, v⟩ := e
    have hlow : v % 2 ^ w < 2 ^ w := Nat.mod_lt _ (Nat.two_pow_pos w)
    calc pack ((w, v) :: t) < 2 ^ w + 2 ^ w * pack t := by simpa [pack] using hlow
      _ = 2 ^ w * (pack t + 1) := by ring
      _ ≤ 2 ^ w * 2 ^ (t.map Prod.fst).sum := Nat.mul_le_mul_left _ ih
      _ = 2 ^ (((w, v) :: t).map Prod.fst).sum := by simp [Nat.pow_add]

theorem Fits.pack_lt {ws vs : List Nat} (hfits : Fits ws vs) : pack (ws.zip vs) < 2 ^ ws.sum := by
  have hmap : (ws.zip vs).map Prod.fst = ws := List.map_fst_zip (List.Forall₂.length_eq hfits).le
  simpa [hmap] using Sys2Proof.pack_lt (ws.zip vs)

/-! ## Codes -/

theorem bitOf_lt (b : Bool) : bitOf b < 2 ^ 1 := by cases b <;> decide

@[simp] theorem bitOf_true : bitOf true = 1 := rfl

@[simp] theorem bitOf_false : bitOf false = 0 := rfl

@[simp] theorem bitOf_beq_one (b : Bool) : (bitOf b == 1) = b := by cases b <;> rfl

@[simp] theorem Rnd.ofCode_code (r : Rnd) : Rnd.ofCode r.code = r := by cases r <;> rfl

theorem Rnd.code_lt (r : Rnd) : r.code < 2 ^ 2 := by cases r <;> decide

@[simp] theorem Ord.ofCode_code (r : Ord) : Ord.ofCode r.code = r := by cases r <;> rfl

theorem Ord.code_lt (r : Ord) : r.code < 2 ^ 2 := by cases r <;> decide

@[simp] theorem Ty.ofCode_code (t : Ty) : Ty.ofCode t.code = t := by
  cases t with
  | resv n => revert n; decide
  | _ => rfl

/-- An assigned type code takes five bits (R54). -/
theorem Ty.code_lt {t : Ty} (ht : ∀ n, t ≠ .resv n) : t.code < 2 ^ 5 := by
  cases t with
  | resv n => exact absurd rfl (ht n)
  | _ => decide

@[simp] theorem Opnd.ofCode_code (o : Opnd) : Opnd.ofCode o.code = some o := by
  cases o with
  | v n => simp [Opnd.code, Opnd.ofCode, n.isLt]
  | s n => revert n; decide
  | int n => revert n; decide
  | negOne => rfl
  | fconst c => cases c <;> rfl
  | sp x =>
    cases x with
    | scalewin n => revert n; decide
    | _ => rfl

theorem Opnd.code_lt (o : Opnd) : o.code < 2 ^ 9 := by
  cases o with
  | v n => exact Nat.lt_trans n.isLt (by decide)
  | s n => simp only [Opnd.code]; omega
  | int n => simp only [Opnd.code]; omega
  | negOne => decide
  | fconst c => cases c <;> decide
  | sp x =>
    cases x with
    | scalewin n => simp only [Opnd.code, Special.code]; omega
    | _ => decide

/-! ## Headers and formats -/

theorem Hdr.fits_fields (h : Hdr) {opc fmt : Nat} (hopc : opc < 2 ^ 8) (hfmt : fmt < 2 ^ 3) : Fits widthsH (h.fields opc fmt) := by
  obtain ⟨stall, post, wait, pn, pred⟩ := h
  cases post <;> cases wait <;>
    simp only [widthsH, Hdr.fields, fits_cons, fits_nil, bitOf_lt, BitVec.isLt, Nat.two_pow_pos, hopc, hfmt, and_self]

/-- A clear enable has zero fields, so it is read back as such (R40). -/
theorem Hdr.ofFields_fields (h : Hdr) (opc fmt : Nat) : Hdr.ofFields (h.fields opc fmt) = some h := by
  obtain ⟨stall, post, wait, pn, pred⟩ := h
  cases post <;> cases wait <;> simp [Hdr.fields, Hdr.ofFields]

theorem FmtA.fits_fields {o : FmtA} (ht : ∀ n, o.ty ≠ .resv n) : Fits widthsA o.fields := by
  simp only [widthsA, FmtA.fields, fits_cons, fits_nil, bitOf_lt, BitVec.isLt, Nat.two_pow_pos, Opnd.code_lt, Ty.code_lt ht, Rnd.code_lt,
    and_self]

theorem FmtA.ofFields_fields (o : FmtA) : FmtA.ofFields o.fields = some o := by simp [FmtA.fields, FmtA.ofFields]

theorem FmtI.fits_fields {o : FmtI} (ht : ∀ n, o.ty ≠ .resv n) : Fits widthsI o.fields := by
  simp only [widthsI, FmtI.fields, fits_cons, fits_nil, bitOf_lt, BitVec.isLt, Nat.two_pow_pos, Opnd.code_lt, Ty.code_lt ht, and_self]

theorem FmtI.ofFields_fields (o : FmtI) : FmtI.ofFields o.fields = some o := by simp [FmtI.fields, FmtI.ofFields]

theorem FmtM.fits_fields {o : FmtM} (ht : ∀ n, o.ty ≠ .resv n) : Fits widthsM o.fields := by
  simp only [widthsM, FmtM.fields, fits_cons, fits_nil, BitVec.isLt, Nat.two_pow_pos, Opnd.code_lt, Ty.code_lt ht, Ord.code_lt, and_self]

theorem FmtM.ofFields_fields (o : FmtM) : FmtM.ofFields o.fields = some o := by simp [FmtM.fields, FmtM.ofFields]

theorem FmtC.fits_fields (o : FmtC) : Fits widthsC o.fields := by
  simp only [widthsC, FmtC.fields, fits_cons, fits_nil, BitVec.isLt, Nat.two_pow_pos, Opnd.code_lt, and_self]

theorem FmtC.ofFields_fields (o : FmtC) : FmtC.ofFields o.fields = some o := by simp [FmtC.fields, FmtC.ofFields]

theorem FmtK.fits_fields (o : FmtK) : Fits widthsK o.fields := by
  simp only [widthsK, FmtK.fields, fits_cons, fits_nil, BitVec.isLt, Nat.two_pow_pos, Opnd.code_lt, and_self]

theorem FmtK.ofFields_fields (o : FmtK) : FmtK.ofFields o.fields = some o := by simp [FmtK.fields, FmtK.ofFields]

theorem FmtX.fits_fields {o : FmtX} (ht : ∀ n, o.ty ≠ .resv n) : Fits widthsX o.fields := by
  obtain ⟨d, a, b, guard, ch, ty, cmd⟩ := o
  cases guard <;>
    simp only [widthsX, FmtX.fields, fits_cons, fits_nil, bitOf_lt, BitVec.isLt, Nat.two_pow_pos, Opnd.code_lt, Ty.code_lt ht, and_self]

/-- A clear GE has zero fields, so it is read back as such (R53). -/
theorem FmtX.ofFields_fields (o : FmtX) : FmtX.ofFields o.fields = some o := by
  obtain ⟨d, a, b, guard, ch, ty, cmd⟩ := o
  cases guard <;> simp [FmtX.fields, FmtX.ofFields]

/-! ## Slots -/

section
variable {wf ff : List Nat} {h : Hdr} {opc fmt : Nat} (hfits : Fits wf ff) (hsum : wf.sum = 64) (hopc : opc < 2 ^ 8) (hfmt : fmt < 2 ^ 3)
include hfits hsum

theorem encodeSlot_mod : encodeSlot wf ff (h.fields opc fmt) % 2 ^ 64 = pack (wf.zip ff) := by
  have hlt : pack (wf.zip ff) < 2 ^ 64 := hsum ▸ hfits.pack_lt
  rw [encodeSlot, Nat.add_mul_mod_self_left, Nat.mod_eq_of_lt hlt]

theorem encodeSlot_div : encodeSlot wf ff (h.fields opc fmt) / 2 ^ 64 = pack (widthsH.zip (h.fields opc fmt)) := by
  have hlt : pack (wf.zip ff) < 2 ^ 64 := hsum ▸ hfits.pack_lt
  rw [encodeSlot, Nat.add_mul_div_left _ _ (by decide), Nat.div_eq_of_lt hlt, Nat.zero_add]

include hopc hfmt

/-- The header's fields stand above the low 64 bits: FMT lowest and the major opcode highest (Table 2-3). -/
theorem unpack_encodeSlot : unpack widthsH (encodeSlot wf ff (h.fields opc fmt) / 2 ^ 64) = h.fields opc fmt := by
  rw [encodeSlot_div hfits hsum, unpack_pack (h.fits_fields hopc hfmt)]

theorem encodeSlot_opcode : encodeSlot wf ff (h.fields opc fmt) / 2 ^ 88 % 256 = opc := by
  have hfields := unpack_encodeSlot (h := h) hfits hsum hopc hfmt
  generalize encodeSlot wf ff (h.fields opc fmt) = w at hfields ⊢
  simp only [widthsH, unpack, Hdr.fields, List.cons.injEq, Nat.div_div_eq_div_mul] at hfields
  omega

theorem encodeSlot_format : encodeSlot wf ff (h.fields opc fmt) / 2 ^ 64 % 8 = fmt := by
  have hfields := unpack_encodeSlot (h := h) hfits hsum hopc hfmt
  exact (List.cons.inj hfields).1

/-- A slot whose fields all fit decodes as its opcode, format and fields say. -/
theorem decode_encodeSlot {i : Instr} (hassigned : opcAssigned opc = true) (hraw : rawInstr opc fmt (pack (wf.zip ff)) h = some i) :
    decode (encodeSlot wf ff (h.fields opc fmt)) = rowCheck i := by
  simp only [decode, encodeSlot_opcode hfits hsum hopc hfmt, encodeSlot_format hfits hsum hopc hfmt, encodeSlot_mod hfits hsum,
    unpack_encodeSlot hfits hsum hopc hfmt, Hdr.ofFields_fields, hassigned, hraw, Bool.not_true, Bool.false_eq_true, if_false]

end

section
variable (opc : Nat) (h : Hdr)

theorem rawInstr_fieldsA {o : FmtA} (ht : ∀ n, o.ty ≠ .resv n) :
    rawInstr opc 0 (pack (widthsA.zip o.fields)) h = (mkA opc o).map (fun f => f h o) := by
  simp only [rawInstr, unpack_pack (FmtA.fits_fields ht), FmtA.ofFields_fields, Option.bind_some]

theorem rawInstr_fieldsI {o : FmtI} (ht : ∀ n, o.ty ≠ .resv n) :
    rawInstr opc 1 (pack (widthsI.zip o.fields)) h = (mkI opc o).map (fun f => f h o) := by
  simp only [rawInstr, unpack_pack (FmtI.fits_fields ht), FmtI.ofFields_fields, Option.bind_some]

theorem rawInstr_fieldsM {o : FmtM} (ht : ∀ n, o.ty ≠ .resv n) :
    rawInstr opc 2 (pack (widthsM.zip o.fields)) h = (mkM opc o).map (fun f => f h o) := by
  simp only [rawInstr, unpack_pack (FmtM.fits_fields ht), FmtM.ofFields_fields, Option.bind_some]

theorem rawInstr_fieldsC (o : FmtC) :
    rawInstr opc 3 (pack (widthsC.zip o.fields)) h = (mkC opc o).map (fun f => f h o) := by
  simp only [rawInstr, unpack_pack o.fits_fields, FmtC.ofFields_fields, Option.bind_some]

theorem rawInstr_fieldsK (o : FmtK) :
    rawInstr opc 4 (pack (widthsK.zip o.fields)) h = (mkK opc o).map (fun f => f h o) := by
  simp only [rawInstr, unpack_pack o.fits_fields, FmtK.ofFields_fields, Option.bind_some]

theorem rawInstr_fieldsX {o : FmtX} (ht : ∀ n, o.ty ≠ .resv n) :
    rawInstr opc 5 (pack (widthsX.zip o.fields)) h = (mkX opc).map (fun f => f h o) := by
  simp only [rawInstr, unpack_pack (FmtX.fits_fields ht), FmtX.ofFields_fields, Option.bind_some]

end

end Sys2Proof
end

section
/-! PROOFS. Decode and encode (R54 to R57): the opcode map names each instruction at its own opcode and fields, no row admits a
reserved type, and what the decoder answers has passed the checks of its row. -/

namespace Sys2Proof

/-! ## The rows of a shape -/

theorem Instr.enc_of_wellFormed {i : Instr} {r : Row} (hwf : i.wellFormed = true) (hrow : i.shape.row = some r) : r.enc = true := by
  unfold Instr.wellFormed at hwf
  cases hs : i.shape <;> simp_all [Shape.row, Row.encOk]

theorem Instr.mod_of_wellFormed {i : Instr} {r : Row} (hwf : i.wellFormed = true) (hrow : i.shape.row = some r) : r.mod = true := by
  unfold Instr.wellFormed at hwf
  cases hs : i.shape <;> simp_all [Shape.row, Row.modOk]

theorem rowCheck_of_wellFormed {i : Instr} (hwf : i.wellFormed = true) : rowCheck i = .ok i := by
  unfold Instr.wellFormed at hwf
  unfold rowCheck
  cases hs : i.shape <;> simp_all [Shape.row, Shape.hdr]

theorem rowQA_sub {o : FmtA} {types : List Ty} {n : Nat} {sOk post : Bool} {uses : List Use}
    (hmod : (rowQA o types [n] sOk post uses).mod = true) : o.sub.toNat = n := by
  simp only [rowQA, rowA, Bool.and_eq_true, List.contains_iff_mem, List.mem_singleton] at hmod
  tauto

/-! ## Unassigned opcodes -/

/-- The major opcode is the highest byte of a slot (R38). -/
theorem opcode_of_lt {w : Nat} (hw : w < 2 ^ 96) : w / 2 ^ 88 % 256 = w / 2 ^ 88 := by omega

theorem decode_unassigned {w : Nat} (hopc : opcAssigned (w / 2 ^ 88 % 256) = false) :
    decode w = .ok (.unassignedOpcode (BitVec.ofNat 96 w)) := by
  simp only [decode, hopc, Bool.not_false, if_true]

theorem wellFormed_unassignedOpcode (w : BitVec 96) :
    (Instr.unassignedOpcode w).wellFormed = !opcAssigned (w.toNat / 2 ^ 88) := rfl

/-! ## The opcode map -/

/-- The instruction that the opcode map names for the opcode, header and fields of a shape. -/
def Shape.named : Shape → Option Instr
  | .a opc h o _ => (mkA opc o).map (fun f => f h o)
  | .i opc h o _ => (mkI opc o).map (fun f => f h o)
  | .m opc h o _ => (mkM opc o).map (fun f => f h o)
  | .c opc h o _ => (mkC opc o).map (fun f => f h o)
  | .k opc h o _ => (mkK opc o).map (fun f => f h o)
  | .x opc h o _ => (mkX opc).map (fun f => f h o)
  | .raw w => some (.unassignedOpcode w)
  | .event => none

/-- The major opcode of a shape, which a raw slot and an event do not have, is assigned. -/
def Shape.opcOk : Shape → Bool
  | .a opc _ _ _ | .i opc _ _ _ | .m opc _ _ _ | .c opc _ _ _ | .k opc _ _ _ | .x opc _ _ _ =>
    decide (opc < 2 ^ 8) && opcAssigned opc
  | .raw _ | .event => true

/-- R56: every instruction with a major opcode has an assigned one. -/
theorem Instr.opcOk_shape (i : Instr) : i.shape.opcOk = true := by
  cases i <;> rfl

/-- Whether a shape is that of an engine step or an input, which no opcode names. -/
def Shape.isEvent : Shape → Bool
  | .event => true
  | _ => false

/-- The opcode map names every well-formed instruction at its own opcode and fields: instructions that share an opcode are told
apart by SUB or MOP (Table 2-15), which their rows fix. -/
theorem Instr.named_shape {i : Instr} (hwf : i.wellFormed = true) :
    i.shape.named = bif i.shape.isEvent then none else some i := by
  cases i with
  | barArrive h o | barWait h o | barSync h o =>
    have hmod := mod_of_wellFormed hwf rfl
    simp only [rowBarA, rowQ, beq_iff_eq] at hmod
    simp [Instr.shape, Shape.named, Shape.isEvent, mkA, BitVec.toNat_eq, hmod]
  | barArriveImm h o | barSyncImm h o =>
    have hmod := mod_of_wellFormed hwf rfl
    simp only [rowBarI, rowQ, beq_iff_eq] at hmod
    simp [Instr.shape, Shape.named, Shape.isEvent, mkI, BitVec.toNat_eq, hmod]
  | sqpush h o | sqpushCredit h o | sqpop h o | sqpopFree h o | cptr h o | cptrIptr h o | cptrStat h o =>
    have hsub := rowQA_sub (mod_of_wellFormed hwf rfl)
    simp [Instr.shape, Shape.named, Shape.isEvent, mkA, BitVec.toNat_eq, hsub]
  | suspend h o | suspendX h o =>
    have hmod := mod_of_wellFormed hwf rfl
    simp only [rowK, rowQ, Bool.and_eq_true, beq_iff_eq] at hmod
    simp [Instr.shape, Shape.named, Shape.isEvent, mkK, hmod.1]
  | phint h o | phintFull h o =>
    have hmod := mod_of_wellFormed hwf rfl
    simp only [rowHint, rowQ, Bool.and_eq_true, beq_iff_eq] at hmod
    simp [Instr.shape, Shape.named, Shape.isEvent, mkI, BitVec.toNat_eq, hmod.2]
  | rett h o | rettStep h o =>
    have hmod := mod_of_wellFormed hwf rfl
    simp only [beq_iff_eq] at hmod
    simp [Instr.shape, Shape.named, Shape.isEvent, mkC, hmod]
  | ptinv h o | ptinvRsm h o | ptinvEnd h o =>
    have hmod := mod_of_wellFormed hwf rfl
    simp only [rowPtinv, rowQ, beq_iff_eq] at hmod
    simp [Instr.shape, Shape.named, Shape.isEvent, mkM, BitVec.toNat_eq, hmod]
  | _ => rfl

/-! ## Types -/

/-- The type of a shape; none in a format without one. -/
def Shape.ty : Shape → Ty
  | .a _ _ o _ => o.ty
  | .i _ _ o _ => o.ty
  | .m _ _ o _ => o.ty
  | .x _ _ o _ => o.ty
  | .c _ _ _ _ | .k _ _ _ _ | .raw _ | .event => .none

/-- The pairs of Table 7-4 name no reserved type. -/
theorem cvtPair_resv (n : BitVec 4) (src : Ty) : cvtPair (.resv n) src = false := by
  simp [cvtPair, Ty.isFloat6, Ty.isInt]

theorem reduxTypes_resv (sub : Nat) (n : BitVec 4) : (reduxTypes sub).contains (.resv n) = false := by
  unfold reduxTypes
  split_ifs <;> rfl

theorem atomTypes_resv (op : Nat) (n : BitVec 4) : (atomTypes op).contains (.resv n) = false := by
  unfold atomTypes
  split_ifs <;> rfl

/-- No row lists a reserved type code (R54). -/
theorem Instr.ty_ne_resv {i : Instr} (hwf : i.wellFormed = true) (n : BitVec 4) : i.shape.ty ≠ .resv n := by
  intro hty
  cases i with
  | cvt h o =>
    have hmod := mod_of_wellFormed hwf rfl
    change o.ty = _ at hty
    simp [rowCvt, hty, cvtPair_resv] at hmod
  | redux h o =>
    have hmod := mod_of_wellFormed hwf rfl
    change o.ty = _ at hty
    simp [rowRedux, rowA, hty, reduxTypes_resv, -List.contains_eq_mem] at hmod
  | atom h o | red h o =>
    have hmod := mod_of_wellFormed hwf rfl
    change o.ty = _ at hty
    simp [rowAtom, rowRed, rowQ, hty, atomTypes_resv, -List.contains_eq_mem] at hmod
  | cpy h o | cpym h o | cpys h o | cpyg h o | cpyx h o =>
    have hmod := mod_of_wellFormed hwf rfl
    change o.ty = _ at hty
    simp [rowCopy, rowQ, hty] at hmod
  | barArrive h o | barWait h o | barSync h o | barArriveImm h o | barSyncImm h o | ptinv h o | ptinvRsm h o | ptinvEnd h o =>
    have henc := enc_of_wellFormed hwf rfl
    change o.ty = _ at hty
    simp [rowBarA, rowBarI, rowPtinv, rowQ, hty] at henc
  | _ =>
    -- The modifier check of every other row with a type begins with a list of types, which computes to false at a reserved one.
    simp only [Instr.shape, Shape.ty, reduceCtorEq] at hty <;>
      (rename_i h o
       obtain ⟨⟩ := o
       cases hty
       exact Bool.false_ne_true (mod_of_wellFormed hwf rfl))

/-! ## Encode, then decode -/

/-- Settles O50: the fields of a well-formed instruction fit their widths, so the decoder finds them, and the opcode map gives the
instruction back. -/
theorem decodeEncode : Obligations.DecodeEncode := by
  unfold Obligations.DecodeEncode
  intro i hwf
  have hopc := i.opcOk_shape
  have hnamed := i.named_shape hwf
  have hty := Instr.ty_ne_resv hwf
  rw [← rowCheck_of_wellFormed hwf]
  unfold encode
  cases hs : i.shape <;>
    simp only [hs, Shape.opcOk, Shape.ty, Bool.and_eq_true, decide_eq_true_eq] at hopc hnamed hty
  case a opc h o r =>
    exact decode_encodeSlot (FmtA.fits_fields hty) rfl hopc.1 (by decide) hopc.2 ((rawInstr_fieldsA opc h hty).trans hnamed)
  case i opc h o r =>
    exact decode_encodeSlot (FmtI.fits_fields hty) rfl hopc.1 (by decide) hopc.2 ((rawInstr_fieldsI opc h hty).trans hnamed)
  case m opc h o r =>
    exact decode_encodeSlot (FmtM.fits_fields hty) rfl hopc.1 (by decide) hopc.2 ((rawInstr_fieldsM opc h hty).trans hnamed)
  case c opc h o r =>
    exact decode_encodeSlot o.fits_fields rfl hopc.1 (by decide) hopc.2 ((rawInstr_fieldsC opc h o).trans hnamed)
  case k opc h o r =>
    exact decode_encodeSlot o.fits_fields rfl hopc.1 (by decide) hopc.2 ((rawInstr_fieldsK opc h o).trans hnamed)
  case x opc h o r =>
    exact decode_encodeSlot (FmtX.fits_fields hty) rfl hopc.1 (by decide) hopc.2 ((rawInstr_fieldsX opc h hty).trans hnamed)
  case raw w =>
    obtain rfl : Instr.unassignedOpcode w = i := Option.some.inj hnamed
    have hopc : opcAssigned (w.toNat / 2 ^ 88 % 256) = false := by
      rw [opcode_of_lt w.isLt]
      simpa only [wellFormed_unassignedOpcode, Bool.not_eq_true'] using hwf
    rw [decode_unassigned hopc, BitVec.ofNat_toNat, BitVec.setWidth_eq]
    rfl
  case event => simp [Instr.wellFormed, hs] at hwf

/-! ## What the decoder answers -/

theorem mem_of_lookup {α : Type} {l : List (Nat × α)} {k : Nat} {x : α} (hl : lookup l k = some x) : (k, x) ∈ l := by
  induction l with
  | nil => cases hl
  | cons e t ih =>
    unfold lookup at hl
    split at hl
    next hkey =>
      obtain ⟨rfl, rfl⟩ := And.intro hkey (Option.some.inj hl)
      exact List.mem_cons_self
    next => exact List.mem_cons_of_mem _ (ih hl)

theorem hdr_of_mem_tableA (h : Hdr) (o : FmtA) : ∀ e ∈ tableA, (e.2 h o).shape.hdr = some h := List.map_eq_replicate_iff.mp rfl
theorem hdr_of_mem_tableI (h : Hdr) (o : FmtI) : ∀ e ∈ tableI, (e.2 h o).shape.hdr = some h := List.map_eq_replicate_iff.mp rfl
theorem hdr_of_mem_tableM (h : Hdr) (o : FmtM) : ∀ e ∈ tableM, (e.2 h o).shape.hdr = some h := List.map_eq_replicate_iff.mp rfl
theorem hdr_of_mem_tableC (h : Hdr) (o : FmtC) : ∀ e ∈ tableC, (e.2 h o).shape.hdr = some h := List.map_eq_replicate_iff.mp rfl
theorem hdr_of_mem_tableK (h : Hdr) (o : FmtK) : ∀ e ∈ tableK, (e.2 h o).shape.hdr = some h := List.map_eq_replicate_iff.mp rfl
theorem hdr_of_mem_tableX (h : Hdr) (o : FmtX) : ∀ e ∈ tableX, (e.2 h o).shape.hdr = some h := List.map_eq_replicate_iff.mp rfl

theorem mkA_hdr {opc : Nat} {o : FmtA} {f : Hdr → FmtA → Instr} (hf : mkA opc o = some f) (h : Hdr) :
    (f h o).shape.hdr = some h := by
  unfold mkA at hf
  split at hf
  case h_5 => exact hdr_of_mem_tableA h o _ (mem_of_lookup hf)
  all_goals
    obtain rfl := Option.some.inj hf
    split_ifs <;> rfl

theorem mkI_hdr {opc : Nat} {o : FmtI} {f : Hdr → FmtI → Instr} (hf : mkI opc o = some f) (h : Hdr) :
    (f h o).shape.hdr = some h := by
  unfold mkI at hf
  split at hf
  case h_3 => exact hdr_of_mem_tableI h o _ (mem_of_lookup hf)
  all_goals
    obtain rfl := Option.some.inj hf
    split_ifs <;> rfl

theorem mkM_hdr {opc : Nat} {o : FmtM} {f : Hdr → FmtM → Instr} (hf : mkM opc o = some f) (h : Hdr) :
    (f h o).shape.hdr = some h := by
  unfold mkM at hf
  split at hf
  · obtain rfl := Option.some.inj hf
    split_ifs <;> rfl
  · exact hdr_of_mem_tableM h o _ (mem_of_lookup hf)

theorem mkC_hdr {opc : Nat} {o : FmtC} {f : Hdr → FmtC → Instr} (hf : mkC opc o = some f) (h : Hdr) :
    (f h o).shape.hdr = some h := by
  unfold mkC at hf
  split at hf
  · obtain rfl := Option.some.inj hf
    split_ifs <;> rfl
  · exact hdr_of_mem_tableC h o _ (mem_of_lookup hf)

theorem mkK_hdr {opc : Nat} {o : FmtK} {f : Hdr → FmtK → Instr} (hf : mkK opc o = some f) (h : Hdr) :
    (f h o).shape.hdr = some h := by
  unfold mkK at hf
  split at hf
  · obtain rfl := Option.some.inj hf
    split_ifs <;> rfl
  · exact hdr_of_mem_tableK h o _ (mem_of_lookup hf)

/-- What the opcode map names carries the header, whatever the fields say. -/
theorem rawInstr_hdr {opc fmt low : Nat} {h : Hdr} {i : Instr} (hraw : rawInstr opc fmt low h = some i) :
    i.shape.hdr = some h := by
  unfold rawInstr at hraw
  split at hraw
  case h_7 => cases hraw
  all_goals
    simp only [Option.bind_eq_some_iff, Option.map_eq_some_iff] at hraw
    obtain ⟨o, -, f, hf, rfl⟩ := hraw
  case h_1 => exact mkA_hdr hf h
  case h_2 => exact mkI_hdr hf h
  case h_3 => exact mkM_hdr hf h
  case h_4 => exact mkC_hdr hf h
  case h_5 => exact mkK_hdr hf h
  case h_6 => exact hdr_of_mem_tableX h o _ (mem_of_lookup hf)

/-- An instruction with a header passes the checks of its row only when it is well-formed. -/
theorem wellFormed_of_rowCheck {i j : Instr} {h : Hdr} (hhdr : i.shape.hdr = some h) (hcheck : rowCheck i = .ok j) :
    j.wellFormed = true := by
  unfold rowCheck at hcheck
  cases hs : i.shape <;> simp only [hs, Shape.hdr, Shape.row, reduceCtorEq] at hcheck hhdr
  all_goals
    split_ifs at hcheck with henc hmod
    obtain rfl := Except.ok.inj hcheck
    simp_all [Instr.wellFormed]

/-- Settles O51: a raw slot has an unassigned opcode, and any other answer has passed the checks of its row. -/
theorem decodeWellFormed : Obligations.DecodeWellFormed := by
  unfold Obligations.DecodeWellFormed
  intro w i hw hdec
  cases hopc : opcAssigned (w / 2 ^ 88 % 256) with
  | false =>
    obtain rfl := Except.ok.inj ((decode_unassigned hopc).symm.trans hdec)
    rw [wellFormed_unassignedOpcode, BitVec.toNat_ofNat, Nat.mod_eq_of_lt hw, ← opcode_of_lt hw, hopc, Bool.not_false]
  | true =>
    simp only [decode, hopc, Bool.not_true, Bool.false_eq_true, if_false] at hdec
    split at hdec
    next => cases hdec
    next =>
      split at hdec
      next => cases hdec
      next hraw => exact wellFormed_of_rowCheck (rawInstr_hdr hraw) hdec

end Sys2Proof
end

section
/-! PROOFS. What a step does (R30 to R37), and what stands before an issue (R39, R56, R57, R128, R133). -/

namespace Sys2Proof.Machine

/-! ## The next step -/

theorem State.nextIs_issue {s : State} {cur : Cursor} (hcur : s.cursor = some cur) (hfree : s.agenda = [] ∨ cur.second.isSome = true) :
    s.nextIs = .issue cur := by
  unfold State.nextIs
  rcases hfree with hagenda | hsecond
  · rw [hcur, hagenda]
  · cases hagenda : s.agenda <;> simp [hcur, hsecond]

theorem State.nextIs_event {s : State} {i : Instr} {rest : List Instr} (hagenda : s.agenda = i :: rest)
    (hfirst : ∀ cur, s.cursor = some cur → cur.second = none) : s.nextIs = .event i rest := by
  unfold State.nextIs
  cases hcur : s.cursor with
  | none => simp [hagenda]
  | some cur => simp [hagenda, hfirst cur hcur]

theorem State.nextIs_choose {s : State} (hagenda : s.agenda = []) (hcur : s.cursor = none) : s.nextIs = .choose := by
  simp [State.nextIs, hagenda, hcur]

/-! ## The fetch of the cursor's split -/

/-- R36: the BTM check passes where no transfer brought a split to the slot, or the slot is marked as a target. -/
theorem targetBad_eq_false {bits : BitVec 512} {slot : Nat} {sp : List Split}
    (htarget : (∀ p ∈ sp, p.origin = none) ∨ lineBtm (lineWord bits) slot = true) : targetBad bits slot sp = false := by
  unfold targetBad
  rcases htarget with horigin | hbtm
  · have hany : sp.any (fun p => p.origin.isSome) = false := by simpa using horigin
    rw [hany, Bool.false_and]
  · rw [hbtm, Bool.not_true, Bool.and_false]

theorem fetchSlot_of_decodes {s : State} {cur : Cursor} {sp : List Split} {bits : BitVec 512} {i : Instr}
    (htarget : targetBad bits (slotOf cur.pc) sp = false) (hword : lineWordOk (lineWord bits) = true)
    (hdec : decode (lineSlot bits (slotOf cur.pc)) = .ok i) :
    fetchSlot s cur sp bits = .run i (s.modWave cur.core cur.wave (fun w => w.targetOk cur.pc (lanesOfSplits sp))) := by
  simp [fetchSlot, htarget, hword, hdec]

/-- R33: a line of the cache with its parities right is the one whose slot issues. -/
theorem fetch_of_line {s : State} {cur : Cursor} {x : Wave} {bits : BitVec 512} (hw : s.wave? cur.core cur.wave = some x)
    (hsp : x.execSplits cur.pc cur.lanes ≠ []) (hline : (s.core cur.core).lineAt x.asid cur.pc = some bits)
    (hparity : parityOk bits (slotOf cur.pc) (x.execSplits cur.pc cur.lanes) = true) :
    fetch s cur = fetchSlot s cur (x.execSplits cur.pc cur.lanes) bits := by
  obtain ⟨p, ps, hcons⟩ := List.exists_cons_of_ne_nil hsp
  rw [hcons] at hparity ⊢
  simp only [fetch, hw, hcons, hline, hparity, if_true]

/-! ## The step -/

/-- Settles O48, by what the next step is and, where it is an issue, the fetch of the line that the cache holds. -/
theorem stepRuns : Obligations.StepRuns := by
  unfold Obligations.StepRuns
  refine ⟨fun s cur x bits i hcur hfree hw hsp hline hlpar hspar htarget hword hdec => ?issue, fun s i rest hagenda hfirst => ?event,
    fun s hagenda hcur => ?choose⟩
  case issue =>
    have hparity : parityOk bits (slotOf cur.pc) (x.execSplits cur.pc cur.lanes) = true := by simp [parityOk, hlpar, hspar]
    have hfetch := (fetch_of_line hw hsp hline hparity).trans (fetchSlot_of_decodes (targetBad_eq_false htarget) hword hdec)
    simp only [step, State.nextIs_issue hcur hfree, hfetch]
  case event => simp only [step, State.nextIs_event hagenda hfirst]
  case choose => simp only [step, State.nextIs_choose hagenda hcur]

/-! ## What stands before an issue -/

/-- A decode fault is taken by the whole executing split, once its stall has elapsed. -/
theorem decodeFault_of_stallOver {s : State} {cur : Cursor} {x : Wave} (cause : Nat) (hcur : s.cursor = some cur)
    (hw : s.wave? cur.core cur.wave = some x) (hfirst : cur.second = none) (hrest : s.restHeld cur.core x = false)
    (hstop : x.stopAt cur = none) (hstall : x.stallOver s.clock (x.chosen cur.pc cur.lanes) = true) :
    decodeFault s cause = ({ s with cursor := none } : State).takeTrap cur.core cur.wave (x.lanesAt cur) cause 0 cur.pc 0 cur.pc := by
  simp [decodeFault, hcur, hw, hfirst, hrest, hstop, hstall, Wave.lanesAt]

/-- Settles O19: ILLEGAL_OPCODE is a decode fault. -/
theorem unassignedOpcode : Obligations.UnassignedOpcode := by
  unfold Obligations.UnassignedOpcode
  intro w s cur x hcur hw hfirst hrest hstop hstall
  exact congrArg Host.Outcome.next (decodeFault_of_stallOver 0x01 hcur hw hfirst hrest hstop hstall)

section
variable {i : Instr} {s : State} {cur : Cursor} {x : Wave} {r : Row} {h : Hdr} (hcur : s.cursor = some cur)
  (hw : s.wave? cur.core cur.wave = some x) (hrow : i.shape.row = some r) (hhdr : i.shape.hdr = some h)
include hcur hw hrow hhdr

/-- R39, R117: before its stall has elapsed a split does not issue, whether or not the wave rests. -/
theorem start_of_stalled (hfirst : cur.second = none) (hstop : x.stopAt cur = none)
    (hstall : x.stallOver s.clock (x.chosen cur.pc cur.lanes) = false) :
    start i s = .stop { s with cursor := none } := by
  simp only [start, hcur, hw, hfirst, hrow, hhdr, hstop, hstall, Option.isSome_none, Bool.or_self, Bool.not_false, Bool.false_eq_true,
    if_true, if_false, ite_self]

variable (hlanes : x.lanesAt cur ≠ 0) (hrest : s.restHeld cur.core x = false)
include hlanes hrest

/-- R133: a split that is to stop does so instead of issuing. -/
theorem start_of_stopAt {cause : Nat} (hstop : x.stopAt cur = some cause) : start i s = .stop
    (({ s with cursor := none } : State).stopLanes cur.core cur.wave x (x.lanesAt cur) cause 0 cur.pc 0 cur.pc) := by
  simp only [start, hcur, hw, hrow, hhdr, hlanes, hrest, hstop, decide_false, Bool.and_false, Bool.or_self, Bool.false_eq_true,
    Option.isSome_some, Option.getD_some, if_true, if_false]

variable (hstop : x.stopAt cur = none) (hstall : x.stallOver s.clock (x.chosen cur.pc cur.lanes) = true)
include hstop hstall

/-- R21, R57: an instruction of the supervisor level takes PRIVILEGE in another process. -/
theorem start_of_privileged (hpriv : privileged i r = true) (hasid : x.asid ≠ 0) : start i s = .stop
    (({ s with cursor := none } : State).takeTrap cur.core cur.wave (x.lanesAt cur) 0x06 0 cur.pc 0 cur.pc) := by
  have hother : (x.asid != 0) = true := bne_iff_ne.mpr hasid
  simp only [start, hcur, hw, hrow, hhdr, hlanes, hrest, hstop, hstall, hpriv, hother, decide_false, Bool.and_false, Bool.and_self,
    Bool.or_self, Bool.or_true, Bool.not_true, Bool.false_eq_true, Option.isSome_none, if_true, if_false]

variable (hpriv : privileged i r = false)
include hpriv

/-- R45, R57: an operand at or above QUOTA takes REG_RANGE. -/
theorem start_of_outOfQuota (hquota : r.uses.all (fun u => useInQuota u (quotaFor i x.quota)) = false) : start i s = .stop
    (({ s with cursor := none } : State).takeTrap cur.core cur.wave (x.lanesAt cur) 0x07 0 cur.pc 0 cur.pc) := by
  simp only [start, hcur, hw, hrow, hhdr, hlanes, hrest, hstop, hstall, hpriv, hquota, decide_false, Bool.and_false, Bool.false_and,
    Bool.or_self, Bool.or_true, Bool.not_true, Bool.not_false, Bool.false_eq_true, Option.isSome_none, if_true, if_false]

/-- R128: a split whose instruction does not meet the conditions of its issue waits. -/
theorem start_of_not_canIssue (hfirst : cur.second = none) (hquota : r.uses.all (fun u => useInQuota u (quotaFor i x.quota)) = true)
    (hcan : s.canIssue cur.core cur.wave x i r h = false) : start i s = .stop { s with cursor := none } := by
  simp only [start, hcur, hw, hfirst, hrow, hhdr, hlanes, hrest, hstop, hstall, hpriv, hquota, hcan, decide_false, Bool.and_false,
    Bool.false_and, Bool.or_self, Bool.or_true, Bool.not_true, Bool.not_false, Bool.false_eq_true, Option.isSome_none, if_true, if_false]

end

theorem issue_of_stop {i : Instr} {s t : State} (body : Ctx → State → State) (hstart : start i s = .stop t) :
    issue i s body = .next t := by
  simp only [issue, hstart]

/-- An `add` that does not begin its own effect leaves the state as `start` gives it. -/
theorem exec_add_of_stop {h : Hdr} {o : FmtA} {s t : State} (hstart : start (.add h o) s = .stop t) : exec (.add h o) s = .next t :=
  issue_of_stop _ hstart

/-- As `exec_add_of_stop` for `csave`. -/
theorem exec_csave_of_stop {h : Hdr} {o : FmtA} {s t : State} (hstart : start (.csave h o) s = .stop t) :
    exec (.csave h o) s = .next t :=
  issue_of_stop _ hstart

/-- Settles O56, by the checks of `start` in their order. -/
theorem issueTraps : Obligations.IssueTraps := by
  unfold Obligations.IssueTraps
  refine ⟨fun h o s cur x hcur hw hfirst hstop hstall => ?stalled, fun h o s cur x hcur hw hfirst hlanes hrest =>
    ⟨fun cause r hstop hrow => ?stops, fun hstop hstall => ⟨fun r hasid hrow => ?privilege, fun r hrow huse => ?range,
      fun r hrow huse hcan => ?waits⟩⟩⟩
  case stalled =>
    exact ⟨exec_add_of_stop (start_of_stalled hcur hw rfl rfl hfirst hstop hstall),
      exec_csave_of_stop (start_of_stalled hcur hw rfl rfl hfirst hstop hstall)⟩
  case stops => exact exec_add_of_stop (start_of_stopAt hcur hw hrow rfl hlanes hrest hstop)
  case privilege =>
    obtain rfl := Option.some.inj hrow
    exact exec_csave_of_stop (start_of_privileged hcur hw rfl rfl hlanes hrest hstop hstall rfl hasid)
  case range =>
    obtain rfl := Option.some.inj hrow
    refine exec_add_of_stop (start_of_outOfQuota hcur hw rfl rfl hlanes hrest hstop hstall rfl ?_)
    rw [List.all_eq_not_any_not, huse, Bool.not_true]
  case waits =>
    obtain rfl := Option.some.inj hrow
    exact exec_add_of_stop (start_of_not_canIssue hcur hw rfl rfl hlanes hrest hstop hstall rfl hfirst huse hcan)

end Sys2Proof.Machine
end

section
/-! PROOFS. Special operands of the floating-point operations (R76, R80, Table 3-9). -/

namespace Sys2Proof.Machine

variable {f : FFmt} {m : Rnd} {sat : Bool} {a b : Nat}

/-! ## NaN operands -/

theorem FFmt.nanRes_eq (f : FFmt) (nv : Bool) : f.nanRes nv = ⟨f.nan, if nv then flNV else 0⟩ := rfl

/-- Beside a NaN a pair holds at most one infinity. -/
theorem opposed_pair_of_isNan {x y : FV} (hnan : x.isNan = true ∨ y.isNan = true) : opposed [x, y] = false := by
  rcases x with _ | n | _ <;> rcases y with _ | n' | _ <;> simp_all [FV.isNan, opposed, FV.isInf, FV.neg]

theorem FFmt.add_of_isNan (hnan : (f.dec (f.flush a)).isNan = true ∨ (f.dec (f.flush b)).isNan = true) :
    f.add m sat a b = f.nanRes ((f.dec (f.flush a)).isSig || (f.dec (f.flush b)).isSig) := by
  simp [FFmt.add, FFmt.sum, hnan, opposed_pair_of_isNan hnan]

theorem FFmt.mul_of_isNan (hnan : (f.dec (f.flush a)).isNan = true ∨ (f.dec (f.flush b)).isNan = true) :
    f.mul m sat a b = f.nanRes ((f.dec (f.flush a)).isSig || (f.dec (f.flush b)).isSig) := by
  simp [FFmt.mul, hnan]

theorem FFmt.div_of_isNan (hnan : (f.dec (f.flush a)).isNan = true ∨ (f.dec (f.flush b)).isNan = true) :
    f.div m sat a b = f.nanRes ((f.dec (f.flush a)).isSig || (f.dec (f.flush b)).isSig) := by
  simp [FFmt.div, hnan]

/-! ## Infinities and zeros -/

/-- ∞ − ∞ is invalid (Table 3-9), whichever of the two comes first. -/
theorem FFmt.sum_inf_inf {n n' : Bool} (hne : n ≠ n') : f.sum m sat [.inf n, .inf n'] = f.nanRes true := by
  have hopp : opposed [.inf n, .inf n'] = true := by
    obtain rfl := Bool.eq_not_of_ne hne
    cases n' <;> rfl
  simp [FFmt.sum, FFmt.sumVals, FV.isNan, hopp]

/-- Settles O14: each class of special operands meets its branch of the operation. -/
theorem floatSpecials : Obligations.FloatSpecials := by
  unfold Obligations.FloatSpecials
  intro f m sat a b
  refine ⟨fun hnan => ⟨FFmt.add_of_isNan hnan, FFmt.mul_of_isNan hnan, FFmt.div_of_isNan hnan⟩, fun n n' ha hb => ⟨?_, ?_, ?_⟩,
    fun n n' e ha hb => ?_, fun n n' e e' ha hb => ?_, fun n n' e e' x ha hb hsat hinf => ?_, fun e x ha => ?_, fun e ha => ?_⟩
  · simp [FFmt.div, ha, hb, FV.isNan, FFmt.nanRes_eq]
  · intro hne
    rw [FFmt.add, ha, hb, FFmt.sum_inf_inf hne, FFmt.nanRes_eq, if_pos rfl]
  · rintro rfl
    rw [FFmt.sub, ha, hb, FV.negate, FFmt.sum_inf_inf (by simp), FFmt.nanRes_eq, if_pos rfl]
  · simp [FFmt.mul, ha, hb, FV.isNan, prodV, FFmt.nanRes_eq]
  · simp [FFmt.div, ha, hb, FV.isNan, FFmt.nanRes_eq]
  · simp [FFmt.div, ha, hb, FV.isNan, FV.neg, FFmt.infRes, hsat, hinf]
  · simp [FFmt.sqrt, ha, FFmt.nanRes_eq]
  · simp [FFmt.sqrt, ha]

end Sys2Proof.Machine
end

section
/-! PROOFS. Exact sums of dyadic terms: what `sumExact` and `roundSum` give for terms that are numbers (R76). -/

namespace Sys2Proof.Machine

/-! ## Signs and powers of two -/

/-- A magnitude with a sign. -/
def signed {α : Type} [Neg α] (neg : Bool) (x : α) : α := if neg then -x else x

@[simp] theorem signed_true {α : Type} [Neg α] (x : α) : signed true x = -x := rfl

@[simp] theorem signed_false {α : Type} [Neg α] (x : α) : signed false x = x := rfl

theorem two_zpow_pos {K : Type} [Field K] [LinearOrder K] [IsStrictOrderedRing K] (e : ℤ) : 0 < (2 : K) ^ e :=
  zpow_pos two_pos e

theorem abs_signed {K : Type} [Field K] [LinearOrder K] [IsStrictOrderedRing K] {n : Bool} {x : K} (hx : 0 < x) : |signed n x| = x := by
  cases n <;> simp [abs_of_pos hx]

/-- A power of two split at a lesser exponent. -/
theorem two_pow_toNat_mul {K : Type} [Field K] [LinearOrder K] [IsStrictOrderedRing K] {a e : ℤ} (hle : e ≤ a) :
    (2 : K) ^ (a - e).toNat * 2 ^ e = 2 ^ a := by
  rw [← zpow_natCast, Int.toNat_of_nonneg (by omega), ← zpow_add₀ two_ne_zero, Int.sub_add_cancel]

/-- The number that a signed dyadic term stands for. -/
def termRat (t : Bool × Nat × Int) : ℚ := signed t.1 ((t.2.1 : ℚ) * 2 ^ t.2.2)

theorem termRat_mk (n : Bool) (m : Nat) (e : Int) : termRat (n, m, e) = signed n ((m : ℚ) * 2 ^ e) := rfl

theorem FV.rat_eq_termRat (v : FV) : v.rat = termRat v.term := by
  rcases v with _ | _ | ⟨n, m, e⟩
  case num => cases n <;> simp [FV.rat, FV.term, termRat]
  all_goals simp [FV.rat, FV.term, termRat]

theorem FV.rat_num (n : Bool) (m : Nat) (e : Int) : (FV.num n m e).rat = signed n ((m : ℚ) * 2 ^ e) :=
  FV.rat_eq_termRat _

@[simp] theorem FV.rat_negate (v : FV) : v.negate.rat = -v.rat := by
  rcases v with _ | _ | ⟨n, m, e⟩
  case num => cases n <;> simp [FV.negate, FV.rat_num]
  all_goals simp [FV.negate, FV.rat]

@[simp] theorem FV.finite_negate (v : FV) : v.negate.finite = v.finite := by cases v <;> rfl

theorem FV.rat_num_eq_zero {n : Bool} {m : Nat} {e : Int} : (FV.num n m e).rat = 0 ↔ m = 0 := by
  cases n <;> simp [FV.rat_num, (two_zpow_pos e).ne']

theorem FV.abs_rat_num (n : Bool) (m : Nat) (e : Int) : |(FV.num n m e).rat| = m * 2 ^ e := by
  have hpos : (0 : ℚ) ≤ m * 2 ^ e := by positivity
  cases n <;> simp [FV.rat_num, abs_of_nonneg hpos]

/-! ## The exact sum -/

theorem foldl_min_le (ts : List (Bool × Nat × Int)) (i : Int) :
    ts.foldl (fun m t => if t.2.1 = 0 then m else min m t.2.2) i ≤ i
      ∧ ∀ t ∈ ts, t.2.1 ≠ 0 → ts.foldl (fun m t => if t.2.1 = 0 then m else min m t.2.2) i ≤ t.2.2 := by
  induction ts generalizing i with
  | nil => simp
  | cons x xs ih =>
    obtain ⟨hinit, hmem⟩ := ih (if x.2.1 = 0 then i else min i x.2.2)
    simp only [List.foldl_cons, List.mem_cons, forall_eq_or_imp]
    split at * <;> grind

/-- The exponent of the exact sum is at most that of each term but the zeros. -/
theorem sumExact_exp_le (ts : List (Bool × Nat × Int)) : ∀ t ∈ ts, t.2.1 ≠ 0 → (sumExact ts).2 ≤ t.2.2 := (foldl_min_le ts _).2

/-- The sum over terms scaled to a common exponent. -/
theorem foldl_scaled (e : Int) (ts : List (Bool × Nat × Int)) (hexp : ∀ t ∈ ts, t.2.1 ≠ 0 → e ≤ t.2.2) (a : Int) :
    ((ts.foldl (fun a t => if t.2.1 = 0 then a
      else if t.1 then a - (t.2.1 * 2 ^ (t.2.2 - e).toNat : Nat) else a + (t.2.1 * 2 ^ (t.2.2 - e).toNat : Nat)) a : Int) : ℚ) * 2 ^ e
      = a * 2 ^ e + (ts.map termRat).sum := by
  induction ts generalizing a with
  | nil => simp
  | cons t ts ih =>
    rw [List.foldl_cons, ih (fun x hx => hexp x (List.mem_cons_of_mem _ hx)), List.map_cons, List.sum_cons, ← add_assoc]
    congr 1
    by_cases hzero : t.2.1 = 0
    · cases h : t.1 <;> simp [hzero, termRat, h]
    · have hscale := two_pow_toNat_mul (K := ℚ) (hexp t (List.mem_cons_self ..) hzero)
      cases h : t.1
      · simp only [hzero, termRat, h, if_false, signed_false, Bool.false_eq_true]
        push_cast
        linear_combination (t.2.1 : ℚ) * hscale
      · simp only [hzero, termRat, h, if_true, if_false, signed_true]
        push_cast
        linear_combination -(t.2.1 : ℚ) * hscale

theorem sumExact_eq (ts : List (Bool × Nat × Int)) : ((sumExact ts).1 : ℚ) * 2 ^ (sumExact ts).2 = (ts.map termRat).sum := by
  have hfold := foldl_scaled (sumExact ts).2 ts (sumExact_exp_le ts) 0
  rw [Int.cast_zero, zero_mul, zero_add] at hfold
  exact hfold

theorem sumExact_eq_zero {ts : List (Bool × Nat × Int)} : (sumExact ts).1 = 0 ↔ (ts.map termRat).sum = 0 := by
  rw [← sumExact_eq, mul_eq_zero, Int.cast_eq_zero, or_iff_left (two_zpow_pos _).ne']

theorem sumExact_neg {ts : List (Bool × Nat × Int)} : (sumExact ts).1 < 0 ↔ (ts.map termRat).sum < 0 := by
  simp [← sumExact_eq, mul_neg_iff, two_zpow_pos, (two_zpow_pos _).not_gt]

theorem sumExact_nonpos {ts : List (Bool × Nat × Int)} : (sumExact ts).1 ≤ 0 ↔ (ts.map termRat).sum ≤ 0 := by
  rw [← sumExact_eq, ← not_lt, ← not_lt, mul_pos_iff_of_pos_right (two_zpow_pos _), Int.cast_pos]

/-- An integer with an exponent, as the number of its sign and magnitude. -/
theorem FV.rat_num_int (x e : Int) : (FV.num (decide (x < 0)) x.natAbs e).rat = x * 2 ^ e := by
  by_cases hneg : x < 0
  · have habs : ((x.natAbs : ℤ) : ℚ) = -x := by rw [Int.ofNat_natAbs_of_nonpos hneg.le, Int.cast_neg]
    rw [FV.rat_num, decide_eq_true hneg, signed_true, ← Int.cast_natCast, habs, neg_mul, neg_neg]
  · have habs : ((x.natAbs : ℤ) : ℚ) = x := by rw [Int.natAbs_of_nonneg (not_lt.mp hneg)]
    rw [FV.rat_num, decide_eq_false hneg, signed_false, ← Int.cast_natCast, habs]

/-! ## Sums of numbers -/

variable {f : FFmt} {mode : Rnd} {sat : Bool}

theorem FFmt.roundSum_of_zero {ts : List (Bool × Nat × Int)} (hzero : (ts.map termRat).sum = 0) :
    f.roundSum mode sat ts = ⟨f.signBit (zeroSign mode (ts.map (·.1))), 0⟩ := by
  simp [FFmt.roundSum, sumExact_eq_zero.mpr hzero]

/-- A nonzero sum is one number, which is rounded. -/
theorem FFmt.roundSum_of_ne_zero {ts : List (Bool × Nat × Int)} (hne : (ts.map termRat).sum ≠ 0) :
    ∃ n m e, 0 < m ∧ (FV.num n m e).rat = (ts.map termRat).sum ∧ f.roundSum mode sat ts = f.round mode sat n m e false := by
  have hx : (sumExact ts).1 ≠ 0 := fun h => hne (sumExact_eq_zero.mp h)
  exact ⟨_, _, _, Int.natAbs_pos.mpr hx, (FV.rat_num_int _ _).trans (sumExact_eq ts), by simp [FFmt.roundSum, hx]⟩

theorem FV.isNan_of_finite {v : FV} (h : v.finite = true) : v.isNan = false := by cases v <;> simp_all [FV.finite, FV.isNan]

theorem FV.isInf_of_finite {v : FV} (h : v.finite = true) : v.isInf = false := by cases v <;> simp_all [FV.finite, FV.isInf]

theorem FFmt.sumVals_of_finite {xs : List FV} (hfin : ∀ x ∈ xs, x.finite = true) :
    f.sumVals mode sat xs = f.roundSum mode sat (xs.map FV.term) := by
  have hinf : ∀ x ∈ xs, x.isInf = false := fun x hx => FV.isInf_of_finite (hfin x hx)
  have hopp : opposed xs = false := by
    have : xs.any (fun x => x.isInf && x.neg) = false := List.any_eq_false.mpr fun x hx => by simp [hinf x hx]
    rw [opposed, this, Bool.false_and]
  have hfilter : xs.filter FV.isInf = [] := List.filter_eq_nil_iff.mpr fun x hx => by simp [hinf x hx]
  simp [FFmt.sumVals, hopp, hfilter]

theorem FFmt.sum_of_finite {xs : List FV} (hfin : ∀ x ∈ xs, x.finite = true) :
    f.sum mode sat xs = f.roundSum mode sat (xs.map FV.term) := by
  have hnan : xs.any FV.isNan = false := List.any_eq_false.mpr fun x hx => by simp [FV.isNan_of_finite (hfin x hx)]
  rw [FFmt.sum, hnan, if_neg Bool.false_ne_true, FFmt.sumVals_of_finite hfin]

theorem map_termRat_term (xs : List FV) : (xs.map FV.term).map termRat = xs.map FV.rat := by
  rw [List.map_map]
  exact List.map_congr_left fun x _ => (FV.rat_eq_termRat x).symm

/-- The exact product of two numbers is the number of their product. -/
theorem prodV_of_finite {x y : FV} (hx : x.finite = true) (hy : y.finite = true) :
    ∃ p, prodV x y = some p ∧ p.finite = true ∧ p.rat = x.rat * y.rat ∧ p.neg = xor x.neg y.neg := by
  rcases x with _ | _ | ⟨n, m, e⟩ <;> rcases y with _ | _ | ⟨n', m', e'⟩ <;> simp_all only [FV.finite, Bool.false_eq_true]
  refine ⟨_, rfl, rfl, ?_, rfl⟩
  have hexp : (2 : ℚ) ^ (e + e') = 2 ^ e * 2 ^ e' := zpow_add₀ two_ne_zero e e'
  cases n <;> cases n' <;> simp [FV.rat_num, hexp] <;> ring

theorem FV.fst_term_of_finite {x : FV} (hx : x.finite = true) : x.term.1 = x.neg := by
  cases x <;> simp_all [FV.finite, FV.term, FV.neg]

/-- The exact products of pairs of numbers. -/
def prods (ps : List (FV × FV)) : List FV := ps.flatMap (fun p => (prodV p.1 p.2).toList)

/-- Every pair is a pair of numbers. -/
def PairsFinite (ps : List (FV × FV)) : Prop := ∀ p ∈ ps, p.1.finite = true ∧ p.2.finite = true

theorem finite_of_mem_prods {ps : List (FV × FV)} (hps : PairsFinite ps) : ∀ q ∈ prods ps, q.finite = true := by
  intro q hq
  obtain ⟨p, hp, hmem⟩ := List.mem_flatMap.mp hq
  obtain ⟨r, hr, hfin, -⟩ := prodV_of_finite (hps p hp).1 (hps p hp).2
  rw [hr, Option.toList_some, List.mem_singleton] at hmem
  rwa [hmem]

theorem map_rat_prods {ps : List (FV × FV)} (hps : PairsFinite ps) : (prods ps).map FV.rat = ps.map (fun p => p.1.rat * p.2.rat) := by
  induction ps with
  | nil => rfl
  | cons p ps ih =>
    obtain ⟨r, hr, -, hrat, -⟩ := prodV_of_finite (hps p (List.mem_cons_self ..)).1 (hps p (List.mem_cons_self ..)).2
    have htail := ih fun x hx => hps x (List.mem_cons_of_mem _ hx)
    simp only [prods, List.flatMap_cons, hr, Option.toList_some, List.map_append, List.map_cons, List.map_nil, hrat] at htail ⊢
    rw [htail, List.singleton_append]

/-- Of numbers, `dot` is the sum of the addends and the exact products (R84, R85, R177). -/
theorem FFmt.dot_of_finite {ps : List (FV × FV)} {zs : List FV} (hps : PairsFinite ps) :
    f.dot mode sat ps zs = f.sum mode sat (zs ++ prods ps) := by
  have hnan : ∀ p ∈ ps, (p.1.isNan || p.2.isNan) = false := fun p hp => by
    rw [FV.isNan_of_finite (hps p hp).1, FV.isNan_of_finite (hps p hp).2, Bool.or_false]
  have hsome : ps.any (fun p => !(p.1.isNan || p.2.isNan) && (prodV p.1 p.2).isNone) = false := List.any_eq_false.mpr fun p hp => by
    obtain ⟨q, hq, -⟩ := prodV_of_finite (hps p hp).1 (hps p hp).2
    simp [hq]
  have hflat : ps.flatMap (fun p => if (p.1.isNan || p.2.isNan) = true then [p.1, p.2].filter FV.isNan else (prodV p.1 p.2).toList)
      = prods ps := List.flatMap_congr fun p hp => by
    rw [hnan p hp, if_neg Bool.false_ne_true]
  rw [FFmt.dot, hsome, if_neg Bool.false_ne_true, hflat]

/-- The sum of numbers whose exact sum is zero. -/
theorem FFmt.sum_of_zero {xs : List FV} (hfin : ∀ x ∈ xs, x.finite = true) (hzero : (xs.map FV.rat).sum = 0) :
    f.sum mode sat xs = ⟨f.signBit (zeroSign mode (xs.map FV.neg)), 0⟩ := by
  have hsigns : (xs.map FV.term).map (·.1) = xs.map FV.neg := by
    rw [List.map_map]
    exact List.map_congr_left fun x hx => FV.fst_term_of_finite (hfin x hx)
  rw [FFmt.sum_of_finite hfin, FFmt.roundSum_of_zero (by rw [map_termRat_term, hzero]), hsigns]

/-- The sum of numbers whose exact sum is not zero: the sum is one number, which is rounded. -/
theorem FFmt.sum_of_ne_zero {xs : List FV} (hfin : ∀ x ∈ xs, x.finite = true) (hne : (xs.map FV.rat).sum ≠ 0) :
    ∃ n m e, 0 < m ∧ (FV.num n m e).rat = (xs.map FV.rat).sum ∧ f.sum mode sat xs = f.round mode sat n m e false := by
  rw [FFmt.sum_of_finite hfin]
  rw [← map_termRat_term] at hne ⊢
  exact FFmt.roundSum_of_ne_zero hne

end Sys2Proof.Machine
end

section
/-! PROOFS. Rounding to an integer in each mode (R76): what the decision of `roundUp` and `roundAt` make of a value, exact or with a
part below one unit of its significand. -/

namespace Sys2Proof.Machine

variable {K : Type} [Field K] [LinearOrder K] [IsStrictOrderedRing K] [FloorRing K]

/-- The integer i is x rounded in a mode: to the nearest with ties to even, towards zero, down or up. -/
def RoundsInt (mode : Rnd) (x : K) (i : ℤ) : Prop :=
  match mode with
  | .rne => |x - i| ≤ 1 / 2 ∧ (|x - i| = 1 / 2 → i % 2 = 0)
  | .rtz => i = if x < 0 then ⌈x⌉ else ⌊x⌋
  | .rdn => i = ⌊x⌋
  | .rup => i = ⌈x⌉

section
variable {mode : Rnd} {x y : K} {i n : ℤ}

theorem roundsInt_intCast (mode : Rnd) (n : ℤ) : RoundsInt mode (n : K) n := by cases mode <;> simp [RoundsInt]

/-- Rounding passes over no integer upwards. -/
theorem RoundsInt.le_of_le (hi : RoundsInt mode x i) (hn : x ≤ n) : i ≤ n := by
  cases mode with
  | rne =>
    by_contra! hlt
    have hstep : (n : K) + 1 ≤ i := by exact_mod_cast hlt
    linarith [(abs_le.mp hi.1).1]
  | rtz =>
    change i = if x < 0 then ⌈x⌉ else ⌊x⌋ at hi
    split at hi
    · exact hi ▸ Int.ceil_le.mpr hn
    · exact hi ▸ (Int.floor_le_ceil x).trans (Int.ceil_le.mpr hn)
  | rdn => exact (show i = ⌊x⌋ from hi) ▸ (Int.floor_le_ceil x).trans (Int.ceil_le.mpr hn)
  | rup => exact (show i = ⌈x⌉ from hi) ▸ Int.ceil_le.mpr hn

/-- Rounding passes over no integer downwards. -/
theorem RoundsInt.ge_of_ge (hi : RoundsInt mode x i) (hn : (n : K) ≤ x) : n ≤ i := by
  cases mode with
  | rne =>
    by_contra! hlt
    have hstep : (i : K) + 1 ≤ n := by exact_mod_cast hlt
    linarith [(abs_le.mp hi.1).2]
  | rtz =>
    change i = if x < 0 then ⌈x⌉ else ⌊x⌋ at hi
    split at hi
    · exact hi ▸ (Int.le_floor.mpr hn).trans (Int.floor_le_ceil x)
    · exact hi ▸ Int.le_floor.mpr hn
  | rdn => exact (show i = ⌊x⌋ from hi) ▸ Int.le_floor.mpr hn
  | rup => exact (show i = ⌈x⌉ from hi) ▸ (Int.le_floor.mpr hn).trans (Int.floor_le_ceil x)

theorem RoundsInt.abs_sub_lt_one (hi : RoundsInt mode x i) : |(i : K) - x| < 1 := by
  have hfloor : |(⌊x⌋ : K) - x| < 1 := abs_lt.mpr ⟨by linarith [Int.lt_floor_add_one x], by linarith [Int.floor_le x]⟩
  have hceil : |(⌈x⌉ : K) - x| < 1 := abs_lt.mpr ⟨by linarith [Int.le_ceil x], by linarith [Int.ceil_lt_add_one x]⟩
  cases mode with
  | rne => exact (abs_sub_comm (i : K) x ▸ hi.1).trans_lt (by norm_num)
  | rtz =>
    change i = if x < 0 then ⌈x⌉ else ⌊x⌋ at hi
    split at hi <;> rw [hi] <;> assumption
  | rdn => rwa [show i = ⌊x⌋ from hi]
  | rup => rwa [show i = ⌈x⌉ from hi]

/-- No integer is nearer than the one rounded to, and one as near leaves it even. -/
theorem RoundsInt.nearest (hi : RoundsInt .rne x i) (k : ℤ) : |i - x| ≤ |k - x| ∧ (k ≠ i → |i - x| = |k - x| → i % 2 = 0) := by
  obtain ⟨hhalf, heven⟩ := hi
  rw [abs_sub_comm] at hhalf heven
  by_cases hk : k = i
  · exact ⟨hk ▸ le_rfl, fun h => absurd hk h⟩
  · have hstep : (1 : K) ≤ |(k : K) - i| := by
      have hint : 1 ≤ |k - i| := Int.one_le_abs (sub_ne_zero.mpr hk)
      exact_mod_cast hint
    have htri : |(k : K) - i| ≤ |k - x| + |i - x| := by
      rw [abs_sub_comm (i : K) x]
      exact abs_sub_le _ _ _
    exact ⟨by linarith, fun _ heq => heven (by linarith)⟩

/-- Between two neighbouring multiples of one half, every value rounds alike. -/
theorem RoundsInt.of_half_unit {h : ℤ} (hx : (h : K) / 2 < x ∧ x < (h + 1) / 2) (hy : (h : K) / 2 < y ∧ y < (h + 1) / 2)
    (hi : RoundsInt mode x i) : RoundsInt mode y i := by
  have lower : ∀ j : ℤ, (j : K) ≤ 2 * x → (j : K) < 2 * y := fun j hj => by
    have hle : j < h + 1 := by exact_mod_cast (show (j : K) < h + 1 by linarith)
    have hcast : (j : K) ≤ h := by exact_mod_cast Int.lt_add_one_iff.mp hle
    linarith
  have upper : ∀ j : ℤ, 2 * x ≤ (j : K) → 2 * y < (j : K) := fun j hj => by
    have hle : h < j := by exact_mod_cast (show (h : K) < j by linarith)
    have hcast : (h : K) + 1 ≤ j := by exact_mod_cast hle
    linarith
  have floor : i = ⌊x⌋ → i = ⌊y⌋ := by
    rintro rfl
    have hlow := lower (2 * ⌊x⌋) (by push_cast; linarith [Int.floor_le x])
    have hup := upper (2 * (⌊x⌋ + 1)) (by push_cast; linarith [Int.lt_floor_add_one x])
    push_cast at hlow hup
    exact (Int.floor_eq_iff.mpr ⟨by linarith, by linarith⟩).symm
  have ceil : i = ⌈x⌉ → i = ⌈y⌉ := by
    rintro rfl
    have hlow := lower (2 * (⌈x⌉ - 1)) (by push_cast; linarith [Int.ceil_lt_add_one x])
    have hup := upper (2 * ⌈x⌉) (by push_cast; linarith [Int.le_ceil x])
    push_cast at hlow hup
    exact (Int.ceil_eq_iff.mpr ⟨by linarith, by linarith⟩).symm
  cases mode with
  | rne =>
    obtain ⟨hlow, hup⟩ := abs_le.mp hi.1
    have hlow' := upper (2 * i + 1) (by push_cast; linarith)
    have hup' := lower (2 * i - 1) (by push_cast; linarith)
    push_cast at hlow' hup'
    have hlt : |y - i| < 1 / 2 := abs_lt.mpr ⟨by linarith, by linarith⟩
    exact ⟨hlt.le, fun heq => absurd heq hlt.ne⟩
  | rtz =>
    have hsign : x < 0 ↔ y < 0 := by
      constructor
      · intro hneg
        have hup := upper 0 (by push_cast; linarith)
        push_cast at hup
        linarith
      · intro hneg
        by_contra! hpos
        have hlow := lower 0 (by push_cast; linarith)
        push_cast at hlow
        linarith
    change i = if x < 0 then ⌈x⌉ else ⌊x⌋ at hi
    change i = if y < 0 then ⌈y⌉ else ⌊y⌋
    by_cases hneg : x < 0
    · rw [if_pos hneg] at hi
      rw [if_pos (hsign.mp hneg)]
      exact ceil hi
    · rw [if_neg hneg] at hi
      rw [if_neg (mt hsign.mpr hneg)]
      exact floor hi
  | rdn => exact floor hi
  | rup => exact ceil hi

omit [IsStrictOrderedRing K] in
theorem RoundsInt.neg_rne (hi : RoundsInt .rne x i) : RoundsInt .rne (-x) (-i) := by
  obtain ⟨hhalf, heven⟩ := hi
  have hflip : |-x - (-i : ℤ)| = |x - i| := by
    rw [Int.cast_neg, ← neg_sub', abs_neg]
  exact ⟨hflip ▸ hhalf, fun h => by have := heven (hflip ▸ h); omega⟩

end

/-! ## The decision to round up -/

theorem roundUp_zero (mode : Rnd) (neg : Bool) (t k : Nat) : roundUp mode neg t 0 k = false := by
  have hne : 0 ≠ 2 ^ k := (Nat.two_pow_pos k).ne
  cases mode <;> simp [roundUp, hne]

/-- The fraction ρ stands to 0, to one half and to 1 as the remainder r to 0, to half of 2^k and to 2^k. -/
structure RemainderOf (ρ : K) (r k : Nat) : Prop where
  nonneg : 0 ≤ ρ
  lt_one : ρ < 1
  zero : ρ = 0 ↔ r = 0
  half : 1 / 2 < ρ ↔ 2 ^ k < 2 * r
  tie : ρ = 1 / 2 ↔ 2 * r = 2 ^ k

theorem remainderOf_mod (man d : Nat) : RemainderOf (((man % 2 ^ d : Nat) : K) / 2 ^ d) (man % 2 ^ d) d := by
  have hpos : (0 : K) < 2 ^ d := by positivity
  refine ⟨by positivity, ?_, by simp, ?_, ?_⟩
  · rw [div_lt_one hpos]
    exact_mod_cast Nat.mod_lt man (Nat.two_pow_pos d)
  · rw [lt_div_iff₀ hpos, one_div, inv_mul_lt_iff₀ two_pos]
    exact_mod_cast Iff.rfl
  · rw [div_eq_iff hpos.ne', one_div, eq_inv_mul_iff_mul_eq₀ two_ne_zero]
    exact_mod_cast Iff.rfl

/-- A value below one quarter, cut short at any remainder that is below one quarter too. -/
theorem remainderOf_small {man k d : Nat} (hk : 4 * man < 2 ^ k) (hd : 4 * man < 2 ^ d) : RemainderOf ((man : K) / 2 ^ d) man k := by
  have hquarter : 4 * ((man : K) / 2 ^ d) < 1 := by
    rw [← mul_div_assoc, div_lt_one (by positivity)]
    exact_mod_cast hd
  exact ⟨by positivity, by linarith, by simp, ⟨fun h => by linarith, fun h => by omega⟩, ⟨fun h => by linarith, fun h => by omega⟩⟩

section
variable {mode : Rnd} {neg : Bool} {t r k : Nat} {ρ : K} (hρ : RemainderOf ρ r k)
include hρ

theorem floor_natCast_add : ⌊(t : K) + ρ⌋ = t := Int.floor_eq_iff.mpr ⟨by simpa using hρ.nonneg, by simpa using hρ.lt_one⟩

theorem ceil_natCast_add : ⌈(t : K) + ρ⌉ = if r = 0 then (t : ℤ) else t + 1 := by
  split
  next hr => rw [hρ.zero.mpr hr, add_zero, Int.ceil_natCast]
  next hr =>
    have hpos : 0 < ρ := lt_of_le_of_ne hρ.nonneg fun h => hr (hρ.zero.mp h.symm)
    exact Int.ceil_eq_iff.mpr ⟨by push_cast; linarith, by push_cast; linarith [hρ.lt_one]⟩

theorem roundsInt_stay (hle : ρ ≤ 1 / 2) (heven : ρ = 1 / 2 → (t : ℤ) % 2 = 0) : RoundsInt .rne ((t : K) + ρ) t := by
  have habs : |(t : K) + ρ - (t : ℤ)| = ρ := by simp [abs_of_nonneg hρ.nonneg]
  exact ⟨habs.trans_le hle, fun h => heven (habs.symm.trans h)⟩

theorem roundsInt_next (hge : 1 / 2 ≤ ρ) (heven : ρ = 1 / 2 → (t + 1 : ℤ) % 2 = 0) : RoundsInt .rne ((t : K) + ρ) (t + 1) := by
  have habs : |(t : K) + ρ - (t + 1 : ℤ)| = 1 - ρ := by
    rw [abs_sub_comm, abs_of_nonneg (by push_cast; linarith [hρ.lt_one])]
    push_cast
    ring
  exact ⟨by rw [habs]; linarith, fun h => heven (by rw [habs] at h; linarith)⟩

theorem roundsInt_roundUp_rne : RoundsInt .rne ((t : K) + ρ) ((if roundUp .rne neg t r k then t + 1 else t : Nat) : ℤ) := by
  rcases lt_trichotomy ρ (1 / 2) with hcmp | hcmp | hcmp
  · have hno : roundUp .rne neg t r k = false := by
      have hlow : ¬2 ^ k < 2 * r := mt hρ.half.mpr hcmp.not_gt
      have hne : 2 * r ≠ 2 ^ k := mt hρ.tie.mpr hcmp.ne
      simp [roundUp, hlow, hne]
    rw [hno, if_neg Bool.false_ne_true]
    exact roundsInt_stay hρ hcmp.le fun h => absurd h hcmp.ne
  · have htied : 2 * r = 2 ^ k := hρ.tie.mp hcmp
    by_cases hodd : t % 2 = 1
    · have hyes : roundUp .rne neg t r k = true := by simp [roundUp, htied, hodd]
      rw [hyes, if_pos rfl, Nat.cast_succ]
      exact roundsInt_next hρ hcmp.ge fun _ => by omega
    · have hno : roundUp .rne neg t r k = false := by simp [roundUp, htied, hodd]
      rw [hno, if_neg Bool.false_ne_true]
      exact roundsInt_stay hρ hcmp.le fun _ => by omega
  · have hyes : roundUp .rne neg t r k = true := by simp [roundUp, hρ.half.mp hcmp]
    rw [hyes, if_pos rfl, Nat.cast_succ]
    exact roundsInt_next hρ hcmp.le fun h => absurd h hcmp.ne'

/-- The magnitude t + ρ with a sign is rounded by the decision on the remainder r that ρ stands for. -/
theorem roundsInt_roundUp :
    RoundsInt mode (signed neg ((t : K) + ρ)) (signed neg ((if roundUp mode neg t r k then t + 1 else t : Nat) : ℤ)) := by
  have hfloor := floor_natCast_add (t := t) hρ
  have hceil := ceil_natCast_add (t := t) hρ
  have hsum : (0 : K) ≤ t + ρ := add_nonneg (Nat.cast_nonneg t) hρ.nonneg
  cases mode with
  | rne =>
    cases neg
    · exact roundsInt_roundUp_rne hρ
    · exact (roundsInt_roundUp_rne hρ).neg_rne
  | rtz =>
    cases neg
    · simp [RoundsInt, roundUp, hsum.not_gt, hfloor]
    · by_cases hpos : 0 < (t : K) + ρ
      · simp [RoundsInt, roundUp, hpos, Int.ceil_neg, hfloor, -neg_add_rev]
      · have hall : (t : K) + ρ = 0 := le_antisymm (not_lt.mp hpos) hsum
        have ht : (t : ℤ) = 0 := by rw [← hfloor, hall, Int.floor_zero]
        simp [RoundsInt, roundUp, hall, ht, -neg_add_rev]
  | rdn =>
    cases neg
    · simp [RoundsInt, roundUp, hfloor]
    · by_cases hr : r = 0 <;> simp [RoundsInt, roundUp, Int.floor_neg, hceil, hr, -neg_add_rev]
  | rup =>
    cases neg
    · by_cases hr : r = 0 <;> simp [RoundsInt, roundUp, hceil, hr]
    · simp [RoundsInt, roundUp, Int.ceil_neg, hfloor, -neg_add_rev]

end

/-! ## `roundAt` -/

theorem bitLen_eq_iff {n b : Nat} (hn : 0 < n) : bitLen n = b + 1 ↔ 2 ^ b ≤ n ∧ n < 2 ^ (b + 1) := by
  rw [bitLen, if_neg hn.ne', Nat.add_right_cancel_iff, Nat.log2_eq_iff hn.ne']

theorem bitLen_pos {n : Nat} (hn : 0 < n) : 0 < bitLen n := by simp [bitLen, hn.ne']

theorem lt_two_pow_bitLen (n : Nat) : n < 2 ^ bitLen n := by
  rcases Nat.eq_zero_or_pos n with rfl | hn
  · simp [bitLen]
  · obtain ⟨b, hb⟩ := Nat.exists_eq_add_of_lt (bitLen_pos hn)
    rw [zero_add] at hb
    exact hb ▸ ((bitLen_eq_iff hn).mp hb).2

theorem two_pow_bitLen_le {n : Nat} (hn : 0 < n) : 2 ^ (bitLen n - 1) ≤ n := by
  obtain ⟨b, hb⟩ := Nat.exists_eq_add_of_lt (bitLen_pos hn)
  rw [zero_add] at hb
  rw [hb]
  exact ((bitLen_eq_iff hn).mp hb).1

/-- Where `roundAt` cuts: the value is the quotient and a fraction that the remainder stands for. -/
theorem roundAt_of_lt {mode : Rnd} {neg : Bool} {man : Nat} {exp q : ℤ} (hq : exp < q) : ∃ (k : Nat) (ρ : K),
    (man : K) * 2 ^ (exp - q) = (man / 2 ^ k : Nat) + ρ ∧ RemainderOf ρ (man % 2 ^ k) k ∧ roundAt mode neg man exp q
      = (if roundUp mode neg (man / 2 ^ k) (man % 2 ^ k) k then man / 2 ^ k + 1 else man / 2 ^ k, man % 2 ^ k != 0) := by
  obtain ⟨d, hd⟩ : ∃ d : Nat, q - exp = d := ⟨(q - exp).toNat, by omega⟩
  have hscale : (man : K) * 2 ^ (exp - q) = man / 2 ^ d := by
    rw [← neg_sub, hd, zpow_neg, zpow_natCast, div_eq_mul_inv]
  refine ⟨min d (bitLen man + 2), ?_⟩
  simp only [roundAt, if_neg hq.not_ge, hd, Int.toNat_natCast, and_true]
  rcases min_cases d (bitLen man + 2) with ⟨hmin, -⟩ | ⟨hmin, hcut⟩
  · have hdiv : (man : K) = 2 ^ d * (man / 2 ^ d : Nat) + (man % 2 ^ d : Nat) := by exact_mod_cast (Nat.div_add_mod man (2 ^ d)).symm
    rw [hmin]
    refine ⟨_, ?_, remainderOf_mod man d⟩
    rw [hscale, div_eq_iff (by positivity)]
    nth_rewrite 1 [hdiv]
    field_simp
  · have hsmall : 4 * man < 2 ^ (bitLen man + 2) := by have := lt_two_pow_bitLen man; rw [pow_add]; omega
    rw [hmin, Nat.mod_eq_of_lt (by omega), Nat.div_eq_of_lt (by omega)]
    exact ⟨_, by rw [hscale, Nat.cast_zero, zero_add],
      remainderOf_small hsmall (hsmall.trans (Nat.pow_lt_pow_right one_lt_two hcut))⟩

/-- `roundAt` gives the value in units of 2^q rounded to an integer, and says whether it differs. -/
theorem roundAt_spec (mode : Rnd) (neg : Bool) (man : Nat) (exp q : ℤ) :
    RoundsInt mode (signed neg ((man : K) * 2 ^ (exp - q))) (signed neg ((roundAt mode neg man exp q).1 : ℤ))
      ∧ ((roundAt mode neg man exp q).2 = true ↔ ((roundAt mode neg man exp q).1 : K) ≠ man * 2 ^ (exp - q)) := by
  by_cases hq : q ≤ exp
  · have hval : (man : K) * 2 ^ (exp - q) = ((man * 2 ^ (exp - q).toNat : Nat) : K) := by
      push_cast
      rw [← zpow_natCast, Int.toNat_of_nonneg (by omega)]
    simp only [roundAt, if_pos hq, hval, ne_eq, not_true_eq_false, Bool.false_eq_true, and_true, iff_self]
    generalize man * 2 ^ (exp - q).toNat = j
    cases neg
    · simpa using roundsInt_intCast (K := K) mode j
    · simpa using roundsInt_intCast (K := K) mode (-j)
  · obtain ⟨k, ρ, hval, hρ, hround⟩ := roundAt_of_lt (K := K) (mode := mode) (neg := neg) (man := man) (not_le.mp hq)
    rw [hround, hval]
    refine ⟨roundsInt_roundUp hρ, ?_⟩
    rw [bne_iff_ne]
    by_cases hr : man % 2 ^ k = 0
    · simp [hr, hρ.zero.mpr hr, roundUp_zero]
    · refine ⟨fun _ heq => hr (hρ.zero.mp ?_), fun _ => hr⟩
      split at heq
      · push_cast at heq
        linarith [hρ.lt_one]
      · linarith

/-- The value x, in units of the significand, that a significand stands for: with `sticky` one strictly inside the unit above it. -/
def Stands (man : Nat) (sticky : Bool) (x : K) : Prop := if sticky then (man : K) < x ∧ x < man + 1 else x = man

/-- The significand that `round` forms, in units of 2^(exp − 2). -/
def withSticky (man : Nat) (sticky : Bool) : Nat := man * 4 + (if sticky then 1 else 0)

omit [IsStrictOrderedRing K] in
/-- In units of 2^(exp − 2), the significand with its sticky bit is the value of a significand with one quarter of a unit. -/
theorem withSticky_mul (man : Nat) (sticky : Bool) (exp q : ℤ) :
    ((withSticky man sticky : Nat) : K) * 2 ^ (exp - 2 - q) = (man + (if sticky then 1 / 4 else 0)) * 2 ^ (exp - q) := by
  rw [show exp - 2 - q = exp - q - 2 by ring, zpow_sub₀ two_ne_zero]
  cases sticky <;> simp only [withSticky, Bool.false_eq_true, if_false, if_true] <;> push_cast <;> ring

/-- With a unit of at least 2, the values strictly inside a unit of the significand lie between two neighbouring multiples of one half. -/
theorem exists_half_unit (man : Nat) {exp q : ℤ} (hq : exp + 1 ≤ q) : ∃ h : ℤ, ∀ y : K, (man : K) < y → y < man + 1 →
    (h : K) / 2 < y * 2 ^ (exp - q) ∧ y * 2 ^ (exp - q) < (h + 1) / 2 := by
  obtain ⟨d, hd⟩ : ∃ d : Nat, q - (exp + 1) = d := ⟨(q - (exp + 1)).toNat, by omega⟩
  have hscale : (2 : K) ^ (exp - q) = (2 * 2 ^ d)⁻¹ := by
    rw [show exp - q = -((d + 1 : Nat) : ℤ) by push_cast; omega, zpow_neg, zpow_natCast, pow_succ']
  have hfloor : ((man / 2 ^ d : Nat) : K) * 2 ^ d ≤ man := by exact_mod_cast Nat.div_mul_le_self man (2 ^ d)
  have hceil : (man : K) + 1 ≤ ((man / 2 ^ d : Nat) + 1) * 2 ^ d := by
    exact_mod_cast Nat.lt_mul_of_div_lt (Nat.lt_succ_self _) (Nat.two_pow_pos d)
  refine ⟨(man / 2 ^ d : Nat), fun y hy hy' => ?_⟩
  rw [hscale, ← div_eq_mul_inv, Int.cast_natCast, div_lt_div_iff₀ two_pos (by positivity), div_lt_div_iff₀ (by positivity) two_pos]
  constructor <;> nlinarith

/-- `roundAt` of a significand with a sticky bit rounds the value for which it stands, if the unit of the result is at least 2 units of the
significand. -/
theorem roundAt_withSticky {mode : Rnd} {neg : Bool} {man : Nat} {sticky : Bool} {exp q : ℤ} {x : K} (hx : Stands man sticky x)
    (hq : sticky = true → exp + 1 ≤ q) :
    RoundsInt mode (signed neg (x * 2 ^ (exp - q))) (signed neg ((roundAt mode neg (withSticky man sticky) (exp - 2) q).1 : ℤ)) := by
  have hspec := (roundAt_spec (K := K) mode neg (withSticky man sticky) (exp - 2) q).1
  rw [withSticky_mul] at hspec
  cases sticky with
  | false =>
    obtain rfl : x = man := hx
    simpa using hspec
  | true =>
    obtain ⟨hlow, hup⟩ : (man : K) < x ∧ x < man + 1 := hx
    obtain ⟨h, hinside⟩ := exists_half_unit (K := K) man (hq rfl)
    obtain ⟨hfrom, hfrom'⟩ := hinside (man + 1 / 4) (by linarith) (by linarith)
    obtain ⟨hto, hto'⟩ := hinside x hlow hup
    rw [if_pos rfl] at hspec
    cases neg with
    | false => exact hspec.of_half_unit ⟨hfrom, hfrom'⟩ ⟨hto, hto'⟩
    | true =>
      refine hspec.of_half_unit (h := -h - 1) ?_ ?_
      all_goals
        simp only [signed_true]
        push_cast
        constructor <;> linarith

end Sys2Proof.Machine
end

section
/-! PROOFS. The numbers of a format (R64): what its encodings decode to, the grid on which they lie, and that rounding to the grid is
rounding to the format (R76). -/

namespace Sys2Proof.Machine

/-! ## Formats -/

/-- A format with at least 2 fraction bits and 3 exponent bits, as all of Table 3-1 are. -/
structure FFmt.Regular (f : FFmt) : Prop where
  frac : 2 ≤ f.m
  expo : 3 ≤ f.e

theorem fmtOf_regular (t : Ty) : (fmtOf t).Regular := by
  cases t <;> exact ⟨Nat.le_of_ble_eq_true rfl, Nat.le_of_ble_eq_true rfl⟩

/-- The exponent of the unit of a subnormal. -/
def FFmt.qMin (f : FFmt) : Int := f.emin - (f.m : Int)

/-- The exponent of the unit in which a value of 2^top to 2^(top + 1) is rounded. -/
def FFmt.quantum (f : FFmt) (top : Int) : Int := max (top - (f.m : Int)) f.qMin

section
variable {f : FFmt}

theorem FFmt.eMax_succ (f : FFmt) : f.eMax + 1 = 2 ^ f.e := Nat.sub_add_cancel (Nat.two_pow_pos _)

section
variable (hf : f.Regular)
include hf

theorem FFmt.eMax_eq : f.eMax = 2 * f.bias + 1 := by
  have hpow : 2 ^ f.e = 2 * 2 ^ (f.e - 1) := by rw [← pow_succ', Nat.sub_add_cancel (by have := hf.expo; omega)]
  have hpos := Nat.two_pow_pos (f.e - 1)
  simp only [FFmt.eMax, FFmt.bias]
  omega

theorem FFmt.three_le_bias : 3 ≤ f.bias := by
  have hpow : 2 ^ 2 ≤ 2 ^ (f.e - 1) := Nat.pow_le_pow_right two_pos (by have := hf.expo; omega)
  simp only [FFmt.bias]
  omega

theorem FFmt.maxExp_eq : f.maxExp = f.qMin + (if f.noInf then 2 * f.bias else 2 * f.bias - 1 : Int) := by
  simp only [FFmt.maxExp, FFmt.qMin, FFmt.emin, FFmt.eMax_eq hf]
  split <;> push_cast <;> ring

theorem FFmt.qMin_lt_maxExp : f.qMin < f.maxExp := by
  have hbias := FFmt.three_le_bias hf
  rw [FFmt.maxExp_eq hf]
  split <;> omega

theorem FFmt.one_le_maxExp_add : 1 ≤ f.maxExp + f.m := by
  have hbias := FFmt.three_le_bias hf
  simp only [FFmt.maxExp_eq hf, FFmt.qMin, FFmt.emin]
  split <;> omega

theorem FFmt.qMin_neg : f.qMin < 0 := by
  have hbias := FFmt.three_le_bias hf
  simp only [FFmt.qMin, FFmt.emin]
  omega

theorem FFmt.two_pow_le_maxMan : 2 ^ f.m ≤ f.maxMan := by
  have hpos : 2 ≤ 2 ^ f.m := Nat.le_self_pow (by have := hf.frac; omega) 2
  simp only [FFmt.maxMan, pow_succ]
  split <;> omega

theorem FFmt.two_pow_even : 2 ^ f.m % 2 = 0 := Nat.even_iff.mp (even_two.pow_of_ne_zero (by have := hf.frac; omega))

end

theorem FFmt.maxMan_lt (f : FFmt) : f.maxMan < 2 ^ (f.m + 1) := by
  have hpos := Nat.two_pow_pos (f.m + 1)
  simp only [FFmt.maxMan]
  split <;> omega

/-! ## Decoding -/

/-- The value of an encoding given by its fields (Table 3-1). -/
theorem FFmt.dec_fields (f : FFmt) (n : Bool) {ex fr : Nat} (hex : ex < 2 ^ f.e) (hfr : fr < 2 ^ f.m) :
    f.dec (f.signBit n + (ex * 2 ^ f.m + fr)) =
      if ex = 0 then .num n fr f.qMin
      else if ex = f.eMax ∧ (!f.noInf ∨ fr = 2 ^ f.m - 1) then
        if fr = 0 then .inf n else .nan (!f.noInf && fieldOf fr (f.m - 1) 1 == 0)
      else .num n (fr + 2 ^ f.m) ((ex : Int) - f.bias - f.m) := by
  obtain ⟨s, hs, hsign, hn⟩ : ∃ s < 2, f.signBit n = 2 ^ f.m * (2 ^ f.e * s) ∧ (s == 1) = n := by
    cases n
    · exact ⟨0, by decide, by simp [FFmt.signBit], rfl⟩
    · exact ⟨1, by decide, by simp [FFmt.signBit, pow_add, mul_comm], rfl⟩
  have hbits : f.signBit n + (ex * 2 ^ f.m + fr) = 2 ^ f.m * (2 ^ f.e * s + ex) + fr := by rw [hsign]; ring
  have hfrac : (f.signBit n + (ex * 2 ^ f.m + fr)) % 2 ^ f.m = fr := by rw [hbits, Nat.mul_add_mod, Nat.mod_eq_of_lt hfr]
  have hhigh : (f.signBit n + (ex * 2 ^ f.m + fr)) / 2 ^ f.m = 2 ^ f.e * s + ex := by
    rw [hbits, Nat.mul_add_div (Nat.two_pow_pos _), Nat.div_eq_of_lt hfr, add_zero]
  have hexp : fieldOf (f.signBit n + (ex * 2 ^ f.m + fr)) f.m f.e = ex := by 
    rw [fieldOf, hhigh, Nat.mul_add_mod, Nat.mod_eq_of_lt hex]
  have htop : fieldOf (f.signBit n + (ex * 2 ^ f.m + fr)) (f.e + f.m) 1 = s := by
    rw [fieldOf, add_comm f.e, pow_add, ← Nat.div_div_eq_div_mul, hhigh, Nat.mul_add_div (Nat.two_pow_pos _), Nat.div_eq_of_lt hex]
    omega
  simp only [FFmt.dec, hfrac, hexp, htop, hn, FFmt.qMin]

/-- What the significand and the exponent of a decoded number may be. -/
theorem FFmt.dec_num (hf : f.Regular) {b m : Nat} {n : Bool} {e : Int} (hdec : f.dec b = .num n m e) :
    m < 2 ^ (f.m + 1) ∧ f.qMin ≤ e ∧ e ≤ f.maxExp ∧ (m = 0 → e = f.qMin) := by
  have hfrac : b % 2 ^ f.m < 2 ^ f.m := Nat.mod_lt _ (Nat.two_pow_pos _)
  have hexp : fieldOf b f.m f.e < 2 ^ f.e := Nat.mod_lt _ (Nat.two_pow_pos _)
  have hmax := FFmt.eMax_succ f
  simp only [FFmt.dec] at hdec
  split at hdec
  next =>
    injection hdec with _ hm he
    exact ⟨by rw [pow_succ]; omega, he.le, he.ge.trans (FFmt.qMin_lt_maxExp hf).le, fun _ => he.symm⟩
  next hzero =>
    split at hdec
    next => split at hdec <;> exact absurd hdec (by simp)
    next hspecial =>
      injection hdec with _ hm he
      refine ⟨by rw [pow_succ]; omega, ?_, ?_, fun h => by have := Nat.two_pow_pos f.m; omega⟩
      · simp only [FFmt.qMin, FFmt.emin]
        omega
      · have hlt : f.noInf = false → fieldOf b f.m f.e ≠ f.eMax := fun hinf heq => hspecial ⟨heq, .inl (by simp [hinf])⟩
        rw [← he, FFmt.maxExp]
        cases hinf : f.noInf
        · have := hlt hinf
          simp only [Bool.false_eq_true, if_false]
          omega
        · simp only [if_true]
          omega

/-- The encoding of N × 2^q with a sign. -/
def FFmt.encode (f : FFmt) (n : Bool) (N : Nat) (q : Int) : Nat :=
  f.signBit n + (if N < 2 ^ f.m then N else (q - f.qMin).toNat * 2 ^ f.m + N)

/-- A canonical significand up to that of M decodes as it was encoded. -/
theorem FFmt.dec_encode (hf : f.Regular) (n : Bool) {N : Nat} {q : Int} (hN : N < 2 ^ (f.m + 1)) (hq : f.qMin ≤ q)
    (hnorm : 2 ^ f.m ≤ N ∨ q = f.qMin) (hmax : q < f.maxExp ∨ q = f.maxExp ∧ N ≤ f.maxMan) : f.dec (f.encode n N q) = .num n N q := by
  have hsucc := FFmt.eMax_succ f
  have hbias := FFmt.eMax_eq hf
  rw [FFmt.maxExp_eq hf] at hmax
  by_cases hsub : N < 2 ^ f.m
  · obtain rfl : q = f.qMin := hnorm.resolve_left hsub.not_ge
    have hfields := f.dec_fields n (Nat.two_pow_pos f.e) hsub
    rw [zero_mul, zero_add, if_pos rfl] at hfields
    rw [FFmt.encode, if_pos hsub, hfields]
  · obtain ⟨j, hj⟩ : ∃ j : Nat, q - f.qMin = j := ⟨(q - f.qMin).toNat, by omega⟩
    rw [pow_succ] at hN
    have hbits : (q - f.qMin).toNat * 2 ^ f.m + N = (j + 1) * 2 ^ f.m + (N - 2 ^ f.m) := by
      rw [hj, Int.toNat_natCast, add_mul, one_mul, add_assoc, Nat.add_sub_cancel' (not_lt.mp hsub)]
    have hrange : j + 1 < f.eMax ∨ j + 1 = f.eMax ∧ f.noInf = true ∧ N ≤ f.maxMan := by
      cases hinf : f.noInf <;>
        simp only [hinf, if_true, if_false, Bool.false_eq_true, true_and, false_and, and_false, or_false] at hmax ⊢ <;> omega
    have hordinary : ¬(j + 1 = f.eMax ∧ (!f.noInf ∨ N - 2 ^ f.m = 2 ^ f.m - 1)) := by
      rintro ⟨heq, hor⟩
      obtain ⟨-, hinf, hle⟩ := hrange.resolve_left (by omega)
      simp only [FFmt.maxMan, hinf, if_true, pow_succ, Bool.not_true, Bool.false_eq_true, false_or] at hle hor
      have := Nat.two_pow_pos f.m
      omega
    rw [FFmt.encode, if_neg hsub, hbits, f.dec_fields n (by omega) (by omega), if_neg (Nat.succ_ne_zero j), if_neg hordinary,
      Nat.sub_add_cancel (by omega)]
    congr 1
    simp only [FFmt.qMin, FFmt.emin] at hj
    push_cast
    omega

/-- A significand rounded up to the next power of two is that of the next exponent, with the same encoding. -/
theorem FFmt.encode_two_pow (n : Bool) {q : Int} (hq : f.qMin ≤ q) : f.encode n (2 ^ (f.m + 1)) q = f.encode n (2 ^ f.m) (q + 1) := by
  have hpow : ¬2 ^ (f.m + 1) < 2 ^ f.m := (Nat.pow_le_pow_right two_pos (Nat.le_succ _)).not_gt
  have hnext : (q + 1 - f.qMin).toNat = (q - f.qMin).toNat + 1 := by omega
  rw [FFmt.encode, FFmt.encode, if_neg hpow, if_neg (lt_irrefl _), hnext]
  ring

/-- A canonical significand, or one rounded up to the next power of two, is encoded as a number of its value. -/
theorem FFmt.exists_dec_encode (hf : f.Regular) (n : Bool) {N : Nat} {q : Int} (hN : N ≤ 2 ^ (f.m + 1)) (hqmin : f.qMin ≤ q)
    (hqmax : q ≤ f.maxExp) (hnorm : 2 ^ f.m ≤ N ∨ q = f.qMin) (hmax : q = f.maxExp → N ≤ f.maxMan) : ∃ k g,
    f.dec (f.encode n N q) = .num n k g ∧ (k : ℚ) * 2 ^ g = N * 2 ^ q ∧ (N % 2 = 0 → k % 2 = 0) := by
  rcases hN.lt_or_eq with hlt | rfl
  · exact ⟨N, q, FFmt.dec_encode hf n hlt hqmin hnorm (hqmax.lt_or_eq.imp_right fun h => ⟨h, hmax h⟩), rfl, id⟩
  · have hqlt : q < f.maxExp := hqmax.lt_of_ne fun h => absurd (hmax h) (not_le.mpr f.maxMan_lt)
    have hsucc : q + 1 < f.maxExp ∨ q + 1 = f.maxExp ∧ 2 ^ f.m ≤ f.maxMan :=
      (Int.add_one_le_iff.mpr hqlt).lt_or_eq.imp_right fun h => ⟨h, FFmt.two_pow_le_maxMan hf⟩
    refine ⟨2 ^ f.m, q + 1, ?_, ?_, fun _ => FFmt.two_pow_even hf⟩
    · rw [FFmt.encode_two_pow n hqmin]
      exact FFmt.dec_encode hf n (Nat.pow_lt_pow_right one_lt_two (Nat.lt_succ_self _)) (by omega) (.inl le_rfl) hsucc
    · rw [zpow_add_one₀ two_ne_zero]
      push_cast
      ring

end

/-! ## The grid -/

/-- The number i × 2^e with an i of m + 1 bits and an exponent of the format or above. -/
def FFmt.OnGrid (f : FFmt) (z : ℚ) : Prop := ∃ i e : ℤ, z = i * 2 ^ e ∧ |i| < 2 ^ (f.m + 1) ∧ f.qMin ≤ e

section
variable {f : FFmt} {z : ℚ}

theorem FFmt.Has.onGrid (hf : f.Regular) (hz : f.Has z) : f.OnGrid z := by
  obtain ⟨b, n, m, e, hdec, rfl⟩ := hz
  obtain ⟨hm, he, -, -⟩ := FFmt.dec_num hf hdec
  have hlt : ((m : ℤ)) < 2 ^ (f.m + 1) := by exact_mod_cast hm
  cases n
  · exact ⟨m, e, by simp [FV.rat_num], by rwa [Nat.abs_cast], he⟩
  · exact ⟨-m, e, by simp [FV.rat_num], by rwa [abs_neg, Nat.abs_cast], he⟩

theorem FFmt.OnGrid.neg (hz : f.OnGrid z) : f.OnGrid (-z) := by
  obtain ⟨i, e, rfl, hi, he⟩ := hz
  exact ⟨-i, e, by push_cast; ring, by rwa [abs_neg], he⟩

theorem FFmt.OnGrid.abs (hz : f.OnGrid z) : f.OnGrid |z| := by
  rcases abs_choice z with h | h <;> rw [h]
  exacts [hz, hz.neg]

variable {K : Type} [Field K] [LinearOrder K] [IsStrictOrderedRing K] [FloorRing K] {v w : K} {l : ℤ} {i : ℤ}

omit [FloorRing K] in
/-- Between a number of the grid and a value v of 2^l or more lies a multiple of the unit in which v is rounded. -/
theorem FFmt.OnGrid.exists_between (hz : f.OnGrid z) (hl : 2 ^ l ≤ |v|) : ∃ k : ℤ, (k : K) * 2 ^ f.quantum l ∈ Set.uIcc (z : K) v := by
  obtain ⟨i, e, rfl, hi, he⟩ := hz
  by_cases hq : f.quantum l ≤ e
  · refine ⟨i * 2 ^ (e - f.quantum l).toNat, ?_⟩
    have heq : ((i * 2 ^ (e - f.quantum l).toNat : ℤ) : K) * 2 ^ f.quantum l = ((i * 2 ^ e : ℚ) : K) := by
      push_cast
      rw [mul_assoc, two_pow_toNat_mul hq]
    exact heq ▸ Set.left_mem_uIcc
  · -- the number lies below 2^l, which is a multiple of the unit
    have hunit : f.quantum l = l - f.m := max_eq_left (by simp only [FFmt.quantum] at hq; omega)
    have hpow : ((2 ^ f.m : ℤ) : K) * 2 ^ f.quantum l = 2 ^ l := by
      push_cast
      rw [hunit, ← zpow_natCast, ← zpow_add₀ two_ne_zero, add_sub_cancel]
    have hsmall : |((i * 2 ^ e : ℚ) : K)| < 2 ^ l := by
      have hcast : |(i : K)| < 2 ^ (f.m + 1) := by exact_mod_cast hi
      push_cast
      rw [abs_mul, abs_of_pos (two_zpow_pos (K := K) e)]
      calc |(i : K)| * 2 ^ e < 2 ^ (f.m + 1) * 2 ^ e := mul_lt_mul_of_pos_right hcast (two_zpow_pos e)
        _ = 2 ^ ((f.m + 1 : Nat) + e) := by rw [zpow_add₀ two_ne_zero, zpow_natCast]
        _ ≤ 2 ^ l := zpow_le_zpow_right₀ one_le_two (by omega)
    obtain ⟨hlow, hup⟩ := abs_lt.mp hsmall
    rcases le_abs'.mp hl with hv | hv
    · refine ⟨-2 ^ f.m, Set.mem_uIcc.mpr (.inr ?_)⟩
      rw [Int.cast_neg, neg_mul, hpow]
      exact ⟨hv, hlow.le⟩
    · refine ⟨2 ^ f.m, Set.mem_uIcc.mpr (.inl ?_)⟩
      rw [hpow]
      exact ⟨hup.le, hv⟩

/-- The value y is v rounded to the format in a mode, with `even` where another number is as near. -/
def FFmt.RoundsTo (f : FFmt) (mode : Rnd) (v y : K) (even : Prop) : Prop :=
  match mode with
  | .rne => ∀ z : ℚ, f.Has z → |y - v| ≤ |z - v| ∧ ((z : K) ≠ y → |y - v| = |z - v| → even)
  | .rtz => |y| ≤ |v| ∧ ∀ z : ℚ, f.Has z → |(z : K)| ≤ |v| → |(z : K)| ≤ |y|
  | .rdn => y ≤ v ∧ ∀ z : ℚ, f.Has z → (z : K) ≤ v → (z : K) ≤ y
  | .rup => v ≤ y ∧ ∀ z : ℚ, f.Has z → v ≤ z → y ≤ z

section
variable (hl : 2 ^ l ≤ |v|) (hv : v = w * 2 ^ f.quantum l)
include hl hv

theorem FFmt.OnGrid.le_floor (hz : f.OnGrid z) (hle : (z : K) ≤ v) : (z : K) ≤ ⌊w⌋ * 2 ^ f.quantum l := by
  obtain ⟨k, hk⟩ := hz.exists_between hl
  rw [Set.uIcc_of_le hle] at hk
  refine hk.1.trans (mul_le_mul_of_nonneg_right ?_ (two_zpow_pos _).le)
  exact_mod_cast Int.le_floor.mpr (le_of_mul_le_mul_right (hk.2.trans_eq hv) (two_zpow_pos _))

theorem FFmt.OnGrid.ceil_le (hz : f.OnGrid z) (hle : v ≤ z) : (⌈w⌉ : K) * 2 ^ f.quantum l ≤ z := by
  obtain ⟨k, hk⟩ := hz.exists_between hl
  rw [Set.uIcc_of_ge hle] at hk
  refine le_trans (mul_le_mul_of_nonneg_right ?_ (two_zpow_pos _).le) hk.2
  exact_mod_cast Int.ceil_le.mpr (le_of_mul_le_mul_right (hv.symm.trans_le hk.1) (two_zpow_pos _))

omit hl in
theorem floor_mul_le : (⌊w⌋ : K) * 2 ^ f.quantum l ≤ v :=
  (mul_le_mul_of_nonneg_right (Int.floor_le w) (two_zpow_pos _).le).trans_eq hv.symm

omit hl in
theorem le_ceil_mul : v ≤ (⌈w⌉ : K) * 2 ^ f.quantum l :=
  hv.trans_le (mul_le_mul_of_nonneg_right (Int.le_ceil w) (two_zpow_pos _).le)

theorem FFmt.OnGrid.nearest (hi : RoundsInt .rne w i) (hz : f.OnGrid z) : |(i : K) * 2 ^ f.quantum l - v| ≤ |z - v|
    ∧ ((z : K) ≠ i * 2 ^ f.quantum l → |(i : K) * 2 ^ f.quantum l - v| = |z - v| → i % 2 = 0) := by
  obtain ⟨k, hk⟩ := hz.exists_between hl
  obtain ⟨hnear, heven⟩ := hi.nearest k
  have hscale : ∀ j : ℤ, |(j : K) * 2 ^ f.quantum l - v| = |j - w| * 2 ^ f.quantum l := fun j => by
    rw [hv, ← sub_mul, abs_mul, abs_of_pos (two_zpow_pos (K := K) _)]
  have hki : |(i : K) * 2 ^ f.quantum l - v| ≤ |k * 2 ^ f.quantum l - v| := by
    rw [hscale, hscale]
    exact mul_le_mul_of_nonneg_right hnear (two_zpow_pos _).le
  have hkz : |(k : K) * 2 ^ f.quantum l - v| ≤ |z - v| := by
    rw [abs_sub_comm, abs_sub_comm (z : K)]
    exact Set.abs_sub_right_of_mem_uIcc hk
  refine ⟨hki.trans hkz, fun hne htie => heven ?_ ?_⟩
  · rintro rfl
    refine hne ?_
    rcases Set.mem_uIcc.mp hk with ⟨h1, h2⟩ | ⟨h1, h2⟩
    · rw [abs_of_nonpos (by linarith), abs_of_nonpos (by linarith)] at htie
      linarith
    · rw [abs_of_nonneg (by linarith), abs_of_nonneg (by linarith)] at htie
      linarith
  · have heq := le_antisymm hki (hkz.trans_eq htie.symm)
    rw [hscale, hscale] at heq
    exact mul_right_cancel₀ (two_zpow_pos _).ne' heq

/-- Rounded to a multiple of its unit, a value is rounded to the format. -/
theorem FFmt.roundsTo_of_roundsInt (hf : f.Regular) {mode : Rnd} (hi : RoundsInt mode w i) :
    f.RoundsTo mode v (i * 2 ^ f.quantum l) (i % 2 = 0) := by
  have hpos : (0 : K) < 2 ^ f.quantum l := two_zpow_pos _
  cases mode with
  | rne => exact fun z hz => (hz.onGrid hf).nearest hl hv hi
  | rdn =>
    obtain rfl : i = ⌊w⌋ := hi
    exact ⟨floor_mul_le hv, fun z hz => (hz.onGrid hf).le_floor hl hv⟩
  | rup =>
    obtain rfl : i = ⌈w⌉ := hi
    exact ⟨le_ceil_mul hv, fun z hz => (hz.onGrid hf).ceil_le hl hv⟩
  | rtz =>
    change i = if w < 0 then ⌈w⌉ else ⌊w⌋ at hi
    split at hi
    next hneg =>
      have hvneg : v < 0 := hv ▸ mul_neg_of_neg_of_pos hneg hpos
      have hle : v ≤ i * 2 ^ f.quantum l := hi ▸ le_ceil_mul hv
      have hnonpos : (i : K) * 2 ^ f.quantum l ≤ 0 := by
        refine mul_nonpos_of_nonpos_of_nonneg ?_ hpos.le
        exact_mod_cast hi.trans_le (Int.ceil_le.mpr (by exact_mod_cast hneg.le))
      simp only [FFmt.RoundsTo, abs_of_neg hvneg, abs_of_nonpos hnonpos]
      refine ⟨neg_le_neg hle, fun z hz hzv => ?_⟩
      have hceil := (hz.onGrid hf).abs.neg.ceil_le hl hv (by push_cast; linarith)
      rw [← hi] at hceil
      push_cast at hceil
      linarith
    next hnonneg =>
      have hvnonneg : 0 ≤ v := hv ▸ mul_nonneg (not_lt.mp hnonneg) hpos.le
      have hle : i * 2 ^ f.quantum l ≤ v := hi ▸ floor_mul_le hv
      have hipos : (0 : K) ≤ i * 2 ^ f.quantum l := by
        refine mul_nonneg ?_ hpos.le
        exact_mod_cast (Int.floor_nonneg.mpr (not_lt.mp hnonneg)).trans_eq hi.symm
      simp only [FFmt.RoundsTo, abs_of_nonneg hvnonneg, abs_of_nonneg hipos]
      refine ⟨hle, fun z hz hzv => ?_⟩
      have hfloor := (hz.onGrid hf).abs.le_floor hl hv (by push_cast; exact hzv)
      rw [← hi] at hfloor
      push_cast at hfloor
      exact hfloor

end

end

end Sys2Proof.Machine
end

section
/-! PROOFS. `round` of R76: within M it rounds the value for which its significand stands, with the flags of R77; a unit or more beyond M
it gives the entry of Table 3-6. -/

namespace Sys2Proof.Machine

/-! ## The two outcomes of `round` -/

/-- The exponent of the leading bit of a significand of value man × 2^exp. -/
def topExp (man : Nat) (exp : Int) : Int := (bitLen man : Int) - 1 + exp

/-- What `round` delivers in units of 2^q, and whether it differs. -/
def roundMan (mode : Rnd) (neg : Bool) (man : Nat) (exp : Int) (sticky : Bool) (q : Int) : Nat × Bool :=
  roundAt mode neg (withSticky man sticky) (exp - 2) q

/-- What `round` delivers within M: the value rounded in its unit. -/
def FFmt.delivered (f : FFmt) (mode : Rnd) (neg : Bool) (man : Nat) (exp : Int) (sticky : Bool) : Nat × Bool :=
  roundMan mode neg man exp sticky (f.quantum (topExp man exp))

/-- Rounded to unbounded range, the magnitude exceeds M. -/
def FFmt.Beyond (f : FFmt) (mode : Rnd) (neg : Bool) (man : Nat) (exp : Int) (sticky : Bool) : Prop :=
  f.maxExp < topExp man exp - f.m
    ∨ topExp man exp - f.m = f.maxExp ∧ f.maxMan < (roundMan mode neg man exp sticky (topExp man exp - f.m)).1

section
variable {f : FFmt} {mode : Rnd} {sat neg sticky : Bool} {man : Nat} {exp : Int}

theorem bitLen_withSticky (hman : 0 < man) : bitLen (withSticky man sticky) = bitLen man + 2 := by
  have hlow := two_pow_bitLen_le hman
  have hup := lt_two_pow_bitLen man
  have hpow : 2 ^ bitLen man = 2 * 2 ^ (bitLen man - 1) := by rw [← pow_succ', Nat.sub_add_cancel (bitLen_pos hman)]
  refine (bitLen_eq_iff (by simp only [withSticky]; omega)).mpr ?_
  simp only [pow_succ, withSticky]
  split <;> omega

theorem topExp_withSticky (hman : 0 < man) : (bitLen (withSticky man sticky) : Int) - 1 + (exp - 2) = topExp man exp := by
  rw [bitLen_withSticky hman, topExp]
  push_cast
  ring

theorem FFmt.round_of_beyond (hman : 0 < man) (hbeyond : f.Beyond mode neg man exp sticky) :
    f.round mode sat neg man exp sticky = ⟨f.overflow mode sat neg, flOF ||| flNX⟩ := by
  rw [FFmt.Beyond, ← topExp_withSticky (sticky := sticky) hman] at hbeyond
  refine if_pos ?_
  rw [Bool.or_eq_true, Bool.and_eq_true, decide_eq_true_iff, decide_eq_true_iff, beq_iff_eq]
  exact hbeyond

/-- Within the range the delivered significand is encoded, with NX where it differs and UF at most below the smallest normal. -/
theorem FFmt.round_of_not_beyond (hman : 0 < man) (hwithin : ¬f.Beyond mode neg man exp sticky) :
    ∃ tiny : Bool, (tiny = true → topExp man exp < f.emin) ∧ f.round mode sat neg man exp sticky =
      ⟨f.encode neg (f.delivered mode neg man exp sticky).1 (f.quantum (topExp man exp)),
        flIf (f.delivered mode neg man exp sticky).2 flNX
          ||| flIf ((f.delivered mode neg man exp sticky).2 && tiny) flUF⟩ := by
  rw [FFmt.Beyond] at hwithin
  simp only [FFmt.delivered, ← topExp_withSticky (sticky := sticky) hman] at hwithin ⊢
  refine ⟨_, fun htiny => ?_, if_neg ?_⟩
  rotate_left
  · rw [Bool.or_eq_true, Bool.and_eq_true, decide_eq_true_iff, decide_eq_true_iff, beq_iff_eq]
    exact hwithin
  · have hlow := of_decide_eq_true (Bool.and_eq_true_iff.mp htiny).1
    simp only [withSticky] at *
    omega

end

/-! ## Bounds -/

section
variable {K : Type} [Field K] [LinearOrder K] [IsStrictOrderedRing K] [FloorRing K] {f : FFmt} {mode : Rnd} {sat neg sticky : Bool}
  {man : Nat} {exp q : Int} {x : K}

omit [IsStrictOrderedRing K] [FloorRing K] in
theorem stands_of_sticky (hexact : sticky = false → x = man) (hinside : sticky = true → (man : K) < x ∧ x < man + 1) :
    Stands man sticky x := by
  cases sticky
  exacts [hexact rfl, hinside rfl]

omit [IsStrictOrderedRing K] [FloorRing K] in
theorem Stands.le (hx : Stands man sticky x) : (man : K) ≤ x := by
  cases sticky
  · exact (show x = man from hx).ge
  · exact (show (man : K) < x ∧ _ from hx).1.le

omit [FloorRing K] in
theorem Stands.lt (hx : Stands man sticky x) : x < man + 1 := by
  cases sticky
  · exact (show x = man from hx) ▸ lt_add_one _
  · exact (show _ ∧ x < (man : K) + 1 from hx).2

omit [FloorRing K] in
theorem Stands.two_zpow_topExp_le (hman : 0 < man) (hx : Stands man sticky x) : 2 ^ topExp man exp ≤ x * 2 ^ exp := by
  have hcast : (2 : K) ^ (bitLen man - 1) ≤ man := by exact_mod_cast two_pow_bitLen_le hman
  have hsplit : (2 : K) ^ topExp man exp = 2 ^ (bitLen man - 1) * 2 ^ exp := by
    rw [topExp, zpow_add₀ two_ne_zero, ← zpow_natCast, Nat.cast_sub (bitLen_pos hman), Nat.cast_one]
  rw [hsplit]
  exact mul_le_mul_of_nonneg_right (hcast.trans hx.le) (two_zpow_pos _).le

omit [FloorRing K] in
theorem Stands.lt_two_zpow_topExp (hx : Stands man sticky x) : x * 2 ^ exp < 2 ^ (topExp man exp + 1) := by
  have hcast : (man : K) + 1 ≤ 2 ^ bitLen man := by exact_mod_cast lt_two_pow_bitLen man
  have hsplit : (2 : K) ^ (topExp man exp + 1) = 2 ^ bitLen man * 2 ^ exp := by
    rw [topExp, ← zpow_natCast, ← zpow_add₀ two_ne_zero]
    congr 1
    ring
  rw [hsplit]
  exact mul_lt_mul_of_pos_right (hx.lt.trans_le hcast) (two_zpow_pos _)

omit [IsStrictOrderedRing K] [FloorRing K] [LinearOrder K] in
theorem mul_zpow_sub_mul [CharZero K] (x : K) (exp q : Int) : x * 2 ^ exp = x * 2 ^ (exp - q) * 2 ^ q := by
  rw [mul_assoc, ← zpow_add₀ two_ne_zero, sub_add_cancel]

theorem RoundsInt.nat_le {r n : Nat} {w : K} (h : RoundsInt mode (signed neg w) (signed neg (r : ℤ))) (hw : w ≤ n) : r ≤ n := by
  cases neg
  · exact Int.ofNat_le.mp (RoundsInt.le_of_le (n := n) h (by rwa [Int.cast_natCast]))
  · have := RoundsInt.ge_of_ge (n := -n) h (by push_cast; exact neg_le_neg hw)
    rw [signed_true] at this
    omega

theorem RoundsInt.le_nat {r n : Nat} {w : K} (h : RoundsInt mode (signed neg w) (signed neg (r : ℤ))) (hw : n ≤ w) : n ≤ r := by
  cases neg
  · exact Int.ofNat_le.mp (RoundsInt.ge_of_ge (n := n) h (by rwa [Int.cast_natCast]))
  · have := RoundsInt.le_of_le (n := -n) h (by push_cast; exact neg_le_neg hw)
    rw [signed_true] at this
    omega

section
variable (hman : 0 < man) (hx : Stands man sticky x) (hbits : sticky = true → f.m + 2 ≤ bitLen man)
include hx hbits

/-- In a unit of the format or above, `round` rounds the value for which its significand stands. -/
theorem roundMan_roundsInt (hq : topExp man exp - f.m ≤ q) :
    RoundsInt mode (signed neg (x * 2 ^ (exp - q))) (signed neg ((roundMan mode neg man exp sticky q).1 : ℤ)) :=
  roundAt_withSticky hx fun h => by have := hbits h; simp only [topExp] at hq; omega

theorem roundMan_le {n : Nat} (hq : topExp man exp - f.m ≤ q) (hn : x * 2 ^ exp ≤ n * 2 ^ q) :
    (roundMan mode neg man exp sticky q).1 ≤ n := by
  rw [mul_zpow_sub_mul x exp q] at hn
  exact (roundMan_roundsInt hx hbits hq).nat_le (le_of_mul_le_mul_right hn (two_zpow_pos _))

theorem le_roundMan {n : Nat} (hq : topExp man exp - f.m ≤ q) (hn : n * 2 ^ q ≤ x * 2 ^ exp) :
    n ≤ (roundMan mode neg man exp sticky q).1 := by
  rw [mul_zpow_sub_mul x exp q] at hn
  exact (roundMan_roundsInt hx hbits hq).le_nat (le_of_mul_le_mul_right hn (two_zpow_pos _))

theorem delivered_roundsInt : RoundsInt mode (signed neg (x * 2 ^ (exp - f.quantum (topExp man exp))))
    (signed neg ((f.delivered mode neg man exp sticky).1 : ℤ)) :=
  roundMan_roundsInt hx hbits (le_max_left _ _)

theorem delivered_le_two_pow : (f.delivered mode neg man exp sticky).1 ≤ 2 ^ (f.m + 1) := by
  refine roundMan_le hx hbits (le_max_left _ _) (hx.lt_two_zpow_topExp.le.trans ?_)
  rw [Nat.cast_pow, Nat.cast_ofNat, ← zpow_natCast, ← zpow_add₀ two_ne_zero]
  refine zpow_le_zpow_right₀ one_le_two ?_
  have : topExp man exp - f.m ≤ f.quantum (topExp man exp) := le_max_left _ _
  push_cast
  omega

theorem delivered_le_maxMan (hle : x * 2 ^ exp ≤ (f.maxRat : K)) (hq : f.quantum (topExp man exp) = f.maxExp) :
    (f.delivered mode neg man exp sticky).1 ≤ f.maxMan := by
  refine roundMan_le hx hbits (le_max_left _ _) ?_
  rw [hq]
  simpa [FFmt.maxRat] using hle

include hman

omit [FloorRing K] hbits in
theorem topExp_le_of_le_maxRat (hle : x * 2 ^ exp ≤ (f.maxRat : K)) : topExp man exp - f.m ≤ f.maxExp := by
  have hlow := (hx.two_zpow_topExp_le (exp := exp) hman).trans hle
  have hmax : ((f.maxMan : Nat) : K) < 2 ^ (f.m + 1) := by exact_mod_cast f.maxMan_lt
  have hlt : (2 : K) ^ topExp man exp < 2 ^ ((f.m + 1 : Nat) + f.maxExp) := by
    rw [zpow_add₀ two_ne_zero, zpow_natCast]
    refine hlow.trans_lt ?_
    rw [FFmt.maxRat]
    push_cast
    exact mul_lt_mul_of_pos_right hmax (two_zpow_pos _)
  have := (zpow_lt_zpow_iff_right₀ one_lt_two).mp hlt
  omega

theorem not_beyond_of_le_maxRat (hle : x * 2 ^ exp ≤ (f.maxRat : K)) : ¬f.Beyond mode neg man exp sticky := by
  rintro (hexp | ⟨hexp, hover⟩)
  · exact absurd (topExp_le_of_le_maxRat hman hx hle) (not_le.mpr hexp)
  · refine absurd (roundMan_le hx hbits le_rfl ?_) (not_le.mpr hover)
    rw [hexp]
    simpa [FFmt.maxRat] using hle

omit hman in
/-- A value of a unit or more beyond M is beyond it however it is rounded. -/
theorem beyond_of_maxRat_lt (hf : f.Regular) (hge : (f.maxRat : K) + 2 ^ f.maxExp ≤ x * 2 ^ exp) :
    f.Beyond mode neg man exp sticky := by
  have hunit : ((f.maxMan + 1 : Nat) : K) * 2 ^ f.maxExp ≤ x * 2 ^ exp := by
    refine le_trans (le_of_eq ?_) hge
    rw [FFmt.maxRat]
    push_cast
    ring
  have htop : (2 : K) ^ ((f.m : ℤ) + f.maxExp) < 2 ^ (topExp man exp + 1) := by
    refine lt_of_le_of_lt ?_ (hunit.trans_lt hx.lt_two_zpow_topExp)
    rw [zpow_add₀ two_ne_zero, zpow_natCast]
    refine mul_le_mul_of_nonneg_right ?_ (two_zpow_pos _).le
    exact_mod_cast (FFmt.two_pow_le_maxMan hf).trans (Nat.le_succ _)
  have hexp := (zpow_lt_zpow_iff_right₀ one_lt_two).mp htop
  rcases lt_or_eq_of_le (show f.maxExp ≤ topExp man exp - f.m by omega) with hlt | heq
  · exact .inl hlt
  · exact .inr ⟨heq.symm, le_roundMan hx hbits le_rfl (by rw [← heq]; exact hunit)⟩

theorem delivered_normal : 2 ^ f.m ≤ (f.delivered mode neg man exp sticky).1 ∨ f.quantum (topExp man exp) = f.qMin := by
  refine (max_choice (topExp man exp - (f.m : Int)) f.qMin).imp_left fun hq => ?_
  refine le_roundMan hx hbits (le_max_left _ _) (le_trans (le_of_eq ?_) (hx.two_zpow_topExp_le hman))
  rw [show f.quantum (topExp man exp) = topExp man exp - f.m from hq, Nat.cast_pow, Nat.cast_ofNat, ← zpow_natCast,
    ← zpow_add₀ two_ne_zero, add_sub_cancel]

/-- The encoding that `round` delivers within M stands for its rounded significand. -/
theorem exists_dec_delivered (hf : f.Regular) (hle : x * 2 ^ exp ≤ (f.maxRat : K)) : ∃ k g,
    f.dec (f.encode neg (f.delivered mode neg man exp sticky).1 (f.quantum (topExp man exp))) = .num neg k g
      ∧ (k : ℚ) * 2 ^ g = (f.delivered mode neg man exp sticky).1 * 2 ^ f.quantum (topExp man exp)
      ∧ ((f.delivered mode neg man exp sticky).1 % 2 = 0 → k % 2 = 0) :=
  FFmt.exists_dec_encode hf neg (delivered_le_two_pow hx hbits) (le_max_right _ _)
    (max_le (topExp_le_of_le_maxRat hman hx hle) (FFmt.qMin_lt_maxExp hf).le) (delivered_normal hman hx hbits)
    (delivered_le_maxMan hx hbits hle)

end

/-! ## Values -/

omit [IsStrictOrderedRing K] [FloorRing K] in
theorem FFmt.RoundsTo.imp {v y : K} {p p' : Prop} (hp : p → p') (h : f.RoundsTo mode v y p) : f.RoundsTo mode v y p' := by
  cases mode
  · exact fun z hz => ⟨(h z hz).1, fun hne htie => hp ((h z hz).2 hne htie)⟩
  all_goals exact h

omit [LinearOrder K] [IsStrictOrderedRing K] [FloorRing K] in
theorem FV.cast_rat_num [CharZero K] (n : Bool) (m : Nat) (e : Int) : (((FV.num n m e).rat : ℚ) : K) = signed n ((m : K) * 2 ^ e) := by
  cases n <;> simp [FV.rat_num]

theorem signed_emod_two {N : Nat} (h : signed neg (N : ℤ) % 2 = 0) : N % 2 = 0 := by
  cases neg <;> simp only [signed_true, signed_false] at h <;> omega

/-- R76: within M, `round` gives the value rounded to the format, with its sign and at most a unit away from it. -/
theorem FFmt.round_spec (hf : f.Regular) (hman : 0 < man) (hx : Stands man sticky x) (hbits : sticky = true → f.m + 2 ≤ bitLen man)
    (hle : x * 2 ^ exp ≤ (f.maxRat : K)) : ∃ k g, f.dec (f.round mode sat neg man exp sticky).bits = .num neg k g
      ∧ f.RoundsTo mode (signed neg (x * 2 ^ exp)) (((FV.num neg k g).rat : ℚ) : K) (k % 2 = 0)
      ∧ |(((FV.num neg k g).rat : ℚ) : K) - signed neg (x * 2 ^ exp)| ≤ 2 ^ f.quantum (topExp man exp) := by
  obtain ⟨tiny, -, hround⟩ := FFmt.round_of_not_beyond (sat := sat) hman (not_beyond_of_le_maxRat (mode := mode) (neg := neg) hman hx hbits hle)
  obtain ⟨k, g, hdec, hval, heven⟩ := exists_dec_delivered (mode := mode) (neg := neg) hman hx hbits hf hle
  have hint := delivered_roundsInt (mode := mode) (neg := neg) (exp := exp) hx hbits
  have hpos : 0 < x * 2 ^ exp := (two_zpow_pos _).trans_le (hx.two_zpow_topExp_le hman)
  have hlow : 2 ^ topExp man exp ≤ |signed neg (x * 2 ^ exp)| := (hx.two_zpow_topExp_le hman).trans_eq (abs_signed hpos).symm
  generalize (f.delivered mode neg man exp sticky).1 = N at hround hdec hval heven hint
  have hscaled : signed neg (x * 2 ^ exp) = signed neg (x * 2 ^ (exp - f.quantum (topExp man exp))) * 2 ^ f.quantum (topExp man exp) := by
    rw [mul_zpow_sub_mul x exp (f.quantum (topExp man exp))]
    cases neg <;> simp
  have hcast : (((FV.num neg k g).rat : ℚ) : K) = (signed neg (N : ℤ) : ℤ) * 2 ^ f.quantum (topExp man exp) := by
    have hval' : (k : K) * 2 ^ g = N * 2 ^ f.quantum (topExp man exp) := by
      have := congrArg (Rat.cast (K := K)) hval
      push_cast at this
      exact this
    rw [FV.cast_rat_num, hval']
    cases neg <;> simp
  refine ⟨k, g, by rw [hround]; exact hdec, ?_, ?_⟩
  · rw [hcast]
    exact (FFmt.roundsTo_of_roundsInt hlow hscaled hf hint).imp fun h => heven (signed_emod_two h)
  · rw [hcast, hscaled, ← sub_mul, abs_mul, abs_of_pos (two_zpow_pos (K := K) _)]
    exact mul_le_of_le_one_left (two_zpow_pos _).le hint.abs_sub_lt_one.le

end

/-! ## Exact values -/

section
variable {f : FFmt} {mode : Rnd} {sat : Bool} {v : ℚ}

theorem FFmt.rounds_of_roundsTo {b k : Nat} {g : Int} (hdec : f.dec b = .num (decide (v < 0)) k g)
    (h : f.RoundsTo mode v (((FV.num (decide (v < 0)) k g).rat : ℚ) : ℚ) (k % 2 = 0)) : f.Rounds mode v b := by
  refine ⟨k, g, hdec, ?_⟩
  cases mode <;> simpa only [FFmt.RoundsTo, Rat.cast_id] using h

theorem decide_signed_lt_zero {n : Bool} {x : ℚ} (hx : 0 < x) : decide (signed n x < 0) = n := by
  cases n <;> simp [hx, hx.not_gt]

/-- R76: within M, `round` rounds the value for which its significand stands. -/
theorem FFmt.round_rounds (hf : f.Regular) {n sticky : Bool} {m : Nat} {e : Int} {x : ℚ} (hm : 0 < m) (hx : Stands m sticky x)
    (hbits : sticky = true → f.m + 2 ≤ bitLen m) (hle : |signed n (x * 2 ^ e)| ≤ f.maxRat) :
    f.Rounds mode (signed n (x * 2 ^ e)) (f.round mode sat n m e sticky).bits := by
  have hpos : 0 < x * 2 ^ e := (two_zpow_pos _).trans_le (hx.two_zpow_topExp_le hm)
  obtain ⟨k, g, hdec, hto, -⟩ := FFmt.round_spec (mode := mode) (sat := sat) (neg := n) hf hm hx hbits
    (by rw [Rat.cast_id]; exact (abs_signed hpos).symm.trans_le hle)
  refine FFmt.rounds_of_roundsTo (k := k) (g := g) ?_ ?_ <;> rwa [decide_signed_lt_zero hpos]

/-- R76: a number within M is rounded to the format. -/
theorem FFmt.round_num_rounds (hf : f.Regular) {n : Bool} {m : Nat} {e : Int} (hm : 0 < m) (hle : |(FV.num n m e).rat| ≤ f.maxRat) :
    f.Rounds mode (FV.num n m e).rat (f.round mode sat n m e false).bits := by
  rw [FV.rat_num] at hle ⊢
  exact FFmt.round_rounds (sticky := false) hf hm rfl (fun h => absurd h Bool.false_ne_true) hle

theorem getLsbD_flags (inexact tiny : Bool) : (flIf inexact flNX ||| flIf (inexact && tiny) flUF).getLsbD 4 = inexact
    ∧ (flIf inexact flNX ||| flIf (inexact && tiny) flUF).getLsbD 3 = (inexact && tiny)
    ∧ (flIf inexact flNX ||| flIf (inexact && tiny) flUF) &&& 0x27 = 0 := by cases inexact <;> cases tiny <;> decide

/-- R77: within M, NX says that the delivered number differs, UF says so of a value below the smallest normal, and no other flag is raised. -/
theorem FFmt.round_num_flags (hf : f.Regular) {n : Bool} {m : Nat} {e : Int} (hm : 0 < m) (hle : |(FV.num n m e).rat| ≤ f.maxRat) :
    ((f.round mode sat n m e false).fl.getLsbD 4 = true ↔ (f.dec (f.round mode sat n m e false).bits).rat ≠ (FV.num n m e).rat)
      ∧ ((f.round mode sat n m e false).fl.getLsbD 3 = true →
        (f.round mode sat n m e false).fl.getLsbD 4 = true ∧ |(FV.num n m e).rat| < 2 ^ f.emin)
      ∧ (f.round mode sat n m e false).fl &&& 0x27 = 0 := by
  have hx : Stands m false (m : ℚ) := rfl
  have hbits : false = true → f.m + 2 ≤ bitLen m := fun h => absurd h Bool.false_ne_true
  have habs : |(FV.num n m e).rat| = m * 2 ^ e := FV.abs_rat_num n m e
  rw [habs] at hle
  have hcast : (m : ℚ) * 2 ^ e ≤ (Rat.cast f.maxRat : ℚ) := hle.trans_eq (Rat.cast_id _).symm
  obtain ⟨tiny, htiny, hround⟩ := FFmt.round_of_not_beyond (sat := sat) hm (not_beyond_of_le_maxRat (mode := mode) (neg := n) hm hx hbits hcast)
  obtain ⟨k, g, hdec, hval, -⟩ := exists_dec_delivered (mode := mode) (neg := n) hm hx hbits hf hcast
  have hinexact := (roundAt_spec (K := ℚ) mode n (withSticky m false) (e - 2) (f.quantum (topExp m e))).2
  rw [withSticky_mul] at hinexact
  change (f.delivered mode n m e false).2 = true ↔ _ at hinexact
  obtain ⟨hnx, huf, hrest⟩ := getLsbD_flags (f.delivered mode n m e false).2 tiny
  rw [hround, hnx, huf]
  refine ⟨hinexact.trans (not_congr ?_), fun h => ?_, hrest⟩
  · have hinj : ((f.delivered mode n m e false).1 : ℚ) = m * 2 ^ (e - f.quantum (topExp m e))
        ↔ (k : ℚ) * 2 ^ g = m * 2 ^ e := by
      rw [hval, mul_zpow_sub_mul (m : ℚ) e (f.quantum (topExp m e))]
      exact (mul_left_inj' (two_zpow_pos _).ne').symm
    simp only [Bool.false_eq_true, if_false, add_zero]
    refine hinj.trans ?_
    rw [hdec, FV.rat_num, FV.rat_num]
    cases n <;> simp
  · obtain ⟨h1, h2⟩ := Bool.and_eq_true_iff.mp h
    refine ⟨h1, habs.trans_lt (hx.lt_two_zpow_topExp.trans_le ?_)⟩
    exact zpow_le_zpow_right₀ one_le_two (by have := htiny h2; omega)

/-- Table 3-6: a value of a unit or more beyond M. -/
theorem FFmt.round_num_overflow (hf : f.Regular) {n : Bool} {m : Nat} {e : Int} (hm : 0 < m)
    (hge : f.maxRat + 2 ^ f.maxExp ≤ |(FV.num n m e).rat|) : f.round mode sat n m e false = ⟨f.overflow mode sat n, flOF ||| flNX⟩ := by
  rw [FV.abs_rat_num] at hge
  exact FFmt.round_of_beyond hm (beyond_of_maxRat_lt (x := (m : ℚ)) rfl (fun h => absurd h Bool.false_ne_true) hf
    (by rwa [Rat.cast_id]))

theorem FFmt.overflow_eq (f : FFmt) (mode : Rnd) (sat n : Bool) : f.overflow mode sat n =
    if sat = true ∨ mode = .rtz ∨ (mode = .rdn ∧ n = false) ∨ (mode = .rup ∧ n = true) then f.maxFin n
    else if f.noInf = true then f.nan else f.inf n := by
  cases mode <;> cases sat <;> cases n <;> rfl

end

end Sys2Proof.Machine
end

section
/-! PROOFS. The values of sums, products, fused products, quotients and square roots of numbers (R76, R177, R178). -/

namespace Sys2Proof.Machine

variable {f : FFmt} {mode : Rnd} {sat : Bool} {a b c : Nat}

/-! ## Sums and products -/

theorem FFmt.sum_rounds (hf : f.Regular) {xs : List FV} (hfin : ∀ x ∈ xs, x.finite = true) (hne : (xs.map FV.rat).sum ≠ 0)
    (hle : |(xs.map FV.rat).sum| ≤ f.maxRat) : f.Rounds mode (xs.map FV.rat).sum (f.sum mode sat xs).bits := by
  obtain ⟨n, m, e, hm, hval, hsum⟩ := FFmt.sum_of_ne_zero (f := f) (mode := mode) (sat := sat) hfin hne
  rw [← hval] at hle ⊢
  rw [hsum]
  exact FFmt.round_num_rounds hf hm hle

section
variable {x y z : FV} (ha : f.dec (f.flush a) = x) (hb : f.dec (f.flush b) = y) (hx : x.finite = true) (hy : y.finite = true)
include ha hb hx hy

theorem FFmt.add_rounds (hf : f.Regular) (hne : x.rat + y.rat ≠ 0) (hle : |x.rat + y.rat| ≤ f.maxRat) :
    f.Rounds mode (x.rat + y.rat) (f.add mode sat a b).bits := by
  have hrounds := FFmt.sum_rounds (mode := mode) (sat := sat) (xs := [x, y]) hf (by simp [hx, hy])
  simp only [List.map_cons, List.map_nil, List.sum_cons, List.sum_nil, add_zero] at hrounds
  rw [FFmt.add, ha, hb]
  exact hrounds hne hle

theorem FFmt.sub_rounds (hf : f.Regular) (hne : x.rat - y.rat ≠ 0) (hle : |x.rat - y.rat| ≤ f.maxRat) :
    f.Rounds mode (x.rat - y.rat) (f.sub mode sat a b).bits := by
  have hrounds := FFmt.sum_rounds (mode := mode) (sat := sat) (xs := [x, y.negate]) hf (by simp [hx, hy])
  simp only [List.map_cons, List.map_nil, List.sum_cons, List.sum_nil, add_zero, FV.rat_negate, ← sub_eq_add_neg] at hrounds
  rw [FFmt.sub, ha, hb]
  exact hrounds hne hle

/-- The sign of an exact zero sum of two numbers (R76). -/
theorem FFmt.add_of_zero (hzero : x.rat + y.rat = 0) :
    f.add mode sat a b = ⟨f.signBit (if x.neg = y.neg then x.neg else mode == .rdn), 0⟩ := by
  rw [FFmt.add, ha, hb, FFmt.sum_of_zero (by simp [hx, hy]) (by simpa using hzero)]
  simp only [List.map_cons, List.map_nil]
  cases x.neg <;> cases y.neg <;> rfl

/-- A product of numbers is the sum of one term, their exact product (R177). -/
theorem FFmt.mul_of_finite : ∃ p : FV, p.finite = true ∧ p.rat = x.rat * y.rat ∧ p.neg = xor x.neg y.neg
    ∧ f.mul mode sat a b = f.sum mode sat [p] := by
  obtain ⟨p, hp, hfin, hrat, hneg⟩ := prodV_of_finite hx hy
  have hall : ∀ x ∈ [p], x.finite = true := by simpa using hfin
  refine ⟨p, hfin, hrat, hneg, ?_⟩
  simp [FFmt.mul, ha, hb, FV.isNan_of_finite hx, FV.isNan_of_finite hy, hp, FFmt.sum_of_finite hall, FFmt.sumVals_of_finite hall]

theorem FFmt.mul_rounds (hf : f.Regular) (hne : x.rat * y.rat ≠ 0) (hle : |x.rat * y.rat| ≤ f.maxRat) :
    f.Rounds mode (x.rat * y.rat) (f.mul mode sat a b).bits := by
  obtain ⟨p, hfin, hrat, -, hmul⟩ := FFmt.mul_of_finite (mode := mode) (sat := sat) ha hb hx hy
  have hrounds := FFmt.sum_rounds (mode := mode) (sat := sat) (xs := [p]) hf (by simpa using hfin)
  simp only [List.map_cons, List.map_nil, List.sum_cons, List.sum_nil, add_zero, hrat] at hrounds
  exact hmul ▸ hrounds hne hle

theorem FFmt.mul_of_zero (hzero : x.rat * y.rat = 0) : f.mul mode sat a b = ⟨f.signBit (xor x.neg y.neg), 0⟩ := by
  obtain ⟨p, hfin, hrat, hneg, hmul⟩ := FFmt.mul_of_finite (mode := mode) (sat := sat) ha hb hx hy
  rw [hmul, FFmt.sum_of_zero (by simpa using hfin) (by simpa [hrat] using hzero), ← hneg]
  cases h : p.neg <;> simp [zeroSign, h]

theorem FFmt.fma_rounds (hf : f.Regular) (hc : f.dec (f.flush c) = z) (hz : z.finite = true) (hne : x.rat * y.rat + z.rat ≠ 0)
    (hle : |x.rat * y.rat + z.rat| ≤ f.maxRat) : f.Rounds mode (x.rat * y.rat + z.rat) (f.fma mode sat a b c).bits := by
  have hpairs : PairsFinite [(x, y)] := by simp [PairsFinite, hx, hy]
  have hsum : ((z :: prods [(x, y)]).map FV.rat).sum = x.rat * y.rat + z.rat := by
    rw [List.map_cons, List.sum_cons, map_rat_prods hpairs]
    simp [add_comm]
  rw [FFmt.fma, ha, hb, hc, FFmt.dot_of_finite hpairs, ← hsum]
  exact FFmt.sum_rounds hf (by simpa [hz] using finite_of_mem_prods hpairs) (hsum ▸ hne) (hsum ▸ hle)

end

/-! ## Quotients -/

theorem lt_bitLen_of_two_pow_le {n k : Nat} (h : 2 ^ k ≤ n) : k < bitLen n :=
  (Nat.pow_lt_pow_iff_right one_lt_two).mp (h.trans_lt (lt_two_pow_bitLen n))

theorem pos_of_lt_bitLen {n k : Nat} (h : k < bitLen n) : 0 < n :=
  Nat.pos_of_ne_zero fun hn => by simp [hn, bitLen] at h

/-- An integer quotient with its remainder's sticky bit stands for the exact quotient. -/
theorem quotBits_stands {K : Type} [Field K] [LinearOrder K] [IsStrictOrderedRing K] {x y : Nat} (k : Nat) (hy : 0 < y) :
    Stands (quotBits x y k).1 (quotBits x y k).2 ((x : K) * 2 ^ k / y) := by
  have hpos : (0 : K) < y := by exact_mod_cast hy
  have hdiv : (x : K) * 2 ^ k = y * (x * 2 ^ k / y : Nat) + (x * 2 ^ k % y : Nat) := by
    exact_mod_cast (Nat.div_add_mod (x * 2 ^ k) y).symm
  have hmod : ((x * 2 ^ k % y : Nat) : K) < y := by exact_mod_cast Nat.mod_lt _ hy
  refine stands_of_sticky (fun hexact => ?_) fun hsticky => ?_
  · have hzero : x * 2 ^ k % y = 0 := by simpa [quotBits] using hexact
    rw [div_eq_iff hpos.ne', hdiv, hzero, quotBits]
    push_cast
    ring
  · have hne : x * 2 ^ k % y ≠ 0 := by simpa [quotBits] using hsticky
    have hrem : (0 : K) < (x * 2 ^ k % y : Nat) := by exact_mod_cast Nat.pos_of_ne_zero hne
    rw [lt_div_iff₀ hpos, div_lt_iff₀ hpos, quotBits]
    constructor <;> linarith

theorem le_bitLen_quotBits {x y p : Nat} (hx : 0 < x) (hy : 0 < y) : p < bitLen (quotBits x y (bitLen y + p)).1 := by
  refine lt_bitLen_of_two_pow_le ((Nat.le_div_iff_mul_le hy).mpr ?_)
  rw [pow_add, mul_comm (2 ^ p), ← one_mul (y * 2 ^ p)]
  exact Nat.mul_le_mul hx (Nat.mul_le_mul_right _ (lt_two_pow_bitLen y).le)

theorem FFmt.div_rounds (hf : f.Regular) {n n' : Bool} {m m' : Nat} {e e' : Int} (ha : f.dec (f.flush a) = .num n m e)
    (hb : f.dec (f.flush b) = .num n' m' e') (hx : (FV.num n m e).rat ≠ 0) (hy : (FV.num n' m' e').rat ≠ 0)
    (hle : |(FV.num n m e).rat / (FV.num n' m' e').rat| ≤ f.maxRat) :
    f.Rounds mode ((FV.num n m e).rat / (FV.num n' m' e').rat) (f.div mode sat a b).bits := by
  have hm : m ≠ 0 := mt FV.rat_num_eq_zero.mpr hx
  have hm' : m' ≠ 0 := mt FV.rat_num_eq_zero.mpr hy
  have hpos : (m' : ℚ) ≠ 0 := by exact_mod_cast hm'
  have hdiv : f.div mode sat a b = f.round mode sat (xor n n') (quotBits m m' (bitLen m' + f.m + 4)).1
      (e - e' - (bitLen m' + f.m + 4 : Nat)) (quotBits m m' (bitLen m' + f.m + 4)).2 := by
    simp [FFmt.div, ha, hb, FV.isNan, FV.neg, hm, hm']
  have hlong := le_bitLen_quotBits (p := f.m + 4) (Nat.pos_of_ne_zero hm) (Nat.pos_of_ne_zero hm')
  rw [← add_assoc] at hlong
  have hquot : (FV.num n m e).rat / (FV.num n' m' e').rat
      = signed (xor n n') ((m : ℚ) * 2 ^ (bitLen m' + f.m + 4) / m' * 2 ^ (e - e' - (bitLen m' + f.m + 4 : Nat))) := by
    have hscale : (m : ℚ) * 2 ^ (bitLen m' + f.m + 4) / m' * 2 ^ (e - e' - (bitLen m' + f.m + 4 : Nat)) = m * 2 ^ e / (m' * 2 ^ e') := by
      rw [zpow_sub₀ two_ne_zero, zpow_sub₀ two_ne_zero, zpow_natCast]
      field_simp
    rw [FV.rat_num, FV.rat_num, hscale]
    cases n <;> cases n' <;> simp [neg_div, div_neg]
  rw [hdiv, hquot]
  rw [hquot] at hle
  exact FFmt.round_rounds hf (pos_of_lt_bitLen hlong) (quotBits_stands _ (Nat.pos_of_ne_zero hm')) (fun _ => by omega) hle

/-! ## Square roots -/

theorem isqrt_spec {n x r : Nat} (hlow : r * r ≤ x) (hup : x < (r + 2 ^ n) * (r + 2 ^ n)) :
    isqrt n x r * isqrt n x r ≤ x ∧ x < (isqrt n x r + 1) * (isqrt n x r + 1) := by
  induction n generalizing r with
  | zero => exact ⟨hlow, hup⟩
  | succ n ih =>
    rw [isqrt]
    split
    next hle => exact ih hle (by rwa [add_assoc, ← two_mul, ← pow_succ'])
    next hlt => exact ih hlow (not_le.mp hlt)

/-- Bisection over half the bits of x and one more finds its integer square root. -/
theorem isqrt_bitLen (x : Nat) : isqrt (bitLen x / 2 + 1) x 0 * isqrt (bitLen x / 2 + 1) x 0 ≤ x
    ∧ x < (isqrt (bitLen x / 2 + 1) x 0 + 1) * (isqrt (bitLen x / 2 + 1) x 0 + 1) := by
  refine isqrt_spec (Nat.zero_le _) ((lt_two_pow_bitLen x).trans_le ?_)
  rw [zero_add, ← pow_add]
  exact Nat.pow_le_pow_right two_pos (by omega)

/-- The number of bits by which `sqrtBits` scales its operand. -/
theorem exists_sqrtBits_eq (man : Nat) (exp : Int) (bits : Nat) : ∃ k : Nat, 2 * bits ≤ k ∧ (exp - k) % 2 = 0 ∧ sqrtBits man exp bits
    = (isqrt (bitLen (man * 2 ^ k) / 2 + 1) (man * 2 ^ k) 0, (exp - (k : Int)) / 2,
      isqrt (bitLen (man * 2 ^ k) / 2 + 1) (man * 2 ^ k) 0 * isqrt (bitLen (man * 2 ^ k) / 2 + 1) (man * 2 ^ k) 0 != man * 2 ^ k) := by
  by_cases hpar : (exp - (2 * bits : Nat)) % 2 = 0
  · exact ⟨2 * bits, le_rfl, hpar, by simp only [sqrtBits, if_pos hpar]⟩
  · exact ⟨2 * bits + 1, Nat.le_succ _, by push_cast at *; omega, by simp only [sqrtBits, if_neg hpar]⟩

/-- The integer square root of x with its sticky bit stands for √x. -/
theorem sqrt_stands {r x : Nat} (hlow : r * r ≤ x) (hup : x < (r + 1) * (r + 1)) : Stands r (r * r != x) (√(x : ℝ)) := by
  have hnext : √(x : ℝ) < r + 1 := by
    rw [Real.sqrt_lt' (by positivity), pow_two]
    exact_mod_cast hup
  refine stands_of_sticky (fun hexact => ?_) fun hsticky => ⟨Real.lt_sqrt_of_sq_lt ?_, hnext⟩
  · rw [← show r * r = x by simpa using hexact]
    push_cast
    exact Real.sqrt_mul_self (Nat.cast_nonneg r)
  · rw [pow_two]
    exact_mod_cast lt_of_le_of_ne hlow (by simpa using hsticky)

/-- `sqrtBits` stands for the square root of man × 2^exp, in at least the bits that it is asked for. -/
theorem sqrtBits_spec {man : Nat} {exp : Int} {bits : Nat} (hman : 0 < man) : ∃ x : ℝ,
    Stands (sqrtBits man exp bits).1 (sqrtBits man exp bits).2.2 x ∧ x * 2 ^ (sqrtBits man exp bits).2.1 = √((man : ℝ) * 2 ^ exp)
      ∧ bits < bitLen (sqrtBits man exp bits).1 := by
  obtain ⟨k, hk, hpar, heq⟩ := exists_sqrtBits_eq man exp bits
  obtain ⟨hlow, hup⟩ := isqrt_bitLen (man * 2 ^ k)
  rw [heq]
  generalize isqrt (bitLen (man * 2 ^ k) / 2 + 1) (man * 2 ^ k) 0 = r at hlow hup ⊢
  refine ⟨_, sqrt_stands hlow hup, ?_, lt_bitLen_of_two_pow_le ?_⟩
  · obtain ⟨h, hh⟩ : ∃ h : ℤ, exp - k = h + h := ⟨(exp - k) / 2, by omega⟩
    have hexp : (2 : ℝ) ^ exp = 2 ^ k * (2 ^ h * 2 ^ h) := by
      rw [← zpow_natCast, ← zpow_add₀ two_ne_zero, ← zpow_add₀ two_ne_zero, ← hh, add_sub_cancel]
    rw [show (exp - k) / 2 = h by omega, hexp, ← mul_assoc, Real.sqrt_mul (by positivity),
      Real.sqrt_mul_self (two_zpow_pos h).le]
    push_cast
    rfl
  · have hbig : 2 ^ bits * 2 ^ bits < (r + 1) * (r + 1) := by
      refine lt_of_le_of_lt ?_ hup
      calc 2 ^ bits * 2 ^ bits = 1 * 2 ^ (2 * bits) := by rw [one_mul, ← pow_add, two_mul]
        _ ≤ man * 2 ^ k := Nat.mul_le_mul hman (Nat.pow_le_pow_right two_pos hk)
    exact Nat.lt_succ_iff.mp (Nat.mul_self_lt_mul_self_iff.mp hbig)

/-- The square root of a number of the format is within M. -/
theorem sqrt_le_maxRat (hf : f.Regular) {n : Bool} {m : Nat} {e : Int} (ha : f.dec a = .num n m e) :
    √((m : ℝ) * 2 ^ e) ≤ (f.maxRat : ℝ) := by
  obtain ⟨hm, -, he, -⟩ := FFmt.dec_num hf ha
  have hone := FFmt.one_le_maxExp_add hf
  have hpow : (2 : ℝ) ^ (f.maxExp + f.m) ≤ (f.maxRat : ℝ) := by
    rw [add_comm, zpow_add₀ two_ne_zero, zpow_natCast, FFmt.maxRat]
    push_cast
    refine mul_le_mul_of_nonneg_right ?_ (two_zpow_pos _).le
    exact_mod_cast FFmt.two_pow_le_maxMan hf
  refine le_trans (Real.sqrt_le_iff.mpr ⟨(two_zpow_pos (f.maxExp + f.m)).le, ?_⟩) hpow
  calc (m : ℝ) * 2 ^ e ≤ 2 ^ (f.m + 1) * 2 ^ f.maxExp := by
        refine mul_le_mul ?_ (zpow_le_zpow_right₀ one_le_two he) (two_zpow_pos e).le (by positivity)
        exact_mod_cast hm.le
    _ = 2 ^ ((f.m + 1 : Nat) + f.maxExp) := by rw [zpow_add₀ two_ne_zero, zpow_natCast]
    _ ≤ 2 ^ ((f.maxExp + f.m) + (f.maxExp + f.m)) := zpow_le_zpow_right₀ one_le_two (by push_cast; omega)
    _ = (2 ^ (f.maxExp + f.m)) ^ 2 := by rw [zpow_add₀ two_ne_zero, pow_two]

/-- R178: the square root of a positive number is rounded to the format. -/
theorem FFmt.sqrt_roundsTo (hf : f.Regular) {m : Nat} {e : Int} (ha : f.dec (f.flush a) = .num false m e) (hm : 0 < m) : ∃ k g,
    f.dec (f.sqrt mode sat a).bits = .num false k g
      ∧ f.RoundsTo mode (√((m : ℝ) * 2 ^ e)) (((FV.num false k g).rat : ℚ) : ℝ) (k % 2 = 0) := by
  obtain ⟨x, hx, hval, hlong⟩ := sqrtBits_spec (exp := e) (bits := f.m + 4) hm
  have hsqrt : f.sqrt mode sat a = f.round mode sat false (sqrtBits m e (f.m + 4)).1 (sqrtBits m e (f.m + 4)).2.1
      (sqrtBits m e (f.m + 4)).2.2 := by
    simp [FFmt.sqrt, ha, hm.ne']
  obtain ⟨k, g, hdec, hto, -⟩ := FFmt.round_spec (mode := mode) (sat := sat) (neg := false) hf
    (pos_of_lt_bitLen hlong) hx (fun _ => by omega) (hval ▸ sqrt_le_maxRat hf ha)
  exact ⟨k, g, hsqrt ▸ hdec, by rwa [signed_false, hval] at hto⟩

section
variable {x w z : ℚ} (hx : 0 ≤ x) (hw : 0 ≤ w) (hz : 0 ≤ z)
include hx hw hz

/-- Nearest to the square root, in squares: its mean with a greater number is not below the root, and that with a lesser one not above. -/
theorem sq_mean_of_nearest (hnear : |(w : ℝ) - √(x : ℝ)| ≤ |z - √(x : ℝ)|) :
    (w < z → 4 * x ≤ (w + z) ^ 2) ∧ (z < w → (w + z) ^ 2 ≤ 4 * x) := by
  have hx' : (0 : ℝ) ≤ x := by exact_mod_cast hx
  have hw' : (0 : ℝ) ≤ w := by exact_mod_cast hw
  have hz' : (0 : ℝ) ≤ z := by exact_mod_cast hz
  have hroot : (0 : ℝ) ≤ √(x : ℝ) := Real.sqrt_nonneg _
  have hsq : √(x : ℝ) ^ 2 = x := Real.sq_sqrt hx'
  rw [← sq_le_sq] at hnear
  constructor
  · intro hlt
    have hlt' : (w : ℝ) < z := by exact_mod_cast hlt
    have hmean : 2 * √(x : ℝ) ≤ w + z := by nlinarith
    have : (4 * x : ℝ) ≤ (w + z) ^ 2 := by nlinarith
    exact_mod_cast this
  · intro hlt
    have hlt' : (z : ℝ) < w := by exact_mod_cast hlt
    have hmean : w + z ≤ 2 * √(x : ℝ) := by nlinarith
    have : ((w + z) ^ 2 : ℝ) ≤ 4 * x := by nlinarith
    exact_mod_cast this

omit hw in
theorem cast_le_sqrt_iff : (z : ℝ) ≤ √(x : ℝ) ↔ z ^ 2 ≤ x := by
  rw [Real.le_sqrt (by exact_mod_cast hz) (by exact_mod_cast hx)]
  exact_mod_cast Iff.rfl

omit hx hw in
theorem sqrt_le_cast_iff : √(x : ℝ) ≤ z ↔ x ≤ z ^ 2 := by
  rw [Real.sqrt_le_left (by exact_mod_cast hz)]
  exact_mod_cast Iff.rfl

end

/-- R178, in squares: the nearest number of the format to the square root, or the next one in the mode's direction. -/
theorem FFmt.sqrt_rounds (hf : f.Regular) {n : Bool} {m : Nat} {e : Int} (ha : f.dec (f.flush a) = .num n m e)
    (hpos : 0 < (FV.num n m e).rat) : ∃ k g, f.dec (f.sqrt mode sat a).bits = .num false k g
      ∧ (mode = .rne → ∀ z, f.Has z → 0 ≤ z → ((FV.num false k g).rat < z → 4 * (FV.num n m e).rat ≤ ((FV.num false k g).rat + z) ^ 2)
        ∧ (z < (FV.num false k g).rat → ((FV.num false k g).rat + z) ^ 2 ≤ 4 * (FV.num n m e).rat))
      ∧ (mode = .rtz ∨ mode = .rdn → (FV.num false k g).rat ^ 2 ≤ (FV.num n m e).rat
        ∧ ∀ z, f.Has z → 0 ≤ z → z ^ 2 ≤ (FV.num n m e).rat → z ≤ (FV.num false k g).rat)
      ∧ (mode = .rup → (FV.num n m e).rat ≤ (FV.num false k g).rat ^ 2
        ∧ ∀ z, f.Has z → 0 ≤ z → (FV.num n m e).rat ≤ z ^ 2 → (FV.num false k g).rat ≤ z) := by
  have hm : 0 < m := Nat.pos_of_ne_zero fun h => hpos.ne' (FV.rat_num_eq_zero.mpr h)
  have hn : n = false := by
    cases n
    · rfl
    · rw [FV.rat_num, signed_true] at hpos
      linarith [show (0 : ℚ) ≤ m * 2 ^ e by positivity]
  subst hn
  obtain ⟨k, g, hdec, hto⟩ := FFmt.sqrt_roundsTo (mode := mode) (sat := sat) hf ha hm
  have hcast : (m : ℝ) * 2 ^ e = (((FV.num false m e).rat : ℚ) : ℝ) := by rw [FV.cast_rat_num, signed_false]
  have hw : 0 ≤ (FV.num false k g).rat := by
    rw [FV.rat_num, signed_false]
    positivity
  rw [hcast] at hto
  refine ⟨k, g, hdec, ?_, ?_, ?_⟩
  · rintro rfl z hz hz0
    exact sq_mean_of_nearest hpos.le hw hz0 (hto z hz).1
  · intro hmode
    obtain ⟨hle, hbest⟩ : (((FV.num false k g).rat : ℚ) : ℝ) ≤ √(((FV.num false m e).rat : ℚ) : ℝ)
        ∧ ∀ z : ℚ, f.Has z → 0 ≤ z → (z : ℝ) ≤ √(((FV.num false m e).rat : ℚ) : ℝ) → z ≤ (FV.num false k g).rat := by
      rcases hmode with rfl | rfl
      · have hwabs : |(((FV.num false k g).rat : ℚ) : ℝ)| = ((FV.num false k g).rat : ℚ) := abs_of_nonneg (by exact_mod_cast hw)
        simp only [FFmt.RoundsTo, abs_of_nonneg (Real.sqrt_nonneg _), hwabs] at hto
        refine ⟨hto.1, fun z hz hz0 hle => ?_⟩
        have hbest := hto.2 z hz (by rwa [abs_of_nonneg (by exact_mod_cast hz0)])
        exact_mod_cast (le_abs_self _).trans hbest
      · exact ⟨hto.1, fun z hz _ hle => by exact_mod_cast hto.2 z hz hle⟩
    exact ⟨(cast_le_sqrt_iff hpos.le hw).mp hle, fun z hz hz0 hle => hbest z hz hz0 ((cast_le_sqrt_iff hpos.le hz0).mpr hle)⟩
  · rintro rfl
    refine ⟨(sqrt_le_cast_iff hw).mp hto.1, fun z hz hz0 hle => ?_⟩
    exact_mod_cast hto.2 z hz ((sqrt_le_cast_iff hz0).mpr hle)

end Sys2Proof.Machine
end

section
/-! PROOFS. Conversions (R81 to R83, R188, R189), the floating-point `dot4` (R85, R187) and `redux` (R196). -/

namespace Sys2Proof.Machine

/-! ## Integer registers (R67, R135) -/

theorem Ty.bits_of_isInt {t : Ty} (ht : t.isInt = true) : 0 < t.bits ∧ t.bits ≤ 64 := by
  cases t <;> simp_all [Ty.isInt, Ty.bits]

theorem truncTo_modEq (w : Nat) (x : ℤ) : (truncTo w x : ℤ) ≡ x [ZMOD 2 ^ w] := by
  rw [truncTo, Int.toNat_of_nonneg (Int.emod_nonneg _ (by positivity))]
  exact Int.mod_modEq _ _

theorem two_pow_pred_mul_two {w : Nat} (hw : 0 < w) : (2 : ℤ) ^ w = 2 * 2 ^ (w - 1) := by
  rw [← pow_succ', Nat.sub_add_cancel hw]

theorem sintOf_range {w : Nat} (hw : 0 < w) (x : Nat) : -2 ^ (w - 1) ≤ sintOf w x ∧ sintOf w x ≤ 2 ^ (w - 1) - 1 := by
  have hlt : ((x % 2 ^ w : Nat) : ℤ) < 2 ^ w := by exact_mod_cast Nat.mod_lt x (Nat.two_pow_pos w)
  have hpow := two_pow_pred_mul_two hw
  simp only [sintOf]
  split
  next h =>
    have hlow : ((x % 2 ^ w : Nat) : ℤ) < 2 ^ (w - 1) := by exact_mod_cast h
    constructor <;> linarith [Int.natCast_nonneg (x % 2 ^ w)]
  next h =>
    have hhigh : 2 ^ (w - 1) ≤ ((x % 2 ^ w : Nat) : ℤ) := by exact_mod_cast not_lt.mp h
    constructor <;> linarith

theorem sintOf_modEq (w x : Nat) : sintOf w x ≡ x [ZMOD 2 ^ w] := by
  have hmod : ((x % 2 ^ w : Nat) : ℤ) ≡ x [ZMOD 2 ^ w] := by
    push_cast
    exact Int.mod_modEq _ _
  simp only [sintOf]
  split
  · exact hmod
  · exact (Int.modEq_iff_dvd.mpr ⟨1, by ring⟩).trans hmod

section
variable {t : Ty} (ht : t.isInt = true)
include ht

theorem intMax_eq : intMax t = intMin t + 2 ^ t.bits - 1 := by
  have hpow := two_pow_pred_mul_two (Ty.bits_of_isInt ht).1
  simp only [intMax, intMin]
  split
  · linarith
  · ring

theorem intMin_le_intMax : intMin t ≤ intMax t := by
  rw [intMax_eq ht]
  linarith [one_le_pow₀ (M₀ := ℤ) one_le_two (n := t.bits)]

theorem intVal_range (x : Nat) : intMin t ≤ intVal t x ∧ intVal t x ≤ intMax t := by
  simp only [intMin, intMax, intVal]
  split
  · exact sintOf_range (Ty.bits_of_isInt ht).1 x
  · exact ⟨Int.natCast_nonneg _, Int.le_sub_one_of_lt (by exact_mod_cast Nat.mod_lt x (Nat.two_pow_pos _))⟩

omit ht in
theorem intVal_modEq (t : Ty) (x : Nat) : intVal t x ≡ x [ZMOD 2 ^ t.bits] := by
  simp only [intVal]
  split
  · exact sintOf_modEq _ _
  · push_cast
    exact Int.mod_modEq _ _

omit ht in
theorem intReg_modEq (t : Ty) (x : ℤ) : (intReg t x : ℤ) ≡ x [ZMOD 2 ^ t.bits] := by
  simp only [intReg]
  split
  · exact (truncTo_modEq _ x).of_dvd (pow_dvd_pow 2 (le_max_left _ _))
  · exact truncTo_modEq _ x

/-- A value of the type is the one that a register congruent to it holds. -/
theorem intVal_eq_of_modEq {r : Nat} {x : ℤ} (hx : intMin t ≤ x ∧ x ≤ intMax t) (hr : (r : ℤ) ≡ x [ZMOD 2 ^ t.bits]) :
    intVal t r = x := by
  obtain ⟨hlow, hup⟩ := intVal_range ht r
  have hmax := intMax_eq ht
  refine sub_eq_zero.mp (Int.eq_zero_of_abs_lt_dvd ((intVal_modEq t r).trans hr).symm.dvd (abs_lt.mpr ⟨?_, ?_⟩)) <;> omega

theorem clampTo_range (x : ℤ) : intMin t ≤ clampTo t x ∧ clampTo t x ≤ intMax t := by
  have hle := intMin_le_intMax ht
  simp only [clampTo]
  split
  · exact ⟨le_rfl, hle⟩
  · split <;> omega

end

theorem sub_emod_of_modEq {x y n : ℤ} (h : x ≡ y [ZMOD n]) : (x - y) % n = 0 := Int.emod_eq_zero_of_dvd h.symm.dvd

/-- R83: the conversion between integer types. -/
theorem cvtRes_int {d s : Ty} (hd : d.isInt = true) (hs : s.isInt = true) (mode : Rnd) (sat : Bool) (a : Nat) :
    (cvtRes d s mode sat a).fl = 0 ∧ (sat = true → intVal d (cvtRes d s mode sat a).bits = clampTo d (intVal s a))
      ∧ (sat = false → (intVal d (cvtRes d s mode sat a).bits - intVal s a) % 2 ^ d.bits = 0) := by
  have hcvt : cvtRes d s mode sat a = ⟨intReg d (if sat then clampTo d (intVal s a) else intVal d (truncTo 64 (intVal s a))), 0⟩ := by
    simp [cvtRes, hs, hd]
  rw [hcvt]
  refine ⟨rfl, ?_, ?_⟩
  · rintro rfl
    exact intVal_eq_of_modEq hd (clampTo_range hd _) (intReg_modEq _ _)
  · rintro rfl
    refine sub_emod_of_modEq (((intVal_modEq d _).trans (intReg_modEq d _)).trans ((intVal_modEq d _).trans ?_))
    exact (truncTo_modEq 64 _).of_dvd (pow_dvd_pow 2 (Ty.bits_of_isInt hd).2)

/-! ## To a floating-point format (R81) -/

section
variable {f : FFmt} {mode : Rnd} {sat : Bool}

theorem FFmt.conv_rounds (hf : f.Regular) {n : Bool} {m : Nat} {e : Int} (hm : 0 < m) (hle : |(FV.num n m e).rat| ≤ f.maxRat) :
    f.Rounds mode (FV.num n m e).rat (f.conv mode sat (.num n m e)).bits := by
  rw [FFmt.conv, if_neg hm.ne']
  exact FFmt.round_num_rounds hf hm hle

theorem cvtRes_float_rounds {d s : Ty} (hd : d.isInt = false) (hs : s.isInt = false) {a m : Nat} {n : Bool} {e : Int}
    (hdec : (fmtOf s).dec a = .num n m e) (hm : 0 < m) (hle : |(FV.num n m e).rat| ≤ (fmtOf d).maxRat) :
    (fmtOf d).Rounds mode (FV.num n m e).rat (cvtRes d s mode sat a).bits := by
  have hcvt : cvtRes d s mode sat a = (fmtOf d).conv mode sat (.num n m e) := by simp [cvtRes, hs, hd, hdec]
  exact hcvt ▸ FFmt.conv_rounds (fmtOf_regular d) hm hle

theorem cvtRes_int_rounds {d s : Ty} (hd : d.isInt = false) (hs : s.isInt = true) {a : Nat} (hne : intVal s a ≠ 0)
    (hle : |(intVal s a : ℚ)| ≤ (fmtOf d).maxRat) : (fmtOf d).Rounds mode (intVal s a) (cvtRes d s mode sat a).bits := by
  have hcvt : cvtRes d s mode sat a = (fmtOf d).conv mode sat (intFV (intVal s a)) := by simp [cvtRes, hs, hd]
  have hrat : (FV.num (decide (intVal s a < 0)) (intVal s a).natAbs 0).rat = intVal s a := by simp [FV.rat_num_int]
  have hconv := FFmt.conv_rounds (mode := mode) (sat := sat) (fmtOf_regular d) (Int.natAbs_pos.mpr hne) (hrat.symm ▸ hle)
  rw [hrat] at hconv
  exact hcvt ▸ hconv

end

/-! ## To an integer (R82) -/

/-- The bounds of a type are below 2^64 in magnitude. -/
theorem intBounds_lt {t : Ty} (ht : t.isInt = true) : -2 ^ 64 < intMin t ∧ intMax t < 2 ^ 64 := by
  have hpow : (2 : ℤ) ^ t.bits ≤ 2 ^ 64 := pow_le_pow_right₀ (by norm_num) (Ty.bits_of_isInt ht).2
  have hhalf := two_pow_pred_mul_two (Ty.bits_of_isInt ht).1
  have hpos : (0 : ℤ) < 2 ^ (t.bits - 1) := by positivity
  simp only [intMin, intMax]
  split <;> constructor <;> linarith

/-- R82: a number is rounded to an integer, and what does not fit gives the bound on its side with NV. -/
theorem toIntRes_num {d : Ty} (hd : d.isInt = true) (mode : Rnd) {n : Bool} {m : Nat} {e : Int} (hzero : m = 0 → e ≤ 70) :
    ∃ i : ℤ, RoundsInt mode (FV.num n m e).rat i ∧ toIntRes d mode (.num n m e) = if intMin d ≤ i ∧ i ≤ intMax d
      then ⟨intReg d i, if (i : ℚ) = (FV.num n m e).rat then 0 else flNX⟩
      else ⟨intReg d (if n = true then intMin d else intMax d), flNV⟩ := by
  obtain ⟨hround, hinexact⟩ := roundAt_spec (K := ℚ) mode n m e 0
  rw [sub_zero] at hround hinexact
  refine ⟨_, by rw [FV.rat_num]; exact hround, ?_⟩
  by_cases hbig : 70 < (bitLen m : Int) + e
  · have hm : 0 < m := Nat.pos_of_ne_zero fun h => by
      have := hzero h
      simp [h, bitLen] at hbig
      omega
    have hlow : 2 ^ 64 ≤ (roundAt mode n m e 0).1 := by
      refine hround.le_nat (le_trans ?_ (Stands.two_zpow_topExp_le (sticky := false) (x := (m : ℚ)) hm rfl))
      rw [Nat.cast_pow, Nat.cast_ofNat, ← zpow_natCast]
      exact zpow_le_zpow_right₀ one_le_two (by simp only [topExp]; push_cast; omega)
    have hlow' : (2 : ℤ) ^ 64 ≤ ((roundAt mode n m e 0).1 : ℤ) := by exact_mod_cast hlow
    obtain ⟨hmin, hmax⟩ := intBounds_lt hd
    have hout : ¬(intMin d ≤ signed n ((roundAt mode n m e 0).1 : ℤ) ∧ signed n ((roundAt mode n m e 0).1 : ℤ) ≤ intMax d) := by
      cases n <;> simp only [signed_true, signed_false] <;> omega
    rw [toIntRes, if_pos hbig, if_neg hout]
  · have hexact : ((signed n ((roundAt mode n m e 0).1 : ℤ) : ℤ) : ℚ) = (FV.num n m e).rat ↔ (roundAt mode n m e 0).2 = false := by
      rw [← Bool.not_eq_true, hinexact, not_not, FV.rat_num]
      cases n <;> simp
    have hflag : flIf (roundAt mode n m e 0).2 flNX
        = if ((signed n ((roundAt mode n m e 0).1 : ℤ) : ℤ) : ℚ) = (FV.num n m e).rat then 0 else flNX := by
      cases h : (roundAt mode n m e 0).2 <;> simp [hexact, h, flIf]
    rw [← hflag]
    simp only [toIntRes, if_neg hbig]
    rfl

theorem cvtRes_to_int {d s : Ty} (hd : d.isInt = true) (hs : s.isInt = false) (mode : Rnd) (sat : Bool) (a : Nat) :
    cvtRes d s mode sat a = toIntRes d mode ((fmtOf s).dec a) := by
  simp [cvtRes, hs, hd]

/-- R82 at a format: as `toIntRes_num`, since a zero of a format has its least exponent. -/
theorem cvtRes_to_int_num {d s : Ty} (hd : d.isInt = true) (hs : s.isInt = false) (mode : Rnd) (sat : Bool) {a m : Nat} {n : Bool} {e : Int}
    (hdec : (fmtOf s).dec a = .num n m e) : ∃ i : ℤ, RoundsInt mode (FV.num n m e).rat i
      ∧ cvtRes d s mode sat a = if intMin d ≤ i ∧ i ≤ intMax d then ⟨intReg d i, if (i : ℚ) = (FV.num n m e).rat then 0 else flNX⟩
        else ⟨intReg d (if n = true then intMin d else intMax d), flNV⟩ := by
  rw [cvtRes_to_int hd hs, hdec]
  refine toIntRes_num hd mode fun hzero => ?_
  have hmin := FFmt.qMin_neg (fmtOf_regular s)
  obtain ⟨-, -, -, hleast⟩ := FFmt.dec_num (fmtOf_regular s) hdec
  have := hleast hzero
  omega

/-! ## `dot4` (R85, R187) -/

/-- The exact sum of c and the four products. -/
def dot4Exact (fa fb : FFmt) (a b c : Nat) : ℚ := ((fmtOf .f32).dec c).rat
  + ((List.range 4).map (fun k => (fa.dec (fieldOf a (8 * k) 8)).rat * (fb.dec (fieldOf b (8 * k) 8)).rat)).sum

/-- The four pairs of factors. -/
def dot4Pairs (fa fb : FFmt) (a b : Nat) : List (FV × FV) :=
  (List.range 4).map (fun k => (fa.dec (fieldOf a (8 * k) 8), fb.dec (fieldOf b (8 * k) 8)))

theorem dot4Float_eq (fa fb : FFmt) (mode : Rnd) (sat : Bool) (a b c : Nat) :
    dot4Float fa fb mode sat a b c = (fmtOf .f32).dot mode sat (dot4Pairs fa fb a b) [(fmtOf .f32).dec c] := by
  rw [dot4Float, dot4Pairs, ← List.zip_map']

theorem dot4Float_rounds (fa fb : FFmt) {mode : Rnd} {sat : Bool} {a b c : Nat}
    (hfin : ∀ k < 4, (fa.dec (fieldOf a (8 * k) 8)).finite = true ∧ (fb.dec (fieldOf b (8 * k) 8)).finite = true)
    (hc : ((fmtOf .f32).dec c).finite = true) (hne : dot4Exact fa fb a b c ≠ 0) (hle : |dot4Exact fa fb a b c| ≤ (fmtOf .f32).maxRat) :
    (fmtOf .f32).Rounds mode (dot4Exact fa fb a b c) (dot4Float fa fb mode sat a b c).bits := by
  have hpairs : PairsFinite (dot4Pairs fa fb a b) := by
    intro p hp
    obtain ⟨k, hk, rfl⟩ := List.mem_map.mp hp
    exact hfin k (List.mem_range.mp hk)
  have hsum : (((fmtOf .f32).dec c :: prods (dot4Pairs fa fb a b)).map FV.rat).sum = dot4Exact fa fb a b c := by
    rw [List.map_cons, List.sum_cons, map_rat_prods hpairs, dot4Pairs, List.map_map]
    rfl
  rw [dot4Float_eq, FFmt.dot_of_finite hpairs, ← hsum]
  exact FFmt.sum_rounds (fmtOf_regular _) (by simpa [hc] using finite_of_mem_prods hpairs) (hsum ▸ hne) (hsum ▸ hle)

/-! ## `redux` (R196) -/

theorem reduxRes_fadd_rounds {mode : Rnd} {sat : Bool} {xs : List Nat} (hfin : ∀ x ∈ xs, ((fmtOf .f32).dec x).finite = true)
    (hne : (xs.map (fun x => ((fmtOf .f32).dec x).rat)).sum ≠ 0)
    (hle : |(xs.map (fun x => ((fmtOf .f32).dec x).rat)).sum| ≤ (fmtOf .f32).maxRat) :
    (fmtOf .f32).Rounds mode (xs.map (fun x => ((fmtOf .f32).dec x).rat)).sum (reduxRes 6 .f32 mode sat xs).bits := by
  have hsum : ((xs.map (fmtOf .f32).dec).map FV.rat).sum = (xs.map (fun x => ((fmtOf .f32).dec x).rat)).sum := by
    rw [List.map_map]
    rfl
  rw [← hsum] at hne hle ⊢
  exact FFmt.sum_rounds (fmtOf_regular _) (by simpa using hfin) hne hle

theorem reduxRes_add {t : Ty} (ht : t.isInt = true) (mode : Rnd) (sat : Bool) (xs : List Nat) :
    (sat = true → intVal t (reduxRes 0 t mode sat xs).bits = clampTo t (xs.map (intVal t)).sum)
      ∧ (sat = false → (intVal t (reduxRes 0 t mode sat xs).bits - (xs.map (intVal t)).sum) % 2 ^ t.bits = 0) := by
  have hbits : (reduxRes 0 t mode sat xs).bits = truncTo t.bits (if sat then clampTo t (xs.map (intVal t)).sum else (xs.map (intVal t)).sum) := by
    rw [reduxRes, narrow, tyW, List.sum_eq_foldl, List.foldl_map]
  rw [hbits]
  constructor
  · rintro rfl
    exact intVal_eq_of_modEq ht (clampTo_range ht _) (truncTo_modEq _ _)
  · rintro rfl
    exact sub_emod_of_modEq ((intVal_modEq t _).trans (truncTo_modEq _ _))

/-- A fold of a choice between two values that takes one no greater than either gives a least value of the list. -/
theorem foldl_least {α β : Type} [LinearOrder β] {p : α → Prop} {op : α → α → α} {val : α → β}
    (hop : ∀ a b, p a → p b → (op a b = a ∨ op a b = b) ∧ val (op a b) ≤ val a ∧ val (op a b) ≤ val b) (x : α) (xs : List α)
    (hp : ∀ y ∈ x :: xs, p y) : xs.foldl op x ∈ x :: xs ∧ ∀ y ∈ x :: xs, val (xs.foldl op x) ≤ val y := by
  induction xs generalizing x with
  | nil => simp
  | cons z xs ih =>
    have hx : p x := hp x (by simp)
    have hz : p z := hp z (by simp)
    obtain ⟨hsel, hlex, hlez⟩ := hop x z hx hz
    obtain ⟨hmem, hleast⟩ := ih (op x z) (by
      intro y hy
      rcases List.mem_cons.mp hy with rfl | hy
      · rcases hsel with h | h <;> rwa [h]
      · exact hp y (by simp [hy]))
    have hhead := hleast (op x z) (List.mem_cons_self ..)
    rw [List.foldl_cons]
    refine ⟨?_, fun y hy => ?_⟩
    · rcases List.mem_cons.mp hmem with h | h
      · rw [h]
        rcases hsel with h | h <;> simp [h]
      · simp [h]
    · simp only [List.mem_cons] at hy
      rcases hy with rfl | rfl | hy
      · exact hhead.trans hlex
      · exact hhead.trans hlez
      · exact hleast y (List.mem_cons_of_mem _ hy)

theorem reduxRes_min {t : Ty} {mode : Rnd} {sat : Bool} {xs : List Nat} (hne : xs ≠ []) :
    (reduxRes 1 t mode sat xs).bits ∈ xs ∧ ∀ x ∈ xs, intVal t (reduxRes 1 t mode sat xs).bits ≤ intVal t x := by
  obtain ⟨x, xs, rfl⟩ := List.exists_cons_of_ne_nil hne
  refine foldl_least (p := fun _ => True) (fun a b _ _ => ?_) x xs fun _ _ => trivial
  by_cases h : intVal t a ≤ intVal t b
  · simp [lesser, h]
  · simp [lesser, h, (not_le.mp h).le]

theorem reduxRes_max {t : Ty} {mode : Rnd} {sat : Bool} {xs : List Nat} (hne : xs ≠ []) :
    (reduxRes 2 t mode sat xs).bits ∈ xs ∧ ∀ x ∈ xs, intVal t x ≤ intVal t (reduxRes 2 t mode sat xs).bits := by
  obtain ⟨x, xs, rfl⟩ := List.exists_cons_of_ne_nil hne
  refine foldl_least (p := fun _ => True) (val := fun b => OrderDual.toDual (intVal t b)) (fun a b _ _ => ?_) x xs fun _ _ => trivial
  simp only [OrderDual.toDual_le_toDual]
  by_cases h : intVal t a < intVal t b
  · simp [greater, h, h.le]
  · simp [greater, h, not_lt.mp h]

/-! ### Floating-point folds -/

/-- The order of two numbers is that of their values. -/
theorem cmpV_of_finite {x y : FV} (hx : x.finite = true) (hy : y.finite = true) :
    cmpV x y = if x.rat < y.rat then .lt else if x.rat = y.rat then .eq else .gt := by
  have hsum : ([x.term, y.negate.term].map termRat).sum = x.rat - y.rat := by
    simp [← FV.rat_eq_termRat, sub_eq_add_neg]
  have hcmp : cmpV x y = if (sumExact [x.term, y.negate.term]).1 < 0 then .lt
      else if (sumExact [x.term, y.negate.term]).1 = 0 then .eq else .gt := by
    cases x <;> cases y <;> simp_all only [FV.finite, Bool.false_eq_true, cmpV]
  simp only [hcmp, sumExact_neg, sumExact_eq_zero, hsum, sub_neg, sub_eq_zero]

/-- An FP32 register with a number. -/
def IsNum32 (b : Nat) : Prop := b < 2 ^ 32 ∧ ((fmtOf .f32).dec b).finite = true

theorem flush_f32 {b : Nat} (hb : b < 2 ^ 32) : (fmtOf .f32).flush b % 2 ^ (fmtOf .f32).width = b :=
  Nat.mod_eq_of_lt hb

/-- Of two numbers, `fmin` and `fmax` write one (R179). -/
theorem minmax_f32 (isMax : Bool) {a b : Nat} (ha : IsNum32 a) (hb : IsNum32 b) : ∃ less : Bool,
    (less = true → ((fmtOf .f32).dec a).rat ≤ ((fmtOf .f32).dec b).rat) ∧ (less = false → ((fmtOf .f32).dec b).rat ≤ ((fmtOf .f32).dec a).rat)
      ∧ ((fmtOf .f32).minmax isMax a b).bits = if less != isMax then a else b := by
  have hcmp := cmpV_of_finite ha.2 hb.2
  rcases lt_trichotomy ((fmtOf .f32).dec a).rat ((fmtOf .f32).dec b).rat with h | h | h
  · rw [if_pos h] at hcmp
    exact ⟨true, fun _ => h.le, fun hf => absurd hf.symm Bool.false_ne_true, by
      simp [FFmt.minmax, flush_f32 ha.1, flush_f32 hb.1, FV.isNan_of_finite ha.2, FV.isNan_of_finite hb.2, hcmp]⟩
  · rw [if_neg h.not_lt, if_pos h] at hcmp
    exact ⟨((fmtOf .f32).dec a).neg && !((fmtOf .f32).dec b).neg, fun _ => h.le, fun _ => h.ge, by
      simp [FFmt.minmax, flush_f32 ha.1, flush_f32 hb.1, FV.isNan_of_finite ha.2, FV.isNan_of_finite hb.2, hcmp]⟩
  · rw [if_neg h.not_gt, if_neg h.ne'] at hcmp
    exact ⟨false, fun hf => absurd hf Bool.false_ne_true, fun _ => h.le, by
      simp [FFmt.minmax, flush_f32 ha.1, flush_f32 hb.1, FV.isNan_of_finite ha.2, FV.isNan_of_finite hb.2, hcmp]⟩

theorem foldMinmax_bits (f : FFmt) (isMax : Bool) (x : Nat) (xs : List Nat) :
    (foldMinmax f isMax (x :: xs)).bits = xs.foldl (fun r y => (f.minmax isMax r y).bits) (f.minmax isMax x x).bits := by
  rw [foldMinmax]
  generalize f.minmax isMax x x = r
  induction xs generalizing r with
  | nil => rfl
  | cons y ys ih => exact ih _

theorem minmax_f32_self (isMax : Bool) {a : Nat} (ha : IsNum32 a) : ((fmtOf .f32).minmax isMax a a).bits = a := by
  obtain ⟨less, -, -, hbits⟩ := minmax_f32 isMax ha ha
  rw [hbits, ite_self]

theorem reduxRes_fmin {mode : Rnd} {sat : Bool} {xs : List Nat} (hne : xs ≠ []) (hnum : ∀ x ∈ xs, IsNum32 x) :
    (reduxRes 7 .f32 mode sat xs).bits ∈ xs
      ∧ ∀ x ∈ xs, ((fmtOf .f32).dec (reduxRes 7 .f32 mode sat xs).bits).rat ≤ ((fmtOf .f32).dec x).rat := by
  obtain ⟨x, xs, rfl⟩ := List.exists_cons_of_ne_nil hne
  have hbits : (reduxRes 7 .f32 mode sat (x :: xs)).bits = xs.foldl (fun r y => ((fmtOf .f32).minmax false r y).bits) x := by
    rw [reduxRes, foldMinmax_bits, minmax_f32_self false (hnum x (List.mem_cons_self ..))]
  rw [hbits]
  refine foldl_least (p := IsNum32) (val := fun b => ((fmtOf .f32).dec b).rat) (fun a b ha hb => ?_) x xs hnum
  obtain ⟨less, htrue, hfalse, hsel⟩ := minmax_f32 false ha hb
  cases less <;> simp_all

theorem reduxRes_fmax {mode : Rnd} {sat : Bool} {xs : List Nat} (hne : xs ≠ []) (hnum : ∀ x ∈ xs, IsNum32 x) :
    (reduxRes 8 .f32 mode sat xs).bits ∈ xs
      ∧ ∀ x ∈ xs, ((fmtOf .f32).dec x).rat ≤ ((fmtOf .f32).dec (reduxRes 8 .f32 mode sat xs).bits).rat := by
  obtain ⟨x, xs, rfl⟩ := List.exists_cons_of_ne_nil hne
  have hbits : (reduxRes 8 .f32 mode sat (x :: xs)).bits = xs.foldl (fun r y => ((fmtOf .f32).minmax true r y).bits) x := by
    rw [reduxRes, foldMinmax_bits, minmax_f32_self true (hnum x (List.mem_cons_self ..))]
    all_goals simp
  rw [hbits]
  refine foldl_least (p := IsNum32) (val := fun b => OrderDual.toDual ((fmtOf .f32).dec b).rat) (fun a b ha hb => ?_) x xs hnum
  obtain ⟨less, htrue, hfalse, hsel⟩ := minmax_f32 true ha hb
  simp only [OrderDual.toDual_le_toDual]
  cases less <;> simp_all

end Sys2Proof.Machine
end

section
/-! PROOFS. `frcp` (R184, R185): its exact cases, the enclosure of the others, and what the check against Table 7-5 says. -/

namespace Sys2Proof.Machine

/-- Where the check against Table 7-5 holds of a number, the number is within the bound of every value of the enclosure. -/
theorem abs_sub_le_of_closeTo {y : Approx} {n : Bool} {m : Nat} {e t : Int} {tol : Nat} (h : closeTo y (.num n m e) tol t = true) {q : ℚ}
    (hlow : ((y.man : ℚ) - y.below) * 2 ^ y.exp ≤ q) (hup : q ≤ ((y.man : ℚ) + y.above) * 2 ^ y.exp) :
    |(FV.num n m e).rat - signed y.neg q| ≤ tol * 2 ^ t := by
  simp only [closeTo, Bool.and_eq_true, decide_eq_true_iff, sumExact_nonpos, List.map_cons, List.map_nil, List.sum_cons, List.sum_nil,
    ← FV.rat_eq_termRat, termRat_mk, signed_true, signed_false] at h
  obtain ⟨hbelow, habove⟩ := h
  rw [abs_le]
  cases hneg : y.neg <;> simp only [hneg, if_true, if_false, Bool.false_eq_true, FV.rat_negate] at hbelow habove
  · rw [signed_false]
    constructor <;> linarith
  · rw [signed_true]
    constructor <;> linarith

/-! ## Powers of two -/

/-- The number of trailing zeros of a significand, as far as its k lowest bits show it. -/
def trailing (man k : Nat) : Nat := (List.range k).foldl (fun n i => if man % 2 ^ (i + 1) = 0 then i + 1 else n) 0

theorem trailing_spec (man k : Nat) : 2 ^ trailing man k ∣ man ∧ ∀ j ≤ k, 2 ^ j ∣ man → j ≤ trailing man k := by
  induction k with
  | zero => simp [trailing]
  | succ k ih =>
    have hstep : trailing man (k + 1) = if man % 2 ^ (k + 1) = 0 then k + 1 else trailing man k := by
      simp [trailing, List.range_succ]
    rw [hstep]
    split
    next hzero => exact ⟨Nat.dvd_of_mod_eq_zero hzero, fun j hj _ => hj⟩
    next hne =>
      refine ⟨ih.1, fun j hj hdvd => ih.2 j (Nat.le_of_lt_succ (hj.lt_of_ne ?_)) hdvd⟩
      rintro rfl
      exact hne (Nat.mod_eq_zero_of_dvd hdvd)

/-- The reciprocal of a power of two is exact, and that of no other significand (R185). -/
theorem Fn.exact_rcp {f : FFmt} (n : Bool) {m : Nat} (e : Int) (hlt : m < 2 ^ (f.m + 1)) :
    (∃ j : Nat, m = 2 ^ j ∧ Fn.exact .rcp f n m e = some (.num n 1 (-(e + j))))
      ∨ (∀ j, m ≠ 2 ^ j) ∧ Fn.exact .rcp f n m e = none := by
  obtain ⟨hdvd, hmax⟩ := trailing_spec m (f.m + 1)
  have hexact : Fn.exact .rcp f n m e = if m / 2 ^ trailing m (f.m + 1) = 1 then some (.num n 1 (-(e + trailing m (f.m + 1)))) else none := rfl
  by_cases hodd : m / 2 ^ trailing m (f.m + 1) = 1
  · exact .inl ⟨_, by rw [← Nat.div_mul_cancel hdvd, hodd, one_mul], by rw [hexact, if_pos hodd]⟩
  · refine .inr ⟨fun j hj => hodd ?_, by rw [hexact, if_neg hodd]⟩
    have hle : j ≤ f.m + 1 := ((Nat.pow_lt_pow_iff_right one_lt_two).mp (hj ▸ hlt)).le
    have hge : trailing m (f.m + 1) ≤ j := (Nat.pow_dvd_pow_iff_le_right one_lt_two).mp (hj ▸ hdvd)
    rw [le_antisymm hge (hmax j hle (hj ▸ dvd_rfl)), hj, Nat.div_self (Nat.two_pow_pos j)]

/-- The integer reciprocal of a significand that is no power of two stands for the exact one, which it is not equal to. -/
theorem recip_stands {m k : Nat} (hm : 0 < m) (hpow : ∀ j, m ≠ 2 ^ j) : Stands (2 ^ k / m) true ((2 : ℚ) ^ k / m) := by
  have hrem : (quotBits 1 m k).2 = true := by
    rw [quotBits, one_mul, bne_iff_ne]
    intro hzero
    obtain ⟨j, -, hj⟩ := (Nat.dvd_prime_pow Nat.prime_two).mp (Nat.dvd_of_mod_eq_zero hzero)
    exact hpow j hj
  have hstands := quotBits_stands (K := ℚ) (x := 1) k hm
  rwa [hrem, Nat.cast_one, one_mul, quotBits, one_mul] at hstands

theorem one_div_rat_num (n : Bool) (m : Nat) (e : Int) : 1 / (FV.num n m e).rat = signed n (1 / ((m : ℚ) * 2 ^ e)) := by
  cases n <;> simp [FV.rat_num]

theorem recip_scale {m : Nat} (e : Int) (k : Nat) : (2 : ℚ) ^ k / m * 2 ^ (-e - (k : Int)) = 1 / ((m : ℚ) * 2 ^ e) := by
  rw [zpow_sub₀ two_ne_zero, zpow_neg, zpow_natCast]
  field_simp

/-! ## `frcp` -/

/-- The enclosure of a reciprocal. -/
def rcpApprox (n : Bool) (m : Nat) (e : Int) : Approx := Fn.approx .rcp n m e

/-- The reciprocal correctly rounded, from its enclosure. -/
def rcpRound (f : FFmt) (sat n : Bool) (m : Nat) (e : Int) : FRes :=
  f.round .rne sat n (2 ^ (bitLen m + fxBits) / m) (-e - (bitLen m + fxBits : Nat)) true

theorem rcpApprox_eq (n : Bool) (m : Nat) (e : Int) :
    rcpApprox n m e = ⟨n, 2 ^ (bitLen m + fxBits) / m, -e - (bitLen m + fxBits : Nat), 4096, 4096⟩ := rfl

section
variable {ty : Ty} {sat n : Bool} {a m : Nat} {e : Int} {bits : Nat}

/-- An inexact reciprocal is the rounded one, or in a wider format any that the check allows. -/
theorem Fn.inexact_rcp (f : FFmt) : (Fn.inexact .rcp f ty sat n m e bits).bits = (rcpRound f sat n m e).bits
    ∨ (f.m ≠ 10 ∧ f.m ≠ 7) ∧ Fn.allowed .rcp f m e (rcpApprox n m e) (Fn.inexact .rcp f ty sat n m e bits).bits = true := by
  have hround : f.round .rne sat (Fn.approx .rcp n m e).neg (Fn.approx .rcp n m e).man (Fn.approx .rcp n m e).exp true
      = rcpRound f sat n m e := rfl
  simp only [Fn.inexact, reduceCtorEq, false_and, if_false, hround, or_self]
  split_ifs with hover hnarrow hallowed
  · exact .inl rfl
  · exact .inl rfl
  · exact .inr ⟨not_or.mp hnarrow, hallowed⟩
  · exact .inl rfl

variable (hdec : (fmtOf ty).dec ((fmtOf ty).flush a % 2 ^ (fmtOf ty).width) = .num n m e) (hm : 0 < m)
include hdec hm

theorem Fn.eval_rcp_of_exact {v : FV} (hexact : Fn.exact .rcp (fmtOf ty) n m e = some v) :
    Fn.eval .rcp ty sat a = (fmtOf ty).conv .rne sat v := by
  simp [Fn.eval, hdec, hm.ne', hexact]

theorem Fn.eval_rcp_of_inexact (hexact : Fn.exact .rcp (fmtOf ty) n m e = none) : Fn.eval .rcp ty sat a
    = Fn.inexact .rcp (fmtOf ty) ty sat n m e ((fmtOf ty).flush a % 2 ^ (fmtOf ty).width) := by
  simp [Fn.eval, hdec, hm.ne', hexact]

/-- A reciprocal is delivered as the rounding of a significand that stands for it, or in a wider format as one that the check allows. -/
theorem Fn.eval_rcp (hwide : (fmtOf ty).m ≤ 200) : (∃ man exp sticky, ∃ x : ℚ, 0 < man ∧ Stands man sticky x
      ∧ (sticky = true → (fmtOf ty).m + 2 ≤ bitLen man) ∧ 1 / (FV.num n m e).rat = signed n (x * 2 ^ exp)
      ∧ (Fn.eval .rcp ty sat a).bits = ((fmtOf ty).round .rne sat n man exp sticky).bits)
    ∨ ((fmtOf ty).m ≠ 10 ∧ (fmtOf ty).m ≠ 7) ∧ (∀ j, m ≠ 2 ^ j)
      ∧ Fn.allowed .rcp (fmtOf ty) m e (rcpApprox n m e) (Fn.eval .rcp ty sat a).bits = true := by
  obtain ⟨hlt, -⟩ := FFmt.dec_num (fmtOf_regular ty) hdec
  rcases Fn.exact_rcp (f := fmtOf ty) n e hlt with ⟨j, hj, hexact⟩ | ⟨hpow, hexact⟩
  · refine .inl ⟨1, -(e + j), false, 1, one_pos, Nat.cast_one.symm, fun h => absurd h Bool.false_ne_true, ?_, ?_⟩
    · rw [one_div_rat_num, hj, zpow_neg, zpow_add₀ two_ne_zero, zpow_natCast]
      push_cast
      rw [one_mul, one_div, mul_comm]
    · rw [Fn.eval_rcp_of_exact hdec hm hexact, FFmt.conv, if_neg one_ne_zero]
  · rw [Fn.eval_rcp_of_inexact hdec hm hexact]
    rcases Fn.inexact_rcp (ty := ty) (sat := sat) (n := n) (m := m) (e := e) (fmtOf ty) with hround | ⟨hnarrow, hallowed⟩
    · have hlong := le_bitLen_quotBits (x := 1) (p := fxBits) one_pos hm
      rw [quotBits, one_mul] at hlong
      refine .inl ⟨_, _, true, _, pos_of_lt_bitLen hlong, recip_stands hm hpow, fun _ => ?_, ?_, hround⟩
      · simp only [fxBits] at hlong ⊢
        omega
      · rw [one_div_rat_num, recip_scale]
    · exact .inr ⟨hnarrow, hpow, hallowed⟩

/-- R184: at the narrow formats `frcp` is correctly rounded. -/
theorem Fn.eval_rcp_rounds (hnarrow : (fmtOf ty).m = 10 ∨ (fmtOf ty).m = 7) (hle : |1 / (FV.num n m e).rat| ≤ (fmtOf ty).maxRat) :
    (fmtOf ty).Rounds .rne (1 / (FV.num n m e).rat) (Fn.eval .rcp ty sat a).bits := by
  rcases Fn.eval_rcp (sat := sat) hdec hm (by omega) with ⟨man, exp, sticky, x, hman, hx, hbits, hval, hround⟩ | ⟨hwide, -⟩
  · rw [hval] at hle ⊢
    rw [hround]
    exact FFmt.round_rounds (fmtOf_regular ty) hman hx hbits hle
  · omega

end

/-! ## Within one unit -/

/-- A value lies in one binade. -/
theorem binade_unique {v : ℚ} {l k : ℤ} (hl : 2 ^ l ≤ v) (hl' : v < 2 ^ (l + 1)) (hk : 2 ^ k ≤ v) (hk' : v < 2 ^ (k + 1)) : l = k := by
  have h1 := (zpow_lt_zpow_iff_right₀ (one_lt_two (α := ℚ))).mp (hl.trans_lt hk')
  have h2 := (zpow_lt_zpow_iff_right₀ (one_lt_two (α := ℚ))).mp (hk.trans_lt hl')
  omega

/-- A binade's unit in the last place (R184). -/
theorem FFmt.quantum_eq (f : FFmt) (l : ℤ) : f.quantum l = max l f.emin - f.m := by
  simp only [FFmt.quantum, FFmt.qMin]
  omega

section
variable {f : FFmt} {mode : Rnd} {sat n sticky : Bool} {man : Nat} {exp l : Int} {x : ℚ}

/-- What `round` delivers within M is a number at most a unit away from the value. -/
theorem FFmt.round_within_unit (hf : f.Regular) (hman : 0 < man) (hx : Stands man sticky x) (hbits : sticky = true → f.m + 2 ≤ bitLen man)
    (hle : |signed n (x * 2 ^ exp)| ≤ f.maxRat) (hl : 2 ^ l ≤ |signed n (x * 2 ^ exp)|) (hl' : |signed n (x * 2 ^ exp)| < 2 ^ (l + 1)) :
    (f.dec (f.round mode sat n man exp sticky).bits).finite = true
      ∧ |(f.dec (f.round mode sat n man exp sticky).bits).rat - signed n (x * 2 ^ exp)| ≤ 2 ^ (max l f.emin - f.m) := by
  have hlow := hx.two_zpow_topExp_le (exp := exp) hman
  rw [abs_signed ((two_zpow_pos _).trans_le hlow)] at hle hl hl'
  obtain ⟨k, g, hdec, -, hunit⟩ := FFmt.round_spec (mode := mode) (sat := sat) (neg := n) hf hman hx hbits (by rwa [Rat.cast_id])
  rw [← binade_unique hl hl' hlow hx.lt_two_zpow_topExp, FFmt.quantum_eq, Rat.cast_id] at hunit
  rw [hdec]
  exact ⟨rfl, hunit⟩

end

section
variable {f : FFmt} {n : Bool} {m r : Nat} {e : Int}

/-- What the check allows as a reciprocal is a number at most a unit away from the exact one. -/
theorem Fn.within_unit_of_allowed (hm : 0 < m) (hpow : ∀ j, m ≠ 2 ^ j) (h : Fn.allowed .rcp f m e (rcpApprox n m e) r = true) {l : ℤ}
    (hl : 2 ^ l ≤ |1 / (FV.num n m e).rat|) (hl' : |1 / (FV.num n m e).rat| < 2 ^ (l + 1)) :
    (f.dec r).finite = true ∧ |(f.dec r).rat - 1 / (FV.num n m e).rat| ≤ 2 ^ (max l f.emin - f.m) := by
  have hx := recip_stands (k := bitLen m + fxBits) hm hpow
  have hman := pos_of_lt_bitLen (le_bitLen_quotBits (x := 1) (p := fxBits) one_pos hm)
  rw [quotBits, one_mul] at hman
  have hlow := hx.two_zpow_topExp_le (exp := -e - (bitLen m + fxBits : Nat)) hman
  have hup := hx.lt_two_zpow_topExp (exp := -e - (bitLen m + fxBits : Nat))
  have hpos := (two_zpow_pos _).trans_le hlow
  rw [one_div_rat_num, ← recip_scale e (bitLen m + fxBits)] at hl hl' ⊢
  rw [abs_signed hpos] at hl hl'
  have htop := binade_unique hl hl' hlow hup
  simp only [Fn.allowed] at h
  split at h
  next n' k g hdec =>
    have hclose : closeTo (rcpApprox n m e) (.num n' k g) 1 (max l f.emin - f.m) = true := by
      simpa [Fn.bound, htop, topExp, rcpApprox_eq] using h
    have hspread : (0 : ℚ) < 2 ^ (-e - ((bitLen m + fxBits : Nat) : ℤ)) := two_zpow_pos _
    obtain ⟨hge, hlt⟩ := And.intro hx.le hx.lt
    have hbound := abs_sub_le_of_closeTo hclose (q := (2 : ℚ) ^ (bitLen m + fxBits) / m * 2 ^ (-e - ((bitLen m + fxBits : Nat) : ℤ)))
      (by rw [rcpApprox_eq]; exact mul_le_mul_of_nonneg_right (by push_cast at hge ⊢; linarith) hspread.le)
      (by rw [rcpApprox_eq]; exact mul_le_mul_of_nonneg_right (by push_cast at hlt ⊢; linarith) hspread.le)
    rw [hdec]
    refine ⟨rfl, ?_⟩
    rwa [Nat.cast_one, one_mul] at hbound
  next => exact absurd h Bool.false_ne_true

end

/-- R184 and Table 7-5: at the wide formats `frcp` is within one unit of the exact reciprocal. -/
theorem Fn.eval_rcp_within_unit {ty : Ty} {sat n : Bool} {a m : Nat} {e l : Int} (hwide : (fmtOf ty).m ≤ 200)
    (hdec : (fmtOf ty).dec ((fmtOf ty).flush a % 2 ^ (fmtOf ty).width) = .num n m e) (hm : 0 < m)
    (hle : |1 / (FV.num n m e).rat| ≤ (fmtOf ty).maxRat)
    (hl : 2 ^ l ≤ |1 / (FV.num n m e).rat|) (hl' : |1 / (FV.num n m e).rat| < 2 ^ (l + 1)) :
    ((fmtOf ty).dec (Fn.eval .rcp ty sat a).bits).finite = true
      ∧ |((fmtOf ty).dec (Fn.eval .rcp ty sat a).bits).rat - 1 / (FV.num n m e).rat| ≤ 2 ^ (max l (fmtOf ty).emin - (fmtOf ty).m) := by
  rcases Fn.eval_rcp (sat := sat) hdec hm hwide with ⟨man, exp, sticky, x, hman, hx, hbits, hval, hround⟩ | ⟨-, hpow, hallowed⟩
  · rw [hval] at hle hl hl' ⊢
    rw [hround]
    exact FFmt.round_within_unit (fmtOf_regular ty) hman hx hbits hle hl hl'
  · exact Fn.within_unit_of_allowed hm hpow hallowed hl hl'

end Sys2Proof.Machine
end

section
/-! PROOFS. The values of floating-point results, assembled. -/

namespace Sys2Proof.Machine

theorem isInt_of_mem_floats : ∀ t ∈ [Ty.f16, .bf16, .f32, .f64, .e4m3, .e5m2], t.isInt = false := by decide

theorem isInt_of_mem_ints : ∀ t ∈ [Ty.i8, .n8, .i16, .n16, .i32, .n32, .i64, .n64], t.isInt = true := by decide

theorem isInt_of_mem_reduxTypes : ∀ t ∈ [Ty.i32, .n32, .i64, .n64], t.isInt = true := by decide

/-- The BF16 flush touches no wide format (R79). -/
theorem flush_of_mem_wide : ∀ ty ∈ [Ty.f32, .f64], ∀ a, (fmtOf ty).flush a = a ∧ (fmtOf ty).m ≤ 200 := by
  intro ty hty a
  fin_cases hty <;> exact ⟨rfl, by decide⟩

theorem frac_of_mem_narrow : ∀ ty ∈ [Ty.f16, .bf16], (fmtOf ty).m = 10 ∨ (fmtOf ty).m = 7 := by decide

/-- Settles O60: each operation is one rounding of its exact value (`FFmt.round_num_rounds`), of which the sticky bit of quotients, square
roots and reciprocals says as much as the exact value would (`roundAt_withSticky`). -/
theorem floatValues : Obligations.FloatValues := by
  unfold Obligations.FloatValues
  intro floats ints
  refine ⟨fun ty _ mode sat => ⟨fun n m e hm => ⟨fun hle => ⟨?rounds, ?flags⟩, fun hge => ?overflow⟩,
      fun a b n m e n' m' e' ha hb =>
        ⟨?add, ?addZero, ?sub, ?mul, ?mulZero, ?div, fun c n'' m'' e'' hc => ?fma, ?sqrt⟩⟩,
    fun d hd mode sat a => ⟨fun s hs n m e hdec hm hle => ?cvtFloat, fun s hs hne hle => ?cvtInt⟩,
    fun d hd mode sat a => ⟨fun s hs n m e hdec => ?toInt, fun s hs => ⟨fun b hdec => ?ofNan, fun n hdec => ?ofInf⟩, fun s hs => ?intToInt⟩,
    fun fa _ fb _ mode sat a b c hfin hc hne hle => ?dot4,
    fun mode sat xs => ⟨fun hfin hne hle => ?fadd, fun t ht => ⟨?addSat, ?addCut, fun hne => ?minMax⟩, fun hne hnum => ?fminFmax⟩,
    fun sat a n m e hm => ⟨fun ty hty hdec hle => ?narrow, fun ty hty hdec hle l hl hl' => ?wide⟩,
    fun y n m e tol t hclose q hlow hup => ?enclosure⟩
  case rounds => exact FFmt.round_num_rounds (fmtOf_regular ty) hm hle
  case flags => exact FFmt.round_num_flags (fmtOf_regular ty) hm hle
  case overflow =>
    have hround := FFmt.round_num_overflow (mode := mode) (sat := sat) (fmtOf_regular ty) hm hge
    rwa [FFmt.overflow_eq] at hround
  case add => exact FFmt.add_rounds ha hb rfl rfl (fmtOf_regular ty)
  case addZero => exact FFmt.add_of_zero ha hb rfl rfl
  case sub => exact FFmt.sub_rounds ha hb rfl rfl (fmtOf_regular ty)
  case mul => exact FFmt.mul_rounds ha hb rfl rfl (fmtOf_regular ty)
  case mulZero => exact FFmt.mul_of_zero ha hb rfl rfl
  case div => exact FFmt.div_rounds (fmtOf_regular ty) ha hb
  case fma => exact FFmt.fma_rounds ha hb rfl rfl (fmtOf_regular ty) hc rfl
  case sqrt => exact FFmt.sqrt_rounds (fmtOf_regular ty) ha
  case cvtFloat => exact cvtRes_float_rounds (isInt_of_mem_floats d hd) (isInt_of_mem_floats s hs) hdec hm hle
  case cvtInt => exact cvtRes_int_rounds (isInt_of_mem_floats d hd) (isInt_of_mem_ints s hs) hne hle
  case toInt =>
    obtain ⟨i, hi, hcvt⟩ := cvtRes_to_int_num (isInt_of_mem_ints d hd) (isInt_of_mem_floats s hs) mode sat hdec
    exact ⟨i, by cases mode <;> exact hi, hcvt⟩
  case ofNan => rw [cvtRes_to_int (isInt_of_mem_ints d hd) (isInt_of_mem_floats s hs), hdec, toIntRes]
  case ofInf => rw [cvtRes_to_int (isInt_of_mem_ints d hd) (isInt_of_mem_floats s hs), hdec, toIntRes]
  case intToInt => exact cvtRes_int (isInt_of_mem_ints d hd) (isInt_of_mem_ints s hs) mode sat a
  case dot4 => exact dot4Float_rounds _ _ hfin hc hne hle
  case fadd => exact reduxRes_fadd_rounds hfin hne hle
  case addSat => exact (reduxRes_add (isInt_of_mem_reduxTypes t ht) mode sat xs).1
  case addCut => exact (reduxRes_add (isInt_of_mem_reduxTypes t ht) mode sat xs).2
  case minMax =>
    obtain ⟨hminMem, hmin⟩ := reduxRes_min (t := t) (mode := mode) (sat := sat) hne
    obtain ⟨hmaxMem, hmax⟩ := reduxRes_max (t := t) (mode := mode) (sat := sat) hne
    exact ⟨hminMem, hmin, hmaxMem, hmax⟩
  case fminFmax => exact ⟨reduxRes_fmin hne hnum, reduxRes_fmax hne hnum⟩
  case narrow => exact Fn.eval_rcp_rounds hdec hm (frac_of_mem_narrow ty hty) hle
  case wide =>
    obtain ⟨hflush, hfrac⟩ := flush_of_mem_wide ty hty a
    exact Fn.eval_rcp_within_unit hfrac (by rwa [hflush]) hm hle hl hl'
  case enclosure => exact abs_sub_le_of_closeTo hclose hlow hup

end Sys2Proof.Machine
end

section
/-! PROOFS. Rejoins (R110, R112): what `join` and `waitj` do where they issue. -/

namespace Sys2Proof.Machine

/-- An instruction whose meaning is an issue completes with the effect that its body has. -/
theorem completes_of_body {i : Instr} {h : Hdr} {f body : Ctx → State → State} (hexec : ∀ s, exec i s = issue i s body)
    (hbody : ∀ k t, body k t = f k t) : Completes i h f := by
  intro s cur x r hi
  rw [hexec, issue_of_issues body hi, hbody]

theorem waitjBody_of_closed {o : FmtC} {k : Ctx} (hv : (k.x.jreg o.jx.toNat).v = false) (t : State) : waitjBody o k t =
    if k.pass = 0 then t else t.onWave k (fun y => y.moveTo k.pass (nextPc k.pc) .ready k.clock) := by
  simp [waitjBody, hv]

/-- On a register in progress: the mismatch, the arrival of the last lane, or the wait for more. -/
theorem waitjBody_of_open {o : FmtC} {k : Ctx} (hv : (k.x.jreg o.jx.toNat).v = true) (t : State) : waitjBody o k t =
    let n := o.jx.toNat
    let r := k.x.jreg n
    let arr := r.arr ||| k.pass
    if k.pass = 0 then t
    else if r.arr ≠ 0 ∧ r.pcw ≠ k.pc then rejoinMismatch k t
    else if r.exp &&& ~~~ arr = 0 then t.onWave k (fun y => { y.joinMerge n k.pass (nextPc k.pc) k.clock with
      j := Tbl.put y.j n { v := false, pcw := k.pc, arr := arr, exp := r.exp } })
    else t.onWave k (fun y => { y.moveTo k.pass k.pc (.joinWait n) k.clock with
      j := Tbl.put y.j n { v := true, pcw := k.pc, arr := arr, exp := r.exp } }) := by
  simp only [waitjBody, hv, Bool.not_true, Bool.false_eq_true, if_false]

/-- Settles O17: `join` by its definition, `waitj` by whether its register is in progress. -/
theorem rejoinComplete : Obligations.RejoinComplete := by
  unfold Obligations.RejoinComplete
  refine ⟨fun h o => completes_of_body (fun _ => rfl) fun k t => ?join, fun h o => completes_of_body (fun _ => rfl) fun k t => ?waitj⟩
  case join => rfl
  case waitj =>
    cases hv : (k.x.jreg o.jx.toNat).v
    · simp only [waitjBody_of_closed hv, hv, if_true]
    · simp only [waitjBody_of_open hv, hv, Bool.true_eq_false, if_false]
      rfl

end Sys2Proof.Machine
end

section
/-! PROOFS. The landing of pending writes (R102, R114, R118, R172): which elements a write of one or two registers changes. -/

namespace Sys2Proof.Machine

/-! ## Lists of cells -/

theorem Bits.tblWf_wr {w : Nat} {m : Bits w} (hm : Tbl.wf m = true) (k : Nat) (x : BitVec w) : Tbl.wf (Bits.wr m k x) = true := by
  unfold Bits.wr
  split
  · exact Tbl.wf_del hm k
  · exact Tbl.wf_put hm k x

/-- A cell that a list of writes to different cells names holds the value that it gives. -/
theorem Bits.rd_wrs_of_mem {w : Nat} {m : Bits w} (hm : Tbl.wf m = true) {l : List (Nat × BitVec w)}
    (hkeys : (l.map (·.1)).Nodup) {k : Nat} {x : BitVec w} (hmem : (k, x) ∈ l) : Bits.rd (Bits.wrs m l) k = x := by
  induction l generalizing m with
  | nil => simp at hmem
  | cons e l ih =>
    obtain ⟨hhead, htail⟩ := List.nodup_cons.mp hkeys
    rcases List.mem_cons.mp hmem with rfl | hmem
    · rw [Bits.wrs, Bits.rd_wrs_other _ _ fun e he hk => hhead (List.mem_map.mpr ⟨e, he, hk⟩), Bits.rd_wr_same hm]
    · exact ih (Bits.tblWf_wr hm _ _) htail hmem

/-- Of a list of writes those to cells that `p` admits leave every other cell alone. -/
theorem Bits.rd_wrs_filter_of_not {w : Nat} (m : Bits w) (l : List (Nat × BitVec w)) {p : Nat → Bool} {g : Nat} (hp : p g = false) :
    Bits.rd (Bits.wrs m (l.filter (fun e => p e.1))) g = Bits.rd m g := by
  refine Bits.rd_wrs_other _ _ fun e he heq => ?_
  have hadmits := (List.mem_filter.mp he).2
  rw [heq, hp] at hadmits
  exact Bool.false_ne_true hadmits

/-! ## The elements of one value -/

/-- The cells `key 0`, `key 1` and so on with the words of a value of `n` registers, low word first. -/
def cells (key : Nat → Nat) (n x : Nat) : List (Nat × Word) :=
  (List.range n).map (fun i => (key i, BitVec.ofNat 32 (fieldOf x (32 * i) 32)))

theorem mem_cells {key : Nat → Nat} {n x : Nat} {e : Nat × Word} :
    e ∈ cells key n x ↔ ∃ i < n, e = (key i, BitVec.ofNat 32 (x / 2 ^ (32 * i))) := by
  have hword : ∀ i, BitVec.ofNat 32 (fieldOf x (32 * i) 32) = BitVec.ofNat 32 (x / 2 ^ (32 * i)) := fun i => by
    apply BitVec.eq_of_toNat_eq
    simp [fieldOf]
  simp [cells, hword, eq_comm]

section
variable {m : Bits 32} {key : Nat → Nat} {n x : Nat} {p : Nat → Bool}

/-- Of different cells one that `p` admits takes its word of the value. -/
theorem rd_wrs_cells (hm : Tbl.wf m = true) (hkey : Function.Injective key) {i : Nat} (hi : i < n) (hp : p (key i) = true) :
    Bits.rd (Bits.wrs m ((cells key n x).filter (fun e => p e.1))) (key i) = BitVec.ofNat 32 (x / 2 ^ (32 * i)) := by
  have hkeys : ((cells key n x).map (·.1)).Nodup := by
    rw [cells, List.map_map]
    exact List.nodup_range.map hkey
  exact Bits.rd_wrs_of_mem hm (hkeys.sublist (List.filter_sublist.map _)) (List.mem_filter.mpr ⟨mem_cells.mpr ⟨i, hi, rfl⟩, hp⟩)

/-- Every cell beside those of the value keeps its word. -/
theorem rd_wrs_cells_other {g : Nat} (hg : ∀ i, i < n → g ≠ key i) :
    Bits.rd (Bits.wrs m ((cells key n x).filter (fun e => p e.1))) g = Bits.rd m g := by
  refine Bits.rd_wrs_other _ _ fun e he => ?_
  obtain ⟨i, hi, rfl⟩ := mem_cells.mp (List.mem_of_mem_filter he)
  exact (hg i hi).symm

end

theorem writesAt_v (d : BitVec 8) (n l x : Nat) :
    writesAt (.v d) n [(l, x)] = { PWrite.nil with v := cells (fun i => keyV (d.toNat + i) l) n x } := by
  simp [writesAt, wordsAt, cells, keyV, PWrite.nil]

theorem writesAt_s (e : BitVec 6) (n l x : Nat) :
    writesAt (.s e) n [(l, x)] = { PWrite.nil with s := cells (fun i => e.toNat + i) n x } := by
  simp [writesAt, wordsAt, cells, PWrite.nil]

theorem keyV_div (r : Nat) {l : Nat} (hl : l < 32) : keyV r l / 32 = r := by unfold keyV vkey; omega

theorem keyV_mod (r : Nat) {l : Nat} (hl : l < 32) : keyV r l % 32 = l := by unfold keyV vkey; omega

theorem keyV_injective (d l : Nat) : Function.Injective (fun i => keyV (d + i) l) := fun i j h => by
  simp only [keyV, vkey] at h
  omega

/-! ## What a landing writes -/

/-- The write that instruction `num` makes to element `g` of the v file in cycle `at_` reaches it: its register lies below QUOTA, its
lane is in the wave, its register has not been lost since the issue (R172), and the write stands (R118). -/
def Wave.reaches (w : Wave) (at_ num g : Nat) : Bool :=
  (decide (g / 32 < w.quota) && w.lanes.getLsbD (g % 32))
    && (w.cuts.all (fun c => decide (c.1 ≤ num) || decide (g / 32 < c.2)) && w.stands at_ num g)

theorem Wave.reaches_of_not_stands {w : Wave} {at_ num g : Nat} (hstands : w.stands at_ num g = false) :
    w.reaches at_ num g = false := by
  rw [Wave.reaches, hstands, Bool.and_false, Bool.and_false]

/-- Where QUOTA has not shrunk since the issue, a write that stands reaches the registers below QUOTA in lanes of the wave. -/
theorem Wave.reaches_keyV {w : Wave} {at_ num r l : Nat} (hl : l < 32) (hcuts : ∀ c ∈ w.cuts, c.1 ≤ num)
    (hstands : w.stands at_ num (keyV r l) = true) :
    w.reaches at_ num (keyV r l) = (decide (r < w.quota) && w.lanes.getLsbD l) := by
  have hall : w.cuts.all (fun c => decide (c.1 ≤ num) || decide (keyV r l / 32 < c.2)) = true :=
    List.all_eq_true.mpr fun c hc => by simp [hcuts c hc]
  rw [Wave.reaches, hstands, hall, keyV_div r hl, keyV_mod r hl, Bool.and_true, Bool.and_true]

section
variable (w : Wave) (clock due num : Nat) (vs ss : List (Nat × Word))

theorem Wave.land_v : (w.land clock { PWrite.nil with v := vs, s := ss, due := due, num := num }).v =
    Bits.wrs w.v (vs.filter (fun e => w.reaches (min due clock) num e.1)) := by
  simp only [Wave.land, PWrite.nil, PWrite.madeAt, List.foldl_nil, Wave.raise, Wave.write, Wave.noteMade, Wave.putS, Wave.putVOp,
    Wave.putV, List.filter_filter, Wave.reaches]

theorem Wave.land_s : (w.land clock { PWrite.nil with v := vs, s := ss, due := due, num := num }).s =
    Bits.wrs w.s (ss.filter (fun e => w.stands (min due clock) num (keyS e.1))) := rfl

/-- A write without predicates and flags leaves predicates and FPCTL, and no write changes rejoin registers and splits. -/
theorem Wave.land_frame : let y := w.land clock { PWrite.nil with v := vs, s := ss, due := due, num := num }
    y.p = w.p ∧ y.j = w.j ∧ y.splits = w.splits ∧ y.fpctl = w.fpctl :=
  ⟨rfl, rfl, rfl, BitVec.or_zero⟩

end

/-- Settles O55: a landing writes different elements, of which it changes those that the write reaches. -/
theorem landingWrites : Obligations.LandingWrites := by
  unfold Obligations.LandingWrites
  intro w clock due num l n x d e hl _ hv hs
  rw [writesAt_v, writesAt_s]
  refine ⟨⟨fun hcuts i hi hstands => ?written, fun g hg => ?kept, fun g hg => ?others, rfl, Wave.land_frame ..⟩,
    fun i hi hstands => ?sWritten, fun g hg => ?sOthers, rfl, Wave.land_frame ..⟩
  case written =>
    have hreach := Wave.reaches_keyV hl hcuts hstands
    rw [Wave.land_v]
    split
    case isTrue hin => exact rd_wrs_cells hv (keyV_injective d.toNat l) hi (hreach.trans (by simp [hin]))
    case isFalse hout => exact Bits.rd_wrs_filter_of_not _ _ (hreach.trans (by simpa using hout))
  case kept => rw [Wave.land_v, Bits.rd_wrs_filter_of_not _ _ (Wave.reaches_of_not_stands hg)]
  case others => rw [Wave.land_v, rd_wrs_cells_other hg]
  case sWritten =>
    rw [Wave.land_s]
    exact rd_wrs_cells (p := fun r => w.stands (min due clock) num (keyS r)) hs (add_right_injective e.toNat) hi hstands
  case sOthers =>
    rw [Wave.land_s]
    exact rd_wrs_cells_other (p := fun r => w.stands (min due clock) num (keyS r)) hg

end Sys2Proof.Machine
end

section
/-! PROOFS. The frame of the register instructions (R114, R118, R121, R157): what an issue leaves outside its wave, and the
instructions whose effect at their issue is a pending write. -/

namespace Sys2Proof.Machine

/-! ## States that differ in one wave -/

theorem SameOutside.trans {s t u : State} (hst : SameOutside s t) (htu : SameOutside t u) : SameOutside s u := by
  cases hst
  cases htu
  constructor <;> exact Eq.trans (by assumption) (by assumption)

theorem OtherCores.trans {s t u : State} {c : Nat} (hst : OtherCores s t c) (htu : OtherCores t u c) : OtherCores s u c :=
  fun d hd => (htu d hd).trans (hst d hd)

theorem SameCore.trans {s t u : State} {c w : Nat} (hst : SameCore s t c w) (htu : SameCore t u c w) : SameCore s u c w := by
  have hwaves : ∀ v, v ≠ w → u.wave? c v = s.wave? c v := fun v hv => (htu.waves v hv).trans (hst.waves v hv)
  cases hst
  cases htu
  constructor
  case waves => exact hwaves
  all_goals exact Eq.trans (by assumption) (by assumption)

theorem OnlyWave.trans {s t u : State} {c w : Nat} (hst : OnlyWave s t c w) (htu : OnlyWave t u c w) : OnlyWave s u c w :=
  ⟨hst.outside.trans htu.outside, hst.cores.trans htu.cores, hst.core.trans htu.core⟩

/-- The cursor belongs to no core. -/
theorem onlyWave_cursor (s : State) (z : Option Cursor) (c w : Nat) : OnlyWave s { s with cursor := z } c w where
  outside := by constructor <;> rfl
  cores _ _ := rfl
  core := by constructor <;> intros <;> rfl

theorem onlyWave_refl (s : State) (c w : Nat) : OnlyWave s s c w := onlyWave_cursor s s.cursor c w

theorem onlyWave_modWave (s : State) (c w : Nat) (f : Wave → Wave) : OnlyWave s (s.modWave c w f) c w where
  outside := by constructor <;> simp
  cores _ hd := State.core_modWave_other s f hd
  core := by
    constructor
    case waves => exact fun v hv => State.wave?_modWave_other s f (.inr hv)
    all_goals simp

theorem onlyWave_issuedAt (s : State) (cur : Cursor) (x : Wave) (i : Instr) (r : Row) (h : Hdr) :
    OnlyWave s (s.issuedAt cur x i r h) cur.core cur.wave where
  outside := by constructor <;> simp
  cores _ hd := State.core_issuedAt_other s x i r h hd
  core := by
    constructor
    case waves => exact fun v hv => State.wave?_issuedAt_other s x i r h (.inr hv)
    all_goals simp

/-! ## The effect of an issue on its wave -/

/-- An effect on the state does nothing, or changes the wave of the context as `R` allows. -/
def ChangesWave (R : Wave → Wave → Prop) (body : Ctx → State → State) : Prop :=
  ∀ k t, body k t = t ∨ ∃ f, body k t = t.onWave k f ∧ ∀ y, R y (f y)

/-- The end of an issue of a split that is not stepped changes no wave. -/
theorem onlyWave_finish {k : Ctx} (hstep : k.step = false) (t : State) (c w : Nat) :
    OnlyWave t (finish k t) c w ∧ (finish k t).wave? c w = t.wave? c w := by
  rw [finish_of_not_step hstep]
  split
  · exact ⟨onlyWave_cursor t _ c w, rfl⟩
  · exact ⟨onlyWave_refl t c w, rfl⟩

theorem onlyWave_of_changesWave {R : Wave → Wave → Prop} (hrefl : ∀ y, R y y) {body : Ctx → State → State}
    (hbody : ChangesWave R body) (k : Ctx) {t : State} {y : Wave} (hy : t.wave? k.core k.wave = some y) :
    OnlyWave t (body k t) k.core k.wave ∧ ∃ z, (body k t).wave? k.core k.wave = some z ∧ R y z := by
  rcases hbody k t with hnone | ⟨f, heq, hf⟩
  · rw [hnone]
    exact ⟨onlyWave_refl .., y, hy, hrefl y⟩
  · rw [heq]
    exact ⟨onlyWave_modWave .., f y, by rw [State.onWave, State.wave?_modWave_same, hy, Option.map_some], hf y⟩

theorem hdr_of_issues {i : Instr} {s : State} {cur : Cursor} {x : Wave} {r : Row} {h : Hdr} (hi : issues i s cur x r h = true) :
    i.shape.hdr = some h := by
  simp only [issues, Bool.and_eq_true, beq_iff_eq] at hi
  tauto

/-- The frame of an issue whose own effect changes its wave alone. -/
theorem onlyWave_issue {R : Wave → Wave → Prop} (hrefl : ∀ y, R y y) {body : Ctx → State → State} (hbody : ChangesWave R body)
    {i : Instr} {s t : State} {cur : Cursor} {x : Wave} {r : Row} {h : Hdr} (hi : issues i s cur x r h = true)
    (hstep : ∀ p ∈ x.execSplits cur.pc cur.lanes, p.stepOne = false) (hexec : issue i s body = .next t) :
    OnlyWave s t cur.core cur.wave ∧ ∃ y, t.wave? cur.core cur.wave = some y
      ∧ R (x.issued i r h (x.lanesAt cur) (s.passAt cur x h) cur.pc s.clock s.nextId cur.second) y := by
  rw [issue_of_issues body hi] at hexec
  obtain rfl := Host.Outcome.next.inj hexec
  have hnone : (s.ctxAt cur x h).step = false := by simpa [State.ctxAt] using hstep
  obtain ⟨honly, y, hy, hR⟩ := onlyWave_of_changesWave hrefl hbody (s.ctxAt cur x h) (State.wave?_issuedAt_same s cur x i r h)
  obtain ⟨hfinish, hwave⟩ := onlyWave_finish hnone (body (s.ctxAt cur x h) (s.issuedAt cur x i r h)) cur.core cur.wave
  exact ⟨((onlyWave_issuedAt s cur x i r h).trans honly).trans hfinish, y, hwave.trans hy, hR⟩

/-! ## Pending writes -/

/-- Beside the pending writes the waves agree. -/
def PendOnly (y z : Wave) : Prop := z = { y with pend := z.pend }

/-- As `PendOnly`, and FPCTL may differ too. -/
def PendOrFpctl (y z : Wave) : Prop := z = { y with pend := z.pend, fpctl := z.fpctl }

theorem pendOnly_refl (y : Wave) : PendOnly y y := rfl

theorem pendOrFpctl_refl (y : Wave) : PendOrFpctl y y := rfl

/-- One more pending write, where a lane passes: what `fixed` and `tokenWrite` do. -/
def pends (w : Ctx → PWrite) (k : Ctx) (s : State) : State :=
  if k.pass = 0 then s else s.onWave k (fun y => { y with pend := y.pend ++ [w k] })

theorem changesWave_pends (w : Ctx → PWrite) : ChangesWave PendOnly (pends w) := by
  intro k t
  unfold pends
  split
  · exact .inl rfl
  · exact .inr ⟨_, rfl, fun _ => rfl⟩

theorem changesWave_swriteBody (o : FmtA) : ChangesWave PendOrFpctl (swriteBody o) := by
  intro k t
  unfold swriteBody
  split
  · exact .inl rfl
  · dsimp only
    split
    case h_4 => exact .inl rfl
    all_goals exact .inr ⟨_, rfl, fun _ => rfl⟩

/-! ## The frame -/

/-- What the issue of `i` by a split that is not stepped leaves as it was. -/
def KeepsRegisters (i : Instr) : Prop :=
  ∀ (s t : State) (cur : Cursor) (x : Wave) (r : Row) (h : Hdr), issues i s cur x r h = true →
    (∀ p ∈ x.execSplits cur.pc cur.lanes, p.stepOne = false) → exec i s = .next t →
    OnlyWave s t cur.core cur.wave ∧ ∃ y, t.wave? cur.core cur.wave = some y ∧ y.v = x.v ∧ y.s = x.s ∧ y.p = x.p
      ∧ ((∀ o, i ≠ .swrite h o) → y.fpctl = x.fpctl) ∧ y.chkctl = x.chkctl ∧ y.quota = x.quota ∧ y.scalewin = x.scalewin ∧ y.j = x.j
      ∧ y.argp = x.argp ∧ y.abase = x.abase ∧ y.abytes = x.abytes ∧ y.barW = x.barW ∧ y.barQ = x.barQ

/-- An instruction whose own effect is a pending write. -/
theorem keepsRegisters_of_pends {i : Instr} (hpends : ∃ w, ∀ s, exec i s = issue i s (pends w)) : KeepsRegisters i := by
  obtain ⟨w, hexec⟩ := hpends
  intro s t cur x r h hi hstep hnext
  rw [hexec] at hnext
  obtain ⟨honly, y, hy, hpend⟩ := onlyWave_issue pendOnly_refl (changesWave_pends w) hi hstep hnext
  unfold PendOnly at hpend
  refine ⟨honly, y, hy, ?_⟩
  rw [hpend]
  simp

theorem keepsRegisters_swrite (h : Hdr) (o : FmtA) : KeepsRegisters (.swrite h o) := by
  intro s t cur x r h' hi hstep hnext
  obtain ⟨honly, y, hy, hpend⟩ := onlyWave_issue pendOrFpctl_refl (changesWave_swriteBody o) hi hstep hnext
  unfold PendOrFpctl at hpend
  obtain rfl : h = h' := Option.some.inj (hdr_of_issues hi)
  refine ⟨honly, y, hy, ?_⟩
  rw [hpend]
  simp

/-- Settles O52: each instruction but `swrite` has a pending write as its whole effect. -/
theorem registerFrame : Obligations.RegisterFrame := by
  unfold Obligations.RegisterFrame
  intro keeps
  change (∀ h (o : FmtA), ∀ i ∈ _, KeepsRegisters i) ∧ (∀ h (o : FmtI), ∀ i ∈ _, KeepsRegisters i)
  refine ⟨fun h o => ?formatA, fun h o => ?formatI⟩
  case formatA =>
    simp only [List.forall_mem_cons]
    and_intros
    on_goal -2 => exact keepsRegisters_swrite h o
    on_goal -1 => exact List.forall_mem_nil _
    all_goals exact keepsRegisters_of_pends ⟨_, fun _ => rfl⟩
  case formatI =>
    simp only [List.forall_mem_cons]
    and_intros
    on_goal -1 => exact List.forall_mem_nil _
    all_goals exact keepsRegisters_of_pends ⟨_, fun _ => rfl⟩

end Sys2Proof.Machine
end

section
/-! PROOFS. What the rows of the integer and control groups allow (Tables 6-1, 6-2): types, saturation, targets, and the specials that
`swrite` names. -/

namespace Sys2Proof

theorem Instr.uses_of_wellFormed {i : Instr} {r : Row} (hwf : i.wellFormed = true) (hrow : i.shape.row = some r) :
    ∀ u ∈ r.uses, u.ok = true := by
  unfold Instr.wellFormed at hwf
  cases hs : i.shape <;> simp_all [Shape.row, Row.encOk]

theorem Ty.isInt_of_signed {t : Ty} (hsigned : t.signed = true) : t.isInt = true := by
  cases t <;> simp_all [Ty.signed, Ty.isInt]

theorem Ty.signed_of_eq {t : Ty} (ht : t = .i32 ∨ t = .i64) : t.signed = true := by
  rcases ht with rfl | rfl <;> rfl

theorem ty_mem_of_rowA {o : FmtA} {types : List Ty} {subs : List Nat} {rnd sat mA mB mC pd ps sOk : Bool} {cls : Cls} {uses : List Use}
    (hmod : (rowA o types subs rnd sat mA mB mC pd ps sOk cls uses).mod = true) : o.ty ∈ types := by
  simp only [rowA, Bool.and_eq_true, List.contains_iff_mem] at hmod
  tauto

theorem ty_mem_of_rowI {o : FmtI} {types : List Ty} {subs : List Nat} {pd sOk : Bool} {cls : Cls} {uses : List Use}
    (hmod : (rowI o types subs pd sOk cls uses).mod = true) : o.ty ∈ types := by
  simp only [rowI, Bool.and_eq_true, List.contains_iff_mem] at hmod
  tauto

theorem sat_of_rowA {o : FmtA} {types : List Ty} {subs : List Nat} {rnd mA mB mC pd ps sOk : Bool} {cls : Cls} {uses : List Use}
    (hmod : (rowA o types subs rnd false mA mB mC pd ps sOk cls uses).mod = true) : o.sat = false := by
  simp only [rowA, Bool.and_eq_true, Bool.false_or, Bool.not_eq_true'] at hmod
  tauto

/-- `abs` and `neg` have signed types. -/
theorem ty_of_wellFormed_abs_or_neg {h : Hdr} {o : FmtA}
    (hwf : Instr.wellFormed (.abs h o) = true ∨ Instr.wellFormed (.neg h o) = true) : o.ty = .i32 ∨ o.ty = .i64 := by
  have hmem : o.ty ∈ [Ty.i32, Ty.i64] := by
    rcases hwf with hwf | hwf <;> exact ty_mem_of_rowA (Instr.mod_of_wellFormed hwf rfl)
  simpa using hmem

theorem ty_of_wellFormed_movi {h : Hdr} {o : FmtI} (hwf : Instr.wellFormed (.movi h o) = true) : o.ty ∈ tysB := by
  have hmod := Instr.mod_of_wellFormed hwf rfl
  simp only [rowMovi, Bool.and_eq_true] at hmod
  exact ty_mem_of_rowI hmod.1

theorem special_ok {d : Opnd} {t : Ty} (hok : (Use.special d t).ok = true) :
    d = .sp .fpctl ∨ d = .sp .chkctl ∨ ∃ n, d = .sp (.scalewin n) := by
  unfold Use.special at hok
  dsimp only at hok
  split at hok <;> simp_all

theorem slot_of_wellFormed {h : Hdr} {o : FmtC} (hwf : Instr.wellFormed (.bra h o) = true ∨ Instr.wellFormed (.call h o) = true) :
    o.slot.toNat < 5 := by
  rcases hwf with hwf | hwf
  all_goals
    have henc := Instr.enc_of_wellFormed hwf rfl
    simp only [Row.link, rowC, Bool.and_eq_true, if_true, decide_eq_true_eq] at henc
    tauto

theorem clsI_latency (t : Ty) (c32 c64 : Cls) :
    (clsI t c32 c64).latency = if t.wide then c64.latency else c32.latency :=
  apply_ite Cls.latency ..

theorem clsI_self (t : Ty) (cls : Cls) : clsI t cls cls = cls := ite_self cls

end Sys2Proof
end

section
/-! PROOFS. The results of the integer group (R114, R135 to R152): one completion rule for each shape of a result, and the values
of the arithmetic that its instructions share. -/

namespace Sys2Proof.Machine

/-! ## Completion by the shape of the result -/

/-- As `completes_of_body`, where a condition holds at the issue. -/
theorem completesAt_of_body {i : Instr} {h : Hdr} {ok : Ctx → State → Prop} {f body : Ctx → State → State}
    (hexec : ∀ s, exec i s = issue i s body) (hbody : ∀ k t, ok k t → body k t = f k t) : CompletesAt i h ok f := by
  intro s cur x r hi hok
  rw [hexec, issue_of_issues body hi, hbody _ _ hok]

section
variable {i : Instr} {h : Hdr} {d : Opnd} {sc : Bool} {n lat : Nat} {cls : Cls} {pd : BitVec 3}

/-- A value of `n` registers per lane, after the latency of the class. -/
theorem completes_gives {f g : Ctx → Nat → Nat} (hexec : ∀ s, exec i s = issue i s (fun k => aluOut k d sc n cls (f k)))
    (hlat : cls.latency = lat) (hval : ∀ k l, f k l = g k l) : Completes i h (fun k => gives k lat n d sc (g k)) := by
  obtain rfl : f = g := funext₂ hval
  subst hlat
  exact completes_of_body hexec fun _ _ => rfl

/-- A value and a predicate per lane. -/
theorem completes_givesP {f : Ctx → Nat → Nat × Bool} {g : Ctx → Nat → Nat} {p : Ctx → Nat → Bool}
    (hexec : ∀ s, exec i s = issue i s (fun k => aluPred k d sc n cls pd (f k))) (hlat : cls.latency = lat)
    (hval : ∀ k l, f k l = (g k l, p k l)) : Completes i h (fun k => givesP k lat n d sc pd (g k) (p k)) := by
  obtain rfl : f = fun k l => (g k l, p k l) := funext₂ hval
  subst hlat
  refine completes_of_body hexec fun k t => ?_
  simp [aluPred, givesP, perLane, Function.comp_def]

/-- A predicate alone. -/
theorem completes_givesB {f g : Ctx → Nat → Bool} (hexec : ∀ s, exec i s = issue i s (fun k => predOut k cls pd (f k)))
    (hlat : cls.latency = lat) (hval : ∀ k l, f k l = g k l) : Completes i h (fun k => givesB k lat pd (g k)) := by
  obtain rfl : f = g := funext₂ hval
  subst hlat
  exact completes_of_body hexec fun _ _ => rfl

/-- A value of the divide unit, which completes the operation by a token (R142). -/
theorem completes_divUnit {t : Ty} {f g : Ctx → Nat → Nat} (hexec : ∀ s, exec i s = issue i s (fun k => divOut d sc t (f k) k))
    (hval : ∀ k l, f k l = g k l) : Completes i h (fun k => tokenWrite k (k.clock + if t.wide then 34 else 18) true
      (writesAt d t.regs (perLane k sc (g k)))) := by
  obtain rfl : f = g := funext₂ hval
  exact completes_of_body hexec fun _ _ => rfl

end

/-! ## Sums and differences (R140) -/

theorem addSub_add (t : Ty) (sat : Bool) (a b cin : Nat) : addSub false t sat a b cin =
    let e := intVal t a + intVal t b + cin
    (truncTo t.bits (if sat then clampTo t e else e), if sat then clampTo t e != e else decide (2 ^ t.bits ≤ a + b + cin)) := by
  cases sat <;> rfl

theorem addSub_sub (t : Ty) (sat : Bool) (a b cin : Nat) : addSub true t sat a b cin =
    let e := intVal t a - intVal t b - cin
    (truncTo t.bits (if sat then clampTo t e else e), if sat then clampTo t e != e else decide (a < b + cin)) := by
  cases sat <;> rfl

/-- Settles O1: each form is a sum or a difference of `addSub`, with the carry or borrow that it reads, if any. -/
theorem addSubComplete : Obligations.AddSubComplete := by
  unfold Obligations.AddSubComplete
  refine ⟨fun h o => completes_givesP (fun _ => rfl) (clsI_latency ..) fun k l => ?add,
    fun h o => completes_givesP (fun _ => rfl) (clsI_latency ..) fun k l => ?addImm,
    fun h o hwf => completes_givesP (fun _ => rfl) (clsI_latency ..) fun k l => ?addc,
    fun h o => completes_givesP (fun _ => rfl) (clsI_latency ..) fun k l => ?addcImm,
    fun h o => completes_givesP (fun _ => rfl) (clsI_latency ..) fun k l => ?sub,
    fun h o => completes_givesP (fun _ => rfl) (clsI_latency ..) fun k l => ?subImm,
    fun h o hwf => completes_givesP (fun _ => rfl) (clsI_latency ..) fun k l => ?subb,
    fun h o => completes_givesP (fun _ => rfl) (clsI_latency ..) fun k l => ?subbImm⟩
  case add | addImm | addcImm => simp [addSub_add, opA, opI, bitOf]
  case addc => simp [addSub_add, sat_of_rowA (Instr.mod_of_wellFormed hwf rfl), opA, bitOf]
  case sub | subImm | subbImm => simp [addSub_sub, opA, opI, bitOf]
  case subb => simp [addSub_sub, sat_of_rowA (Instr.mod_of_wellFormed hwf rfl), opA, bitOf]

/-! ## Products, quotients and remainders (R141, R142) -/

/-- Settles O2: each value is `narrow` or `mulHigh` of the exact product or sum. -/
theorem mulComplete : Obligations.MulComplete := by
  unfold Obligations.MulComplete
  and_intros
  all_goals exact fun h o => completes_gives (fun _ => rfl) (clsI_latency ..) (fun _ _ => rfl)

theorem divRem_fst (t : Ty) (a b : Nat) : (divRem t a b).1 = truncTo t.bits (if intVal t b = 0 then -1
    else if t.signed ∧ intVal t a = intMin t ∧ intVal t b = -1 then intMin t else Int.tdiv (intVal t a) (intVal t b)) := by
  unfold divRem
  dsimp only
  split_ifs <;> rfl

theorem divRem_snd (t : Ty) (a b : Nat) : (divRem t a b).2 = truncTo t.bits (if intVal t b = 0 then intVal t a
    else if t.signed ∧ intVal t a = intMin t ∧ intVal t b = -1 then 0 else Int.tmod (intVal t a) (intVal t b)) := by
  unfold divRem
  dsimp only
  split_ifs
  case pos => rfl
  case pos => simp [truncTo]
  case neg => rfl

/-- Settles O3: `div` takes the first and `rem` the second number of `divRem`. -/
theorem divRemComplete : Obligations.DivRemComplete := by
  unfold Obligations.DivRemComplete
  exact ⟨fun h o => completes_divUnit (fun _ => rfl) fun _ _ => divRem_fst ..,
    fun h o => completes_divUnit (fun _ => rfl) fun _ _ => divRem_fst ..,
    fun h o => completes_divUnit (fun _ => rfl) fun _ _ => divRem_snd ..,
    fun h o => completes_divUnit (fun _ => rfl) fun _ _ => divRem_snd ..⟩

/-! ## Lesser, greater, absolute value, negation (R143) -/

theorem truncTo_eq_of_modEq {w : Nat} {x y : ℤ} (hxy : x ≡ y [ZMOD 2 ^ w]) : truncTo w x = truncTo w y :=
  congrArg Int.toNat hxy

theorem clampTo_of_mem {t : Ty} {x : ℤ} (hlow : intMin t ≤ x) (hup : x ≤ intMax t) : clampTo t x = x := by
  rw [clampTo, if_neg (not_lt.mpr hlow), if_neg (not_lt.mpr hup)]

/-- A value of the type is not changed by SAT. -/
theorem narrow_of_mem {t : Ty} {x : ℤ} (hlow : intMin t ≤ x) (hup : x ≤ intMax t) (sat : Bool) :
    narrow t sat x = truncTo t.bits x := by
  rw [narrow, clampTo_of_mem hlow hup, ite_self]
  rfl

section
variable {t : Ty} (hsigned : t.signed = true)
include hsigned

theorem intMax_of_signed : intMax t = -intMin t - 1 := by
  simp [intMax, intMin, hsigned]

theorem intMin_neg : intMin t < 0 := by
  simp [intMin, hsigned]

/-- The negation of min(T) is one beyond max(T), and min(T) again once it is cut. -/
theorem narrow_neg_intMin (sat : Bool) : narrow t sat (-intMin t) = truncTo t.bits (if sat then intMax t else intMin t) := by
  have hmax := intMax_of_signed hsigned
  have hneg := intMin_neg hsigned
  cases sat
  case false =>
    change truncTo t.bits (-intMin t) = truncTo t.bits (intMin t)
    refine truncTo_eq_of_modEq (Int.modEq_iff_dvd.mpr ⟨-1, ?_⟩)
    linarith [intMax_eq (Ty.isInt_of_signed hsigned)]
  case true =>
    have hclamp : clampTo t (-intMin t) = intMax t := by
      rw [clampTo, if_neg (by omega), if_pos (by omega)]
    rw [narrow, hclamp]
    rfl

theorem narrow_neg_intVal (sat : Bool) (a : Nat) : narrow t sat (-intVal t a) =
    truncTo t.bits (if intVal t a = intMin t then (if sat then intMax t else intMin t) else -intVal t a) := by
  obtain ⟨hlow, hup⟩ := intVal_range (Ty.isInt_of_signed hsigned) a
  have hmax := intMax_of_signed hsigned
  split
  next hmin => rw [hmin, narrow_neg_intMin hsigned]
  next hmin => exact narrow_of_mem (by omega) (by omega) sat

theorem narrow_natAbs_intVal (sat : Bool) (a : Nat) : narrow t sat ((intVal t a).natAbs : ℤ) =
    truncTo t.bits (if intVal t a = intMin t then (if sat then intMax t else intMin t)
      else if intVal t a < 0 then -intVal t a else intVal t a) := by
  obtain ⟨hlow, hup⟩ := intVal_range (Ty.isInt_of_signed hsigned) a
  have hneg := intMin_neg hsigned
  rcases lt_or_ge (intVal t a) 0 with hlt | hge
  · rw [Int.ofNat_natAbs_of_nonpos hlt.le, narrow_neg_intVal hsigned, if_pos hlt]
  · rw [Int.natAbs_of_nonneg hge, if_neg (by omega), if_neg (by omega), narrow_of_mem hlow hup]

end

/-- Settles O4: `abs` and `neg` by `narrow` of a value of a signed type, which leaves the type for min(T) alone. -/
theorem minMaxComplete : Obligations.MinMaxComplete := by
  unfold Obligations.MinMaxComplete
  refine ⟨?min, ?minImm, ?max, ?maxImm, fun h o hwf => completes_gives (fun _ => rfl) (clsI_latency ..) fun k l => ?abs,
    fun h o hwf => completes_gives (fun _ => rfl) (clsI_latency ..) fun k l => ?neg, fun h o => ty_of_wellFormed_abs_or_neg⟩
  case abs => exact narrow_natAbs_intVal (Ty.signed_of_eq (ty_of_wellFormed_abs_or_neg (.inl hwf))) ..
  case neg => exact narrow_neg_intVal (Ty.signed_of_eq (ty_of_wellFormed_abs_or_neg (.inr hwf))) ..
  all_goals exact fun h o => completes_gives (fun _ => rfl) (clsI_latency ..) (fun _ _ => rfl)

/-! ## Logic, shifts, bit fields (R144 to R149) -/

/-- Settles O5: every operation is the one of its bits. -/
theorem logicComplete : Obligations.LogicComplete := by
  unfold Obligations.LogicComplete
  and_intros
  all_goals exact fun h o => completes_gives (fun _ => rfl) (clsI_latency ..) (fun _ _ => rfl)

/-- Settles O6: `shlW`, `shrW`, `shaW` and `rotW` at the width of the type. -/
theorem shiftComplete : Obligations.ShiftComplete := by
  unfold Obligations.ShiftComplete
  and_intros
  all_goals exact fun h o => completes_gives (fun _ => rfl) (clsI_latency ..) (fun _ _ => rfl)

/-- The window of `shf` starts at min(c, 64), or at c mod 64 of {b:a} turned by that amount (R146). -/
theorem shfW_eq (fill : Bool) (a b c : Nat) : shfW fill a b c =
    let x := b * 2 ^ 32 + a
    if fill then x / 2 ^ min c 64 % 2 ^ 32 else (x / 2 ^ (c % 64) + x * 2 ^ (64 - c % 64)) % 2 ^ 32 := rfl

/-- Settles O7: the values are those of the model's own functions, and the class is the same at both widths. -/
theorem bitFieldComplete : Obligations.BitFieldComplete := by
  unfold Obligations.BitFieldComplete
  refine ⟨fun h o => completes_gives (fun _ => rfl) rfl fun k l => ?shf, ?bfe, ?bfeImm, ?bfi, ?popc, ?clz, ?ctz, ?brev, ?perm, ?permImm⟩
  case shf => simp [shfW_eq]
  case bfe | bfeImm | bfi | perm | permImm => exact fun h o => completes_gives (fun _ => rfl) rfl (fun _ _ => rfl)
  case popc | clz | ctz | brev =>
    exact fun h o => completes_gives (fun _ => rfl) (congrArg Cls.latency (clsI_self o.ty .i2)) (fun _ _ => rfl)

end Sys2Proof.Machine
end

section
/-! PROOFS. Selection, comparison, predicates (R150 to R152), addresses, moves and extensions (R153 to R155), `sread` and `swrite`
(R156, R157). -/

namespace Sys2Proof.Machine

/-! ## Predicates (R150 to R152) -/

theorem cmpCond_eq (n : Nat) (x y : ℤ) : cmpCond n x y =
    match n with
    | 0 => decide (x = y) | 1 => decide (x ≠ y) | 2 => decide (x < y) | 3 => decide (x ≤ y) | 4 => decide (x > y)
    | _ => decide (x ≥ y) := by
  match n with
  | 0 | 2 | 3 | 4 | _ + 5 => rfl
  | 1 => exact (decide_not (p := x = y)).symm

/-- The truth table of `plop` is read at the number that the three predicates write (R152). -/
theorem plopBit_eq (lut : Nat) (a b c : Bool) : plopBit lut a b c =
    (lut / 2 ^ ((if a then 4 else 0) + (if b then 2 else 0) + (if c then 1 else 0)) % 2 == 1) := by
  simp [plopBit, fieldOf, bitOf, mul_ite]

/-- R45: p7 is true. -/
theorem Ctx.p_seven (k : Ctx) (l : Nat) : k.p 7 l = true := rfl

/-- Settles O9: `cmp` by the case of its condition, `plop` by its table. -/
theorem predicateComplete : Obligations.PredicateComplete := by
  unfold Obligations.PredicateComplete
  exact ⟨fun h o => completes_gives (fun _ => rfl) (clsI_latency ..) fun _ _ => rfl,
    fun h o => completes_gives (fun _ => rfl) (clsI_latency ..) fun _ _ => rfl,
    fun h o => completes_givesB (fun _ => rfl) (clsI_latency ..) fun k l => congrArg (· && k.p o.ps.toNat l) (cmpCond_eq ..),
    fun h o => completes_givesB (fun _ => rfl) (clsI_latency ..) fun _ _ => cmpCond_eq ..,
    fun h o => completes_givesB (fun _ => rfl) rfl fun _ _ => plopBit_eq ..,
    Ctx.p_seven⟩

/-! ## Addresses, moves and extensions (R49, R153 to R155) -/

theorem sintOf_toNat (x : Word) : sintOf 32 x.toNat = x.toInt := by
  rw [BitVec.toInt_eq_toNat_cond, sintOf, Nat.mod_eq_of_lt x.isLt]
  have hlt := x.isLt
  split_ifs <;> omega

/-- R153: the index of `lea` is a pair, or a register that is widened by the signedness of the type. -/
theorem leaIdx_of_mem {t : Ty} (ht : t ∈ [Ty.i32, .n32, .b64]) (a b : Nat) : leaIdx t (if t.wide then a else b) =
    if t.wide then a else if t.signed then truncTo 64 (sintOf 32 b) else b := by
  simp only [List.mem_cons, List.not_mem_nil, or_false] at ht
  rcases ht with rfl | rfl | rfl <;> rfl

theorem leaIdx_immAt {t : Ty} (ht : t ∈ [Ty.i32, .n32, .b64]) (imm : Word) : leaIdx t (immAt t imm) =
    if t = .n32 then imm.toNat else truncTo 64 imm.toInt := by
  rw [← sintOf_toNat]
  simp only [List.mem_cons, List.not_mem_nil, or_false] at ht
  rcases ht with rfl | rfl | rfl <;> rfl

theorem immAt_of_mem_tysB {t : Ty} (ht : t ∈ tysB) (imm : Word) : immAt t imm =
    if t = .b64 then truncTo 64 imm.toInt else imm.toNat := by
  rw [← sintOf_toNat]
  simp only [tysB, List.mem_cons, List.not_mem_nil, or_false] at ht
  rcases ht with rfl | rfl <;> rfl

theorem extW_of_signed {t : Ty} (ht : t ∈ [Ty.i8, .i16, .i32]) (n a : Nat) : extW t n a = truncTo (32 * n) (sintOf t.bits a) := by
  simp only [List.mem_cons, List.not_mem_nil, or_false] at ht
  rcases ht with rfl | rfl | rfl <;> rfl

theorem extW_of_unsigned {t : Ty} (ht : t ∈ [Ty.n8, .n16, .n32]) (n a : Nat) : extW t n a = a % 2 ^ t.bits := by
  simp only [List.mem_cons, List.not_mem_nil, or_false] at ht
  rcases ht with rfl | rfl | rfl <;> rfl

/-! ## `swrite` (R157) -/

/-- R78: FPCTL is replaced at the issue, with the flags of its own cycle. -/
theorem swriteBody_of_fpctl {o : FmtA} (hd : o.d = .sp .fpctl) (k : Ctx) (t : State) : swriteBody o k t =
    if k.pass = 0 then t
    else t.onWave k (fun y => { y with fpctl := (BitVec.ofNat 32 (k.opnd o.a o.ty k.low) &&& 0x3F)
      ||| (if y.raised.1 = k.clock then y.raised.2.setWidth 32 else 0) }) := by
  simp [swriteBody, hd]

theorem swriteBody_of_chkctl {o : FmtA} (hd : o.d = .sp .chkctl) (k : Ctx) (t : State) : swriteBody o k t =
    if k.pass = 0 then t
    else t.onWave k (fun y => { y with pend := y.pend ++ [{ PWrite.nil with
      due := k.clock + 3, early := k.clock + 1, sp := [(0, BitVec.ofNat 64 (k.opnd o.a o.ty k.low))] }] }) := by
  simp [swriteBody, hd, Cls.latency]

theorem swriteBody_of_scalewin {o : FmtA} {n : BitVec 3} (hd : o.d = .sp (.scalewin n)) (k : Ctx) (t : State) : swriteBody o k t =
    if k.pass = 0 then t
    else t.onWave k (fun y => { y with pend := y.pend ++ [{ PWrite.nil with
      due := k.clock + 3, early := k.clock + 1, sp := [(n.toNat + 1, BitVec.ofNat 64 (k.opnd o.a o.ty k.low))] }] }) := by
  simp [swriteBody, hd, Cls.latency]

/-- Settles O10: the widened operands by the types of their rows, `swrite` by the special that it names. -/
theorem moveComplete : Obligations.MoveComplete := by
  unfold Obligations.MoveComplete
  refine ⟨⟨fun h o hwf => completes_gives (fun _ => rfl) (clsI_latency ..) fun k l => ?lea,
      fun h o hwf => completes_gives (fun _ => rfl) (clsI_latency ..) fun k l => ?leaImm,
      fun h o => completes_gives (fun _ => rfl) (clsI_latency ..) fun _ _ => rfl,
      fun h o hwf => completes_gives (fun _ => rfl) (clsI_latency ..) fun k l => ?movi,
      fun h o hwf => completes_gives (fun _ => rfl) rfl fun k l => ?sxt,
      fun h o hwf => completes_gives (fun _ => rfl) rfl fun k l => ?zxt⟩,
    fun h o => completes_of_body (fun _ => rfl) fun _ _ => rfl,
    fun h o hd => completes_of_body (fun _ => rfl) (swriteBody_of_fpctl hd),
    fun h o hd => completes_of_body (fun _ => rfl) (swriteBody_of_chkctl hd),
    fun h o n hd => completes_of_body (fun _ => rfl) (swriteBody_of_scalewin hd),
    fun h o hwf => ?swrite⟩
  case lea => rw [leaIdx_of_mem (ty_mem_of_rowA (Instr.mod_of_wellFormed hwf rfl)), leaW]
  case leaImm => rw [leaIdx_immAt (ty_mem_of_rowI (Instr.mod_of_wellFormed hwf rfl)), leaW]
  case movi => rw [immAt_of_mem_tysB (ty_of_wellFormed_movi hwf)]
  case sxt => exact extW_of_signed (ty_mem_of_rowA (Instr.mod_of_wellFormed hwf rfl)) ..
  case zxt => exact extW_of_unsigned (ty_mem_of_rowA (Instr.mod_of_wellFormed hwf rfl)) ..
  case swrite => exact special_ok (Instr.uses_of_wellFormed hwf rfl _ List.mem_cons_self)

end Sys2Proof.Machine
end

section
/-! PROOFS. Transfers (R51, R117, R159 to R162) and the instructions that act on the wave (R164 to R171). -/

namespace Sys2Proof.Machine

/-! ## Lanes that fault together -/

/-- The lanes of a list that meet one cause take it in one trap, with the address of the first of them (R378). -/
theorem State.laneFaults_of_cause (s : State) (k : Ctx) (c : Nat) (f : Nat → Nat) {ls : List Nat} (hne : ls ≠ []) (hlt : ∀ l ∈ ls, l < 32) :
    s.laneFaults k (ls.map (fun l => (l, c, f l))) = s.takeTrap k.core k.wave (laneSet ls) c 0 k.pc (f (ls.headD 0)) k.pc := by
  obtain ⟨a, rest, rfl⟩ := List.exists_cons_of_ne_nil hne
  have hgroup : groupLanes (((a :: rest).map (fun l => (l, c, f l))).map (fun e => (e.1, e.2.1))) = [(c, laneSet (a :: rest))] := by
    rw [List.map_map]
    exact groupLanes_const _ c hne
  have hfirst : (laneSet (a :: rest)).getLsbD a = true := by
    simp [laneSet_getLsbD, hlt a List.mem_cons_self]
  rw [State.laneFaults, hgroup]
  simp [hfirst]

/-! ## Transfers -/

/-- Where the lanes of a list go, each group of one target as a split (R106). -/
def transferAll (k : Ctx) (f : Nat → Nat) (ls : List Nat) (s : State) : State :=
  (groupLanes (ls.map (fun l => (l, f l)))).foldl (fun u g => u.onWave k (fun y => y.transfer k g.2 (BitVec.ofNat 56 g.1))) s

/-- The passing lanes whose target breaks R35. -/
def badTargetLanes (k : Ctx) (f : Nat → Nat) : List Nat := (lanesOf k.pass).filter (fun l => !pcOk (f l))

theorem transferTo_eq (k : Ctx) (f : Nat → Nat) (s : State) : transferTo k f s =
    (transferAll k f ((lanesOf k.pass).filter (fun l => pcOk (f l))) s).laneFaults k ((badTargetLanes k f).map (fun l => (l, 0x04, f l))) := by
  simp [transferTo, transferAll, badTargetLanes, List.filter_map, Function.comp_def]

theorem transferTo_of_ok {k : Ctx} {f : Nat → Nat} (hok : ∀ l ∈ lanesOf k.pass, pcOk (f l) = true) (s : State) :
    transferTo k f s = transferAll k f (lanesOf k.pass) s := by
  have hnone : badTargetLanes k f = [] := List.filter_eq_nil_iff.mpr fun l hl => by simp [hok l hl]
  rw [transferTo_eq, List.filter_eq_self.mpr hok, hnone, List.map_nil, State.laneFaults_nil]

theorem transferTo_of_bad {k : Ctx} {f : Nat → Nat} (hbad : badTargetLanes k f ≠ []) (s : State) : transferTo k f s =
    (transferAll k f ((lanesOf k.pass).filter (fun l => pcOk (f l))) s).takeTrap k.core k.wave (laneSet (badTargetLanes k f)) 0x04 0 k.pc
      (f ((badTargetLanes k f).headD 0)) k.pc := by
  rw [transferTo_eq, State.laneFaults_of_cause _ _ _ _ hbad fun l hl => (mem_lanesOf.mp (List.mem_of_mem_filter hl)).1]

theorem transferTo_of_none {k : Ctx} (hpass : k.pass = 0) (f : Nat → Nat) (s : State) : transferTo k f s = s := by
  have hlanes : lanesOf k.pass = [] := by rw [hpass, lanesOf_zero]
  rw [transferTo_of_ok (by simp [hlanes]), hlanes]
  rfl

/-- Lanes with one target move as one split. -/
theorem transferTo_const {k : Ctx} (hpass : k.pass ≠ 0) {x : Nat} (hok : pcOk x = true) (s : State) :
    transferTo k (fun _ => x) s = s.onWave k (fun y => y.transfer k k.pass (BitVec.ofNat 56 x)) := by
  rw [transferTo_of_ok fun _ _ => hok, transferAll, groupLanes_lanesOf x hpass]
  rfl

theorem linkWrite_of_none {k : Ctx} (hpass : k.pass = 0) (s : State) : linkWrite k s = s := fixed_of_none hpass ..

/-! ## The target of `bra` and `call` (R51) -/

theorem branchTarget_eq (o : FmtC) (pc : PC) : BitVec.ofNat 56 (branchTarget o pc) =
    BitVec.ofNat 56 (lineOf pc + 12 * o.slot.toNat) + o.disp.signExtend 56 * 64 := by
  rw [branchTarget, BitVec.ofNat_toNat, BitVec.setWidth_eq, mul_comm o.slot.toNat]

/-- The target is a slot of a line: whole lines are added to a line and a slot of it, modulo 2^56. -/
theorem pcOk_branchTarget {o : FmtC} (hslot : o.slot.toNat < 5) (pc : PC) : pcOk (branchTarget o pc) = true := by
  have hmod : branchTarget o pc % 64 = 12 * o.slot.toNat := by
    rw [branchTarget, BitVec.toNat_add, BitVec.toNat_mul, BitVec.toNat_ofNat]
    simp only [lineOf, BitVec.reduceToNat]
    omega
  have hlt : branchTarget o pc < 2 ^ 56 := BitVec.isLt _
  simp only [pcOk, hmod, Bool.and_eq_true, decide_eq_true_eq]
  omega

theorem transferTo_branchTarget {k : Ctx} {o : FmtC} (hslot : o.slot.toNat < 5) (hpass : k.pass ≠ 0) (s : State) :
    transferTo k (fun _ => branchTarget o k.pc) s = s.onWave k (fun y => y.transfer k k.pass
      (BitVec.ofNat 56 (lineOf k.pc + 12 * o.slot.toNat) + o.disp.signExtend 56 * 64)) := by
  rw [transferTo_const hpass (pcOk_branchTarget hslot k.pc), branchTarget_eq]

/-- Settles O16: a target of `bra` or `call` is always a slot of a line, and `brx`, `callx` and `ret` by whether each lane's is. -/
theorem transferComplete : Obligations.TransferComplete := by
  unfold Obligations.TransferComplete
  refine ⟨⟨fun h o hwf => completes_of_body (fun _ => rfl) fun k t => ?bra,
      fun h o => completesAt_of_body (fun _ => rfl) fun k t hok => transferTo_of_ok hok t,
      fun h o hwf => completes_of_body (fun _ => rfl) fun k t => ?call,
      fun h o => completesAt_of_body (fun _ => rfl) fun k t hok => transferTo_of_ok hok (linkWrite k t),
      fun h o => completesAt_of_body (fun _ => rfl) fun k t hok => transferTo_of_ok hok t⟩,
    fun h o => completesAt_of_body (fun _ => rfl) fun k t hbad => transferTo_of_bad hbad t,
    fun h o => completesAt_of_body (fun _ => rfl) fun k t hbad => transferTo_of_bad hbad (linkWrite k t),
    fun h o => completesAt_of_body (fun _ => rfl) fun k t hbad => transferTo_of_bad hbad t⟩
  case bra =>
    have hslot := slot_of_wellFormed (.inl hwf)
    split_ifs with hpass
    · exact transferTo_of_none hpass ..
    · exact transferTo_branchTarget hslot hpass t
  case call =>
    have hslot := slot_of_wellFormed (.inr hwf)
    split_ifs with hpass
    · rw [transferTo_of_none hpass, linkWrite_of_none hpass]
    · exact transferTo_branchTarget hslot hpass (linkWrite k t)

/-! ## The wave (R164 to R171) -/

/-- R171: a request is granted unless it asks for more than the free pool holds. -/
theorem regqGrant_eq (c : Core) (w n quota : Nat) :
    regqGrant c w n quota = if n ≤ quota ∨ n - quota ≤ c.freePool (quadOf w) then n else quota := by
  unfold regqGrant
  split_ifs <;> omega

/-- Settles O18: each instruction by its definition, `regq` by what the pool grants. -/
theorem waveControlComplete : Obligations.WaveControlComplete := by
  unfold Obligations.WaveControlComplete
  refine ⟨?exit, ?nop, ?twait, ?delay, ?yield, ?backoff, ?treset, ?tread, fun h o => completes_of_body (fun _ => rfl) fun k t => ?regq⟩
  case backoff => exact fun h o => completes_of_body (fun _ => rfl) fun k t => by simp only [Nat.max_zero]
  case regq => rw [regqBody, regqGrant_eq]; rfl
  all_goals exact fun h o => completes_of_body (fun _ => rfl) fun _ _ => rfl

end Sys2Proof.Machine
end

section
/-! PROOFS. The results of the floating-point group (R173 to R189): one completion rule for a rounded result
with its flags, and one for a comparison. -/

namespace Sys2Proof

theorem clsF_latency (t : Ty) (cls cls64 : Cls) :
    (clsF t cls cls64).latency = if t = .f64 then cls64.latency else cls.latency := by
  rw [clsF, apply_ite Cls.latency]
  simp only [beq_iff_eq]

theorem clsF_self (t : Ty) (cls : Cls) : clsF t cls cls = cls := ite_self cls

end Sys2Proof

namespace Sys2Proof.Machine

/-! ## Completion by the shape of the result -/

section
variable {i : Instr} {h : Hdr} {d : Opnd} {sc : Bool} {n lat : Nat} {cls : Cls} {t : Ty} {pd : BitVec 3}

theorem fltOut_eq_givesF (k : Ctx) (f : Nat → FRes) (s : State) :
    fltOut k d sc n cls f s = givesF k cls.latency n d sc f s := by
  simp [fltOut, givesF, perLane, List.foldl_map, Function.comp_def]

/-- Results that raise no flag are those of `gives`. -/
theorem givesF_of_noFlags (k : Ctx) (f : Nat → Nat) (s : State) :
    givesF k lat n d sc (fun l => ⟨f l, 0⟩) s = gives k lat n d sc f s := by
  have hflags : ∀ ls : List Nat, ls.foldl (fun (m : BitVec 6) _ => m ||| 0) 0 = 0 := by simp
  rw [givesF, List.foldl_map, hflags]
  rfl

/-- A rounded result of `n` registers per lane with its flags, after the latency of the class (R176). -/
theorem completes_givesF {f g : Ctx → Nat → FRes} (hexec : ∀ s, exec i s = issue i s (fun k => fltOut k d sc n cls (f k)))
    (hlat : cls.latency = lat) (hval : ∀ k l, f k l = g k l) : Completes i h (fun k => givesF k lat n d sc (g k)) := by
  obtain rfl : f = g := funext₂ hval
  subst hlat
  exact completes_of_body hexec fun k s => fltOut_eq_givesF k (f k) s

/-- The predicate of a comparison and the flags of its lanes (R182). -/
theorem completes_fcmp {f : Ctx → Nat → Bool × BitVec 6} {p : Ctx → Nat → Bool} {fl : Ctx → Nat → BitVec 6}
    (hexec : ∀ s, exec i s = issue i s (fun k => fcmpOut k t pd (f k))) (hval : ∀ k l, f k l = (p k l, fl k l)) :
    Completes i h (fun k => fixed k (if t = .f64 then 8 else 4) { PWrite.nil with
      p := predAt pd ((lanesOf k.pass).map (fun l => (l, p k l)))
      fl := ((lanesOf k.pass).map (fl k)).foldl (fun m e => m ||| e) 0 }) := by
  obtain rfl : f = fun k l => (p k l, fl k l) := funext₂ hval
  have hlat : (clsF t .f .f64).latency = if t = .f64 then 8 else 4 := clsF_latency ..
  refine completes_of_body hexec fun k s => ?_
  simp [fcmpOut, hlat, List.foldl_map, Function.comp_def]

end

/-! ## Arithmetic, tests and approximated functions (R177 to R185) -/

/-- Settles O11: each operation is the one of its format at the type, and `fdiv` has one class at every type. -/
theorem floatComplete : Obligations.FloatComplete := by
  unfold Obligations.FloatComplete
  refine ⟨?fadd, ?faddImm, ?fsub, ?fsubImm, ?fmul, ?fmulImm, ?ffma, ?fdiv, ?fsqrt, ?fmin, ?fminImm, ?fmax, ?fmaxImm, ?fscale,
    ?fscaleImm, ?frnd⟩
  case fdiv => exact fun h o => completes_givesF (fun _ => rfl) (congrArg Cls.latency (clsF_self o.ty .td)) fun _ _ => rfl
  all_goals exact fun h o => completes_givesF (fun _ => rfl) (clsF_latency ..) fun _ _ => rfl

/-- Settles O12: a comparison by the rule of its two results, `fclass` as a result that raises no flag. -/
theorem floatTestComplete : Obligations.FloatTestComplete := by
  unfold Obligations.FloatTestComplete
  refine ⟨fun h o => completes_fcmp (fun _ => rfl) fun _ _ => rfl, fun h o => completes_fcmp (fun _ => rfl) fun _ _ => rfl,
    fun h o => completes_of_body (fun _ => rfl) fun k s => ?fclass, ?frcp, ?frsq, ?fexp2, ?flog2, ?fsin, ?fcos, ?ftanh⟩
  case fclass => rw [fltOut_eq_givesF, givesF_of_noFlags, clsF_latency]; rfl
  all_goals exact fun h o => completes_givesF (fun _ => rfl) (clsF_latency ..) fun _ _ => rfl

/-! ## Packed pairs, dot products, conversions (R186 to R189) -/

/-- Settles O13: `dot4` by whether its type is floating-point, `cvt` by whether its type is a pair, and of which format. -/
theorem packedComplete : Obligations.PackedComplete := by
  unfold Obligations.PackedComplete
  refine ⟨?hadd2, ?hadd2Imm, ?hmul2, ?hmul2Imm, ?hfma2,
    fun h o => completes_givesF (fun _ => rfl) rfl fun k l => ?dot4,
    fun h o => completes_givesF (fun _ => rfl) (apply_ite Cls.latency ..) fun k l => ?cvt⟩
  case dot4 => cases hfloat : o.ty.float <;> simp [dot4Ty, dot4Fmt, hfloat]
  case cvt =>
    rcases eq_or_ne o.ty .f16x2 with hhalf | hhalf
    · simp [hhalf, cvtSrc]
    rcases eq_or_ne o.ty .bf16x2 with hbf | hbf
    · simp [hbf, cvtSrc]
    · simp [hhalf, hbf, cvtSrc]
  all_goals exact fun h o => completes_givesF (fun _ => rfl) rfl fun _ _ => rfl

end Sys2Proof.Machine
end

section
/-! PROOFS. The lane exchange (R190 to R197): one completion rule for a value and a predicate of every active lane. -/

namespace Sys2Proof.Machine

/-- A value of `n` registers and a predicate in every active lane, after the latency of the class (R191). -/
theorem completes_exchOut {i : Instr} {h : Hdr} {d : Opnd} {n lat : Nat} {cls : Cls} {pd : BitVec 3} {f : Ctx → Nat → Nat × Bool}
    {g : Ctx → Nat → Nat} {p : Ctx → Nat → Bool} (hexec : ∀ s, exec i s = issue i s (fun k => exchOut k d n cls pd (f k)))
    (hlat : cls.latency = lat) (hval : ∀ k l, f k l = (g k l, p k l)) :
    Completes i h (fun k => fixed k lat { writesAt d n ((lanesOf k.pass).map (fun l => (l, g k l))) with
      p := predAt pd ((lanesOf k.pass).map (fun l => (l, p k l))) }) := by
  obtain rfl : f = fun k l => (g k l, p k l) := funext₂ hval
  subst hlat
  refine completes_of_body hexec fun k s => ?_
  simp [exchOut, Function.comp_def]

/-- A value with `true` where a condition holds, and otherwise another with `false`. -/
theorem ite_prod_bool {α : Type} (c : Bool) (x y : α) : (if c then (x, true) else (y, false)) = (if c then x else y, c) := by
  cases c <;> rfl

/-- The active lanes are the passing lanes of the split (R191). -/
theorem Ctx.active_iff (k : Ctx) (l : Nat) : k.active l = true ↔ l < 32 ∧ k.pass.getLsbD l = true := by
  simp [Ctx.active]

/-- R195: `.peers` answers the lanes of equal value; `.whole` those lanes and true if they are all active ones, otherwise 0 and false. -/
theorem matchRes_eq (peersForm : Prop) [Decidable peersForm] (peers active : Lanes) :
    (if peersForm then (peers.toNat, false) else if peers = active then (peers.toNat, true) else (0, false)) =
      (if peersForm ∨ peers = active then peers.toNat else 0, decide (¬peersForm ∧ peers = active)) := by
  by_cases hform : peersForm
  · simp [hform]
  · by_cases hall : peers = active <;> simp [hform, hall]

/-- Settles O15: each instruction gives a value and a predicate in the active lanes, but `vote`, a predicate, and `redux`, one value
with its flags. -/
theorem exchangeComplete : Obligations.ExchangeComplete := by
  unfold Obligations.ExchangeComplete
  refine ⟨fun h o => completes_exchOut (fun _ => rfl) rfl fun k l => ite_prod_bool ..,
    fun h o => completes_exchOut (fun _ => rfl) rfl fun k l => ite_prod_bool ..,
    fun h o => completes_givesB (fun _ => rfl) rfl fun _ _ => rfl,
    fun h o => completes_exchOut (fun _ => rfl) rfl fun _ _ => rfl,
    fun h o => completes_exchOut (fun _ => rfl) rfl fun k l => matchRes_eq ..,
    fun h o => completes_of_body (fun _ => rfl) fun _ _ => rfl,
    fun h o => completes_exchOut (fun _ => rfl) rfl fun k l => ?laneperm,
    fun h o => completes_exchOut (fun _ => rfl) rfl fun k l => ?lanepermImm⟩
  case laneperm | lanepermImm => simp only [Ctx.active_iff]; rfl

end Sys2Proof.Machine
end

section
/-! PROOFS. The two memories of a state, HBM4E and the host's (R199): what leaves them as they are, and what keeps them in canonical
form. -/

namespace Sys2Proof.Machine

/-- HBM4E and the host's memory. -/
def State.mems (s : State) : Memory × Memory := (s.mem, s.hostMem)

@[simp] theorem State.mems_ite (c : Prop) [Decidable c] (s t : State) : (if c then s else t).mems = if c then s.mems else t.mems :=
  apply_ite ..

@[simp] theorem mems_foldl {α : Type} {f : State → α → State} (hf : ∀ s a, (f s a).mems = s.mems) (l : List α) (s : State) :
    (l.foldl f s).mems = s.mems := by
  induction l generalizing s with
  | nil => rfl
  | cons a l ih => exact (ih _).trans (hf s a)

/-- Both memories stand in canonical form. -/
def MemsOk (m : Memory × Memory) : Prop := Memory.wf m.1 = true ∧ Memory.wf m.2 = true

@[simp] theorem memsOk_ite (c : Prop) [Decidable c] (m n : Memory × Memory) :
    MemsOk (if c then m else n) ↔ if c then MemsOk m else MemsOk n := by
  split <;> rfl

theorem foldl_mems_fst {α β : Type} {f : State × β → α → State × β} (hf : ∀ x a, (f x a).1.mems = x.1.mems) (l : List α) (x : State × β) :
    (l.foldl f x).1.mems = x.1.mems := by
  induction l generalizing x with
  | nil => rfl
  | cons a l ih => exact (ih _).trans (hf x a)

/-- What a fold of steps that may fail keeps. -/
theorem foldl_bind_inv {α β : Type} (P : β → Prop) {f : α → β → Option β} (hf : ∀ x a y, P x → f a x = some y → P y) {l : List α} {x y : β}
    (hx : P x) (h : l.foldl (fun acc a => acc.bind (f a)) (some x) = some y) : P y := by
  induction l generalizing x with
  | nil => exact Option.some.inj h ▸ hx
  | cons a l ih =>
    rw [List.foldl_cons, Option.bind_some] at h
    cases ha : f a x with
    | none =>
      rw [ha] at h
      have hnone : l.foldl (fun acc a => acc.bind (f a)) none = none := by
        clear h ih ha
        induction l with
        | nil => rfl
        | cons _ _ ih => exact ih
      rw [hnone] at h
      cases h
    | some z => exact ih (hf x a z hx ha) (ha ▸ h)

theorem State.mems_ite_of {c : Prop} [Decidable c] {s t : State} {m : Memory × Memory} (hs : s.mems = m) (ht : t.mems = m) :
    (if c then s else t).mems = m := by
  split
  · exact hs
  · exact ht

theorem memsOk_foldl {α : Type} {f : State → α → State} (hf : ∀ s a, MemsOk s.mems → MemsOk (f s a).mems) (l : List α) {s : State}
    (hs : MemsOk s.mems) : MemsOk (l.foldl f s).mems := by
  induction l generalizing s with
  | nil => exact hs
  | cons a l ih => exact ih (hf s a hs)

end Sys2Proof.Machine
end

section
/-! PROOFS. The frame of issue and translation (R30 to R61, R205 to R212): neither memory changes. -/

namespace Sys2Proof.Machine

@[simp] theorem State.modCore_mems (s : State) (c : Nat) (f : Core → Core) : (s.modCore c f).mems = s.mems := by rfl

@[simp] theorem State.setWave_mems (s : State) (c w : Nat) (x : Wave) : (s.setWave c w x).mems = s.mems := by rfl

@[simp] theorem State.modWave_mems (s : State) (c w : Nat) (f : Wave → Wave) : (s.modWave c w f).mems = s.mems := by
  unfold State.modWave
  split <;> simp

@[simp] theorem State.fresh_mems (s : State) : (s.fresh).2.mems = s.mems := by rfl

@[simp] theorem State.countMoved_mems (s : State) (asid n : Nat) : (s.countMoved asid n).mems = s.mems := by rfl

@[simp] theorem State.modCrew_mems (s : State) (c : Nat) (f : Crew → Crew) : (s.modCrew c f).mems = s.mems := by rfl

@[simp] theorem State.completeOp_mems (s : State) (c w id : Nat) : (s.completeOp c w id).mems = s.mems := by simp [State.completeOp]

@[simp] theorem State.setBody_mems (s : State) (idx : Nat) (b : ObjBody) : (s.setBody idx b).mems = s.mems := by
  unfold State.setBody
  split <;> rfl

@[simp] theorem State.fireWaiters_mems (s : State) : (s.fireWaiters).mems = s.mems := by rfl

@[simp] theorem State.signal_mems (s : State) (h n t : Nat) : (s.signal h n t).mems = s.mems := by
  unfold State.signal
  (repeat' split) <;> rfl

@[simp] theorem State.poke_mems (s : State) (on : WaitOn) : (s.poke on).mems = s.mems := by rfl

@[simp] theorem State.barCheck_mems (s : State) (c b : Nat) : (s.barCheck c b).mems = s.mems := by rfl

@[simp] theorem State.freeTasks_mems (s : State) (w : Wave) (m : Lanes) : (s.freeTasks w m).mems = s.mems := by
  unfold State.freeTasks
  (repeat' split) <;> simp

@[simp] theorem State.exitLanes_mems (s : State) (c w : Nat) (m : Lanes) : (s.exitLanes c w m).mems = s.mems := by
  unfold State.exitLanes
  split <;> simp

@[simp] theorem State.sendRecord_mems (s : State) (h : Nat) (asid : Nat) (mk : Nat → List Byte) : (s.sendRecord h asid mk).mems = s.mems := by
  unfold State.sendRecord
  (repeat' split) <;> simp

@[simp] theorem State.record_mems (s : State) (c w : Nat) (m : Lanes) (cause secondary : Nat) (pc : PC) (addr id : Nat) : (s.record c w m cause secondary pc addr id).mems = s.mems := by
  unfold State.record
  dsimp only
  (repeat' split) <;> simp

@[simp] theorem State.endCrew_mems (s : State) (c w : Nat) (m : Lanes) (cause : Nat) (pc : PC) (addr : Nat) :
    (s.endCrew c w m cause pc addr).mems = s.mems := by
  unfold State.endCrew
  split
  · rfl
  · refine (mems_foldl (fun _ _ => State.completeOp_mems ..) _ _).trans ((State.modCore_mems ..).trans ?_)
    refine (mems_foldl (fun t i => ?_) _ _).trans (State.record_mems ..)
    split <;> simp

@[simp] theorem State.stopLanes_mems (s : State) (c w : Nat) (x : Wave) (m : Lanes) (cause secondary : Nat) (pc : PC) (addr : Nat) (goOn : PC) : (s.stopLanes c w x m cause secondary pc addr goOn).mems = s.mems := by simp [State.stopLanes]

@[simp] theorem State.takeTrap_mems (s : State) (c w : Nat) (m : Lanes) (cause secondary : Nat) (pc : PC) (addr : Nat) (goOn : PC) : (s.takeTrap c w m cause secondary pc addr goOn).mems = s.mems := by
  unfold State.takeTrap
  (repeat' split) <;> simp

@[simp] theorem State.postTrap_mems (s : State) (asid c w : Nat) (m : Lanes) (cause secondary : Nat) (pc : PC) (addr : Nat)
    (tok : Option (Nat × Nat)) (carr chan : Option Nat) (op : Nat) :
    (s.postTrap asid c w m cause secondary pc addr tok carr chan op).mems = s.mems := by
  unfold State.postTrap
  dsimp only
  split <;> rfl

@[simp] theorem State.clearChan_mems (s : State) (c : Nat) (ch : Option Nat) : (s.clearChan c ch).mems = s.mems := by
  unfold State.clearChan
  split <;> simp

@[simp] theorem State.recordOf_mems (s : State) (t : PTrap) (m : Lanes) : (s.recordOf t m).mems = s.mems := by
  unfold State.recordOf
  split <;> simp

@[simp] theorem State.deliver_mems (s : State) (t : PTrap) (m : Lanes) : (s.deliver t m).mems = s.mems := by
  have hdrop (c : Nat) (ch : Option Nat) : (({ s with traps := dropTrap s.traps t.id m } : State).clearChan c ch).mems = s.mems :=
    State.clearChan_mems ..
  unfold State.deliver
  dsimp only
  split <;> simp [hdrop]

@[simp] theorem State.issuedAt_mems (s : State) (cur : Cursor) (x : Wave) (i : Instr) (r : Row) (h : Hdr) : (s.issuedAt cur x i r h).mems = s.mems := by rfl

@[simp] theorem State.laneFaults_mems (s : State) (k : Ctx) (fs : List LaneFault) : (s.laneFaults k fs).mems = s.mems := by simp [State.laneFaults]

@[simp] theorem State.checkTrap_mems (s : State) (k : Ctx) (i : Instr) (cause : Nat) : (s.checkTrap k i cause).mems = s.mems := by simp [State.checkTrap]

/-- The state that the checks before an issue leave. -/
def Start.state : Start → State
  | .go _ t => t
  | .stop t => t

@[simp] theorem start_mems (i : Instr) (s : State) : (start i s).state.mems = s.mems := by
  have hcur : ({ s with cursor := none } : State).mems = s.mems := by rfl
  unfold start
  split
  · rfl
  · split
    · dsimp only
      (repeat' split) <;> simp [Start.state, hcur]
    · exact hcur

theorem start_mems_go {i : Instr} {s t : State} {k : Ctx} (h : start i s = .go k t) : t.mems = s.mems := by
  simpa [h, Start.state] using start_mems i s

theorem start_mems_stop {i : Instr} {s t : State} (h : start i s = .stop t) : t.mems = s.mems := by
  simpa [h, Start.state] using start_mems i s

@[simp] theorem State.stepStop_mems (s : State) (k : Ctx) : (s.stepStop k).mems = s.mems := by
  unfold State.stepStop
  split <;> simp

@[simp] theorem finish_mems (k : Ctx) (t : State) : (finish k t).mems = t.mems := by
  have hstep : (if k.step = true then t.stepStop k else t).mems = t.mems := by simp
  unfold finish
  dsimp only
  split
  · exact hstep
  · exact hstep

theorem issue_mems {i : Instr} {s t : State} {body : Ctx → State → State} (hbody : ∀ k u, (body k u).mems = u.mems)
    (h : issue i s body = .next t) : t.mems = s.mems := by
  obtain ⟨k, u, hu, rfl⟩ | hstop := issue_cases h
  · exact (finish_mems ..).trans ((hbody ..).trans (start_mems_go hu))
  · exact start_mems_stop hstop

@[simp] theorem decodeFault_mems (s : State) (cause : Nat) : (decodeFault s cause).mems = s.mems := by
  have hcur : ({ s with cursor := none } : State).mems = s.mems := by rfl
  unfold decodeFault
  dsimp only
  split
  · rfl
  · split
    · rfl
    · simp [hcur]

@[simp] theorem State.onWave_mems (s : State) (k : Ctx) (f : Wave → Wave) : (s.onWave k f).mems = s.mems := by simp [State.onWave]

@[simp] theorem fixed_mems (k : Ctx) (lat : Nat) (w : PWrite) (s : State) : (fixed k lat w s).mems = s.mems := by simp [fixed]

@[simp] theorem tokenWrite_mems (k : Ctx) (due : Nat) (isDiv : Bool) (w : PWrite) (s : State) : (tokenWrite k due isDiv w s).mems = s.mems := by simp [tokenWrite]

@[simp] theorem State.cleanse_mems (s : State) (c : Nat) (pl : Place) (hit : Nat → Bool) : (s.cleanse c pl hit).mems = s.mems := by
  unfold State.cleanse
  split <;> rfl

@[simp] theorem State.cleanseRange_mems (s : State) (c : Nat) (pl : Place) (a n : Nat) : (s.cleanseRange c pl a n).mems = s.mems := by simp [State.cleanseRange]

@[simp] theorem State.spoil_mems (s : State) (p : EccPlace) : (s.spoil p).mems = s.mems := by rfl

@[simp] theorem State.hold_mems (s : State) (i : Instr) (k : Ctx) (pages : List Nat) : (s.hold i k pages).mems = s.mems := by
  unfold State.hold
  simp
  rfl

theorem issueWhen_mems {i : Instr} {s t : State} {wait : Ctx → State → Option (List Nat)} {body : Ctx → State → State}
    (hbody : ∀ k u, (body k u).mems = u.mems) (h : issueWhen i s wait body = .next t) : t.mems = s.mems := by
  obtain ⟨k, u, hu, -, rfl⟩ | ⟨k, u, ps, hu, -, rfl⟩ | hstop := issueWhen_cases h
  · exact (finish_mems ..).trans ((hbody ..).trans (start_mems_go hu))
  · exact (State.hold_mems ..).trans (start_mems_go hu)
  · exact start_mems_stop hstop

theorem State.goOn_memsOk {s : State} (hs : MemsOk s.mems) (x : HeldIssue) (wait : Ctx → State → Option (List Nat))
    {body : Ctx → State → State} (hbody : ∀ k u, (body k u).mems = u.mems) : MemsOk (s.goOn x wait body).mems := by
  have hdrop (l : List HeldIssue) (f : Core → Core) : (({ s with held := l } : State).modCore x.k.core f).mems = s.mems := by rfl
  unfold State.goOn
  dsimp only
  split
  · simp [hdrop, hs]
  · split <;> simp [hdrop, hbody, hs]

end Sys2Proof.Machine
end

section
/-! PROOFS. The frame of the memory engine's bookkeeping (R213 to R262): neither memory changes. -/

namespace Sys2Proof.Machine

@[simp] theorem State.advance_mems (s : State) (c t : Nat) : (s.advance c t).mems = s.mems := by rfl

@[simp] theorem State.sendBack_mems (s : State) (c line op : Nat) (drop : Bool) : (s.sendBack c line op drop).mems = s.mems := by
  unfold State.sendBack
  (repeat' split) <;> rfl

@[simp] theorem State.makeRoom_mems (s : State) (c key : Nat) : (s.makeRoom c key).mems = s.mems := by
  unfold State.makeRoom
  dsimp only
  (repeat' split) <;> simp

@[simp] theorem State.putL1_mems (s : State) (c line : Nat) (x : Copy) : (s.putL1 c line x).mems = s.mems := by simp [State.putL1]

@[simp] theorem State.putCluster_mems (s : State) (c line : Nat) (x : Copy) : (s.putCluster c line x).mems = s.mems := by rfl

@[simp] theorem State.leaveSlice_mems (s : State) (line : Nat) : (s.leaveSlice line).mems = s.mems := by
  unfold State.leaveSlice
  split <;> rfl

@[simp] theorem State.putTs_mems (s : State) (line : Nat) (h : LineTs) : (s.putTs line h).mems = s.mems := by
  unfold State.putTs
  dsimp only
  change (if _ then _ else s).mems = s.mems
  split
  · split <;> simp
  · rfl

@[simp] theorem State.grantLease_mems (s : State) (c line : Nat) (l1 : Bool) : (s.grantLease c line l1).1.mems = s.mems := by simp [State.grantLease]

@[simp] theorem State.touchLine_mems (s : State) (host : Bool) (line : Nat) : (s.touchLine host line).mems = s.mems := by rfl

@[simp] theorem State.outBy_mems (s : State) (c : Nat) : (s.outBy c).mems = s.mems := by rfl

@[simp] theorem State.noteStrict_mems (s : State) (host : Bool) (pa t : Nat) : (s.noteStrict host pa t).mems = s.mems := by rfl

@[simp] theorem State.strictBy_mems (s : State) (host : Bool) (c pa : Nat) : (s.strictBy host c pa).mems = s.mems := by simp [State.strictBy]

@[simp] theorem State.seeTime_mems (s : State) (r : Req) (t : Nat) : (s.seeTime r t).mems = s.mems := by simp [State.seeTime]

@[simp] theorem State.seeStrict_mems (s : State) (host : Bool) (r : Req) : (s.seeStrict host r).mems = s.mems := by simp [State.seeStrict]

@[simp] theorem State.refresh_mems (s : State) (c line : Nat) (d : Bits 8) (wts at_ : Nat) : (s.refresh c line d wts at_).mems = s.mems := by
  unfold State.refresh
  dsimp only
  (repeat' split) <;> simp

@[simp] theorem State.onManual_mems (s : State) (c asid line va : Nat) (f : Copy → Copy) : (s.onManual c asid line va f).mems = s.mems := by simp [State.onManual]

@[simp] theorem State.manualStore_mems (s : State) (c asid pa va : Nat) (bs : List Byte) : (s.manualStore c asid pa va bs).mems = s.mems := by simp [State.manualStore]

@[simp] theorem State.manualFill_mems (s : State) (c asid pa va : Nat) : (s.manualFill c asid pa va).mems = s.mems := by simp [State.manualFill]

@[simp] theorem State.dropFences_mems (s : State) : (s.dropFences).mems = s.mems := by rfl

@[simp] theorem State.setReq_mems (s : State) (id : Nat) (f : Req → Req) : (s.setReq id f).mems = s.mems := by rfl

@[simp] theorem State.dropReq_mems (s : State) (id : Nat) : (s.dropReq id).mems = s.mems := by rfl

@[simp] theorem State.seeLine_mems (s : State) (r : Req) : (s.seeLine r).mems = s.mems := by simp [State.seeLine]

@[simp] theorem State.queueAt_mems (s : State) (line age agent num : Nat) : (s.queueAt line age agent num).mems = s.mems := by
  unfold State.queueAt
  split <;> rfl

@[simp] theorem State.served_mems (s : State) (line num : Nat) : (s.served line num).mems = s.mems := by
  unfold State.served
  split <;> rfl

@[simp] theorem State.agentWait_mems (s : State) (rs : List (Nat × Nat)) (agent num : Nat) : (s.agentWait rs agent num).mems = s.mems := by simp [State.agentWait]

@[simp] theorem State.agentServed_mems (s : State) (num : Nat) : (s.agentServed num).mems = s.mems := by rfl

theorem State.asAgent_memsOk {s : State} (hs : MemsOk s.mems) (rs : List (Nat × Nat)) (agent num : Nat) {f : State → State}
    (hf : ∀ u, MemsOk u.mems → MemsOk (f u).mems) : MemsOk (s.asAgent rs agent num f).mems := by
  unfold State.asAgent
  split
  · simp [hs]
  · exact hf _ (by simp [hs])

theorem State.asAgent_mems {s : State} (rs : List (Nat × Nat)) (agent num : Nat) {f : State → State} (hf : ∀ u, (f u).mems = u.mems) :
    (s.asAgent rs agent num f).mems = s.mems := by
  unfold State.asAgent
  split <;> simp [hf]

@[simp] theorem State.queueUp_mems (s : State) (r : Req) : (s.queueUp r).mems = s.mems := by simp [State.queueUp]

@[simp] theorem State.sourceBytes_mems (s : State) (r : Req) : (s.sourceBytes r).1.mems = s.mems := by
  unfold State.sourceBytes
  dsimp only
  (repeat' split) <;> simp

@[simp] theorem State.failReq_mems (s : State) (r : Req) (cause : Nat) : (s.failReq r cause).mems = s.mems :=
  State.postTrap_mems ..

@[simp] theorem State.noteMiss_mems (s : State) (r : Req) : (s.noteMiss r).mems = s.mems := by simp [State.noteMiss]

@[simp] theorem State.bindOne_mems (s : State) (r : Req) : (s.bindOne r).mems = s.mems := by simp [State.bindOne]

@[simp] theorem State.bindGroup_mems (s : State) (r : Req) : (s.bindGroup r).mems = s.mems := by simp [State.bindGroup]

@[simp] theorem State.addReqs_mems (s : State) (rs : List Req) : (s.addReqs rs).mems = s.mems := by
  unfold State.addReqs
  refine mems_foldl (fun _ _ => ?_) rs s
  rfl

@[simp] theorem sendLoads_mems (k : Ctx) (kind : OutKind) (acq ms : Bool) (addr : Nat → Nat) (plans : List (Nat × LanePlan)) (s : State) :
    (sendLoads k kind acq ms addr plans s).mems = s.mems := by
  have hnext (t : State) (n : Nat) : ({ t with nextId := n } : State).mems = t.mems := by rfl
  unfold sendLoads
  refine (State.laneFaults_mems ..).trans ?_
  dsimp only
  split
  · refine (State.addReqs_mems ..).trans ((State.onWave_mems ..).trans ((hnext _ _).trans ?_))
    split <;> simp
  · split <;> simp

@[simp] theorem sendOthers_mems (k : Ctx) (plans : List (Nat × LanePlan)) (s : State) : (sendOthers k plans s).mems = s.mems := by simp [sendOthers]

@[simp] theorem ldBody_mems (o : FmtM) (k : Ctx) (s : State) : (ldBody o k s).mems = s.mems := by simp [ldBody]

@[simp] theorem stBody_mems (o : FmtM) (k : Ctx) (s : State) : (stBody o k s).mems = s.mems := by simp [stBody]

@[simp] theorem ldeBody_mems (o : FmtM) (k : Ctx) (s : State) : (ldeBody o k s).mems = s.mems := by simp [ldeBody]

@[simp] theorem bufLoad_mems (place : Place) (base limit : Ctx → Nat) (unit : Nat) (split : Bool) (o : FmtM) (k : Ctx) (s : State) : (bufLoad place base limit unit split o k s).mems = s.mems := by simp [bufLoad]

@[simp] theorem atomBody_mems (o : FmtM) (k : Ctx) (s : State) : (atomBody o k s).mems = s.mems := by simp [atomBody]

@[simp] theorem redBody_mems (o : FmtM) (k : Ctx) (s : State) : (redBody o k s).mems = s.mems := by simp [redBody]

theorem State.readNow_mems {s t : State} {k : Ctx} {l : Nat} {ps : List Piece} {va n : Nat} {bs : List Byte} {bad : Bool}
    (h : s.readNow k l ps va n = some (t, bs, bad)) : t.mems = s.mems := by
  refine foldl_bind_inv (fun x : State × List Byte × Bool => x.1.mems = s.mems) (fun u i v hu hv => ?_) (x := (s, [], false)) rfl h
  obtain ⟨p, -, hv⟩ := Option.bind_eq_some_iff.mp hv
  split at hv
  · cases hv
  · dsimp only at hv
    split at hv
    · cases hv
      exact (State.sourceBytes_mems ..).trans hu
    · cases hv

theorem mcasBlock_mems {k : Ctx} {s u : State} {l va len : Nat} {next : State → List Byte → McasStage} {es : List (Nat × Nat × Nat)}
    {ps : List Piece} (hnext : ∀ t b, t.mems = s.mems → next t b = .ready u es ps → u.mems = s.mems)
    (h : mcasBlock k s l va len next = .ready u es ps) : u.mems = s.mems := by
  unfold mcasBlock at h
  split at h
  · cases h
  · cases h
  · split at h
    · cases h
    · split at h
      · cases h
      · split at h
        · cases h
        · cases h
        · exact hnext _ _ (State.readNow_mems ‹_›) h

theorem mcasStage_mems {o : FmtM} {k : Ctx} {s u : State} {l : Nat} {es : List (Nat × Nat × Nat)} {ps : List Piece}
    (h : mcasStage o k s l = .ready u es ps) : u.mems = s.mems := by
  refine mcasBlock_mems (fun _ _ _ h => mcasBlock_mems (fun t b ht h => ?_) h) h
  dsimp only at h
  repeat' split at h
  all_goals cases h
  exact ht

@[simp] theorem mcasReads_mems (o : FmtM) (k : Ctx) (s : State) : (mcasReads o k s).mems = s.mems := by
  refine mems_foldl (fun t l => ?_) _ _
  split
  · exact mcasStage_mems ‹_›
  · rfl

@[simp] theorem mcasBody_mems (o : FmtM) (k : Ctx) (s : State) : (mcasBody o k s).mems = s.mems := by simp [mcasBody]

@[simp] theorem cacheOp_mems (o : FmtM) (need : Nat) (mk : List (Nat × Nat × Nat) → ReqKind) (k : Ctx) (s : State) : (cacheOp o need mk k s).mems = s.mems := by simp [cacheOp]

@[simp] theorem State.fillTlb_mems (s : State) (c asid va : Nat) : (s.fillTlb c asid va).mems = s.mems := by
  unfold State.fillTlb
  split <;> simp

@[simp] theorem State.missTlb_mems (s : State) (c asid va : Nat) : (s.missTlb c asid va).mems = s.mems := by simp [State.missTlb]

theorem State.fetchLine_mems {s t : State} {c asid line : Nat} (h : s.fetchLine c asid line = .ok t) : t.mems = s.mems := by
  unfold State.fetchLine at h
  repeat' split at h
  all_goals cases h
  simp

@[simp] theorem iprefOne_mems (o : FmtM) (k : Ctx) (s : State) (l : Nat) : (iprefOne o k s l).mems = s.mems := by
  unfold iprefOne
  refine mems_foldl (fun t a => ?_) _ _
  split
  · rfl
  · split
    · exact State.fetchLine_mems ‹_›
    · rfl

@[simp] theorem ipinLines_mems (k : Ctx) (ls : List Nat) (s : State) : (ipinLines k ls s).1.mems = s.mems := by
  induction ls generalizing s with
  | nil => rfl
  | cons a ls ih =>
    unfold ipinLines
    split
    · rfl
    · split
      · rfl
      · exact (ih _).trans ((State.modCore_mems ..).trans (State.fetchLine_mems ‹_›))

@[simp] theorem ipinBody_mems (o : FmtM) (k : Ctx) (s : State) : (ipinBody o k s).mems = s.mems := by
  refine (State.laneFaults_mems ..).trans (foldl_mems_fst (fun acc l => ?_) _ _)
  exact ipinLines_mems ..

@[simp] theorem watchBody_mems (o : FmtM) (k : Ctx) (s : State) : (watchBody o k s).mems = s.mems := by simp [watchBody]

@[simp] theorem walkAnswer_mems (core asid page : Nat) (s : State) : (walkAnswer core asid page s).mems = s.mems := by
  unfold walkAnswer
  split <;> simp

@[simp] theorem tlbWalkComplete_mems (core asid page : Nat) (s : State) : (tlbWalkComplete core asid page s).mems = s.mems := by
  unfold tlbWalkComplete
  split
  · rfl
  · exact State.asAgent_mems _ _ _ fun u => walkAnswer_mems ..

@[simp] theorem State.fetchFault_mems (s : State) (core asid line cause : Nat) : (s.fetchFault core asid line cause).mems = s.mems := by simp [State.fetchFault]

@[simp] theorem State.prefLoad_mems (s : State) (r : Req) (l1 : Bool) : (s.prefLoad r l1).mems = s.mems := by
  unfold State.prefLoad
  dsimp only
  (repeat' split) <;> simp

@[simp] theorem State.prefServe_mems (s : State) (r : Req) (l1 : Bool) : (s.prefServe r l1).mems = s.mems := by simp [State.prefServe]

@[simp] theorem homeLoad_mems (req : Nat) (s : State) : (homeLoad req s).mems = s.mems := by
  unfold homeLoad
  (repeat' split) <;> simp

@[simp] theorem State.writeOut_mems (s : State) (c w : Nat) (o : OutOp) : (s.writeOut c w o).mems = s.mems := by
  unfold State.writeOut
  exact State.mems_ite_of rfl (State.modWave_mems ..)

@[simp] theorem loadComplete_mems (core wave op : Nat) (s : State) : (loadComplete core wave op s).mems = s.mems := by
  unfold loadComplete
  split
  · rfl
  · refine (State.dropFences_mems _).trans ((State.writeOut_mems ..).trans (mems_foldl (fun t i => ?_) _ _))
    split <;> simp

@[simp] theorem storeAck_mems (req : Nat) (s : State) : (storeAck req s).mems = s.mems := by
  unfold storeAck
  (repeat' split) <;> simp

@[simp] theorem takeLocks_mems (age agent num : Nat) (ls : List Nat) (s : State) : (takeLocks age agent num ls s).mems = s.mems := by
  induction ls generalizing s with
  | nil => rfl
  | cons l ls ih =>
    unfold takeLocks
    split
    · split
      · exact ih s
      · exact State.queueAt_mems ..
    · split
      · exact (ih _).trans (State.served_mems ..)
      · rfl

@[simp] theorem State.unlock_mems (s : State) (id : Nat) : (s.unlock id).mems = s.mems := by rfl

@[simp] theorem State.beginCommit_mems (s : State) (c : Nat) : (s.beginCommit c).mems = s.mems := by
  unfold State.beginCommit
  split <;> rfl

@[simp] theorem cacheOp1_mems (s : State) (r : Req) (rs : List (Nat × Nat × Nat)) (drop : Bool) : (cacheOp1 s r rs drop).mems = s.mems := by simp [cacheOp1]

@[simp] theorem cacheOpComplete_mems (req : Nat) (s : State) : (cacheOpComplete req s).mems = s.mems := by
  unfold cacheOpComplete
  (repeat' split) <;> simp

@[simp] theorem State.answer_mems (s : State) (r : Req) (v : Nat) : (s.answer r v).mems = s.mems := by simp [State.answer]

@[simp] theorem mcasSee_mems (r : Req) (s : State) (e : McasEnt) : (mcasSee r s e).mems = s.mems := by simp [mcasSee]

@[simp] theorem State.lodge_mems (s : State) (req : Nat) : (s.lodge req).mems = s.mems := by
  unfold State.lodge
  split <;> simp

end Sys2Proof.Machine
end

section
/-! PROOFS. The frame of barriers, queues, flags, transfers and the wave engine (R102 to R172, R263 to R274): neither memory changes. -/

namespace Sys2Proof.Machine

@[simp] theorem State.performArrival_mems (s : State) (r : Req) (b : Nat) : (s.performArrival r b).mems = s.mems := by rfl

@[simp] theorem barBody_mems (u : BarUse) (a : Opnd) (count : Ctx → Nat → Nat) (k : Ctx) (s : State) : (barBody u a count k s).mems = s.mems := by simp [barBody]

@[simp] theorem suspendReplay_mems (k : Ctx) (why : Susp) (s : State) : (suspendReplay k why s).mems = s.mems := by simp [suspendReplay]

@[simp] theorem passTrap_mems (k : Ctx) (cause addr : Nat) (s : State) : (passTrap k cause addr s).mems = s.mems := by simp [passTrap]

@[simp] theorem State.performSq_mems (s : State) (c op : Nat) : (s.performSq c op).mems = s.mems := by
  unfold State.performSq
  dsimp only
  split
  · rfl
  · refine (State.dropFences_mems _).trans (mems_foldl (fun t r => ?_) _ _)
    split <;> simp

@[simp] theorem sendSq_mems (k : Ctx) (rs : List Req) (s : State) : (sendSq k rs s).mems = s.mems := by simp [sendSq]

@[simp] theorem sqinitBody_mems (o : FmtA) (k : Ctx) (s : State) : (sqinitBody o k s).mems = s.mems := by simp [sqinitBody]

theorem onQueue_mems {o : FmtA} {k : Ctx} {s : State} {f : Nat → SqHead → State} (hf : ∀ q x, (f q x).mems = s.mems) :
    (onQueue o k s f).mems = s.mems := by
  unfold onQueue
  dsimp only
  split
  · rfl
  · split <;> simp [hf]

@[simp] theorem sqpushBody_mems (o : FmtA) (k : Ctx) (s : State) : (sqpushBody o k s).mems = s.mems := by
  refine onQueue_mems fun q x => ?_
  simp

@[simp] theorem sqcreditBody_mems (o : FmtA) (k : Ctx) (s : State) : (sqcreditBody o k s).mems = s.mems :=
  onQueue_mems fun _ _ => sendSq_mems ..

@[simp] theorem sqpopBody_mems (free : Bool) (o : FmtA) (k : Ctx) (s : State) : (sqpopBody free o k s).mems = s.mems := by
  refine onQueue_mems fun q x => ?_
  simp

@[simp] theorem State.performLocal_mems (s : State) (req : Nat) : (s.performLocal req).mems = s.mems := by
  unfold State.performLocal
  (repeat' split) <;> simp

@[simp] theorem transferTo_mems (k : Ctx) (f : Nat → Nat) (s : State) : (transferTo k f s).mems = s.mems := by simp [transferTo]

@[simp] theorem linkWrite_mems (k : Ctx) (s : State) : (linkWrite k s).mems = s.mems := by simp [linkWrite]

@[simp] theorem rejoinMismatch_mems (k : Ctx) (s : State) : (rejoinMismatch k s).mems = s.mems := by simp [rejoinMismatch]

@[simp] theorem joinBody_mems (o : FmtC) (k : Ctx) (s : State) : (joinBody o k s).mems = s.mems := by simp [joinBody]

@[simp] theorem waitjBody_mems (o : FmtC) (k : Ctx) (s : State) : (waitjBody o k s).mems = s.mems := by simp [waitjBody]

@[simp] theorem controlResult_mems (k : Ctx) (d : Opnd) (x : Nat) (s : State) : (controlResult k d x s).mems = s.mems := by simp [controlResult]

@[simp] theorem regqBody_mems (o : FmtC) (k : Ctx) (s : State) : (regqBody o k s).mems = s.mems := by simp [regqBody]

@[simp] theorem waveAged_mems (core wave : Nat) (s : State) : (waveAged core wave s).mems = s.mems := by
  unfold waveAged
  (repeat' split) <;> simp

@[simp] theorem State.settle_mems (s : State) (c : Nat) : (s.settle c).mems = s.mems := by rfl

@[simp] theorem State.lastWave_mems (s : State) (c : Nat) : (s.lastWave c).mems = s.mems := by
  unfold State.lastWave
  split <;> simp

@[simp] theorem State.orphan_mems (s : State) (c w n : Nat) : (s.orphan c w n).mems = s.mems := by rfl

@[simp] theorem State.taskWaveEnd_mems (s : State) (q : Option Nat) : (s.taskWaveEnd q).mems = s.mems := by
  unfold State.taskWaveEnd
  (repeat' split) <;> simp

@[simp] theorem State.waveDone_mems (s : State) (c : Nat) (w : Wave) : (s.waveDone c w).mems = s.mems := by
  unfold State.waveDone
  (repeat' split) <;> simp

@[simp] theorem State.noteBusy_mems (s : State) (c wave : Nat) : (s.noteBusy c wave).mems = s.mems := by
  unfold State.noteBusy
  split <;> simp

@[simp] theorem State.flushTraps_mems (s : State) (c w : Nat) : (s.flushTraps c w).mems = s.mems := by simp [State.flushTraps]

@[simp] theorem waveRetire_mems (core wave : Nat) (s : State) : (waveRetire core wave s).mems = s.mems := by
  unfold waveRetire
  split <;> simp

@[simp] theorem trapDelivery_mems (trap : Nat) (s : State) : (trapDelivery trap s).mems = s.mems := by
  unfold trapDelivery
  (repeat' split) <;> simp

end Sys2Proof.Machine
end

section
/-! PROOFS. The frame of the copy and matrix engines' bookkeeping (R275 to R328): neither memory changes. -/

namespace Sys2Proof.Machine

@[simp] theorem State.addPb_mems (s : State) (c b : Nat) (d : Int) : (s.addPb c b d).mems = s.mems := by
  unfold State.addPb
  split <;> simp

@[simp] theorem State.countPb_mems (s : State) (c : Nat) (x : CopyCmd) (n : Nat) : (s.countPb c x n).mems = s.mems := by simp [State.countPb]

@[simp] theorem State.sweepSeals_mems (s : State) (c : Nat) : (s.sweepSeals c).mems = s.mems := by simp [State.sweepSeals]

@[simp] theorem State.cmdTrap_mems (s : State) (c : Nat) (x : CopyCmd) (cause secondary addr : Nat) (chan : Option Nat) : (s.cmdTrap c x cause secondary addr chan).mems = s.mems := by simp [State.cmdTrap]

@[simp] theorem State.endCmd_mems (s : State) (c : Nat) (x : CopyCmd) : (s.endCmd c x).mems = s.mems := by simp [State.endCmd]

@[simp] theorem State.failCmd_mems (s : State) (c : Nat) (x : CopyCmd) (cause secondary addr : Nat) (chan : Option Nat) : (s.failCmd c x cause secondary addr chan).mems = s.mems := by simp [State.failCmd]

@[simp] theorem State.bufWrite_mems (s : State) (d dsp a : Nat) (bs : List Byte) : (s.bufWrite d dsp a bs).mems = s.mems := by rfl

@[simp] theorem copyAccept_mems (core cmd : Nat) (s : State) : (copyAccept core cmd s).mems = s.mems := by
  unfold copyAccept
  split <;> simp

@[simp] theorem copyStart_mems (core chan : Nat) (s0 : State) : (copyStart core chan s0).mems = s0.mems := by
  unfold copyStart
  dsimp only
  (repeat' split) <;> simp

@[simp] theorem State.copyQueue_mems (s : State) (c : Nat) (x : CopyCmd) : (s.copyQueue c x).mems = s.mems := by simp [State.copyQueue]

@[simp] theorem copyComplete_mems (core cmd : Nat) (s : State) : (copyComplete core cmd s).mems = s.mems := by
  unfold copyComplete
  split <;> simp

@[simp] theorem copyBody_mems (op : CopyOp) (o : FmtX) (k : Ctx) (s : State) : (copyBody op o k s).mems = s.mems := by simp [copyBody]

@[simp] theorem sealBody_mems (o : FmtA) (k : Ctx) (s0 : State) : (sealBody o k s0).mems = s0.mems := by simp [sealBody]

@[simp] theorem barrierMismatch_mems (k : Ctx) (s : State) : (barrierMismatch k s).mems = s.mems := by simp [barrierMismatch]

@[simp] theorem carrBody_mems (o : FmtA) (k : Ctx) (s : State) : (carrBody o k s).mems = s.mems := by simp [carrBody]

@[simp] theorem carrArrival_mems (core wave lane : Nat) (s : State) : (carrArrival core wave lane s).mems = s.mems := by
  unfold carrArrival
  (repeat' split) <;> simp

@[simp] theorem cinitBody_mems (o : FmtA) (k : Ctx) (s : State) : (cinitBody o k s).mems = s.mems := by simp [cinitBody]

@[simp] theorem guardBody_mems (mask : Ctx → Nat) (v : Ctx → Guard) (k : Ctx) (s : State) : (guardBody mask v k s).mems = s.mems := by simp [guardBody]

@[simp] theorem cptrBody_mems (o : FmtA) (n : Nat) (f : Chan → Nat) (k : Ctx) (s : State) : (cptrBody o n f k s).mems = s.mems := by simp [cptrBody]

@[simp] theorem State.endMat_mems (s : State) (c : Nat) (m : MatCmd) : (s.endMat c m).mems = s.mems := by simp [State.endMat]

@[simp] theorem State.failMat_mems (s : State) (c : Nat) (m : MatCmd) (secondary addr : Nat) : (s.failMat c m secondary addr).mems = s.mems := by simp [State.failMat]

@[simp] theorem State.settleMats_mems (s : State) (c : Nat) : (s.settleMats c).mems = s.mems := by simp [State.settleMats]

@[simp] theorem matrixAccept_mems (core cmd : Nat) (s : State) : (matrixAccept core cmd s).mems = s.mems := by
  unfold matrixAccept
  split <;> simp

@[simp] theorem mmaBlockRead_mems (core cmd : Nat) (s0 : State) : (mmaBlockRead core cmd s0).mems = s0.mems := by
  unfold mmaBlockRead
  dsimp only
  (repeat' split) <;> simp

@[simp] theorem matrixStart_mems (core cmd : Nat) (s0 : State) : (matrixStart core cmd s0).mems = s0.mems := by
  unfold matrixStart
  dsimp only
  (repeat' split) <;> simp

@[simp] theorem matrixComplete_mems (u core cmd : Nat) (s : State) : (matrixComplete u core cmd s).mems = s.mems := by
  unfold matrixComplete
  (repeat' split) <;> simp

@[simp] theorem matBody_mems (o : FmtX) (kind : Ctx → Nat → MatOp) (k : Ctx) (s : State) : (matBody o kind k s).mems = s.mems := by simp [matBody]

@[simp] theorem portBody_mems (o : FmtA) (kind : Nat → Nat → List (Nat × Nat) → MatOp) (k : Ctx) (s : State) : (portBody o kind k s).mems = s.mems := by simp [portBody]

end Sys2Proof.Machine
end

section
/-! PROOFS. The frame of the Orrery's bookkeeping (R329 to R357): neither memory changes. -/

namespace Sys2Proof.Machine

@[simp] theorem State.modEngine_mems (s : State) (pa : Nat) (f : EngineArea → EngineArea) : (s.modEngine pa f).mems = s.mems := by
  unfold State.modEngine
  split <;> rfl

@[simp] theorem State.addCalls_mems (s : State) (cs : List Call) : (s.addCalls cs).mems = s.mems := by
  unfold State.addCalls
  refine mems_foldl (fun _ _ => ?_) cs s
  rfl

@[simp] theorem sendCalls_mems (k : Ctx) (susp : Bool) (fs : List LaneFault) (cs : List Call) (s : State) : (sendCalls k susp fs cs s).mems = s.mems := by simp [sendCalls]

@[simp] theorem laneCalls_mems (kind : CallOp) (o : FmtK) (args : Ctx → CallArgs) (susp : Bool) (faults : Ctx → State → List LaneFault)
    (k : Ctx) (s : State) : (laneCalls kind o args susp faults k s).mems = s.mems :=
  sendCalls_mems ..

@[simp] theorem recordCall_mems (kind : CallOp) (susp : Bool) (n : RecLen) (need : Nat) (o : FmtK) (args : Ctx → CallArgs) (k : Ctx)
    (s : State) : (recordCall kind susp n need o args k s).mems = s.mems :=
  laneCalls_mems ..

@[simp] theorem psendBody_mems (o : FmtK) (k : Ctx) (s : State) : (psendBody o k s).mems = s.mems := recordCall_mems ..

@[simp] theorem precvBody_mems (o : FmtK) (k : Ctx) (s : State) : (precvBody o k s).mems = s.mems := recordCall_mems ..

@[simp] theorem qenqBody_mems (o : FmtK) (k : Ctx) (s : State) : (qenqBody o k s).mems = s.mems := recordCall_mems ..

@[simp] theorem dcinitBody_mems (o : FmtK) (k : Ctx) (s : State) : (dcinitBody o k s).mems = s.mems := recordCall_mems ..

@[simp] theorem objnewBody_mems (o : FmtK) (k : Ctx) (s : State) : (objnewBody o k s).mems = s.mems := laneCalls_mems ..

theorem State.lineFor_mems {s t : State} {c asid line : Nat} {bits : BitVec 512} (h : s.lineFor c asid line = .ok (t, bits)) :
    t.mems = s.mems := by
  unfold State.lineFor at h
  dsimp only at h
  split at h
  · cases h
    rfl
  · split at h
    · cases h
    · split at h <;> cases h <;> exact State.fetchLine_mems ‹_›

@[simp] theorem State.entryCheck_mems (s : State) (c asid pc : Nat) : (s.entryCheck c asid pc).1.mems = s.mems := by
  unfold State.entryCheck
  split
  · rfl
  · split
    · rfl
    · exact State.lineFor_mems ‹_›

@[simp] theorem suspendBody_mems (o : FmtK) (cont : Ctx → Nat) (k : Ctx) (s : State) : (suspendBody o cont k s).mems = s.mems := by
  unfold suspendBody
  dsimp only
  (repeat' split) <;> simp

@[simp] theorem syscallBody_mems (o : FmtK) (k : Ctx) (s : State) : (syscallBody o k s).mems = s.mems := by simp [syscallBody]

@[simp] theorem State.opDone_mems (s : State) (c w op : Nat) : (s.opDone c w op).mems = s.mems := by simp [State.opDone]

@[simp] theorem State.dropCall_mems (s : State) (id : Nat) : (s.dropCall id).mems = s.mems := by rfl

@[simp] theorem State.modCall_mems (s : State) (id : Nat) (f : Call → Call) : (s.modCall id f).mems = s.mems := by rfl

@[simp] theorem State.callSettle_mems (s : State) (c w op : Nat) (pc : PC) : (s.callSettle c w op pc).mems = s.mems := by simp [State.callSettle]

@[simp] theorem State.callGo_mems (s : State) (x : Call) : (s.callGo x).mems = s.mems := by simp [State.callGo]

@[simp] theorem State.callWrite_mems (s : State) (x : Call) (l n v : Nat) : (s.callWrite x l n v).mems = s.mems := by simp [State.callWrite]

@[simp] theorem State.reply_mems (s : State) (x : Call) (n v : Nat) : (s.reply x n v).mems = s.mems := by simp [State.reply]

@[simp] theorem State.replyLanes_mems (s : State) (x : Call) (rs : List (Nat × Nat)) : (s.replyLanes x rs).mems = s.mems := by simp [State.replyLanes]

@[simp] theorem State.failCall_mems (s : State) (x : Call) (cause addr : Nat) : (s.failCall x cause addr).mems = s.mems := by simp [State.failCall]

@[simp] theorem State.waitCall_mems (s : State) (x : Call) (on : WaitOn) : (s.waitCall x on).mems = s.mems :=
  (State.opDone_mems ..).trans ((State.callGo_mems ..).trans ((State.modWave_mems ..).trans (State.dropCall_mems s x.id)))

@[simp] theorem State.markSent_mems (s : State) (x : Call) (n : Nat) : (s.markSent x n).mems = s.mems := by rfl

theorem threadReadParts_mems {x : Call} {ps : List Piece} {s t : State} {bs cs : List Byte} (h : threadReadParts x ps s bs = .ok (t, cs)) :
    t.mems = s.mems := by
  induction ps generalizing s bs with
  | nil => cases h; rfl
  | cons p ps ih =>
    unfold threadReadParts at h
    dsimp only at h
    split at h
    · cases h
    · split at h
      · cases h
      · split at h
        · cases h
        · rw [ih h]
          simp

theorem State.threadRead_mems {s : State} {x : Call} {va n : Nat} {r : State × List Byte} (h : s.threadRead x va n = .ok r) :
    r.1.mems = s.mems := by
  unfold State.threadRead at h
  split at h
  · cases h
  · cases h
  · exact threadReadParts_mems h

theorem CallAcc.memsOk_bind {α : Type} {r : CallAcc α} {s : State} {x : Call} {f : α → State} (hs : MemsOk s.mems)
    (hf : ∀ y, r = .ok y → MemsOk (f y).mems) : MemsOk (r.bind s x f).mems := by
  unfold CallAcc.bind
  split
  · simp [hs]
  · simp [hs]
  · simp [hs]
  · exact hf _ rfl

theorem State.newObj_mems {s t : State} {die asid i : Nat} {b : ObjBody} (h : s.newObj die asid b = some (t, i)) : t.mems = s.mems := by
  obtain ⟨j, -, hj⟩ := Option.map_eq_some_iff.mp h
  cases hj
  rfl

@[simp] theorem State.freeIdx_mems (s : State) (idx : Nat) : (s.freeIdx idx).mems = s.mems := by rfl

@[simp] theorem State.replyNew_mems (s : State) (x : Call) (b : ObjBody) : (s.replyNew x b).mems = s.mems := by
  unfold State.replyNew
  split
  · exact (State.reply_mems ..).trans (State.newObj_mems ‹_›)
  · exact State.reply_mems ..

@[simp] theorem State.addFrame_mems (s : State) (asid f : Nat) : (s.addFrame asid f).mems = s.mems := by
  unfold State.addFrame
  split <;> rfl

@[simp] theorem State.setGrant_mems (s : State) (h : Option Nat) (st : Nat) : (s.setGrant h st).mems = s.mems := by
  unfold State.setGrant
  (repeat' split) <;> simp

@[simp] theorem State.sendOut_mems (s : State) (die pkg serial : Nat) (b : RemoteBody) : (s.sendOut die pkg serial b).mems = s.mems := by rfl

@[simp] theorem State.portRoom_mems (s : State) (idx : Nat) : (s.portRoom idx).mems = s.mems :=
  (State.poke_mems ..).trans (mems_foldl (fun _ _ => State.sendOut_mems ..) _ _)

@[simp] theorem State.killProxy_mems (s : State) (idx : Nat) : (s.killProxy idx).mems = s.mems := by
  unfold State.killProxy
  (repeat' split) <;> simp

@[simp] theorem State.killNamed_mems (s : State) (h : Nat) : (s.killNamed h).mems = s.mems := by simp [State.killNamed]

@[simp] theorem State.killTarget_mems (s : State) (idx gen : Nat) : (s.killTarget idx gen).mems = s.mems := by simp [State.killTarget]

@[simp] theorem State.append_mems (s : State) (idx : Nat) (m : Msg) : (s.append idx m).mems = s.mems := by
  unfold State.append
  (repeat' split) <;> simp

@[simp] theorem State.roomFor_mems (s : State) (n : Nat) : (s.roomFor n).mems = s.mems := by rfl

@[simp] theorem State.dropFrame_mems (s : State) (f : Nat) : (s.dropFrame f).mems = s.mems := by rfl

@[simp] theorem performNsbind_mems (sys : Bool) (x : Call) (s : State) : (performNsbind sys x s).mems = s.mems := by
  have hfab (f : Fabric) : ({ s with fab := f } : State).mems = s.mems := by rfl
  unfold performNsbind
  dsimp only
  split
  · simp
  · split <;> simp [hfab]

@[simp] theorem State.lookFound_mems (s : State) (x : Call) (b : Binding) : (s.lookFound x b).mems = s.mems := by simp [State.lookFound]

@[simp] theorem performNslook_mems (x : Call) (s : State) : (performNslook x s).mems = s.mems := by
  unfold performNslook
  dsimp only
  (repeat' split) <;> simp

@[simp] theorem State.unbindPort_mems (s : State) (idx gen : Nat) : (s.unbindPort idx gen).mems = s.mems :=
  mems_foldl (fun _ _ => State.sendOut_mems ..) _ _

@[simp] theorem State.taskWaveMore_mems (s : State) (q : Option Nat) : (s.taskWaveMore q).mems = s.mems := by
  unfold State.taskWaveMore
  split <;> simp

@[simp] theorem performWcreate_mems (x : Call) (s : State) : (performWcreate x s).mems = s.mems := by
  unfold performWcreate
  dsimp only
  split
  · simp
  · split
    · simp
    · split
      · simp
      · split
        · simp
        · split
          · simp
          · rename_i hnew
            simp [State.newObj_mems hnew]

theorem onCounter_memsOk {x : Call} {h : Nat} {s : State} {f : Nat → State} (hs : MemsOk s.mems) (hf : ∀ y, MemsOk (f y).mems) :
    MemsOk (onCounter x h s f).mems := by
  unfold onCounter
  split
  · simp [hs]
  · split <;> simp [hs, hf]

theorem performEcsig_memsOk (x : Call) {s : State} (hs : MemsOk s.mems) : MemsOk (performEcsig x s).mems :=
  onCounter_memsOk hs fun _ => by simp [hs]

@[simp] theorem performEcread_mems (x : Call) (s : State) : (performEcread x s).mems = s.mems := by
  unfold performEcread
  (repeat' split) <;> simp

theorem onWaitset_memsOk {x : Call} {s : State} {f : Tbl (Nat × Nat) → State} (hs : MemsOk s.mems) (hf : ∀ y, MemsOk (f y).mems) :
    MemsOk (onWaitset x s f).mems := by
  unfold onWaitset
  split
  · simp [hs]
  · split <;> simp [hs, hf]

theorem performWsadd_memsOk (idx : Nat) (x : Call) {s : State} (hs : MemsOk s.mems) : MemsOk (performWsadd idx x s).mems :=
  onWaitset_memsOk hs fun _ => onCounter_memsOk hs fun _ => by simp [hs]

theorem performWsdel_memsOk (idx : Nat) (x : Call) {s : State} (hs : MemsOk s.mems) : MemsOk (performWsdel idx x s).mems :=
  onWaitset_memsOk hs fun _ => by simp [hs]

@[simp] theorem performSuspend_mems (cont : PC) (x : Call) (s : State) : (performSuspend cont x s).mems = s.mems := by
  have hwait (on : WaitOn) (ws : List Waiter) : ({ s.waitCall x on with waiters := ws } : State).mems = s.mems := State.waitCall_mems ..
  unfold performSuspend
  dsimp only
  split
  · simp
  · split <;> simp [hwait]

theorem onTimer_memsOk {x : Call} {s : State} {f : Nat → Nat → State} (hs : MemsOk s.mems) (hf : ∀ y z, MemsOk (f y z).mems) :
    MemsOk (onTimer x s f).mems := by
  unfold onTimer
  split
  · simp [hs]
  · split <;> simp [hs, hf]

theorem performTarm_memsOk (x : Call) {s : State} (hs : MemsOk s.mems) : MemsOk (performTarm x s).mems :=
  onTimer_memsOk hs fun _ _ => by simp [hs]

theorem performTdisarm_memsOk (x : Call) {s : State} (hs : MemsOk s.mems) : MemsOk (performTdisarm x s).mems :=
  onTimer_memsOk hs fun _ _ => by simp [hs]

theorem onQueueObj_memsOk {x : Call} {s : State} {f : TaskQ → State} (hs : MemsOk s.mems) (hf : ∀ y, MemsOk (f y).mems) :
    MemsOk (onQueueObj x s f).mems := by
  unfold onQueueObj
  split
  · simp [hs]
  · split <;> simp [hs, hf]

theorem performDcinit_memsOk (x : Call) {s : State} (hs : MemsOk s.mems) : MemsOk (performDcinit x s).mems :=
  onQueueObj_memsOk hs fun q => by
    dsimp only
    split
    · simp [hs]
    · exact CallAcc.memsOk_bind hs fun r hr => by simp [State.threadRead_mems hr, hs]

theorem performObjnew_memsOk (ty : Nat) (x : Call) {s : State} (hs : MemsOk s.mems) : MemsOk (performObjnew ty x s).mems := by
  unfold performObjnew
  dsimp only
  split
  · simp [hs]
  · simp [hs]
  · split
    · simp [hs]
    · split <;> simp [hs]
  · split
    · simp [hs]
    · refine CallAcc.memsOk_bind hs fun r hr => ?_
      have hr : MemsOk r.1.mems := by simp [State.threadRead_mems hr, hs]
      split
      · simp [hr]
      · split
        · simp [hr]
        · exact CallAcc.memsOk_bind hr fun _ _ => by simp [hr]
  · simp [hs]

@[simp] theorem State.wakeAll_mems (s : State) (idx : Nat) : (s.wakeAll idx).mems = s.mems := by rfl

@[simp] theorem State.forgetCounter_mems (s : State) (h : Nat) : (s.forgetCounter h).mems = s.mems := by rfl

@[simp] theorem performObjinfo_mems (x : Call) (s : State) : (performObjinfo x s).mems = s.mems := by
  unfold performObjinfo
  split <;> simp

@[simp] theorem performSyscall_mems (fn : Nat) (x : Call) (s : State) : (performSyscall fn x s).mems = s.mems := by
  have hring (n : Nat) (v : Service) : ({ s with nextId := n, svc := v } : State).mems = s.mems := by rfl
  unfold performSyscall
  simp [hring]

@[simp] theorem State.dropWaiter_mems (s : State) (id : Nat) : (s.dropWaiter id).mems = s.mems := by rfl

@[simp] theorem State.crewTime_mems (s : State) (uid t : Nat) : (s.crewTime uid t).mems = s.mems := by
  unfold State.crewTime
  split <;> rfl

@[simp] theorem State.freshBuffers_mems (s : State) (c : Nat) : (s.freshBuffers c).mems = s.mems := by rfl

@[simp] theorem State.manualBack_mems (s : State) (c : Nat) : (s.manualBack c).mems = s.mems := by simp [State.manualBack]

theorem State.stageFor_mems {s t : State} {c asid : Nat} {q : TaskQ} (h : s.stageFor c asid q = some t) : t.mems = s.mems := by
  unfold State.stageFor at h
  dsimp only at h
  repeat' split at h
  all_goals cases h
  all_goals rfl

@[simp] theorem taskWaveForm_mems (core obj : Nat) (s : State) : (taskWaveForm core obj s).mems = s.mems := by
  unfold taskWaveForm
  split
  · split
    · split
      · rename_i hstage
        split
        · have hbegin (n : Nat) (c : Nat) (a e : Nat) (u : State) : ({ (u.entryCheck c a e).1 with freeCtr := n } : State).mems = u.mems :=
            State.entryCheck_mems ..
          dsimp only
          simp [hbegin, State.stageFor_mems hstage]
        · rfl
      · rfl
    · rfl
  · rfl

end Sys2Proof.Machine
end

section
/-! PROOFS. The frame of launches, contracts and stages (R358 to R378): neither memory changes. -/

namespace Sys2Proof.Machine

@[simp] theorem launchBody_mems (o : FmtK) (k : Ctx) (s : State) : (launchBody o k s).mems = s.mems := recordCall_mems ..

@[simp] theorem ctadmitBody_mems (o : FmtK) (k : Ctx) (s : State) : (ctadmitBody o k s).mems = s.mems := recordCall_mems ..

@[simp] theorem State.openLaunch_mems (s : State) (asid : Nat) (r : LaunchRec) (time : Nat) : (s.openLaunch asid r time).1.mems = s.mems := by
  unfold State.openLaunch
  dsimp only
  generalize (if r.contract = 0 then none else s.contractOf r.contract) = terms
  cases terms
  · rfl
  · exact State.setBody_mems ..

theorem performLaunch_memsOk (x : Call) {s : State} (hs : MemsOk s.mems) : MemsOk (performLaunch x s).mems := by
  refine CallAcc.memsOk_bind hs fun p hp => ?_
  have hp : MemsOk p.1.mems := by simp [State.threadRead_mems hp, hs]
  dsimp only
  generalize (if x.noA = true then x.asid else x.a.toNat % 2 ^ 16) = asid
  split
  · simp [hp]
  · split
    · simp [hp]
    · split
      · simp [hp]
      · split <;> simp [hp]

@[simp] theorem performLstat_mems (x : Call) (s : State) : (performLstat x s).mems = s.mems := by simp [performLstat]

@[simp] theorem State.drainSet_mems (s : State) (c : Contract) : (s.drainSet c).mems = s.mems := by rfl

theorem performCtadmit_memsOk (x : Call) {s : State} (hs : MemsOk s.mems) : MemsOk (performCtadmit x s).mems := by
  refine CallAcc.memsOk_bind hs fun p hp => ?_
  have hp : MemsOk p.1.mems := by simp [State.threadRead_mems hp, hs]
  split
  · simp [hp]
  · split
    · simp [hp]
    · split
      · simp [hp]
      · split
        · simp [hp]
        · split
          · simp [hp]
          · split
            · rename_i hnew
              simp [State.newObj_mems hnew, hp]
            · simp [hp]

@[simp] theorem State.crestAnswer_mems (s : State) (x : Call) : (s.crestAnswer x).mems = s.mems := by
  unfold State.crestAnswer
  (repeat' split) <;> simp

@[simp] theorem State.setInst_mems (s : State) (serial k : Nat) (f : Inst → Inst) : (s.setInst serial k f).mems = s.mems := by
  unfold State.setInst
  split
  · rfl
  · exact State.mems_ite_of (State.signal_mems ..) rfl

@[simp] theorem State.claimFor_mems (s : State) (serial k n : Nat) (place : Nat → Nat → Nat) :
    (s.claimFor serial k n place).mems = s.mems := by
  unfold State.claimFor
  split
  · rfl
  · split
    · rfl
    · exact (mems_foldl (fun _ _ => State.modCore_mems ..) _ _).trans (State.setInst_mems ..)

@[simp] theorem State.claimGangs_mems (s : State) (serial : Nat) (l : Launch) (clusters : List Nat) : (s.claimGangs serial l clusters).mems = s.mems := by simp [State.claimGangs]

@[simp] theorem State.claimNormal_mems (s : State) (die : Nat) : (s.claimNormal die).mems = s.mems := by
  unfold State.claimNormal
  dsimp only
  (repeat' split) <;> simp

@[simp] theorem dieAgentClaim_mems (die : Nat) (s : State) : (dieAgentClaim die s).mems = s.mems := by
  have hgather (g : Tbl (Nat × Nat)) : ({ s with gathers := g } : State).mems = s.mems := by rfl
  unfold dieAgentClaim
  split
  · rfl
  · split
    · simp
    · split
      · rfl
      · split <;> simp [hgather]

@[simp] theorem State.startCrew_mems (s : State) (c frame : Nat) (x : Claim) (l : Launch) : (s.startCrew c frame x l).mems = s.mems := by rfl

@[simp] theorem crewStart_mems (core : Nat) (s : State) : (crewStart core s).mems = s.mems := by
  unfold crewStart
  split
  · rfl
  · split
    · simp
    · dsimp only
      split
      · rfl
      · split
        · exact (State.setInst_mems ..).trans (mems_foldl (fun _ _ => State.modCore_mems ..) _ _)
        · exact mems_foldl (fun _ _ => State.startCrew_mems ..) _ _

@[simp] theorem State.releaseFrame_mems (s : State) (f : Nat) : (s.releaseFrame f).mems = s.mems := by rfl

@[simp] theorem State.forgetCrew_mems (s : State) (uid : Nat) : (s.forgetCrew uid).mems = s.mems := by rfl

@[simp] theorem State.csaveLost_mems (s : State) (uid : Nat) : (s.csaveLost uid).mems = s.mems := by simp [State.csaveLost]

@[simp] theorem State.crewGone_mems (s : State) (k : Crew) (time : Nat) : (s.crewGone k time).mems = s.mems := by simp [State.crewGone]

@[simp] theorem State.chargeCore_mems (s : State) (c : Nat) : (s.chargeCore c).mems = s.mems := by
  unfold State.chargeCore
  split <;> simp

@[simp] theorem State.emptyCore_mems (s : State) (c : Nat) : (s.emptyCore c).mems = s.mems := by rfl

@[simp] theorem State.askPreempt_mems (s : State) (c reason : Nat) (hold : Bool) (dest : Option Nat) :
    (s.askPreempt c reason hold dest).mems = s.mems := by
  refine mems_foldl (fun t d => ?_) _ _
  exact State.modCrew_mems ..

@[simp] theorem State.askMove_mems (s : State) (die c : Nat) : (s.askMove die c).mems = s.mems := by
  unfold State.askMove
  split <;> simp

@[simp] theorem State.dropGather_mems (s : State) (die : Nat) : (s.dropGather die).mems = s.mems := by
  unfold State.dropGather
  split <;> rfl

@[simp] theorem gangGather_mems (die : Nat) (s : State) : (gangGather die s).mems = s.mems := by
  unfold gangGather
  split
  · split <;> simp
  · split
    · rfl
    · split
      · split
        · rfl
        · split
          · rfl
          · refine (mems_foldl (fun _ _ => State.askMove_mems ..) _ _).trans (mems_foldl (fun t c => ?_) _ _)
            split <;> simp
      · rfl

@[simp] theorem State.chargeStages_mems (s : State) (obj : Nat) : (s.chargeStages obj).mems = s.mems := by
  refine mems_foldl (fun t e => ?_) _ _
  split <;> simp

@[simp] theorem contractShareReached_mems (obj core : Nat) (s : State) : (contractShareReached obj core s).mems = s.mems := by
  unfold contractShareReached
  split <;> simp

@[simp] theorem State.abortSaved_mems (s : State) (k : Crew) (f : Frame) : (s.abortSaved k f).mems = s.mems := by
  unfold State.abortSaved
  split <;> simp

@[simp] theorem State.endCommitted_mems (s : State) (c : Nat) (z : Crew) : (s.endCommitted c z).mems = s.mems := by
  unfold State.endCommitted
  refine (mems_foldl (fun _ _ => State.completeOp_mems ..) _ _).trans ?_
  refine (mems_foldl (fun t i => ?_) _ _).trans (State.record_mems ..)
  split <;> simp

@[simp] theorem State.abortClaim_mems (s : State) (c : Nat) (x : Claim) (asid : Nat) : (s.abortClaim c x asid).mems = s.mems := by
  unfold State.abortClaim
  split <;> simp

@[simp] theorem State.abortCrews_mems (s : State) (serial k asid : Nat) : (s.abortCrews serial k asid).mems = s.mems := by
  unfold State.abortCrews
  refine (mems_foldl (fun t e => ?_) _ _).trans ((mems_foldl (fun t e => ?_) _ _).trans (mems_foldl (fun t e => ?_) _ _))
  · split <;> simp
  · split <;> simp
  · split
    · split <;> simp
    · rfl

@[simp] theorem State.openInstance_mems (s : State) (obj : Nat) : (s.openInstance obj).mems = s.mems := by
  unfold State.openInstance
  split
  · dsimp only
    split
    · rfl
    · refine (mems_foldl (fun _ _ => State.askPreempt_mems ..) _ _).trans ((State.setBody_mems ..).trans ?_)
      exact State.chargeStages_mems s obj
  · rfl

@[simp] theorem budgetWindowClose_mems (tenant win watts : Nat) (s : State) : (budgetWindowClose tenant win watts s).mems = s.mems := by
  unfold budgetWindowClose
  exact State.mems_ite_of rfl rfl

@[simp] theorem State.joinStage_mems (s : State) (c t : Nat) : (s.joinStage c t).mems = s.mems := by rfl

@[simp] theorem State.drainCore_mems (s : State) (c : Nat) (next : Option Nat) : (s.drainCore c next).mems = s.mems := by rfl

@[simp] theorem State.evalStage_mems (s : State) (t : Nat) : (s.evalStage t).mems = s.mems := by
  unfold State.evalStage
  (repeat' split) <;> simp

@[simp] theorem stageCoreLeave_mems (core : Nat) (s : State) : (stageCoreLeave core s).mems = s.mems := by
  unfold stageCoreLeave
  dsimp only
  (repeat' split) <;> simp

end Sys2Proof.Machine
end

section
/-! PROOFS. The frame of traps, saved crews and the fabric (R379 to R427): neither memory changes. -/

namespace Sys2Proof.Machine

@[simp] theorem State.contextLost_mems (s : State) (k : Crew) (core : Nat) : (s.contextLost k core).mems = s.mems := by
  unfold State.contextLost
  split <;> simp

@[simp] theorem State.cleanseFrame_mems (s : State) (written : List (Nat × Nat)) : (s.cleanseFrame written).mems = s.mems := by rfl

@[simp] theorem State.stoppedAgain_mems (s : State) (c : Nat) : (s.stoppedAgain c).mems = s.mems := by simp [State.stoppedAgain]

@[simp] theorem State.unreserve_mems (s : State) (uid : Nat) : (s.unreserve uid).mems = s.mems := by rfl

@[simp] theorem State.endSaved_mems (s : State) (pa : Nat) : (s.endSaved pa).mems = s.mems := by
  unfold State.endSaved
  split
  · split
    · exact (State.crewGone_mems ..).trans (mems_foldl (fun _ _ => State.recordOf_mems ..) _ _)
    · rfl
  · rfl

@[simp] theorem State.savedRecord_mems (s : State) (pa w : Nat) (m : Lanes) (cause secondary : Nat) (pc : PC) (addr id : Nat) : (s.savedRecord pa w m cause secondary pc addr id).mems = s.mems := by
  unfold State.savedRecord
  (repeat' split) <;> simp

@[simp] theorem hintNow_mems (k : Ctx) (block : Option Nat) (s : State) : (hintNow k block s).mems = s.mems := by simp [hintNow]

@[simp] theorem phintBody_mems (o : FmtI) (k : Ctx) (s : State) : (phintBody o k s).mems = s.mems := by simp [phintBody]

@[simp] theorem rettOne_mems (asid x : Nat) (step : Bool) (s : State) : (rettOne asid x step s).mems = s.mems := by simp [rettOne]

@[simp] theorem rettBody_mems (o : FmtC) (step : Bool) (k : Ctx) (s : State) : (rettBody o step k s).mems = s.mems := by simp [rettBody]

theorem State.beginCalls_memsOk {s : State} (hs : MemsOk s.mems) (k : Ctx) {f : Call → State → State}
    (hf : ∀ x t, MemsOk t.mems → MemsOk (f x t).mems) : MemsOk (s.beginCalls k f).mems :=
  memsOk_foldl (fun _ _ => hf _ _) _ hs

theorem State.beginCalls_mems {s : State} (k : Ctx) {f : Call → State → State} (hf : ∀ x t, (f x t).mems = t.mems) :
    (s.beginCalls k f).mems = s.mems :=
  mems_foldl (fun t x => hf x t) _ s

@[simp] theorem beginCsave_mems (x : Call) (s : State) : (beginCsave x s).mems = s.mems := by
  unfold beginCsave
  dsimp only
  split
  · simp
  · refine (State.markSent_mems ..).trans (mems_foldl (fun t f => ?_) _ _)
    rfl
  · simp

@[simp] theorem beginPtinv_mems (mode : Nat) (x : Call) (s : State) : (beginPtinv mode x s).mems = s.mems := by
  unfold beginPtinv
  exact State.mems_ite_of (State.reply_mems ..) rfl

@[simp] theorem ptinvBody_mems (o : FmtM) (mode : Nat) (k : Ctx) (s : State) : (ptinvBody o mode k s).mems = s.mems :=
  (mems_foldl (fun _ _ => beginPtinv_mems ..) _ _).trans (sendCalls_mems ..)

theorem State.asDusk_memsOk {s : State} (hs : MemsOk s.mems) (core uid : Nat) (frames : List Nat) {f : State → State}
    (hf : ∀ u, MemsOk u.mems → MemsOk (f u).mems) : MemsOk (s.asDusk core uid frames f).mems :=
  s.asAgent_memsOk hs _ _ _ hf

@[simp] theorem State.shootDrop_mems (s : State) (h : Shoot) : (s.shootDrop h).mems = s.mems := by rfl

@[simp] theorem State.endParked_mems (s : State) (h : Shoot) : (s.endParked h).mems = s.mems := by
  refine mems_foldl (fun t e => mems_foldl (fun u w => mems_foldl (fun v p => ?_) _ _) _ _) _ _
  dsimp only
  split <;> simp

@[simp] theorem State.answerTo_mems (s : State) (m : RemoteMsg) (die : Nat) (b : RemoteBody) : (s.answerTo m die b).mems = s.mems := by rfl

@[simp] theorem State.dropArrived_mems (s : State) (m : RemoteMsg) : (s.dropArrived m).mems = s.mems := by rfl

@[simp] theorem remoteMessageArrival_mems (pkg serial : Nat) (s : State) : (remoteMessageArrival pkg serial s).mems = s.mems := by
  have hfab (t : State) (f : Fabric) : ({ t with fab := f } : State).mems = t.mems := by rfl
  unfold remoteMessageArrival
  split
  · rfl
  · split
    · rfl
    · split
      · dsimp only
        split
        · split
          · simp only [State.mems_ite, hfab]
            simp
          · simp
        · simp
      · rfl

@[simp] theorem grantTakenNotice_mems (obj : Nat) (s : State) : (grantTakenNotice obj s).mems = s.mems := by
  unfold grantTakenNotice
  split
  · rfl
  · exact (State.setGrant_mems ..).trans (mems_foldl (fun _ _ => State.addFrame_mems ..) _ _)

@[simp] theorem remoteGrantrev_mems (pkg serial : Nat) (s : State) : (remoteGrantrev pkg serial s).mems = s.mems := by
  unfold remoteGrantrev
  dsimp only
  (repeat' split) <;> simp

@[simp] theorem State.hostBindTo_mems (s : State) (name port : Nat) : (s.hostBindTo name port).1.mems = s.mems := by
  unfold State.hostBindTo
  (repeat' split) <;> rfl

@[simp] theorem State.hostUnbind_mems (s : State) (name : Nat) : (s.hostUnbind name).1.mems = s.mems := by
  unfold State.hostUnbind
  split <;> rfl

@[simp] theorem State.ackUpTo_mems (s : State) (pkg n : Nat) : (s.ackUpTo pkg n).mems = s.mems := by
  unfold State.ackUpTo
  dsimp only
  split <;> rfl

@[simp] theorem State.atHolder_mems (s : State) (m : RemoteMsg) : (s.atHolder m).mems = s.mems := by
  unfold State.atHolder
  (repeat' split) <;> rfl

@[simp] theorem State.loseWaiters_mems (s : State) (sel : WaitOn → Bool) : (s.loseWaiters sel).mems = s.mems := by rfl

@[simp] theorem State.killProxies_mems (s : State) (pkg : Nat) : (s.killProxies pkg).mems = s.mems := by simp [State.killProxies]

@[simp] theorem State.markLost_mems (s : State) (pkg : Nat) : (s.markLost pkg).mems = s.mems := by rfl

@[simp] theorem State.failHostReqs_mems (s : State) : s.failHostReqs.mems = s.mems := by
  refine mems_foldl (fun t r => ?_) _ _
  split <;> simp

@[simp] theorem State.fireHostWatches_mems (s : State) : (s.fireHostWatches).mems = s.mems := by rfl

@[simp] theorem State.loseReplays_mems (s : State) : (s.loseReplays).mems = s.mems := by rfl

@[simp] theorem State.unlodge_mems (s : State) : (s.unlodge).mems = s.mems := by rfl

@[simp] theorem State.warmRestart_mems (s : State) : s.warmRestart.mems = s.mems := by
  have hfab (t : State) (f : Fabric) : ({ t with fab := f } : State).mems = t.mems := by rfl
  unfold State.warmRestart
  refine (State.signal_mems ..).trans ((State.loseWaiters_mems ..).trans ((hfab _ _).trans ?_))
  simp [hfab]

@[simp] theorem State.portDown_mems (s : State) (port : Nat) : (s.portDown port).mems = s.mems := by
  unfold State.portDown
  refine State.mems_ite_of rfl (State.mems_ite_of ?_ rfl)
  exact State.warmRestart_mems _

theorem State.doeAnswer_mems {s t : State} {kind : Nat} {bs : List Byte} (h : s.doeAnswer kind = some (bs, t)) : t.mems = s.mems := by
  unfold State.doeAnswer at h
  split at h
  · cases h; rfl
  · cases h; rfl
  · cases h

@[simp] theorem State.hostWrote_mems (s : State) (host : Bool) (a n : Nat) : (s.hostWrote host a n).mems = s.mems := by
  refine mems_foldl (fun t i => ?_) _ _
  exact State.noteStrict_mems ..

theorem State.hostRegion_memsOk {s : State} (hs : MemsOk s.mems) (acc : HostAccess) (off n : Nat) {f : State → State}
    (hf : ∀ u, MemsOk u.mems → MemsOk (f u).mems) : MemsOk (s.hostRegion acc off n f).mems := by
  unfold State.hostRegion
  dsimp only
  generalize (if s.inShared off n = true then [(s.sharedBase + off, n)] else []) = rs
  split
  · exact State.asAgent_memsOk hs _ _ _ fun u hu => hf _ hu
  · split
    · rw [State.agentWait_mems]
      exact hs
    · exact hf s hs

@[simp] theorem State.hostGets_mems (s : State) (bs : List Byte) : (s.hostGets bs).mems = s.mems := by rfl

end Sys2Proof.Machine
end

section
/-! PROOFS. The frame of the arithmetic and lane instructions (R135 to R197): neither memory changes. -/

namespace Sys2Proof.Machine

@[simp] theorem fltOut_mems (k : Ctx) (d : Opnd) (sc : Bool) (n : Nat) (cls : Cls) (f : Nat → FRes) (s : State) : (fltOut k d sc n cls f s).mems = s.mems := by simp [fltOut]

@[simp] theorem fltBinA_mems (o : FmtA) (c32 c64 : Cls) (f : FFmt → Rnd → Bool → Nat → Nat → FRes) (k : Ctx) (s : State) : (fltBinA o c32 c64 f k s).mems = s.mems := by simp [fltBinA]

@[simp] theorem fltBinI_mems (o : FmtI) (f : FFmt → Rnd → Bool → Nat → Nat → FRes) (k : Ctx) (s : State) : (fltBinI o f k s).mems = s.mems := by simp [fltBinI]

@[simp] theorem fcmpOut_mems (k : Ctx) (t : Ty) (pd : BitVec 3) (f : Nat → Bool × BitVec 6) (s : State) : (fcmpOut k t pd f s).mems = s.mems := by simp [fcmpOut]

@[simp] theorem fltFn_mems (o : FmtA) (fn : Fn) (k : Ctx) (s : State) : (fltFn o fn k s).mems = s.mems := by simp [fltFn]

@[simp] theorem packedOut_mems (o : FmtA) (op : FFmt → Rnd → Bool → Nat → Nat → Nat → FRes) (k : Ctx) (s : State) : (packedOut o op k s).mems = s.mems := by simp [packedOut]

@[simp] theorem packedOutI_mems (o : FmtI) (op : FFmt → Rnd → Bool → Nat → Nat → Nat → FRes) (k : Ctx) (s : State) : (packedOutI o op k s).mems = s.mems := by simp [packedOutI]

@[simp] theorem dot4Body_mems (o : FmtA) (k : Ctx) (s : State) : (dot4Body o k s).mems = s.mems := by simp [dot4Body]

@[simp] theorem cvtBody_mems (o : FmtA) (k : Ctx) (s : State) : (cvtBody o k s).mems = s.mems := by simp [cvtBody]

@[simp] theorem aluOut_mems (k : Ctx) (d : Opnd) (sc : Bool) (n : Nat) (cls : Cls) (f : Nat → Nat) (s : State) : (aluOut k d sc n cls f s).mems = s.mems := by simp [aluOut]

@[simp] theorem aluPred_mems (k : Ctx) (d : Opnd) (sc : Bool) (n : Nat) (cls : Cls) (pd : BitVec 3) (f : Nat → Nat × Bool) (s : State) : (aluPred k d sc n cls pd f s).mems = s.mems := by simp [aluPred]

@[simp] theorem predOut_mems (k : Ctx) (cls : Cls) (pd : BitVec 3) (f : Nat → Bool) (s : State) : (predOut k cls pd f s).mems = s.mems := by simp [predOut]

@[simp] theorem binA_mems (o : FmtA) (c32 c64 : Cls) (f : Nat → Nat → Nat) (k : Ctx) (s : State) : (binA o c32 c64 f k s).mems = s.mems := by simp [binA]

@[simp] theorem binI_mems (o : FmtI) (c32 c64 : Cls) (f : Nat → Nat → Nat) (k : Ctx) (s : State) : (binI o c32 c64 f k s).mems = s.mems := by simp [binI]

@[simp] theorem unA_mems (o : FmtA) (n : Nat) (c32 c64 : Cls) (f : Nat → Nat) (k : Ctx) (s : State) : (unA o n c32 c64 f k s).mems = s.mems := by simp [unA]

@[simp] theorem addBodyA_mems (subtract carry : Bool) (o : FmtA) (k : Ctx) (s : State) : (addBodyA subtract carry o k s).mems = s.mems := by simp [addBodyA]

@[simp] theorem addBodyI_mems (subtract carry : Bool) (o : FmtI) (k : Ctx) (s : State) : (addBodyI subtract carry o k s).mems = s.mems := by simp [addBodyI]

@[simp] theorem divOut_mems (d : Opnd) (sc : Bool) (t : Ty) (f : Nat → Nat) (k : Ctx) (s : State) : (divOut d sc t f k s).mems = s.mems := by simp [divOut]

@[simp] theorem shiftA_mems (o : FmtA) (f : Nat → Nat → Nat → Nat) (k : Ctx) (s : State) : (shiftA o f k s).mems = s.mems := by simp [shiftA]

@[simp] theorem shiftI_mems (o : FmtI) (f : Nat → Nat → Nat → Nat) (k : Ctx) (s : State) : (shiftI o f k s).mems = s.mems := by simp [shiftI]

@[simp] theorem swriteBody_mems (o : FmtA) (k : Ctx) (s : State) : (swriteBody o k s).mems = s.mems := by
  unfold swriteBody
  (repeat' split) <;> simp

@[simp] theorem exchOut_mems (k : Ctx) (d : Opnd) (n : Nat) (cls : Cls) (pd : BitVec 3) (f : Nat → Nat × Bool) (s : State) : (exchOut k d n cls pd f s).mems = s.mems := by simp [exchOut]

@[simp] theorem shflBody_mems (d a : Opnd) (t : Ty) (sub : Nat) (pd : BitVec 3) (sel : Ctx → Nat → Nat) (other : Ctx → Nat → Nat) (k : Ctx) (s : State) : (shflBody d a t sub pd sel other k s).mems = s.mems := by simp [shflBody]

@[simp] theorem reduxBody_mems (o : FmtA) (k : Ctx) (s : State) : (reduxBody o k s).mems = s.mems := by simp [reduxBody]

@[simp] theorem permBody_mems (d a : Opnd) (t : Ty) (pat : Nat) (k : Ctx) (s : State) : (permBody d a t pat k s).mems = s.mems := by simp [permBody]

end Sys2Proof.Machine
end

section
/-! PROOFS. The frame of the services, fetches and the clock (R33 to R37, R424 to R433): neither memory changes. -/

namespace Sys2Proof.Machine

/-- A service reads a record through the thread's own path, or as the service's process does, which takes no line. -/
theorem State.svcRead_cases (s : State) (e : RingEnt) (l : Nat) :
    (∃ bs, s.svcRead e l = .ok (s, bs)) ∨ ∃ x va n, s.svcRead e l = s.threadRead x va n := by
  obtain ⟨n, hn⟩ : ∃ n, 128 = n := ⟨_, rfl⟩
  unfold State.svcRead
  rw [hn]
  cases s.coreOf e.uid with
  | none => exact .inl ⟨_, rfl⟩
  | some c =>
    dsimp only
    cases hr : s.threadRead (svcThread s e c l) (e.recOf l) n with
    | fault => exact .inl ⟨_, rfl⟩
    | ok => exact .inr ⟨_, _, _, hr.symm⟩
    | wait => exact .inr ⟨_, _, _, hr.symm⟩

theorem State.svcRead_mems {s : State} {e : RingEnt} {l : Nat} {r : State × List Byte} (h : s.svcRead e l = .ok r) : r.1.mems = s.mems := by
  obtain ⟨bs, hr⟩ | ⟨x, va, n, hr⟩ := s.svcRead_cases e l
  · cases hr.symm.trans h
    rfl
  · exact State.threadRead_mems (hr.symm.trans h)

@[simp] theorem State.svcDone_mems (s : State) (e : RingEnt) : (s.svcDone e).mems = s.mems := by
  unfold State.svcDone
  split <;> simp

@[simp] theorem State.drainStage_mems (s : State) (t : Nat) : (s.drainStage t).mems = s.mems :=
  mems_foldl (fun _ _ => State.drainCore_mems ..) _ _

@[simp] theorem State.logError_mems (s : State) (cause place : Nat) : (s.logError cause place).mems = s.mems := by rfl

@[simp] theorem State.poisonUnit_mems (s : State) (p : EccPlace) : (s.poisonUnit p).mems = s.mems := by
  unfold State.poisonUnit
  split
  case h_4 => split <;> rfl
  all_goals simp

@[simp] theorem State.wearFrame_mems (s : State) (p : EccPlace) : (s.wearFrame p).mems = s.mems := by
  unfold State.wearFrame
  split
  · exact State.mems_ite_of rfl rfl
  · rfl

@[simp] theorem State.bootUp_mems (s : State) (b : BootBlock) (boot : Boot) : (s.bootUp b boot).mems = s.mems := by rfl

@[simp] theorem State.dropILine_mems (s : State) (c asid line : Nat) : (s.dropILine c asid line).mems = s.mems := by rfl

@[simp] theorem State.targetTraps_mems (s : State) (cur : Cursor) (sp : List Split) : (s.targetTraps cur sp).mems = s.mems := by
  refine (mems_foldl (fun t p => ?_) _ _).trans (State.mems_ite_of rfl rfl)
  split <;> simp

theorem fetchSlot_mems_run {s t : State} {cur : Cursor} {sp : List Split} {bits : BitVec 512} {i : Instr}
    (h : fetchSlot s cur sp bits = .run i t) : t.mems = s.mems := by
  unfold fetchSlot at h
  dsimp only at h
  repeat' split at h
  all_goals cases h
  exact State.modWave_mems ..

theorem fetchSlot_mems_done {s t : State} {cur : Cursor} {sp : List Split} {bits : BitVec 512}
    (h : fetchSlot s cur sp bits = .done t) : t.mems = s.mems := by
  unfold fetchSlot at h
  dsimp only at h
  repeat' split at h
  all_goals cases h
  all_goals simp

theorem fetch_mems_run {s t : State} {cur : Cursor} {i : Instr} (h : fetch s cur = .run i t) : t.mems = s.mems := by
  unfold fetch at h
  dsimp only at h
  split at h
  · cases h
  · split at h
    · cases h
    · cases h
    · split at h
      · exact fetchSlot_mems_run h
      · split at h
        · cases h
        · rename_i hline
          split at h
          · split at h
            · exact (fetchSlot_mems_run h).trans ((State.fetchLine_mems hline).trans (State.dropILine_mems ..))
            · cases h
          · cases h

theorem fetch_mems_done {s t : State} {cur : Cursor} (h : fetch s cur = .done t) : t.mems = s.mems := by
  have hcur (u : State) (c : Option Cursor) : ({ u with cursor := c } : State).mems = u.mems := by rfl
  unfold fetch at h
  dsimp only at h
  split at h
  · cases h
  · split at h
    · cases h; rfl
    · cases h; rfl
    · split at h
      · exact fetchSlot_mems_done h
      · split at h
        · cases h
          simp [hcur]
        · rename_i hline
          have hline := (State.fetchLine_mems hline).trans (State.dropILine_mems ..)
          split at h
          · split at h
            · exact (fetchSlot_mems_done h).trans hline
            · cases h
              simp [hline]
          · cases h
            exact hline

end Sys2Proof.Machine
end

section
/-! PROOFS. Writes at a home (R213, R239, R383): stores, write-backs and commits keep both memories in canonical form. -/

namespace Sys2Proof.Machine

theorem MemsOk.of_mem {s : State} (hs : MemsOk s.mems) {m : Memory} (hm : Memory.wf m = true) : MemsOk ({ s with mem := m } : State).mems :=
  ⟨hm, hs.2⟩

theorem MemsOk.of_hostMem {s : State} (hs : MemsOk s.mems) {m : Memory} (hm : Memory.wf m = true) :
    MemsOk ({ s with hostMem := m } : State).mems :=
  ⟨hs.1, hm⟩

theorem MemsOk.ite {c : Prop} [Decidable c] {s t : State} (hs : MemsOk s.mems) (ht : MemsOk t.mems) : MemsOk (if c then s else t).mems := by
  split
  · exact hs
  · exact ht

@[simp] theorem State.homeBytes_memsOk {s : State} (hs : MemsOk s.mems) (pa : Nat) (bs : List Byte) : MemsOk (s.homeBytes pa bs).mems := by
  unfold State.homeBytes
  dsimp only
  rw [State.cleanseRange_mems, mems_foldl fun _ _ => State.touchLine_mems ..]
  exact hs.of_mem (Memory.wf_setBytes hs.1 pa bs)

@[simp] theorem State.homeStore_memsOk {s : State} (hs : MemsOk s.mems) (c kind pa : Nat) (bs : List Byte) :
    MemsOk (s.homeStore c kind pa bs).1.mems := by
  unfold State.homeStore
  dsimp only
  split
  · exact hs
  · split
    · simp [hs]
    · split
      · simp [hs]
      · split <;> simp [hs]

@[simp] theorem State.mergeBack_memsOk {s : State} (hs : MemsOk s.mems) (w : WriteBack) : MemsOk (s.mergeBack w).mems := by
  unfold State.mergeBack
  dsimp only
  rw [State.noteStrict_mems, mems_foldl fun _ _ => State.spoil_mems .., State.cleanse_mems]
  exact ⟨Memory.wf_wrs hs.1 _, hs.2⟩

@[simp] theorem State.mergeLine_memsOk {s : State} (hs : MemsOk s.mems) (c line : Nat) : MemsOk (s.mergeLine c line).mems :=
  memsOk_foldl (fun _ w ht => State.mergeBack_memsOk ht w) _ hs

@[simp] theorem homeStore_memsOk {s : State} (hs : MemsOk s.mems) (req : Nat) : MemsOk (homeStore req s).mems := by
  unfold homeStore
  dsimp only
  split
  · exact hs
  · split
    · exact hs
    · split
      · simp [hs]
      · split
        · exact hs
        · split <;> simp [hs]
        · simp [hs]

@[simp] theorem State.mergeVersion_memsOk {s : State} (hs : MemsOk s.mems) (c : Nat) : MemsOk (s.mergeVersion c).mems := by
  have hcrew (f : Crew → Crew) (v : List (Nat × Byte)) : MemsOk ({ s.modCrew c f with mem := Bits.wrs (s.modCrew c f).mem v } : State).mems := by
    have ht : MemsOk (s.modCrew c f).mems := by simp [hs]
    exact ht.of_mem (Memory.wf_wrs ht.1 v)
  unfold State.mergeVersion
  refine memsOk_foldl (fun t l ht => by simp [ht]) _ ?_
  rw [State.cleanse_mems]
  exact hcrew _ _

@[simp] theorem State.commitVersion_memsOk {s : State} (hs : MemsOk s.mems) (c : Nat) : MemsOk (s.commitVersion c).mems := by
  unfold State.commitVersion
  split
  · exact hs
  · dsimp only
    split
    · exact hs
    · split
      · rw [State.unlock_mems]
        refine State.mergeVersion_memsOk ?_ c
        exact (takeLocks_mems ..).symm ▸ (State.beginCommit_mems ..).symm ▸ hs
      · simp [hs]

end Sys2Proof.Machine
end

section
/-! PROOFS. The writers of the memory and copy engines (R213 to R262, R281 to R290) keep both memories in canonical form. -/

namespace Sys2Proof.Machine

/-- The instructions and events that keep both memories in canonical form. -/
def KeepsMemory (f : State → Out) : Prop := ∀ ⦃s t⦄, MemsOk s.mems → f s = .next t → MemsOk t.mems

theorem keepsMemory_next {f : State → State} (hf : ∀ s, MemsOk s.mems → MemsOk (f s).mems) : KeepsMemory fun s => .next (f s) := by
  intro s t hs h
  obtain rfl := Host.Outcome.next.inj h
  exact hf s hs

theorem execL1Eviction_keeps (core line : Nat) : KeepsMemory (execL1Eviction core line) := by
  intro s t hs h
  have hcommit (u : State) (hu : MemsOk u.mems) : MemsOk (if (u.commitVersion core).versionOpen core then u.commitVersion core
      else (u.commitVersion core).sendBack core line 0 true).mems := by
    split <;> simp [hu]
  unfold execL1Eviction at h
  dsimp only at h
  split at h
  · obtain rfl := Host.Outcome.next.inj h
    exact hcommit _ (by simp [hs])
  · obtain rfl := Host.Outcome.next.inj h
    simp [hs]

theorem execManualWritebackMerge_keeps (wb : Nat) : KeepsMemory (execManualWritebackMerge wb) := by
  intro s t hs h
  unfold execManualWritebackMerge at h
  split at h
  · obtain rfl := Host.Outcome.next.inj h
    exact hs
  · split at h
    · obtain rfl := Host.Outcome.next.inj h
      exact hs
    · split at h
      · obtain rfl := Host.Outcome.next.inj h
        simp [hs]
      · obtain rfl := Host.Outcome.next.inj h
        split <;> simp [hs]

@[simp] theorem State.ownMerged_memsOk {s : State} (hs : MemsOk s.mems) (r : Req) : MemsOk (s.ownMerged r).mems := by
  unfold State.ownMerged
  split <;> simp [hs]

@[simp] theorem State.atomRead_memsOk {s : State} (hs : MemsOk s.mems) (r : Req) : MemsOk (s.atomRead r).1.mems := by
  unfold State.atomRead
  dsimp only
  split
  · split
    · simp [hs]
    · split <;> simp [hs]
  · split <;> simp [hs]

@[simp] theorem State.atomWrite_memsOk {s : State} (hs : MemsOk s.mems) (r : Req) (v : Nat) : MemsOk (s.atomWrite r v).mems := by
  unfold State.atomWrite
  dsimp only
  split <;> simp [hs]

@[simp] theorem atomicPerform_memsOk {s : State} (hs : MemsOk s.mems) (req : Nat) : MemsOk (atomicPerform req s).mems := by
  unfold atomicPerform
  split
  · exact hs
  · refine .ite hs (.ite (by simp [hs]) (.ite (by simp [hs]) ?_))
    split
    · rw [State.answer_mems]
      split <;> simp [hs]
    · rw [State.answer_mems, State.countMoved_mems]
      split <;> simp [hs]
    · exact hs

@[simp] theorem mcasWrite_memsOk {s : State} (hs : MemsOk s.mems) (r : Req) (e : McasEnt) : MemsOk (mcasWrite r s e).mems := by
  unfold mcasWrite
  dsimp only
  split <;> simp [hs]

@[simp] theorem mcasComplete_memsOk {s : State} (hs : MemsOk s.mems) (req : Nat) : MemsOk (mcasComplete req s).mems := by
  unfold mcasComplete
  split
  · exact hs
  · rename_i r _
    split
    · rename_i ents _ _
      have hsee : MemsOk (ents.foldl (mcasSee r) s).mems := memsOk_foldl (fun t e ht => by simp [ht]) _ hs
      have hwrite : MemsOk (ents.foldl (mcasWrite r) (ents.foldl (mcasSee r) s)).mems :=
        memsOk_foldl (fun t e ht => mcasWrite_memsOk ht r e) _ hsee
      split
      · exact hs
      · split
        · simp [hs]
        · dsimp only
          rw [State.answer_mems, State.countMoved_mems, State.unlock_mems]
          exact .ite hwrite hsee
    · exact hs

@[simp] theorem watchArm_memsOk {s : State} (hs : MemsOk s.mems) (req : Nat) : MemsOk (watchArm req s).mems := by
  unfold watchArm
  split
  · exact hs
  · rename_i r _
    have hown : MemsOk ((s.ownMerged r).dropReq r.id).mems := by simp [hs]
    split
    · split
      · exact hs
      · split
        · simp [hs]
        · split
          · simp [hs]
          · refine .ite ?_ ?_
            · simp [hs]
            · rw [State.dropFences_mems]
              exact hown
    · exact hs

theorem MemsOk.hostWord {s : State} (hs : MemsOk s.mems) (r : Req) (v : Nat) :
    MemsOk ((({ s with hostMem := Memory.write s.hostMem r.addr r.size v } : State).touchLine true (lineNo r.addr)).strictBy true r.core
      r.addr).mems := by
  rw [State.strictBy_mems, State.touchLine_mems]
  exact hs.of_hostMem (Memory.wf_write hs.2 ..)

@[simp] theorem hostAccessComplete_memsOk {s : State} (hs : MemsOk s.mems) (req : Nat) : MemsOk (hostAccessComplete req s).mems := by
  unfold hostAccessComplete
  split
  · exact hs
  · rename_i r _
    have hatom (op old : Nat) : MemsOk (((match atomNew op r.ty old r.data r.data2 with
        | some v => ((({ s.seeStrict true r with hostMem := Memory.write (s.seeStrict true r).hostMem r.addr r.size v } : State).touchLine true
            (lineNo r.addr)).strictBy true r.core r.addr)
        | none => s.seeStrict true r).countMoved r.asid r.size).answer r old).mems := by
      have hsee : MemsOk (s.seeStrict true r).mems := by simp [hs]
      rw [State.answer_mems, State.countMoved_mems]
      split
      · exact hsee.hostWord ..
      · exact hsee
    split
    · exact hs
    · dsimp only
      split
      · simp [hs]
      · simp [hs]
      · rw [State.dropFences_mems, State.dropReq_mems, State.countMoved_mems]
        exact hs.hostWord ..
      · exact hatom ..
      · exact hatom ..
      · exact hs

theorem State.engineWrite_memsOk {s t : State} (hs : MemsOk s.mems) {c asid num : Nat} {va : Int} {bs : List Byte} {kept : Kept}
    (h : s.engineWrite c asid num va bs kept = .done t) : MemsOk t.mems := by
  unfold State.engineWrite at h
  split at h
  · cases h
  · rename_i leaf pl a _
    split at h
    · split at h
      · cases h
      · cases h
        rw [State.strictBy_mems, State.touchLine_mems]
        exact hs.of_hostMem (Memory.wf_setBytes hs.2 ..)
    · split at h
      · cases h
      · split at h
        · cases h
        · cases h
          simp [hs]

theorem State.copyOne_memsOk {s t : State} (hs : MemsOk s.mems) {c : Nat} {x : CopyCmd} {p : Nat} {fl : BitVec 6}
    (h : s.copyOne c x p = .ok (some (t, fl))) : MemsOk t.mems := by
  unfold State.copyOne at h
  split at h
  · split at h <;> cases h
  · dsimp only at h
    split at h
    · split at h
      · cases h
      · split at h
        · cases h
        · cases h
        · cases h
          exact State.engineWrite_memsOk hs ‹_›
    · cases h
      exact memsOk_foldl (fun u d hu => by simp [hu]) _ hs

theorem copyRun_memsOk (c stop n p : Nat) (x : CopyCmd) {s : State} (hs : MemsOk s.mems) (fl : BitVec 6) :
    MemsOk (copyRun c stop n p x s fl).1.mems := by
  induction n generalizing p x s fl with
  | zero => exact hs
  | succ n ih =>
    unfold copyRun
    split
    · exact hs
    · dsimp only
      split
      · exact ih _ _ (State.copyOne_memsOk hs ‹_›) _
      · exact hs

@[simp] theorem State.copyCommit_memsOk {s : State} (hs : MemsOk s.mems) (c : Nat) (x : CopyCmd) : MemsOk (s.copyCommit c x).mems := by
  unfold State.copyCommit
  split
  · exact hs
  · split
    · split <;> simp [hs]
    · exact hs

@[simp] theorem copyDeliver_memsOk {s : State} (hs : MemsOk s.mems) (core cmd bytes : Nat) : MemsOk (copyDeliver core cmd bytes s).mems := by
  unfold copyDeliver
  split
  · exact hs
  · rename_i x _
    have hrun (stop n p : Nat) (fl : BitVec 6) (q : List LineWait) :
        MemsOk ({ (copyRun core stop n p x (s.copyCommit core x) fl).1 with lineQ := q } : State).mems :=
      copyRun_memsOk core stop n p x (s.copyCommit_memsOk hs core x) fl
    split
    · exact hs
    · dsimp only
      split
      · simp [hs]
      · rw [State.countPb_mems, State.countMoved_mems]
        split
        · rw [State.modCore_mems]
          exact hrun _ _ _ _ _
        · rw [mems_foldl fun _ _ => State.cleanseRange_mems .., State.modCore_mems]
          exact hrun _ _ _ _ _

@[simp] theorem copyFaultHalt_mems (core cmd : Nat) (s : State) : (copyFaultHalt core cmd s).mems = s.mems := by
  unfold copyFaultHalt
  split
  · rfl
  · split
    · rfl
    · split
      · rfl
      · dsimp only
        refine (mems_foldl (fun t i => ?_) _ _).trans ((State.failCmd_mems ..).trans (State.modCore_mems ..))
        split
        · exact State.failCmd_mems ..
        · rfl

end Sys2Proof.Machine
end

section
/-! PROOFS. The Orrery's writers (R329 to R357, R404 to R411): records, messages and grants keep both memories in canonical form. -/

namespace Sys2Proof.Machine

@[simp] theorem State.putSaved_memsOk {s : State} (hs : MemsOk s.mems) (pa w : Nat) (x : Wave) : MemsOk (s.putSaved pa w x).mems := by
  unfold State.putSaved
  rw [State.modEngine_mems]
  exact hs.of_mem (Memory.wf_setBytes hs.1 ..)

@[simp] theorem State.onSaved_memsOk {s : State} (hs : MemsOk s.mems) (pa w : Nat) (f : Wave → Wave) : MemsOk (s.onSaved pa w f).mems := by
  unfold State.onSaved
  split <;> simp [hs]

@[simp] theorem State.onCrewWave_memsOk {s : State} (hs : MemsOk s.mems) (uid w : Nat) (f : Wave → Wave) :
    MemsOk (s.onCrewWave uid w f).mems := by
  unfold State.onCrewWave
  split <;> simp [hs]

theorem Memory.wf_foldl {α : Type} {f : Memory → α → Memory} (hf : ∀ m a, Memory.wf m = true → Memory.wf (f m a) = true) (l : List α)
    {m : Memory} (hm : Memory.wf m = true) : Memory.wf (l.foldl f m) = true := by
  induction l generalizing m with
  | nil => exact hm
  | cons a l ih => exact ih (hf m a hm)

theorem Memory.wf_ite {c : Prop} [Decidable c] {m n : Memory} (hm : Memory.wf m = true) (hn : Memory.wf n = true) :
    Memory.wf (if c then m else n) = true := by
  split
  · exact hm
  · exact hn

@[simp] theorem State.onCrewRegs_memsOk {s : State} (hs : MemsOk s.mems) (uid w op : Nat) (vs ss : List (Nat × Word)) :
    MemsOk (s.onCrewRegs uid w op vs ss).mems := by
  unfold State.onCrewRegs
  split
  · simp [hs]
  · split
    · exact State.onSaved_memsOk (hs.of_mem (Memory.wf_foldl (fun m e hm => Memory.wf_ite (Memory.wf_write hm ..) hm) _ hs.1)) ..
    · exact hs
  · exact hs

theorem MemsOk.hostBytes {s : State} (hs : MemsOk s.mems) (a : Nat) (bs : List Byte) :
    MemsOk ({ s with hostMem := Memory.setBytes s.hostMem a bs } : State).mems :=
  hs.of_hostMem (Memory.wf_setBytes hs.2 a bs)

@[simp] theorem threadPut_memsOk {s : State} (hs : MemsOk s.mems) (x : Call) (p : Piece) (bs : List Byte) :
    MemsOk (threadPut x s p bs).mems := by
  unfold threadPut
  split
  · exact hs
  · split
    · rw [State.strictBy_mems, State.touchLine_mems]
      exact hs.hostBytes ..
    · split
      · simp [hs]
      · dsimp only
        split <;> simp [hs]

theorem threadPutParts_memsOk (x : Call) (ps : List Piece) (bs : List Byte) {s : State} (hs : MemsOk s.mems) :
    MemsOk (threadPutParts x ps bs s).mems := by
  induction ps generalizing bs s with
  | nil => exact hs
  | cons p ps ih => exact ih _ (by simp [hs])

theorem State.threadWrite_memsOk {s t : State} (hs : MemsOk s.mems) {x : Call} {va : Nat} {bs : List Byte}
    (h : s.threadWrite x va bs = .ok t) : MemsOk t.mems := by
  unfold State.threadWrite at h
  split at h
  · cases h
  · cases h
  · dsimp only at h
    split at h
    · cases h
    · cases h
      exact threadPutParts_memsOk _ _ _ (memsOk_foldl (fun u l hu => by simp [hu]) _ hs)

/-- A call that writes through its thread's path, and what it does then. -/
theorem State.threadWrite_bind_memsOk {s t : State} (hs : MemsOk s.mems) (ht : MemsOk t.mems) {x y : Call} {va : Nat} {bs : List Byte}
    {f : State → State} (hf : ∀ u, MemsOk u.mems → MemsOk (f u).mems) : MemsOk ((s.threadWrite x va bs).bind t y f).mems :=
  CallAcc.memsOk_bind ht fun _ h => hf _ (State.threadWrite_memsOk hs h)

/-- A call that reads through its thread's path, and what it does then. -/
theorem State.threadRead_bind_memsOk {s t : State} (hs : MemsOk s.mems) (ht : MemsOk t.mems) {x y : Call} {va n : Nat}
    {f : State × List Byte → State} (hf : ∀ r, MemsOk r.1.mems → MemsOk (f r).mems) : MemsOk ((s.threadRead x va n).bind t y f).mems :=
  CallAcc.memsOk_bind ht fun r h => hf r ((State.threadRead_mems h).symm ▸ hs)

@[simp] theorem State.orreryStoreAt_memsOk {s : State} (hs : MemsOk s.mems) (t pa : Nat) (bs : List Byte) :
    MemsOk (s.orreryStoreAt t pa bs).mems := by
  simp [State.orreryStoreAt, hs]

@[simp] theorem State.orreryStore_memsOk {s : State} (hs : MemsOk s.mems) (pa : Nat) (bs : List Byte) : MemsOk (s.orreryStore pa bs).mems :=
  State.orreryStoreAt_memsOk hs ..

@[simp] theorem State.procWrite_memsOk {s : State} (hs : MemsOk s.mems) (asid t va : Nat) (bs : List Byte) :
    MemsOk (s.procWrite asid t va bs).mems := by
  refine memsOk_foldl (fun u p hu => ?_) _ hs
  dsimp only
  split
  · rw [State.noteStrict_mems, State.touchLine_mems]
    exact hu.hostBytes ..
  · split <;> simp [hu]
  · exact hu

@[simp] theorem State.resumeParked_memsOk {s : State} (hs : MemsOk s.mems) (asid lo hi : Nat) : MemsOk (s.resumeParked asid lo hi).mems :=
  memsOk_foldl (fun _ _ ht => memsOk_foldl (fun _ _ hu => State.onSaved_memsOk hu ..) _ ht) _ hs

@[simp] theorem State.restorePage_memsOk {s : State} (hs : MemsOk s.mems) (asid va : Nat) (p : GrantPage) :
    MemsOk (s.restorePage asid va p).mems := by
  unfold State.restorePage
  split
  · split <;> simp [hs]
  · simp [hs]

@[simp] theorem State.restorePages_memsOk {s : State} (hs : MemsOk s.mems) (asid gva : Nat) (ps : List GrantPage) :
    MemsOk (s.restorePages asid gva ps).mems :=
  State.resumeParked_memsOk (memsOk_foldl (fun _ _ ht => State.restorePage_memsOk ht ..) _ hs) ..

@[simp] theorem State.returnMsg_memsOk {s : State} (hs : MemsOk s.mems) (m : Msg) : MemsOk (s.returnMsg m).mems := by
  unfold State.returnMsg
  split <;> simp [hs]

@[simp] theorem State.returnSent_memsOk {s : State} (hs : MemsOk s.mems) (serial : Nat) : MemsOk (s.returnSent serial).mems := by
  have hsent (f : Fabric) : MemsOk ({ s with fab := f } : State).mems := hs
  unfold State.returnSent
  split
  · exact hs
  · rw [State.setGrant_mems]
    exact State.restorePages_memsOk (hsent _) ..

@[simp] theorem State.takePages_memsOk {s : State} (hs : MemsOk s.mems) (x : Call) (d : SendDesc) (ls : List (Nat × DWord)) :
    MemsOk (s.takePages x d ls).mems :=
  memsOk_foldl (f := fun (t : State) (e : Nat × DWord) => t.orreryStore e.1 (bytesOf 8 0)) (fun _ _ ht => State.orreryStore_memsOk ht ..) ls hs

@[simp] theorem performSendEnd_memsOk {s : State} (hs : MemsOk s.mems) (grant status : Nat) (room : Option (Nat × Bool)) (x : Call) :
    MemsOk (performSendEnd grant status room x s).mems := by
  refine State.threadWrite_bind_memsOk hs hs fun t ht => ?_
  split
  · simp [ht]
  · dsimp only
    split <;> simp [ht]

@[simp] theorem State.endSend_memsOk {s : State} (hs : MemsOk s.mems) (x : Call) (grant status : Nat) (room : Option (Nat × Bool)) :
    MemsOk (s.endSend x grant status room).mems := by
  unfold State.endSend
  dsimp only
  split <;> simp [hs]

theorem psendHere_memsOk {s t : State} (hs : MemsOk s.mems) (ht : MemsOk t.mems) (x : Call) (d : SendDesc) (payload : List Byte)
    (ls : List (Nat × DWord)) (idx : Nat) : MemsOk (psendHere s x d payload ls idx t).mems := by
  unfold psendHere
  split
  · exact State.threadWrite_bind_memsOk ht hs fun u hu => by simp [hu]
  · split
    · simp [ht]
    · rename_i hnew
      simp [State.newObj_mems hnew, ht]

theorem psendAway_memsOk {s : State} (hs : MemsOk s.mems) (x : Call) (d : SendDesc) (payload : List Byte) (ls : List (Nat × DWord))
    (wait : Bool) (pkg index gen : Nat) : MemsOk (psendAway s x d payload ls wait pkg index gen).mems := by
  unfold psendAway
  split
  · simp [hs]
  · split
    · simp [hs]
    · rename_i u g hnew
      have htake : MemsOk ((u.takePages x d ls).modCall x.id (fun y => { y with lodged := none })).mems := by
        simp [State.newObj_mems hnew, hs]
      exact htake

@[simp] theorem State.ringPut_memsOk {s : State} (hs : MemsOk s.mems) (base logn fn flags : Nat) (args : List Nat) :
    MemsOk (s.ringPut base logn fn flags args).mems := by
  simp [State.ringPut, hs]

theorem psendHost_memsOk {s : State} (hs : MemsOk s.mems) (x : Call) (d : SendDesc) (wait : Bool) (port : Nat) :
    MemsOk (psendHost s x d wait port).mems := by
  unfold psendHost
  split
  · simp [hs]
  · split
    · simp [hs]
    · refine State.threadRead_bind_memsOk hs hs fun r hr => ?_
      split
      · split <;> simp [hs]
      · split
        · simp [hs]
        · exact State.threadWrite_bind_memsOk hr hs fun u hu => by simp [hu]

theorem performPsend_memsOk {s : State} (hs : MemsOk s.mems) (wait : Bool) (x : Call) : MemsOk (performPsend wait x s).mems := by
  unfold performPsend
  split
  · simp [hs]
  · split
    · simp [hs]
    · split
      · simp [hs]
      · refine State.threadRead_bind_memsOk hs hs fun r hr => ?_
        split
        · simp [hr]
        · split
          · simp [hr]
          · split <;> simp [hr]
          · exact psendHost_memsOk hr ..
          · split
            · simp [hr]
            · simp [hr]
            · split
              · split <;> simp [hr]
              · exact CallAcc.memsOk_bind hs fun _ _ =>
                  State.threadRead_bind_memsOk hr hs fun p hp => psendHere_memsOk hs hp ..
          · split
            · simp [hr]
            · simp [hr]
            · exact CallAcc.memsOk_bind hs fun _ _ =>
                State.threadRead_bind_memsOk hr hs fun p hp => psendAway_memsOk hp ..

@[simp] theorem State.refuseGrant_memsOk {s : State} (hs : MemsOk s.mems) (x : Call) (g : SentGrant) (status : Nat) :
    MemsOk (s.refuseGrant x g status).mems := by
  simp [State.refuseGrant, hs]

@[simp] theorem State.grantShot_memsOk {s : State} (hs : MemsOk s.mems) (call : Nat) : MemsOk (s.grantShot call).mems := by
  have hsent (f : Fabric) : MemsOk ({ s with fab := f } : State).mems := hs
  unfold State.grantShot
  split
  · exact hs
  · split
    · simp [hs]
    · dsimp only
      refine .ite ?_ (.ite ?_ ?_)
      · exact State.refuseGrant_memsOk (hsent _) ..
      · exact State.refuseGrant_memsOk (hsent _) ..
      · rw [State.sendOut_mems, State.countMoved_mems, State.outBy_mems, State.markSent_mems]
        exact hsent _

@[simp] theorem State.psendAnswer_memsOk {s : State} (hs : MemsOk s.mems) (x : Call) (wait : Bool) (status : Nat) :
    MemsOk (s.psendAnswer x wait status).mems := by
  have hback : MemsOk (match Tbl.find s.fab.sent x.id with
      | some y => (s.returnSent x.id).freeIdx (handleIdx y.handle)
      | none => s).mems := by
    split <;> simp [hs]
  unfold State.psendAnswer
  dsimp only
  refine .ite (by simp [hs]) (State.endSend_memsOk (.ite ?_ hback) ..)
  rw [State.killNamed_mems]
  exact hback

@[simp] theorem State.mapPage_memsOk {s : State} (hs : MemsOk s.mems) (away : Bool) (asid la : Nat) (p : GrantPage) :
    MemsOk (s.mapPage away asid la p).mems := by
  have hdrop (pr : Tbl Proc) (f : Nat) : MemsOk (({ s with procs := pr } : State).dropFrame f).mems := by
    rw [State.dropFrame_mems]
    exact hs
  unfold State.mapPage
  split
  · split
    · split
      · exact State.orreryStore_memsOk (State.homeBytes_memsOk (hdrop _ _) ..) ..
      · exact hs
    · exact hs
  · simp [hs]

end Sys2Proof.Machine
end

section
/-! PROOFS. The Orrery's calls and wakes, and what contracts demote (R329 to R378), keep both memories in canonical form. -/

namespace Sys2Proof.Machine

theorem performPrecv_memsOk {s : State} (hs : MemsOk s.mems) (wait : Bool) (x : Call) : MemsOk (performPrecv wait x s).mems := by
  unfold performPrecv
  split
  · simp [hs]
  · refine State.threadRead_bind_memsOk hs hs fun r hr => ?_
    split
    · simp [hr]
    · rename_i d _
      split
      · dsimp only
        split
        · split <;> simp [hr]
        · split
          · simp [hr]
          · split
            · simp [hr]
            · refine State.threadWrite_bind_memsOk hr hs fun t ht => State.threadWrite_bind_memsOk ht hs fun u hu => ?_
              rw [State.reply_mems, State.advance_mems]
              have hmap (away : Bool) (l : List (Nat × GrantPage)) :
                  MemsOk (l.foldl (fun (y : State) e => y.mapPage away x.asid e.1 e.2) u).mems :=
                memsOk_foldl (fun y e hy => by simp [hy]) l hu
              refine .ite (.ite ?_ ?_) ?_ <;> simp [hmap]
      · simp [hr]

theorem performGrantrev_memsOk {s : State} (hs : MemsOk s.mems) (x : Call) : MemsOk (performGrantrev x s).mems := by
  unfold performGrantrev
  split
  · simp [hs]
  · split
    · split
      · split <;> simp [hs]
      · simp [hs]
    · split <;> simp [hs]
    · simp [hs]
    · simp [hs]
    · simp [hs]

theorem performQenq_memsOk {s : State} (hs : MemsOk s.mems) (wait : Bool) (x : Call) : MemsOk (performQenq wait x s).mems := by
  refine onQueueObj_memsOk hs fun q => ?_
  dsimp only
  split
  · simp [hs]
  · split
    · split <;> simp [hs]
    · refine State.threadRead_bind_memsOk hs hs fun r hr => State.threadWrite_bind_memsOk hr hs fun t ht => ?_
      rw [State.reply_mems, State.setBody_mems]
      exact ht

theorem performDcdec_memsOk {s : State} (hs : MemsOk s.mems) (x : Call) : MemsOk (performDcdec x s).mems := by
  unfold performDcdec
  split
  · simp [hs]
  · dsimp only
    split
    · split
      · simp [hs]
      · split
        · split
          · refine State.threadWrite_bind_memsOk hs hs fun t ht => ?_
            rw [State.reply_mems, State.setBody_mems, State.setBody_mems]
            exact ht
          · simp [hs]
        · simp [hs]
    · simp [hs]
    · simp [hs]

@[simp] theorem State.demoteFrame_memsOk {s : State} (hs : MemsOk s.mems) (pa : Nat) : MemsOk (s.demoteFrame pa).mems := by
  unfold State.demoteFrame
  split
  · exact ⟨Memory.wf_wrs hs.1 _, hs.2⟩
  · exact hs

@[simp] theorem State.demoteWhere_memsOk {s : State} (hs : MemsOk s.mems) (sel : Crew → Bool) : MemsOk (s.demoteWhere sel).mems :=
  memsOk_foldl (fun _ _ ht => State.demoteFrame_memsOk ht _) _ hs

@[simp] theorem State.dropContract_memsOk {s : State} (hs : MemsOk s.mems) (idx : Nat) : MemsOk (s.dropContract idx).mems := by
  have hput (t : State) (ht : MemsOk t.mems) (l : Tbl Launch) : MemsOk ({ t with launches := l } : State).mems := ht
  unfold State.dropContract
  exact memsOk_foldl (fun t _ ht => State.demoteWhere_memsOk (hput t ht _) _) _ hs

theorem performObjdel_memsOk {s : State} (hs : MemsOk s.mems) (x : Call) : MemsOk (performObjdel x s).mems := by
  unfold performObjdel
  split
  · simp [hs]
  · dsimp only
    split
    · simp only [State.reply_mems, State.freeIdx_mems, State.killTarget_mems, State.portRoom_mems]
      refine memsOk_foldl (fun t m ht => ?_) _ (by simp [hs])
      split <;> simp [ht]
    · simp [hs]
    · simp [hs]
    · split <;> simp [hs]
    · simp [hs]
    all_goals simp [hs]

@[simp] theorem State.loseWaiter_memsOk {s : State} (hs : MemsOk s.mems) (w : Waiter) : MemsOk (s.loseWaiter w).mems := by
  have hdrop (l : List Waiter) : MemsOk ({ s with waiters := l } : State).mems := hs
  exact State.onCrewWave_memsOk (State.onCrewRegs_memsOk (hdrop _) ..) ..

theorem execSuspendReplayWake_keeps (waiter : Nat) : KeepsMemory (execSuspendReplayWake waiter) := by
  intro s t hs h
  unfold execSuspendReplayWake at h
  split at h
  · obtain rfl := Host.Outcome.next.inj h
    exact hs
  · split at h
    · obtain rfl := Host.Outcome.next.inj h
      exact hs
    · split at h <;> obtain rfl := Host.Outcome.next.inj h <;> simp [hs]

theorem execOrreryWake_keeps (waiter : Nat) : KeepsMemory (execOrreryWake waiter) := by
  intro s t hs h
  unfold execOrreryWake at h
  split at h
  · obtain rfl := Host.Outcome.next.inj h
    exact hs
  · split at h <;> obtain rfl := Host.Outcome.next.inj h <;> simp [hs]

theorem execHeldSuccessorEnqueue_keeps (obj : Nat) : KeepsMemory (execHeldSuccessorEnqueue obj) := by
  intro s t hs h
  unfold execHeldSuccessorEnqueue at h
  split at h
  · split at h
    · split at h
      · split at h
        · obtain rfl := Host.Outcome.next.inj h
          refine State.asAgent_memsOk hs _ _ _ fun u hu => ?_
          have hctr (n : Nat) : MemsOk ({ u with freeCtr := n } : State).mems := hu
          have hwrite (n asid t va : Nat) (bs : List Byte) : MemsOk (({ u with freeCtr := n } : State).procWrite asid t va bs).mems :=
            State.procWrite_memsOk (hctr n) ..
          rw [State.poke_mems]
          split
          · split
            · split <;> simp [hwrite]
            · simp [hwrite]
          · simp [hwrite]
        · obtain rfl := Host.Outcome.next.inj h
          exact hs
      · obtain rfl := Host.Outcome.next.inj h
        exact hs
    · obtain rfl := Host.Outcome.next.inj h
      exact hs
  · obtain rfl := Host.Outcome.next.inj h
    exact hs

@[simp] theorem performCall_memsOk {s : State} (hs : MemsOk s.mems) (x : Call) : MemsOk (performCall x s).mems := by
  unfold performCall
  split
  case h_2 => exact performPsend_memsOk hs ..
  case h_3 => exact performPrecv_memsOk hs ..
  case h_4 => exact performWsadd_memsOk _ _ hs
  case h_5 => exact performWsdel_memsOk _ _ hs
  case h_7 => exact performTarm_memsOk _ hs
  case h_8 => exact performTdisarm_memsOk _ hs
  case h_9 => exact performEcsig_memsOk _ hs
  case h_11 => exact performQenq_memsOk hs ..
  case h_12 => exact performDcinit_memsOk _ hs
  case h_13 => exact performDcdec_memsOk hs _
  case h_14 => exact performObjnew_memsOk _ _ hs
  case h_15 => exact performObjdel_memsOk hs _
  case h_19 => exact performGrantrev_memsOk hs _
  case h_21 => exact performLaunch_memsOk _ hs
  case h_23 => exact performCtadmit_memsOk _ hs
  case h_24 => exact performSendEnd_memsOk hs ..
  all_goals simp [hs]

@[simp] theorem objectCallPerform_memsOk {s : State} (hs : MemsOk s.mems) (call : Nat) : MemsOk (objectCallPerform call s).mems := by
  unfold objectCallPerform
  split
  · exact hs
  · rename_i x _
    have hcommit : MemsOk (if x.kind.commits && s.versionOpen x.core then s.commitVersion x.core else s).mems :=
      .ite (State.commitVersion_memsOk hs _) hs
    exact .ite (by simp [hs]) (.ite hs (.ite hcommit (performCall_memsOk hcommit x)))

@[simp] theorem crewRetire_memsOk {s : State} (hs : MemsOk s.mems) (core : Nat) : MemsOk (crewRetire core s).mems := by
  unfold crewRetire
  split
  · exact hs
  · dsimp only
    refine .ite hs (.ite (by simp [hs]) (.ite ?_ ?_)) <;> simp [hs]

@[simp] theorem contractDeadline_memsOk {s : State} (hs : MemsOk s.mems) (obj inst : Nat) : MemsOk (contractDeadline obj inst s).mems := by
  unfold contractDeadline
  split
  · split
    · exact hs
    · rename_i t serial l _ _ _ i _
      have hdemote : MemsOk ((s.setInst serial inst (fun y => { y with claims := false, returned := [] })).demoteWhere
          (fun z => z.serial == serial && z.inst == inst)).mems := by simp [hs]
      dsimp only
      refine .ite hs (.ite ?_ ?_)
      · rw [State.abortCrews_mems]
        exact .ite hdemote (by simp [hs])
      · exact .ite hdemote (by simp [hs])
  · exact hs

@[simp] theorem contractInstanceOpen_memsOk {s : State} (hs : MemsOk s.mems) (obj : Nat) : MemsOk (contractInstanceOpen obj s).mems := by
  unfold contractInstanceOpen
  dsimp only
  rw [State.openInstance_mems]
  split
  · exact memsOk_foldl (fun t i ht => contractDeadline_memsOk ht ..) _ hs
  · exact hs

end Sys2Proof.Machine
end

section
/-! PROOFS. The writers of Dusk (R385 to R400): saves, restores and shootdowns keep both memories in canonical form. -/

namespace Sys2Proof.Machine

@[simp] theorem State.setFrameState_memsOk {s : State} (hs : MemsOk s.mems) (pa st : Nat) : MemsOk (s.setFrameState pa st).mems :=
  ⟨Memory.wf_write hs.1 .., hs.2⟩

theorem Memory.wf_image {m : Memory} (hm : Memory.wf m = true) (inside : Nat → Bool) (es : List (Nat × Byte)) :
    Memory.wf (Memory.image m inside es) = true :=
  Memory.wf_wrs (Bits.wf_keep hm _) es

theorem putRegs_wf {m : Memory} (hm : Memory.wf m = true) (pa base kept : Nat) (w : Wave) : Memory.wf (putRegs m pa base kept w) = true :=
  Memory.wf_image hm ..

theorem putImages_wf {m : Memory} (hm : Memory.wf m = true) (pa : Nat) (k : Core) (p : SavePlan) (abytes : Nat) :
    Memory.wf (putImages m pa k p abytes) = true := by
  unfold putImages
  exact Memory.wf_ite (Memory.wf_image (Memory.wf_image (Memory.wf_image hm ..) ..) ..) (Memory.wf_image (Memory.wf_image hm ..) ..)

@[simp] theorem State.saveCrew_memsOk {s : State} (hs : MemsOk s.mems) (c : Nat) : MemsOk (s.saveCrew c).mems := by
  unfold State.saveCrew
  split
  · refine .ite ?_ ?_
    · rw [State.crewGone_mems, State.contextLost_mems]
      refine State.setFrameState_memsOk ?_ ..
      rw [State.emptyCore_mems, State.modCore_mems, State.chargeCore_mems, State.freshBuffers_mems, State.cleanseFrame_mems]
      exact hs.of_mem (Memory.wf_setBytes (putImages_wf (Memory.wf_foldl (fun m e hm => putRegs_wf hm ..) _
        (Memory.wf_foldl (fun m e hm => Memory.wf_setBytes hm ..) _ (Memory.wf_setBytes hs.1 ..))) ..) ..)
    · rw [State.modCore_mems, State.chargeCore_mems, State.freshBuffers_mems, State.cleanseFrame_mems]
      exact hs.of_mem (Memory.wf_setBytes (putImages_wf (Memory.wf_foldl (fun m e hm => putRegs_wf hm ..) _
        (Memory.wf_foldl (fun m e hm => Memory.wf_setBytes hm ..) _ (Memory.wf_setBytes hs.1 ..))) ..) ..)
  · exact hs

@[simp] theorem State.restoreCrew_memsOk {s : State} (hs : MemsOk s.mems) (pa c : Nat) : MemsOk (s.restoreCrew pa c).mems := by
  have hwrite (f : Core → Core) (fs : Tbl Frame) (ts : List PTrap) (uid : Nat) :
      MemsOk ({ ((s.unreserve uid).freshBuffers c).modCore c f with
        mem := Memory.write (((s.unreserve uid).freshBuffers c).modCore c f).mem pa 4 0, frames := fs, traps := ts } : State).mems := by
    have hcore : MemsOk (((s.unreserve uid).freshBuffers c).modCore c f).mems := by simp [hs]
    exact ⟨Memory.wf_write hcore.1 .., hcore.2⟩
  unfold State.restoreCrew
  split
  · exact hs
  · split
    · refine .ite (by simp [hs]) ?_
      rw [State.stoppedAgain_mems, State.advance_mems, mems_foldl fun _ _ => State.barCheck_mems ..]
      refine memsOk_foldl (fun t a ht => ?_) _ (hwrite ..)
      split
      · exact (State.fetchLine_mems ‹_›).symm ▸ ht
      · exact ht
    · exact hs

@[simp] theorem State.restoreGroup_memsOk {s : State} (hs : MemsOk s.mems) (pa c : Nat) : MemsOk (s.restoreGroup pa c).mems := by
  refine memsOk_foldl (fun t f ht => ?_) _ hs
  split <;> simp [ht]

@[simp] theorem State.putFrameCore_memsOk {s : State} (hs : MemsOk s.mems) (pa : Nat) (k : Core) : MemsOk (s.putFrameCore pa k).mems := by
  unfold State.putFrameCore
  rw [State.modEngine_mems]
  exact memsOk_foldl (fun t e ht => by simp [ht]) _ hs

@[simp] theorem State.exitSaved_memsOk {s : State} (hs : MemsOk s.mems) (pa w : Nat) (m : Lanes) : MemsOk (s.exitSaved pa w m).mems := by
  unfold State.exitSaved
  dsimp only
  split <;> simp [hs]

@[simp] theorem State.release_memsOk {s : State} (hs : MemsOk s.mems) (pa : Nat) (target : Option Nat) : MemsOk (s.release pa target).mems := by
  refine memsOk_foldl (fun t f ht => ?_) _ hs
  have hfree (n : Nat) (fs : Tbl Frame) : MemsOk ({ t.setFrameState f 2 with nextId := n, frames := fs } : State).mems :=
    State.setFrameState_memsOk ht f 2
  dsimp only
  split
  · rw [State.modCore_mems]
    exact hfree _ _
  · exact hfree _ _

@[simp] theorem beginCrest_memsOk {s : State} (hs : MemsOk s.mems) (x : Call) : MemsOk (beginCrest x s).mems := by
  unfold beginCrest
  dsimp only
  split
  · simp [hs]
  · split
    · simp [hs]
    · refine .ite (by simp [hs]) (.ite (by simp [hs]) (.ite (by simp [hs]) ?_))
      simp [hs]

theorem issue_keeps {i : Instr} {s t : State} {body : Ctx → State → State} (hbody : ∀ k u, MemsOk u.mems → MemsOk (body k u).mems)
    (hs : MemsOk s.mems) (h : issue i s body = .next t) : MemsOk t.mems := by
  unfold issue at h
  split at h
  · obtain rfl := Host.Outcome.next.inj h
    rw [finish_mems]
    exact hbody _ _ ((start_mems_go ‹_›).symm ▸ hs)
  · obtain rfl := Host.Outcome.next.inj h
    exact (start_mems_stop ‹_›).symm ▸ hs

theorem execCrest_keeps (h : Hdr) (o : FmtA) : KeepsMemory (execCrest h o) := by
  intro s t hs ht
  refine issue_keeps (fun k u hu => State.beginCalls_memsOk ?_ k fun x v hv => beginCrest_memsOk hv x) hs ht
  simp [hu]

@[simp] theorem crewSave_memsOk {s : State} (hs : MemsOk s.mems) (core : Nat) : MemsOk (crewSave core s).mems := by
  unfold crewSave
  dsimp only
  refine .ite hs ?_
  have hback : MemsOk ((s.saveGroup core).foldl (fun (t : State) c =>
      let t1 := if (t.manualLines c).any (fun l => t.dirtyLine c l) then t.commitVersion c else t
      if (t1.manualLines c).any (fun l => t1.dirtyLine c l) && t1.versionOpen c then t1 else t1.manualBack c) s).mems := by
    refine memsOk_foldl (fun t c ht => ?_) _ hs
    have hcommit : MemsOk (if (t.manualLines c).any (fun l => t.dirtyLine c l) then t.commitVersion c else t).mems :=
      .ite (State.commitVersion_memsOk ht c) ht
    exact .ite hcommit ((State.manualBack_mems ..).symm ▸ hcommit)
  refine .ite hback (State.asDusk_memsOk hback _ _ _ fun u hu => ?_)
  exact memsOk_foldl (fun t c ht => by simp [ht]) _ hu

@[simp] theorem saveComplete_memsOk {s : State} (hs : MemsOk s.mems) (core : Nat) : MemsOk (saveComplete core s).mems := by
  unfold saveComplete
  split
  · exact hs
  · refine .ite hs (memsOk_foldl (fun t f ht => ?_) _ hs)
    split
    · rename_i x _
      have hfree (st : Nat) (fs : Tbl Frame) : MemsOk ({ t.setFrameState f st with frames := fs } : State).mems :=
        State.setFrameState_memsOk ht ..
      have hempty (st : Nat) (fs : Tbl Frame) : MemsOk (({ t.setFrameState f st with frames := fs } : State).emptyCore x.corePos).mems := by
        rw [State.emptyCore_mems]
        exact hfree st fs
      dsimp only
      split
      · rw [mems_foldl fun _ _ => State.reply_mems ..]
        exact .ite ((State.unreserve_mems ..).symm ▸ hempty _ _) (hempty _ _)
      · exact hempty _ _
    · exact ht

@[simp] theorem State.restoreAs_memsOk {s : State} (hs : MemsOk s.mems) (pa c : Nat) : MemsOk (s.restoreAs pa c).mems := by
  unfold State.restoreAs
  split
  · exact State.asDusk_memsOk hs _ _ _ fun u hu => State.restoreGroup_memsOk hu ..
  · exact hs

@[simp] theorem crewRestore_memsOk {s : State} (hs : MemsOk s.mems) (frame core : Nat) : MemsOk (crewRestore frame core s).mems := by
  unfold crewRestore
  split
  · exact hs
  · exact .ite (State.restoreAs_memsOk hs ..) hs

@[simp] theorem crewMove_memsOk {s : State} (hs : MemsOk s.mems) (src dst : Nat) : MemsOk (crewMove src dst s).mems := by
  unfold crewMove
  split
  · exact .ite (State.restoreAs_memsOk hs ..) hs
  · exact hs

theorem execVersionCommit_keeps (core : Nat) : KeepsMemory (execVersionCommit core) :=
  keepsMemory_next fun _ hs => .ite (State.commitVersion_memsOk hs _) hs

@[simp] theorem State.endSavedParked_memsOk {s : State} (hs : MemsOk s.mems) (pa w : Nat) (h : Shoot) :
    MemsOk (s.endSavedParked pa w h).mems := by
  unfold State.endSavedParked
  split
  · exact hs
  · exact memsOk_foldl (fun t p ht => by simp [ht]) _ hs

@[simp] theorem State.endParkedSaved_memsOk {s : State} (hs : MemsOk s.mems) (h : Shoot) : MemsOk (s.endParkedSaved h).mems := by
  refine memsOk_foldl (fun t e ht => ?_) _ hs
  dsimp only
  split
  · split
    · simp [ht]
    · have hall : MemsOk (e.2.waves.foldl (fun (u : State) x => u.endSavedParked e.1 x h) t).mems :=
        memsOk_foldl (fun u x hu => by simp [hu]) _ ht
      exact .ite ((State.endSaved_mems ..).symm ▸ hall) hall
  · exact ht

@[simp] theorem State.afterShoot_memsOk {s : State} (hs : MemsOk s.mems) (h : Shoot) : MemsOk (s.afterShoot h).mems := by
  unfold State.afterShoot
  split
  · exact hs
  · split
    · exact hs
    · split
      · rw [State.reply_mems]
        split <;> simp [hs]
      · simp [hs]

@[simp] theorem shootdownComplete_memsOk {s : State} (hs : MemsOk s.mems) (sd : Nat) : MemsOk (shootdownComplete sd s).mems := by
  unfold shootdownComplete
  split
  · exact hs
  · rename_i h _
    refine .ite hs ?_
    have hback (cs : List Nat) : MemsOk (cs.foldl (fun (t : State) c =>
        let dirty := (t.shootLines h c).any (fun l => t.dirtyLine c l)
        let t1 := if dirty then t.commitVersion c else t
        if dirty && t1.versionOpen c then t1
        else (t1.shootLines h c).foldl (fun u l => u.sendBack c l h.id true) t1) (s.shootDrop h)).mems := by
      refine memsOk_foldl (fun t c ht => ?_) _ (by simp [hs])
      have hcommit : MemsOk (if (t.shootLines h c).any (fun l => t.dirtyLine c l) then t.commitVersion c else t).mems :=
        .ite (State.commitVersion_memsOk ht c) ht
      exact .ite hcommit ((mems_foldl (fun _ _ => State.sendBack_mems ..) _ _).symm ▸ hcommit)
    have hdrop (t : State) (ht : MemsOk t.mems) (l : List Shoot) : MemsOk ({ t with shoots := l } : State).mems := ht
    exact .ite (hback _) (State.afterShoot_memsOk (hdrop _ (hback _) _) h)

end Sys2Proof.Machine
end

section
/-! PROOFS. The writers of the fabric and the services (R401 to R433) keep both memories in canonical form. -/

namespace Sys2Proof.Machine

@[simp] theorem State.ewcReply_memsOk {s : State} (hs : MemsOk s.mems) (status result : Nat) : MemsOk (s.ewcReply status result).mems := by
  have hfab (f : Fabric) : MemsOk ({ s with fab := f } : State).mems := hs
  unfold State.ewcReply
  split
  · exact hs
  · rw [State.noteStrict_mems]
    exact State.homeBytes_memsOk (State.homeBytes_memsOk (hfab _) ..) ..

theorem serveEwc_memsOk {s : State} (hs : MemsOk s.mems) (fn : Nat) {f : EwcRec → State} (hf : ∀ r, MemsOk (f r).mems) :
    MemsOk (serveEwc fn s f).mems := by
  unfold serveEwc
  split
  · exact hs
  · refine .ite hs (.ite ?_ (.ite ?_ (.ite ?_ (.ite (hf _) hs)))) <;> simp [hs]

theorem execEwcNop_keeps : KeepsMemory execEwcNop :=
  keepsMemory_next fun _ hs => serveEwc_memsOk hs 0 fun _ => State.ewcReply_memsOk hs ..

theorem ewcLaunch_memsOk {s : State} (hs : MemsOk s.mems) (r : EwcRec) : MemsOk (ewcLaunch r s).mems := by
  unfold ewcLaunch
  dsimp only
  split
  · simp [hs]
  · split
    · simp [hs]
    · refine .ite (by simp [hs]) (.ite (by simp [hs]) (.ite (by simp [hs]) ?_))
      split <;> simp [hs]

theorem execEwcLaunch_keeps : KeepsMemory execEwcLaunch :=
  keepsMemory_next fun _ hs => serveEwc_memsOk hs 1 fun r => ewcLaunch_memsOk hs r

theorem execEwcLstat_keeps : KeepsMemory execEwcLstat :=
  keepsMemory_next fun _ hs => serveEwc_memsOk hs 2 fun _ => State.ewcReply_memsOk hs ..

theorem ewcSendTo_memsOk {s : State} (hs : MemsOk s.mems) (r : EwcRec) (b : Binding) : MemsOk (ewcSendTo r b s).mems := by
  unfold ewcSendTo
  refine .ite ?_ (.ite ?_ (.ite (by simp [hs]) ?_))
  · split
    · simp [hs]
    · split <;> simp [hs]
  · split
    · split
      · refine .ite ?_ (.ite ?_ ?_) <;> simp [hs]
      · simp [hs]
    · simp [hs]
  · dsimp only
    rw [State.sendOut_mems]
    exact hs

theorem ewcSend_memsOk {s : State} (hs : MemsOk s.mems) (r : EwcRec) : MemsOk (ewcSend r s).mems := by
  unfold ewcSend
  dsimp only
  split
  · exact ewcSendTo_memsOk hs ..
  · exact ewcSendTo_memsOk hs ..
  · refine .ite ?_ (.ite (by simp [hs]) ?_)
    · split
      · exact ewcSendTo_memsOk hs ..
      · simp [hs]
    · rw [State.sendOut_mems]
      exact hs

theorem execEwcSend_keeps : KeepsMemory execEwcSend :=
  keepsMemory_next fun _ hs => serveEwc_memsOk hs 3 fun r => ewcSend_memsOk hs r

theorem execEwcHbind_keeps : KeepsMemory execEwcHbind :=
  keepsMemory_next fun _ hs => serveEwc_memsOk hs 4 fun r => by simp [hs]

theorem execEwcHunbind_keeps : KeepsMemory execEwcHunbind :=
  keepsMemory_next fun _ hs => serveEwc_memsOk hs 5 fun r => by simp [hs]

theorem State.onAnswer_memsOk {s : State} (hs : MemsOk s.mems) (m : RemoteMsg) (st : Nat) : MemsOk (s.onAnswer m st).mems := by
  unfold State.onAnswer
  split
  · simp [hs]
  · split
    · exact hs
    · split
      · simp [hs]
      · dsimp only
        refine .ite (by simp [hs]) (.ite (by simp [hs]) ?_)
        rw [State.reply_mems]
        exact hs
      · exact hs

theorem State.onFound_memsOk {s : State} (hs : MemsOk s.mems) (m : RemoteMsg) (b : Option (Nat × Nat × Nat)) :
    MemsOk (s.onFound m b).mems := by
  have hfab (f : Fabric) : MemsOk ({ s with fab := f } : State).mems := hs
  unfold State.onFound
  dsimp only
  split
  · split
    · exact ewcSendTo_memsOk (hfab _) ..
    · simp [hs]
  · split
    · exact hs
    · split <;> simp [hs]

theorem State.onRevoked_memsOk {s : State} (hs : MemsOk s.mems) (m : RemoteMsg) (wasTaken : Bool) :
    MemsOk (s.onRevoked m wasTaken).mems := by
  unfold State.onRevoked
  split <;> split <;> simp [hs]

@[simp] theorem flitArrival_memsOk {s : State} (hs : MemsOk s.mems) (m : RemoteMsg) : MemsOk (flitArrival m s).mems := by
  have hack (f : Fabric) (pkg n : Nat) : MemsOk (({ s with fab := f } : State).ackUpTo pkg n).mems := by
    rw [State.ackUpTo_mems]
    exact hs
  unfold flitArrival
  dsimp only
  split
  · exact hs
  · split
    · exact hs
    · exact hs
    · exact hs
    · split
      · exact hs
      · split
        · exact hs
        · exact hs
        · exact hs
        · exact State.onAnswer_memsOk (hack _ _ _) ..
        · rw [State.roomFor_mems]
          exact hs
        · exact State.onRevoked_memsOk (hack _ _ _) ..
        · exact State.onFound_memsOk (hack _ _ _) ..
        all_goals
          rw [State.atHolder_mems]
          exact hs

@[simp] theorem State.loseCall_memsOk {s : State} (hs : MemsOk s.mems) (x : Call) : MemsOk (s.loseCall x).mems := by
  unfold State.loseCall
  split
  · simp [hs]
  · exact hs
  · rw [State.reply_mems]
    split <;> simp [hs]
  · simp [hs]
  · simp [hs]
  · exact hs

@[simp] theorem State.losePackage_memsOk {s : State} (hs : MemsOk s.mems) (pkg : Nat) : MemsOk (s.losePackage pkg).mems := by
  unfold State.losePackage
  have hcalls (l : List Call) (on : WaitOn → Bool) : MemsOk (((l.foldl State.loseCall (s.markLost pkg)).loseWaiters on).killProxies pkg).mems := by
    rw [State.killProxies_mems, State.loseWaiters_mems]
    exact memsOk_foldl (fun t x ht => by simp [ht]) _ (by simp [hs])
  have hsent (l : List Call) (on : WaitOn → Bool) (g : Tbl SentGrant) (f : Fabric) :
      MemsOk ({ g.foldl (fun t e => t.returnSent e.1) (((l.foldl State.loseCall (s.markLost pkg)).loseWaiters on).killProxies pkg) with
        fab := f } : State).mems :=
    memsOk_foldl (f := fun (t : State) (e : Nat × SentGrant) => t.returnSent e.1) (fun t e ht => by simp [ht]) g (hcalls l on)
  dsimp only
  split
  · exact .ite (State.ewcReply_memsOk (hsent ..) ..) (hsent ..)
  · exact .ite (State.ewcReply_memsOk (hsent ..) ..) (hsent ..)
  · exact hsent ..

theorem execStreamTimeout_keeps (pkg : Nat) : KeepsMemory (execStreamTimeout pkg) := by
  intro s t hs h
  have hfab (f : Fabric) : MemsOk ({ s with fab := f } : State).mems := hs
  unfold execStreamTimeout at h
  split at h
  · obtain rfl := Host.Outcome.next.inj h
    exact hs
  · obtain rfl := Host.Outcome.next.inj h
    exact State.losePackage_memsOk (hfab _) pkg

@[simp] theorem hostCxlMemAccess_memsOk {s : State} (hs : MemsOk s.mems) (acc : HostAccess) : MemsOk (hostCxlMemAccess acc s).mems := by
  have hctr (n : Nat) : MemsOk ({ s with freeCtr := n } : State).mems := hs
  unfold hostCxlMemAccess
  dsimp only
  split
  · exact .ite (State.hostRegion_memsOk hs _ _ _ fun u hu => by simp [hu]) hs
  · exact .ite (State.hostRegion_memsOk hs _ _ _ fun u hu => by simp [hu]) hs
  · rw [State.hostWrote_mems, mems_foldl fun _ _ => State.touchLine_mems ..]
    exact hs.hostBytes ..
  · split
    · exact .ite (by simp [hs]) hs
    · exact hs
  · exact .ite (by simp [hs]) hs
  · exact .ite ((State.hostGets_mems ..).symm ▸ hctr _) hs

theorem State.svcWrite_memsOk {s t : State} (hs : MemsOk s.mems) {e : RingEnt} {l off : Nat} {bs : List Byte}
    (h : s.svcWrite e l off bs = .ok t) : MemsOk t.mems := by
  have hhome (h : CallAcc.ok (s.procWrite e.asid (s.uidTime e.uid) (e.recOf l + off) bs) = .ok t) : MemsOk t.mems := by
    cases h
    simp [hs]
  unfold State.svcWrite at h
  dsimp only at h
  split at h
  · split at h
    · exact hhome h
    · exact State.threadWrite_memsOk hs h
  · exact hhome h

@[simp] theorem State.svcBit_memsOk {s : State} (hs : MemsOk s.mems) (e : RingEnt) (l : Nat) : MemsOk (s.svcBit e l).mems := by
  unfold State.svcBit
  split
  · exact hs
  · split <;> simp [hs]

@[simp] theorem State.svcReplied_memsOk {s : State} (hs : MemsOk s.mems) (e : RingEnt) (l st : Nat) : MemsOk (s.svcReplied e l st).mems := by
  have hbit (v : Service) : MemsOk ({ s.svcBit e l with svc := v } : State).mems := State.svcBit_memsOk hs e l
  unfold State.svcReplied
  refine .ite ?_ (hbit _)
  rw [State.poke_mems, State.svcDone_mems]
  exact hbit _

/-- The function of a service keeps both memories in canonical form. -/
def SvcKeeps (body : RingEnt → List Byte → State → SvcRes) : Prop := ∀ e b s, MemsOk s.mems → MemsOk (body e b s).1.mems

theorem serve_memsOk {body : RingEnt → List Byte → State → SvcRes} (hbody : SvcKeeps body) {s : State} (hs : MemsOk s.mems)
    (fn entry lane : Nat) : MemsOk (serve fn entry lane s body).mems := by
  unfold serve
  split
  · exact hs
  · rename_i e _
    refine .ite hs (State.asAgent_memsOk hs _ _ _ fun u hu => ?_)
    split
    · rename_i t b hread
      have ht : MemsOk t.mems := (State.svcRead_mems hread).symm ▸ hu
      have hres : MemsOk (if !listedFn e.fn then badField t else if supFn fn && e.asid != 0 then (t, stDenied, [])
          else if recNum b 4 4 ≠ 0 then badField t else body e b t).1.mems := by
        split
        · exact ht
        · split
          · exact ht
          · split
            · exact ht
            · exact hbody e b t ht
      dsimp only
      split
      · split
        · simp [State.svcWrite_memsOk (State.svcWrite_memsOk hres ‹_›) ‹_›]
        · exact hu
      · exact hu
    · exact hu

theorem serve_keeps {body : RingEnt → List Byte → State → SvcRes} (hbody : SvcKeeps body) (fn entry lane : Nat) :
    KeepsMemory fun s => .next (serve fn entry lane s body) :=
  keepsMemory_next fun _ hs => serve_memsOk hbody hs fn entry lane

end Sys2Proof.Machine
end

section
/-! PROOFS. The events that move no data and the service functions: what each leaves of both memories. -/

namespace Sys2Proof.Machine

/-- The instructions and events that leave both memories as they are. -/
def LeavesMemory (f : State → Out) : Prop := ∀ ⦃s t⦄, f s = .next t → t.mems = s.mems

theorem LeavesMemory.keeps {f : State → Out} (hf : LeavesMemory f) : KeepsMemory f := fun _ _ hs h => (hf h).symm ▸ hs

theorem mems_of_next {u t : State} {m : Memory × Memory} (h : (.next u : Out) = .next t) (hu : u.mems = m) : t.mems = m :=
  Host.Outcome.next.inj h ▸ hu

theorem leavesMemory_next {f : State → State} (hf : ∀ s, (f s).mems = s.mems) : LeavesMemory fun s => .next (f s) :=
  fun s _ h => mems_of_next h (hf s)

theorem leavesMemory_issue {i : Instr} {body : Ctx → State → State} (hbody : ∀ k u, (body k u).mems = u.mems) :
    LeavesMemory fun s => issue i s body :=
  fun _ _ h => issue_mems hbody h

theorem leavesMemory_issueWhen {i : Instr} {wait : Ctx → State → Option (List Nat)} {body : Ctx → State → State}
    (hbody : ∀ k u, (body k u).mems = u.mems) : LeavesMemory fun s => issueWhen i s wait body :=
  fun _ _ h => issueWhen_mems hbody h

theorem execCsave_leaves (h : Hdr) (o : FmtA) : LeavesMemory (execCsave h o) :=
  leavesMemory_issue fun _ _ => (State.beginCalls_mems _ fun _ _ => beginCsave_mems ..).trans (sendCalls_mems ..)

theorem execIcacheLineFill_leaves (core asid line : Nat) : LeavesMemory (execIcacheLineFill core asid line) := by
  intro s t h
  unfold execIcacheLineFill at h
  dsimp only at h
  split at h
  · exact mems_of_next h rfl
  · refine mems_of_next h (State.asAgent_mems _ _ _ fun u => ?_)
    split
    · exact State.fetchLine_mems ‹_›
    · exact State.fetchFault_mems ..

theorem execLeaseExpiry_leaves (inL1 : Bool) (unit line : Nat) : LeavesMemory (execLeaseExpiry inL1 unit line) := by
  intro s t h
  unfold execLeaseExpiry at h
  dsimp only at h
  split at h
  · split at h
    · exact mems_of_next h (State.mems_ite_of (State.modCore_mems ..) rfl)
    · exact mems_of_next h rfl
  · split at h
    · exact mems_of_next h (State.mems_ite_of rfl rfl)
    · exact mems_of_next h rfl

theorem execMcasLock_leaves (req : Nat) : LeavesMemory (execMcasLock req) := by
  intro s t h
  unfold execMcasLock at h
  split at h
  · exact mems_of_next h rfl
  · split at h
    · split at h
      · exact mems_of_next h (State.queueAt_mems ..)
      · split at h
        · exact mems_of_next h rfl
        · exact mems_of_next h ((State.served_mems ..).trans (State.setReq_mems ..))
    · exact mems_of_next h rfl

theorem execMissSplitWake_leaves (core wave op : Nat) : LeavesMemory (execMissSplitWake core wave op) := by
  intro s t h
  unfold execMissSplitWake at h
  split at h
  · exact mems_of_next h rfl
  · split at h
    · exact mems_of_next h rfl
    · exact mems_of_next h (State.modWave_mems ..)

theorem execWatchFire_leaves (watch : Nat) : LeavesMemory (execWatchFire watch) := by
  intro s t h
  unfold execWatchFire at h
  split at h
  · exact mems_of_next h rfl
  · exact mems_of_next h (State.signal_mems ..)

theorem execCinitPerform_leaves (core op : Nat) : LeavesMemory (execCinitPerform core op) := by
  intro s t h
  unfold execCinitPerform at h
  split at h
  · exact mems_of_next h rfl
  · exact mems_of_next h (by simp)

theorem execSiderealExpiry_leaves (obj : Nat) : LeavesMemory (execSiderealExpiry obj) := by
  intro s t h
  unfold execSiderealExpiry at h
  split at h
  · split at h
    · exact mems_of_next h rfl
    · exact mems_of_next h (by simp)
  · exact mems_of_next h rfl

theorem execPreemptRequest_leaves (core reason : Nat) : LeavesMemory (execPreemptRequest core reason) := by
  intro s t h
  unfold execPreemptRequest at h
  split at h
  · split at h
    · exact mems_of_next h (State.modCrew_mems ..)
    · exact mems_of_next h rfl
  · exact mems_of_next h rfl

theorem execForcedSaveTimeout_leaves (core : Nat) : LeavesMemory (execForcedSaveTimeout core) := by
  intro s t h
  unfold execForcedSaveTimeout at h
  split at h
  · split at h
    · exact mems_of_next h rfl
    · exact mems_of_next h (State.modCrew_mems ..)
  · exact mems_of_next h rfl

theorem execPrecessionEval_leaves : LeavesMemory execPrecessionEval := by
  intro s t h
  unfold execPrecessionEval at h
  split at h
  · exact mems_of_next h rfl
  · exact mems_of_next h (mems_foldl (fun _ _ => State.evalStage_mems ..) _ _)

theorem execCxlLinkLoss_leaves : LeavesMemory execCxlLinkLoss := by
  intro s t h
  unfold execCxlLinkLoss at h
  split at h
  · exact mems_of_next h rfl
  · exact mems_of_next h (State.warmRestart_mems ..)

theorem execCxlLinkUp_leaves (port rate width : Nat) : LeavesMemory (execCxlLinkUp port rate width) := by
  intro s t h
  unfold execCxlLinkUp at h
  split at h
  · exact mems_of_next h (State.portDown_mems ..)
  · split at h
    · exact mems_of_next h rfl
    · exact mems_of_next h rfl

theorem execDoeRequest_leaves (port kind : Nat) : LeavesMemory (execDoeRequest port kind) := by
  intro s t h
  unfold execDoeRequest at h
  split at h
  · split at h
    · rename_i b u hans
      have hu := State.doeAnswer_mems hans
      exact mems_of_next h hu
    · exact mems_of_next h rfl
  · exact mems_of_next h rfl

theorem execPowerGovernorTick_leaves (watts : Nat) : LeavesMemory (execPowerGovernorTick watts) := by
  intro s t h
  unfold execPowerGovernorTick at h
  split at h
  · exact mems_of_next h rfl
  · exact mems_of_next h rfl

theorem execThermalLimit_leaves (hot : Bool) : LeavesMemory (execThermalLimit hot) :=
  leavesMemory_next fun _ => rfl

theorem execThermalShutdown_leaves : LeavesMemory execThermalShutdown :=
  leavesMemory_next fun _ => State.mems_ite_of rfl (State.warmRestart_mems ..)

theorem execEccCorrected_leaves (core loc : Nat) : LeavesMemory (execEccCorrected core loc) :=
  leavesMemory_next fun _ => State.mems_ite_of rfl rfl

theorem execEccUncorrectable_leaves (place : EccPlace) : LeavesMemory (execEccUncorrectable place) := by
  intro s t h
  have hlog : ((s.poisonUnit place).wearFrame place).mems = s.mems := by simp
  unfold execEccUncorrectable at h
  split at h
  · exact mems_of_next h rfl
  · refine mems_of_next h ?_
    dsimp only
    split <;> exact hlog

theorem State.setRoute_memsOk {s : State} (hs : MemsOk s.mems) (pkg mask : Nat) : MemsOk (s.setRoute pkg mask).mems := by
  have hfab (f : Fabric) : MemsOk ({ s with fab := f } : State).mems := hs
  unfold State.setRoute
  exact .ite (.ite (hfab _) (State.losePackage_memsOk (hfab _) _)) (hfab _)

theorem svcLog_keeps : SvcKeeps svcLog := by
  intro e b s hs
  unfold svcLog
  dsimp only
  split
  · exact hs
  · exact hs

theorem svcEvread_keeps : SvcKeeps svcEvread := fun _ _ _ hs => hs

theorem svcEvsel_keeps : SvcKeeps svcEvsel := by
  intro e b s hs
  unfold svcEvsel
  dsimp only
  split
  · exact hs
  · simp [hs]

theorem svcOwnports_keeps : SvcKeeps svcOwnports := by
  intro e b s hs
  unfold svcOwnports
  dsimp only
  split
  · split
    · exact hs
    · exact hs
  · exact hs

theorem svcProc_keeps : SvcKeeps svcProc := by
  intro e b s hs
  unfold svcProc
  dsimp only
  repeat' split
  all_goals exact hs

theorem svcFrames_keeps : SvcKeeps svcFrames := by
  intro e b s hs
  unfold svcFrames
  dsimp only
  split
  · exact hs
  · split
    · exact hs
    · split
      · exact hs
      · exact memsOk_foldl (fun t f ht => by simp [ht]) _ hs

theorem svcTenant_keeps : SvcKeeps svcTenant := by
  intro e b s hs
  unfold svcTenant
  dsimp only
  split
  · exact hs
  · exact hs

theorem svcFirewall_keeps : SvcKeeps svcFirewall := by
  intro e b s hs
  unfold svcFirewall
  dsimp only
  split
  · exact hs
  · exact hs

theorem svcStage_keeps : SvcKeeps svcStage := by
  intro e b s hs
  unfold svcStage
  dsimp only
  split
  · exact hs
  · dsimp only
    refine .ite hs ?_
    rw [State.drainStage_mems]
    exact hs

theorem svcHwin_keeps : SvcKeeps svcHwin := by
  intro e b s hs
  unfold svcHwin
  dsimp only
  split
  · exact hs
  · exact hs

theorem svcRoute_keeps : SvcKeeps svcRoute := by
  intro e b s hs
  unfold svcRoute
  dsimp only
  split
  · exact hs
  · split
    · exact State.setRoute_memsOk hs ..
    · split
      · exact hs
      · exact hs

theorem svcEwcset_keeps : SvcKeeps svcEwcset := by
  intro e b s hs
  unfold svcEwcset
  dsimp only
  split
  · exact hs
  · exact hs

theorem svcCaps_keeps : SvcKeeps svcCaps := by
  intro e b s hs
  unfold svcCaps
  dsimp only
  split
  · exact hs
  · exact hs

theorem svcRas_keeps : SvcKeeps svcRas := fun _ _ _ hs => hs

theorem svcHbind_keeps : SvcKeeps svcHbind := by
  intro e b s hs
  unfold svcHbind
  dsimp only
  split
  · simp [hs]
  · split
    · simp [hs]
    · exact hs

theorem execPackageReset_keeps (boot : BootBlock) : KeepsMemory (execPackageReset boot) := by
  intro s t hs h
  unfold execPackageReset at h
  split at h
  · obtain rfl := Host.Outcome.next.inj h
    exact hs
  · obtain rfl := Host.Outcome.next.inj h
    have hreset : MemsOk (State.reset.mem, s.hostMem) := ⟨State.memOk_reset.1, hs.2⟩
    dsimp only
    split
    · rw [State.bootUp_mems]
      exact hreset
    · split
      · exact hreset
      · exact hreset

end Sys2Proof.Machine
end

section
/-! PROOFS. What an instruction or event does to the memories: it is a writer, which keeps the canonical form, or changes neither. -/

namespace Sys2Proof.Machine

/-- The forms whose step may write HBM4E or the host's memory. -/
def writesMemory : Instr → Bool
  | .crest .. | .homeStore _ | .l1Eviction .. | .manualWritebackMerge _ | .atomicPerform _ | .mcasComplete _ | .shootdownComplete _
  | .copyDeliver .. | .suspendReplayWake _ | .orreryWake _ | .heldSuccessorEnqueue _ | .crewRetire _ | .contractInstanceOpen _
  | .contractDeadline .. | .crewSave _ | .saveComplete _ | .crewRestore .. | .crewMove .. | .versionCommit _ | .streamTimeout _
  | .flitArrival _ | .hostCxlMemAccess _ | .hostAccessComplete _ | .ewcNop | .ewcLaunch | .ewcLstat | .ewcSend | .ewcHbind
  | .ewcHunbind | .log .. | .evread .. | .evsel .. | .ownports .. | .proc .. | .frames .. | .tenant .. | .firewall .. | .stage ..
  | .hwin .. | .route .. | .ewcset .. | .caps .. | .ras .. | .hbind .. | .packageReset _ | .objectCallPerform _ | .watchArm _ => true
  | _ => false

/-- A form that is not listed as a writer leaves both memories as they are: the issue of every slot form but `crest`, and
the events that move no data to a home. -/
theorem exec_leavesMemory {i : Instr} (hi : writesMemory i = false) : LeavesMemory (exec i) := by
  cases i
  case ld | st | lde | atom | red | mcas | wbr | invr | ipin | watch | psend | precv | qenq | dcinit | objnew | syscall | launch
      | ctadmit =>
    exact leavesMemory_issueWhen fun _ _ => by simp
  case csave => exact execCsave_leaves ..
  case icacheLineFill => exact execIcacheLineFill_leaves ..
  case leaseExpiry => exact execLeaseExpiry_leaves ..
  case mcasLock => exact execMcasLock_leaves ..
  case missSplitWake => exact execMissSplitWake_leaves ..
  case watchFire => exact execWatchFire_leaves ..
  case cinitPerform => exact execCinitPerform_leaves ..
  case siderealExpiry => exact execSiderealExpiry_leaves ..
  case preemptRequest => exact execPreemptRequest_leaves ..
  case forcedSaveTimeout => exact execForcedSaveTimeout_leaves ..
  case precessionEval => exact execPrecessionEval_leaves
  case cxlLinkLoss => exact execCxlLinkLoss_leaves
  case cxlLinkUp => exact execCxlLinkUp_leaves ..
  case doeRequest => exact execDoeRequest_leaves ..
  case powerGovernorTick => exact execPowerGovernorTick_leaves ..
  case thermalLimit => exact execThermalLimit_leaves ..
  case thermalShutdown => exact execThermalShutdown_leaves
  case eccCorrected => exact execEccCorrected_leaves ..
  case eccUncorrectable => exact execEccUncorrectable_leaves ..
  case tlbWalkComplete | fixedLatencyWrite | divideComplete | tokenRetire | waveAged | yieldExpiry | waveRetire | homeLoad | storeAck | lineLeavesSlice
      | cacheOpComplete | sqHeaderWake | copyAccept | copyGuardResolve | copyStart | copyComplete | copyFaultHalt
      | carrDeferredArrival | matrixAccept | matrixGuardResolve | mmaBlockRead | matrixStart | mmaComplete | tileUnitComplete
      | wavePortComplete | taskWaveForm | remoteMessageArrival | grantTakenNotice | remoteGrantrev | dieAgentClaim | crewStart | gangGather
      | contractShareReached | budgetWindowClose | stageCoreLeave | trapDelivery | hostAccessTimeout | hostSnoopInvalidation
      | ewcctlRestart | loadComplete | unassignedOpcode =>
    exact leavesMemory_next fun _ => by simp
  case crest | homeStore | l1Eviction | manualWritebackMerge | atomicPerform | mcasComplete | shootdownComplete | copyDeliver
      | suspendReplayWake | orreryWake | heldSuccessorEnqueue | crewRetire | contractInstanceOpen | contractDeadline | crewSave | saveComplete
      | crewRestore | crewMove | versionCommit | streamTimeout | flitArrival | hostCxlMemAccess | hostAccessComplete | ewcNop | ewcLaunch
      | ewcLstat | ewcSend | ewcHbind | ewcHunbind | log | evread | evsel | ownports | proc | frames | tenant | firewall | stage | hwin
      | route | ewcset | caps | ras | hbind | packageReset | objectCallPerform | watchArm =>
    exact absurd hi Bool.noConfusion
  all_goals exact leavesMemory_issue fun _ _ => by simp

/-- Each writer keeps both memories in canonical form. -/
theorem exec_keepsMemory_of_writes {i : Instr} (hi : writesMemory i = true) : KeepsMemory (exec i) := by
  unfold writesMemory at hi
  split at hi
  case h_48 => cases hi
  · exact execCrest_keeps ..
  · exact keepsMemory_next fun _ hs => homeStore_memsOk hs _
  · exact execL1Eviction_keeps ..
  · exact execManualWritebackMerge_keeps _
  · exact keepsMemory_next fun _ hs => atomicPerform_memsOk hs _
  · exact keepsMemory_next fun _ hs => mcasComplete_memsOk hs _
  · exact keepsMemory_next fun _ hs => shootdownComplete_memsOk hs _
  · exact keepsMemory_next fun _ hs => copyDeliver_memsOk hs ..
  · exact execSuspendReplayWake_keeps _
  · exact execOrreryWake_keeps _
  · exact execHeldSuccessorEnqueue_keeps _
  · exact keepsMemory_next fun _ hs => crewRetire_memsOk hs _
  · exact keepsMemory_next fun _ hs => contractInstanceOpen_memsOk hs _
  · exact keepsMemory_next fun _ hs => contractDeadline_memsOk hs ..
  · exact keepsMemory_next fun _ hs => crewSave_memsOk hs _
  · exact keepsMemory_next fun _ hs => saveComplete_memsOk hs _
  · exact keepsMemory_next fun _ hs => crewRestore_memsOk hs ..
  · exact keepsMemory_next fun _ hs => crewMove_memsOk hs ..
  · exact execVersionCommit_keeps _
  · exact execStreamTimeout_keeps _
  · exact keepsMemory_next fun _ hs => flitArrival_memsOk hs _
  · exact keepsMemory_next fun _ hs => hostCxlMemAccess_memsOk hs _
  · exact keepsMemory_next fun _ hs => hostAccessComplete_memsOk hs _
  · exact execEwcNop_keeps
  · exact execEwcLaunch_keeps
  · exact execEwcLstat_keeps
  · exact execEwcSend_keeps
  · exact execEwcHbind_keeps
  · exact execEwcHunbind_keeps
  · exact serve_keeps svcLog_keeps ..
  · exact serve_keeps svcEvread_keeps ..
  · exact serve_keeps svcEvsel_keeps ..
  · exact serve_keeps svcOwnports_keeps ..
  · exact serve_keeps svcProc_keeps ..
  · exact serve_keeps svcFrames_keeps ..
  · exact serve_keeps svcTenant_keeps ..
  · exact serve_keeps svcFirewall_keeps ..
  · exact serve_keeps svcStage_keeps ..
  · exact serve_keeps svcHwin_keeps ..
  · exact serve_keeps svcRoute_keeps ..
  · exact serve_keeps svcEwcset_keeps ..
  · exact serve_keeps svcCaps_keeps ..
  · exact serve_keeps svcRas_keeps ..
  · exact serve_keeps svcHbind_keeps ..
  · exact execPackageReset_keeps _
  · exact keepsMemory_next fun _ hs => objectCallPerform_memsOk hs _
  · exact keepsMemory_next fun _ hs => watchArm_memsOk hs _

theorem exec_keepsMemory (i : Instr) : KeepsMemory (exec i) := by
  cases hi : writesMemory i with
  | false => exact (exec_leavesMemory hi).keeps
  | true => exact exec_keepsMemory_of_writes hi

end Sys2Proof.Machine
end

section
/-! PROOFS. A step keeps both memories in canonical form (R199): every act that the schedule offers does. -/

namespace Sys2Proof.Machine

/-- The acts that the schedule offers keep both memories in canonical form. -/
def ActsKeep (acts : List Act) : Prop := ∀ f ∈ acts, KeepsMemory f

@[simp] theorem actsKeep_nil : ActsKeep [] := List.forall_mem_nil _

@[simp] theorem actsKeep_cons {f : Act} {acts : List Act} : ActsKeep (f :: acts) ↔ KeepsMemory f ∧ ActsKeep acts := List.forall_mem_cons

@[simp] theorem actsKeep_append {as bs : List Act} : ActsKeep (as ++ bs) ↔ ActsKeep as ∧ ActsKeep bs := List.forall_mem_append

theorem actsKeep_map {α : Type} {l : List α} {f : α → Act} (hf : ∀ x, KeepsMemory (f x)) : ActsKeep (l.map f) :=
  List.forall_mem_map.mpr fun x _ => hf x

theorem actsKeep_flatMap {α : Type} {l : List α} {f : α → List Act} (hf : ∀ x, ActsKeep (f x)) : ActsKeep (l.flatMap f) := by
  intro g hg
  obtain ⟨x, -, hx⟩ := List.mem_flatMap.mp hg
  exact hf x g hx

theorem actsKeep_filterMap {α : Type} {l : List α} {f : α → Option Act} (hf : ∀ x g, f x = some g → KeepsMemory g) :
    ActsKeep (l.filterMap f) := by
  intro g hg
  obtain ⟨x, -, hx⟩ := List.mem_filterMap.mp hg
  exact hf x g hx

theorem waveActs_keep (c w : Nat) (x : Wave) : ActsKeep (waveActs c w x) := by
  unfold waveActs
  simp only [actsKeep_append]
  refine ⟨⟨⟨⟨⟨⟨?_, ?_⟩, ?_⟩, ?_⟩, ?_⟩, ?_⟩, ?_⟩
  · split
    · exact actsKeep_nil
    · exact actsKeep_cons.mpr ⟨exec_keepsMemory (.fixedLatencyWrite c w), actsKeep_nil⟩
  · refine actsKeep_filterMap fun e g hg => ?_
    obtain ⟨o, -, rfl⟩ := Option.map_eq_some_iff.mp hg
    exact exec_keepsMemory (.divideComplete c w o)
  · exact actsKeep_map fun e => exec_keepsMemory (.tokenRetire c w e.1)
  · simp only [actsKeep_cons]
    exact ⟨exec_keepsMemory (.waveAged c w), exec_keepsMemory (.yieldExpiry c w), exec_keepsMemory (.waveRetire c w), actsKeep_nil⟩
  · exact actsKeep_map fun o => exec_keepsMemory (.loadComplete c w o.id)
  · refine actsKeep_filterMap fun p g hg => ?_
    split at hg
    · rename_i op _
      exact Option.some.inj hg ▸ exec_keepsMemory (.missSplitWake c w op)
    · cases hg
  · exact actsKeep_map fun p => exec_keepsMemory (.icacheLineFill c x.asid (lineOf p.pc))

theorem copyActs_keep (c : Nat) (k : Core) (fc : Nat) : ActsKeep (copyActs c k fc) := by
  unfold copyActs
  simp only [actsKeep_append]
  refine ⟨⟨⟨actsKeep_flatMap fun e => ?_, ?_⟩, ?_⟩, ?_⟩
  · simp only [actsKeep_cons]
    exact ⟨exec_keepsMemory (.copyAccept ..), exec_keepsMemory (.copyGuardResolve ..), exec_keepsMemory (.copyDeliver ..),
      exec_keepsMemory (.copyComplete ..), exec_keepsMemory (.copyFaultHalt ..), actsKeep_nil⟩
  · exact actsKeep_map fun e => exec_keepsMemory (.copyStart c e.1)
  · exact actsKeep_map fun r => exec_keepsMemory (.carrDeferredArrival c r.wave r.lane)
  · exact actsKeep_map fun x => exec_keepsMemory (.cinitPerform c x.id)

theorem matActs_keep (c : Nat) (k : Core) : ActsKeep (matActs c k) := by
  refine actsKeep_flatMap fun m => ?_
  simp only [actsKeep_cons]
  exact ⟨exec_keepsMemory (.matrixAccept ..), exec_keepsMemory (.matrixGuardResolve ..), exec_keepsMemory (.mmaBlockRead ..),
    exec_keepsMemory (.matrixStart ..), exec_keepsMemory (.mmaComplete ..), exec_keepsMemory (.tileUnitComplete ..),
    exec_keepsMemory (.wavePortComplete ..), actsKeep_nil⟩

theorem crewActs_keep (c : Nat) (k : Core) : ActsKeep (crewActs c k) := by
  unfold crewActs
  simp only [actsKeep_append]
  refine ⟨⟨⟨⟨⟨?_, ?_⟩, actsKeep_flatMap fun e => ?_⟩, ?_⟩, ?_⟩, ?_⟩
  · exact actsKeep_map fun x => exec_keepsMemory (.tlbWalkComplete c x.asid x.page)
  · exact actsKeep_map fun p => exec_keepsMemory (.icacheLineFill c p.1 p.2)
  · simp only [actsKeep_cons]
    exact ⟨exec_keepsMemory (.leaseExpiry true c (e.1 / 2)), exec_keepsMemory (.l1Eviction ..), actsKeep_nil⟩
  · exact actsKeep_map fun e => exec_keepsMemory (.sqHeaderWake c e.1)
  · simp only [actsKeep_cons]
    exact ⟨exec_keepsMemory (.crewStart c), exec_keepsMemory (.crewRetire c), exec_keepsMemory (.stageCoreLeave c),
      exec_keepsMemory (.forcedSaveTimeout c), exec_keepsMemory (.crewSave c), exec_keepsMemory (.saveComplete c),
      exec_keepsMemory (.versionCommit c), actsKeep_nil⟩
  · split
    · exact actsKeep_cons.mpr ⟨exec_keepsMemory (.preemptRequest ..), actsKeep_nil⟩
    · exact actsKeep_nil

theorem coreActs_keep (fc : Nat) (e : Nat × Core) : ActsKeep (coreActs fc e) := by
  unfold coreActs
  simp only [actsKeep_append]
  exact ⟨⟨⟨actsKeep_flatMap fun x => waveActs_keep e.1 x.1 x.2, copyActs_keep e.1 e.2 fc⟩, matActs_keep e.1 e.2⟩, crewActs_keep e.1 e.2⟩

theorem memActs_keep (s : State) : ActsKeep (memActs s) := by
  unfold memActs
  simp only [actsKeep_append]
  refine ⟨⟨⟨⟨⟨⟨?_, actsKeep_flatMap fun r => ?_⟩, ?_⟩, ?_⟩, ?_⟩, ?_⟩, actsKeep_flatMap fun e => ?_⟩
  · exact actsKeep_map fun r => (leavesMemory_next fun t => State.performLocal_mems t r.id).keeps
  · simp only [actsKeep_cons]
    exact ⟨exec_keepsMemory (.homeLoad _), exec_keepsMemory (.homeStore _), exec_keepsMemory (.storeAck _),
      exec_keepsMemory (.atomicPerform _), exec_keepsMemory (.mcasLock _), exec_keepsMemory (.mcasComplete _),
      exec_keepsMemory (.watchArm _), exec_keepsMemory (.cacheOpComplete _), exec_keepsMemory (.hostAccessComplete _),
      (leavesMemory_next fun t => State.lodge_mems t r.id).keeps, actsKeep_nil⟩
  · exact actsKeep_map fun w => exec_keepsMemory (.manualWritebackMerge w.id)
  · exact actsKeep_map fun w => exec_keepsMemory (.watchFire w.id)
  · exact actsKeep_map fun h => exec_keepsMemory (.shootdownComplete h.id)
  · exact actsKeep_map fun e => exec_keepsMemory (.lineLeavesSlice e.1)
  · exact actsKeep_map fun y => exec_keepsMemory (.leaseExpiry false e.1 y.1)

theorem orreryActs_keep (s : State) : ActsKeep (orreryActs s) := by
  unfold orreryActs
  simp only [actsKeep_append]
  refine ⟨⟨⟨⟨⟨⟨?_, actsKeep_flatMap fun w => ?_⟩, ?_⟩, actsKeep_flatMap fun e => ?_⟩, ?_⟩, ?_⟩, actsKeep_flatMap fun m => ?_⟩
  · exact actsKeep_map fun x => exec_keepsMemory (.objectCallPerform x.id)
  · simp only [actsKeep_cons]
    exact ⟨exec_keepsMemory (.suspendReplayWake _), exec_keepsMemory (.orreryWake _), actsKeep_nil⟩
  · exact actsKeep_map fun t => exec_keepsMemory (.trapDelivery t.id)
  · split
    · exact actsKeep_cons.mpr ⟨exec_keepsMemory (.siderealExpiry _), actsKeep_nil⟩
    · refine actsKeep_cons.mpr ⟨exec_keepsMemory (.heldSuccessorEnqueue _), ?_⟩
      split
      · exact actsKeep_nil
      · exact actsKeep_map fun c => exec_keepsMemory (.taskWaveForm c e.1)
    · simp only [actsKeep_cons, actsKeep_append]
      exact ⟨exec_keepsMemory (.contractInstanceOpen _),
        actsKeep_flatMap fun l => actsKeep_map fun i => exec_keepsMemory (.contractDeadline e.1 i.k),
        actsKeep_map fun c => exec_keepsMemory (.contractShareReached e.1 c.1)⟩
    · exact actsKeep_nil
  · exact actsKeep_map fun e => exec_keepsMemory (.grantTakenNotice (handleIdx e.2.handle))
  · exact actsKeep_map fun x => exec_keepsMemory (.hostCxlMemAccess x.acc)
  · simp only [actsKeep_cons]
    exact ⟨exec_keepsMemory (.remoteMessageArrival ..), exec_keepsMemory (.remoteGrantrev ..), actsKeep_nil⟩

theorem transitActs_keep (s : State) : ActsKeep (transitActs s) := by
  unfold transitActs
  simp only [actsKeep_append]
  refine ⟨⟨actsKeep_flatMap fun d => ?_, ?_⟩, actsKeep_flatMap fun e => ?_⟩
  · simp only [actsKeep_cons]
    exact ⟨exec_keepsMemory (.dieAgentClaim d), exec_keepsMemory (.gangGather d), actsKeep_nil⟩
  · exact actsKeep_cons.mpr ⟨exec_keepsMemory .precessionEval, actsKeep_nil⟩
  · split
    · refine actsKeep_append.mpr ⟨?_, actsKeep_map fun c => exec_keepsMemory (.crewRestore e.1 c)⟩
      split
      · simp only [actsKeep_cons]
        exact ⟨exec_keepsMemory (.crewRestore ..), exec_keepsMemory (.crewMove ..), actsKeep_nil⟩
      · exact actsKeep_nil
    · exact actsKeep_nil

theorem serviceActs_keep (s : State) : ActsKeep (serviceActs s) := by
  refine actsKeep_flatMap fun e => ?_
  simp only [actsKeep_cons]
  exact ⟨exec_keepsMemory (.log ..), exec_keepsMemory (.evread ..), exec_keepsMemory (.evsel ..), exec_keepsMemory (.ownports ..),
    exec_keepsMemory (.proc ..), exec_keepsMemory (.frames ..), exec_keepsMemory (.tenant ..), exec_keepsMemory (.firewall ..),
    exec_keepsMemory (.stage ..), exec_keepsMemory (.hwin ..), exec_keepsMemory (.route ..), exec_keepsMemory (.ewcset ..),
    exec_keepsMemory (.caps ..), exec_keepsMemory (.ras ..), exec_keepsMemory (.hbind ..), actsKeep_nil⟩

theorem State.serviceWrite_memsOk {s : State} (hs : MemsOk s.mems) (pa : Nat) (bs : List Byte) : MemsOk (s.serviceWrite pa bs).mems := by
  unfold State.serviceWrite
  refine .ite (.ite hs (State.orreryStore_memsOk hs ..)) ?_
  dsimp only
  rw [State.logError_mems]
  exact hs

theorem serviceStore_keeps : KeepsMemory serviceStore := by
  refine keepsMemory_next fun s hs => ?_
  have hctr (n : Nat) : MemsOk ({ s with freeCtr := n } : State).mems := hs
  exact State.serviceWrite_memsOk (hctr _) ..

theorem allActs_keep (s : State) : ActsKeep (allActs s) := by
  unfold allActs
  simp only [actsKeep_append, actsKeep_cons]
  exact ⟨⟨⟨⟨⟨actsKeep_flatMap fun e => coreActs_keep _ e, memActs_keep s⟩, orreryActs_keep s⟩, transitActs_keep s⟩, serviceActs_keep s⟩,
    serviceStore_keeps, actsKeep_nil⟩

theorem clockActs_keep (s : State) : ActsKeep (clockActs s) := by
  unfold clockActs
  simp only [actsKeep_append, actsKeep_cons]
  refine ⟨⟨actsKeep_flatMap fun l => ?_, exec_keepsMemory .precessionEval, actsKeep_nil⟩, ?_⟩
  · split
    · simp only [actsKeep_append, actsKeep_cons]
      exact ⟨⟨actsKeep_map fun x => exec_keepsMemory (.contractDeadline _ x.k), exec_keepsMemory (.contractInstanceOpen _), actsKeep_nil⟩,
        actsKeep_map fun c => exec_keepsMemory (.contractShareReached _ c.1)⟩
    · exact actsKeep_nil
  · exact actsKeep_map fun t => exec_keepsMemory (.budgetWindowClose t _ _)

theorem heldParts_mems {i : Instr} {p : (Ctx → State → Option (List Nat)) × (Ctx → State → State)} (h : heldParts i = some p) (k : Ctx)
    (u : State) : (p.2 k u).mems = u.mems := by
  unfold heldParts at h
  split at h
  case h_19 => cases h
  all_goals
    obtain rfl := Option.some.inj h
    simp

theorem resumeHeld_keeps (x : HeldIssue) : KeepsMemory (resumeHeld x) := by
  refine keepsMemory_next fun s hs => ?_
  split
  · exact State.goOn_memsOk hs x _ (heldParts_mems ‹_›)
  · exact hs

theorem dueActs_keep (s : State) : ActsKeep (dueActs s) := by
  unfold dueActs
  simp only [actsKeep_append]
  refine ⟨⟨⟨⟨?_, ?_⟩, actsKeep_flatMap fun e => ?_⟩, ?_⟩, clockActs_keep s⟩
  · exact actsKeep_map fun t => exec_keepsMemory (.trapDelivery t.id)
  · exact actsKeep_map resumeHeld_keeps
  · simp only [actsKeep_append]
    refine ⟨⟨⟨⟨actsKeep_flatMap fun x => ?_, ?_⟩, ?_⟩, actsKeep_flatMap fun x => ?_⟩, matActs_keep e.1 e.2⟩
    · simp only [actsKeep_append, actsKeep_cons]
      refine ⟨⟨actsKeep_map fun p => ?_, actsKeep_map fun y => exec_keepsMemory (.tokenRetire e.1 x.1 y.1)⟩, exec_keepsMemory (.waveAged ..),
        exec_keepsMemory (.yieldExpiry ..), actsKeep_nil⟩
      split
      · exact exec_keepsMemory (.divideComplete ..)
      · exact exec_keepsMemory (.fixedLatencyWrite ..)
    · split
      · exact actsKeep_nil
      · exact actsKeep_cons.mpr ⟨(leavesMemory_next fun t => State.settle_mems t e.1).keeps, actsKeep_nil⟩
    · exact actsKeep_map fun x => exec_keepsMemory (.cinitPerform e.1 x.id)
    · simp only [actsKeep_cons]
      exact ⟨exec_keepsMemory (.copyAccept ..), exec_keepsMemory (.copyGuardResolve ..), actsKeep_nil⟩
  · exact actsKeep_map fun n => exec_keepsMemory (.hostAccessTimeout n)

theorem State.offered_memsOk {s t : State} {acts : List Act} (hs : MemsOk s.mems) (hacts : ActsKeep acts) (ht : t ∈ s.offered acts) :
    MemsOk t.mems := by
  obtain ⟨f, hf, hft⟩ := List.mem_filterMap.mp ht
  split at hft
  · rename_i u hu
    split at hft
    · cases hft
    · obtain rfl := Option.some.inj hft
      exact hacts f hf hs hu
  · cases hft

theorem pickFrom_mem {α : Type} {n : Nat} {l : List α} {x : α} (h : pickFrom n l = some x) : x ∈ l := by
  unfold pickFrom at h
  split at h
  · exact Option.some.inj h ▸ List.mem_of_getElem? ‹_›
  · exact List.mem_of_mem_head? h

theorem State.choose_memsOk {s : State} (hs : MemsOk s.mems) : MemsOk s.choose.mems := by
  have hends : ∀ t ∈ (match s.issues with
      | [] => [s.tick]
      | cs => cs.map (fun cur => { s with cursor := some cur })), MemsOk t.mems := by
    split
    · exact List.forall_mem_singleton.mpr hs
    · exact List.forall_mem_map.mpr fun _ _ => hs
  unfold State.choose
  dsimp only
  split
  · rename_i t ht
    have hkeep : MemsOk t.mems := (List.mem_append.mp (pickFrom_mem ht)).elim (State.offered_memsOk hs (allActs_keep s)) (hends t)
    exact hkeep
  · exact hs

theorem schedule_memsOk {s : State} (hs : MemsOk s.mems) : MemsOk (schedule s).mems := by
  unfold schedule
  refine .ite hs (.ite hs ?_)
  split
  · rename_i t ts ht
    exact State.offered_memsOk hs (dueActs_keep s) (ht ▸ List.mem_cons_self)
  · exact State.choose_memsOk hs

theorem step_keepsMemory : KeepsMemory step := by
  intro s t hs h
  unfold step at h
  split at h
  · split at h
    · cases h
    · rename_i u hu
      obtain rfl := Host.Outcome.next.inj h
      exact (fetch_mems_done hu).symm ▸ hs
    · rename_i i u hu
      exact exec_keepsMemory i ((fetch_mems_run hu).symm ▸ hs) h
  · rename_i i rest _
    have hagenda : MemsOk ({ s with agenda := rest } : State).mems := hs
    exact exec_keepsMemory i hagenda h
  · obtain rfl := Host.Outcome.next.inj h
    exact schedule_memsOk hs

/-- Settles O59: every function of the model that a step calls leaves both memories as they are, or writes them through
writes that keep the canonical form. -/
theorem stepKeepsMemory : Obligations.StepKeepsMemory := by
  unfold Obligations.StepKeepsMemory
  exact fun s t hs h => step_keepsMemory hs h

end Sys2Proof.Machine
end

section
/-! PROOFS. The issue of the memory, barrier, copy, matrix and call families (R213, R239, R281, R333): none of them is a writer. -/

namespace Sys2Proof.Machine

theorem memories_of_leaves {i : Instr} (hi : writesMemory i = false) (s t : State) (h : exec i s = .next t) :
    t.mem = s.mem ∧ t.hostMem = s.hostMem :=
  Prod.ext_iff.mp (exec_leavesMemory hi h)

/-- Settles O53: no listed instruction is among the forms that may write a memory (`writesMemory`). -/
theorem issueWritesNoMemory : Obligations.IssueWritesNoMemory := by
  unfold Obligations.IssueWritesNoMemory
  refine ⟨fun h o => ?_, fun h o => ?_, fun h o => ?_, fun h o => ?_, fun h o => ?_, fun h o => ?_⟩
  all_goals
    simp only [List.forall_mem_cons]
    and_intros
    on_goal -1 => exact List.forall_mem_nil _
    all_goals exact memories_of_leaves rfl

end Sys2Proof.Machine
end

section
/-! PROOFS. What an access of a lane meets first (R200, R205, R210, R220, R246, R435). -/

namespace Sys2Proof.Machine

theorem accOf_of_outside {tr : Nat → Tr} {need va len : Nat} (h : 2 ^ 56 < va + len) : accOf tr need va len = .fault 0x12 va := by
  have hout : outside va len = true := by
    simp [outside]
    omega
  simp [accOf, hout]

/-- An access that its translation stops fails with the fault's cause and address, whatever the plan would do next. -/
theorem plainAcc_of_fault {k : Ctx} {s : State} {need va len c a : Nat} (h : k.acc s need va len = .fault c a) (f : List Piece → LanePlan) :
    plainAcc k s need va len f = .error (c, a) := by
  simp [plainAcc, h]

theorem plainAcc_of_ok {k : Ctx} {s : State} {need va len : Nat} {ps : List Piece} (h : k.acc s need va len = .ok ps)
    (f : List Piece → LanePlan) : plainAcc k s need va len f = f ps := by
  simp [plainAcc, h]

section Buffer
variable (k : Ctx) (o : FmtM) (p : Place) (base limit unit l size : Nat) (f : Nat → List Req)

theorem bufPlan_of_outside (h : k.bufAddr o l < 0 ∨ (limit : Int) < k.bufAddr o l + size) :
    bufPlan k o p base limit unit l size f = .error (0x1A, truncTo 64 (k.bufAddr o l)) := by
  simp [bufPlan, h]

theorem bufPlan_of_misaligned (hlow : 0 ≤ k.bufAddr o l) (hhigh : k.bufAddr o l + size ≤ (limit : Int))
    (hmis : (k.bufAddr o l).toNat % size ≠ 0) : bufPlan k o p base limit unit l size f = .error (0x14, (k.bufAddr o l).toNat) := by
  have hin : ¬(k.bufAddr o l < 0 ∨ (limit : Int) < k.bufAddr o l + size) := by omega
  simp [bufPlan, hin, hmis]

end Buffer

/-- A plain atomic access, which bit 4 of the operation's code would make one of A-BUF, traps where it is not aligned. -/
theorem atomPlan_of_misaligned {o : FmtM} {k : Ctx} {s : State} {l : Nat} (r : Req) {ps : List Piece} (hplain : o.mop.toNat < 16)
    (hacc : k.acc s (rightR + rightW) (k.ea o l) (atomSize (o.mop.toNat % 16) o.ty) = .ok ps)
    (hmis : k.ea o l % atomSize (o.mop.toNat % 16) o.ty ≠ 0) : atomPlan o k s l r = .error (0x14, k.ea o l) := by
  simp only [atomPlan, Nat.not_le.mpr hplain, if_false, plainAcc_of_ok hacc, if_pos hmis]

/-- An access that stays on one page has one piece. -/
theorem piecesOf_of_onePage {va len : Nat} (hlen : 0 < len) (hpage : va % 65536 + len ≤ 65536) : piecesOf va len = [(va, len)] := by
  have hmin : min len (65536 - va % 65536) = len := by omega
  simp [piecesOf, pieces, hmin, Nat.ne_of_gt hlen]

theorem accOf_of_onePage {tr : Nat → Tr} {need va len pa : Nat} {leaf : DWord} (hlen : 0 < len) (hpage : va % 65536 + len ≤ 65536)
    (hspace : va + len ≤ 2 ^ 56) (hhit : tr va = .hit leaf pa) :
    accOf tr need va len = if leafGrants leaf need then .ok [⟨va, len, leaf, pa⟩] else .fault 0x11 va := by
  have hin : outside va len = false := by
    simp [outside]
    omega
  cases hgrant : leafGrants leaf need <;> simp [accOf, hin, piecesOf_of_onePage hlen hpage, hhit, hgrant]

/-- Settles O26: the order in which a plan makes its checks. -/
theorem accessFaults : Obligations.AccessFaults := by
  unfold Obligations.AccessFaults
  refine ⟨fun o k s l hout => ⟨plainAcc_of_fault (accOf_of_outside hout) _, plainAcc_of_fault (accOf_of_outside hout) _⟩,
    fun k o p base limit unit l size f =>
      ⟨bufPlan_of_outside k o p base limit unit l size f,
        fun ⟨hlow, hhigh, hmis⟩ => bufPlan_of_misaligned k o p base limit unit l size f hlow hhigh hmis⟩,
    fun o k s l r ps hplain hacc hmis => atomPlan_of_misaligned r hplain hacc hmis,
    fun k s need va len pa leaf hlen hpage hspace hhit => accOf_of_onePage hlen hpage hspace hhit⟩

end Sys2Proof.Machine
end

section
/-! PROOFS. A store performed at its home (R213, R239, R380): what it writes, and the timestamps of its line. -/

namespace Sys2Proof.Machine

@[simp] theorem length_bytesOf (n x : Nat) : (bytesOf n x).length = n := by
  induction n generalizing x with
  | zero => rfl
  | succ n ih => simp [bytesOf, ih]

theorem getElem_bytesOf {n i : Nat} (x : Nat) (h : i < (bytesOf n x).length) : (bytesOf n x)[i] = BitVec.ofNat 8 (x / 256 ^ i) := by
  induction n generalizing x i with
  | zero => simp [bytesOf] at h
  | succ n ih =>
    cases i with
    | zero => simp [bytesOf]
    | succ i =>
      simp only [bytesOf, List.getElem_cons_succ]
      rw [ih, Nat.div_div_eq_div_mul, Nat.pow_succ']

theorem State.homeBytes_mems (s : State) (pa : Nat) (bs : List Byte) :
    (s.homeBytes pa bs).mems = (Memory.setBytes s.mem pa bs, s.hostMem) := by
  unfold State.homeBytes
  dsimp only
  rw [State.cleanseRange_mems, mems_foldl fun _ _ => State.touchLine_mems ..]
  rfl

/-- A store of a crew with no open version writes its bytes at the home, but that of a discarded version to a RELEASED page. -/
theorem State.homeStore_mems {s : State} {c kind : Nat} (hopen : s.versionOpen c = false) (pa : Nat) (bs : List Byte) :
    (s.homeStore c kind pa bs).1.mems = if kind = 1 ∧ s.versionGone c = true then s.mems else (Memory.setBytes s.mem pa bs, s.hostMem) := by
  unfold State.homeStore
  simp only [hopen, Bool.false_eq_true, and_false, if_false]
  split
  · rfl
  · split
    · simp [State.homeBytes_mems]
    · split <;> simp [State.homeBytes_mems]

@[simp] theorem State.tsOf_putTs_same (s : State) (line : Nat) (h : LineTs) : (s.putTs line h).tsOf line = h := by
  simp [State.putTs, State.tsOf]

/-- A store to a RELEASED page gives its line the timestamp max(T, rts + 1). -/
theorem State.homeStore_tsOf {s : State} {c : Nat} (hopen : s.versionOpen c = false) (hgone : ¬s.versionGone c = true) (pa : Nat)
    (bs : List Byte) : (s.homeStore c 1 pa bs).1.tsOf (lineNo pa) =
      { wts := max (s.core c).time ((s.tsOf (lineNo pa)).rts + 1), rts := max (s.core c).time ((s.tsOf (lineNo pa)).rts + 1) } := by
  simp [State.homeStore, hopen, hgone]

/-- The event performs a store that may be performed, and the store then waits for its acknowledgement. -/
theorem homeStore_of_canPerform {s : State} {id : Nat} {r : Req} (hreq : s.req? id = some r) (hkind : r.kind = .store)
    (hplace : r.place = .mem) (hpage : r.pageKind ≠ 2) (hcan : s.canPerform r = true) :
    ∃ f, homeStore id s = ((s.homeStore r.core r.pageKind r.addr (bytesOf r.size r.data)).1.countMoved r.asid r.size).setReq r.id f := by
  unfold homeStore
  simp only [hreq, hkind, hplace, hpage, hcan, bne_self_eq_false, Bool.not_true, Bool.false_eq_true, if_false]
  exact ⟨_, rfl⟩

/-- Settles O54: the bytes of `Memory.setBytes`, at its address and elsewhere. -/
theorem storeWrites : Obligations.StoreWrites := by
  unfold Obligations.StoreWrites
  intro id s t r hreq hkind hplace hpage hcan hopen hok hstep
  obtain ⟨f, hperf⟩ := homeStore_of_canPerform hreq hkind hplace hpage hcan
  obtain rfl : homeStore id s = t := Host.Outcome.next.inj hstep
  have hmems : (homeStore id s).mems = (s.homeStore r.core r.pageKind r.addr (bytesOf r.size r.data)).1.mems := by simp [hperf]
  rw [State.homeStore_mems hopen] at hmems
  split
  · rw [if_pos ‹_›] at hmems
    exact Prod.ext_iff.mp hmems
  · rename_i hstands
    rw [if_neg hstands] at hmems
    obtain ⟨hmem, hhost⟩ := Prod.ext_iff.mp hmems
    change (homeStore id s).mem = Memory.setBytes s.mem r.addr (bytesOf r.size r.data) at hmem
    refine ⟨fun a ha => ?_, fun n hn => ?_, hhost, fun hrel => ?_⟩
    · rw [hmem, Memory.byte_setBytes_other _ _ _ (by simpa using ha)]
    · rw [hmem, Memory.byte_setBytes hok.1 _ _ (by simpa using hn), getElem_bytesOf]
    · rw [hperf, hrel]
      exact State.homeStore_tsOf hopen (fun hgone => hstands ⟨hrel, hgone⟩) ..

end Sys2Proof.Machine
end

section
/-! PROOFS. The copies and write-backs of a core (R216, R256, R257): what sending a line's dirty bytes back changes, for one line and
for every line of a list. -/

namespace Sys2Proof.Machine

theorem Tbl.mem_of_find {α : Type} {t : List (Nat × α)} {k : Nat} {x : α} (h : Tbl.find t k = some x) : (k, x) ∈ t := by
  induction t with
  | nil => cases h
  | cons e t ih =>
    obtain ⟨i, y⟩ := e
    rw [Tbl.find] at h
    split at h
    · obtain rfl := Option.some.inj h
      exact ‹i = k› ▸ List.mem_cons_self
    · exact List.mem_cons_of_mem _ (ih h)

/-- A table in order finds in its admitted entries what it finds, if that is admitted. -/
theorem Tbl.find_filter {α : Type} {t : List (Nat × α)} (ht : Tbl.wf t = true) (p : Nat × α → Bool) (k : Nat) :
    Tbl.find (t.filter p) k = (Tbl.find t k).filter (fun x => p (k, x)) := by
  induction t with
  | nil => rfl
  | cons e t ih =>
    obtain ⟨i, y⟩ := e
    have htail := ih (Tbl.wf_tail ht)
    by_cases hik : i = k
    · subst hik
      have hnone : Tbl.find t i = none := Tbl.find_none_of_lt (Tbl.wf_head_lt ht)
      cases hp : p (i, y) <;> simp [Tbl.find, hp, htail, hnone, Option.filter]
    · cases hp : p (i, y) <;> simp [Tbl.find, hp, htail, hik]

/-- What stands at a copy's key once its dirty bytes have been sent back. -/
def Copy.sentBack (drop : Bool) (x : Copy) : Option Copy := if drop then none else some { x with dirty := 0 }

theorem l1Key_true_inj {l m : Nat} : l1Key l true = l1Key m true ↔ l = m := by
  simp [l1Key]

theorem l1Key_false_ne_true (l m : Nat) : l1Key l false ≠ l1Key m true := by
  simp only [l1Key, Bool.false_eq_true, if_false, if_true]
  omega

theorem l1Key_div_two (l : Nat) (manual : Bool) : l1Key l manual / 2 = l := by
  cases manual <;> simp only [l1Key, Bool.false_eq_true, if_false, if_true] <;> omega

section SendBack
variable (s : State) (c line op : Nat) (drop : Bool)

theorem State.sendBack_of_none (hfind : Tbl.find (s.core c).l1 (l1Key line true) = none) : s.sendBack c line op drop = s := by
  simp [State.sendBack, hfind]

theorem State.sendBack_core {x : Copy} (hfind : Tbl.find (s.core c).l1 (l1Key line true) = some x) :
    (s.sendBack c line op drop).core c = { s.core c with
      l1 := if drop then Tbl.del (s.core c).l1 (l1Key line true) else Tbl.put (s.core c).l1 (l1Key line true) { x with dirty := 0 } } := by
  have hcore := s.core_modCore_same c fun k => { k with
    l1 := if drop then Tbl.del k.l1 (l1Key line true) else Tbl.put k.l1 (l1Key line true) { x with dirty := 0 } }
  unfold State.sendBack
  rw [hfind]
  dsimp only
  split
  · exact hcore
  · exact hcore

theorem State.sendBack_icache : ((s.sendBack c line op drop).core c).icache = (s.core c).icache := by
  cases hfind : Tbl.find (s.core c).l1 (l1Key line true) with
  | none => rw [s.sendBack_of_none c line op drop hfind]
  | some x => rw [s.sendBack_core c line op drop hfind]

theorem State.sendBack_wf (hwf : Tbl.wf (s.core c).l1 = true) : Tbl.wf ((s.sendBack c line op drop).core c).l1 = true := by
  cases hfind : Tbl.find (s.core c).l1 (l1Key line true) with
  | none => rwa [s.sendBack_of_none c line op drop hfind]
  | some x =>
    rw [s.sendBack_core c line op drop hfind]
    cases drop
    · exact Tbl.wf_put hwf ..
    · exact Tbl.wf_del hwf _

theorem State.sendBack_l1_same (hwf : Tbl.wf (s.core c).l1 = true) :
    Tbl.find ((s.sendBack c line op drop).core c).l1 (l1Key line true) =
      (Tbl.find (s.core c).l1 (l1Key line true)).bind (Copy.sentBack drop) := by
  cases hfind : Tbl.find (s.core c).l1 (l1Key line true) with
  | none => rw [s.sendBack_of_none c line op drop hfind, hfind, Option.bind_none]
  | some x =>
    rw [s.sendBack_core c line op drop hfind]
    cases drop <;> simp [Copy.sentBack, Tbl.find_del_same hwf]

theorem State.sendBack_l1_other {k : Nat} (hk : k ≠ l1Key line true) :
    Tbl.find ((s.sendBack c line op drop).core c).l1 k = Tbl.find (s.core c).l1 k := by
  cases hfind : Tbl.find (s.core c).l1 (l1Key line true) with
  | none => rw [s.sendBack_of_none c line op drop hfind]
  | some x =>
    rw [s.sendBack_core c line op drop hfind]
    cases drop
    · exact Tbl.find_put_other _ _ hk
    · exact Tbl.find_del_other _ hk

/-- The write-back that sending line `line` of core `c` makes. -/
def State.backOf (x : Copy) : WriteBack :=
  { id := s.nextId, op := op, uid := s.uidOf c, core := c, asid := (x.pages.headD (0, 0)).1, line := line, pages := x.pages, data := x.data
    mask := x.dirty, bad := x.bad &&& x.dirty, time := (s.core c).time, age := s.clock }

theorem State.sendBack_writeBacks {x : Copy} (hfind : Tbl.find (s.core c).l1 (l1Key line true) = some x) :
    (s.sendBack c line op drop).writeBacks = if x.dirty = 0 then s.writeBacks else s.writeBacks ++ [s.backOf c line op x] := by
  unfold State.sendBack
  rw [hfind]
  dsimp only
  split <;> rfl

theorem State.mem_sendBack_of_mem {w : WriteBack} (hw : w ∈ s.writeBacks) : w ∈ (s.sendBack c line op drop).writeBacks := by
  cases hfind : Tbl.find (s.core c).l1 (l1Key line true) with
  | none => rwa [s.sendBack_of_none c line op drop hfind]
  | some x =>
    rw [s.sendBack_writeBacks c line op drop hfind]
    split
    · exact hw
    · exact List.mem_append_left _ hw

theorem State.mem_of_mem_sendBack {w : WriteBack} (hw : w ∈ (s.sendBack c line op drop).writeBacks) :
    w ∈ s.writeBacks ∨ (w.core = c ∧ w.line = line ∧ w.op = op) := by
  cases hfind : Tbl.find (s.core c).l1 (l1Key line true) with
  | none => exact .inl (s.sendBack_of_none c line op drop hfind ▸ hw)
  | some x =>
    rw [s.sendBack_writeBacks c line op drop hfind] at hw
    split at hw
    · exact .inl hw
    · refine (List.mem_append.mp hw).imp_right fun hback => ?_
      obtain rfl := List.mem_singleton.mp hback
      exact ⟨rfl, rfl, rfl⟩

theorem State.exists_mem_sendBack {x : Copy} (hfind : Tbl.find (s.core c).l1 (l1Key line true) = some x) (hdirty : x.dirty ≠ 0) :
    ∃ w ∈ (s.sendBack c line op drop).writeBacks, w.core = c ∧ w.line = line ∧ w.mask = x.dirty ∧ w.data = x.data ∧ w.op = op := by
  refine ⟨s.backOf c line op x, ?_, rfl, rfl, rfl, rfl, rfl⟩
  rw [s.sendBack_writeBacks c line op drop hfind, if_neg hdirty]
  exact List.mem_append_right _ List.mem_cons_self

end SendBack

/-- Every line of a list is sent back. -/
def State.sendBacks (s : State) (c op : Nat) (drop : Bool) (lines : List Nat) : State :=
  lines.foldl (fun t l => t.sendBack c l op drop) s

theorem Copy.sentBack_bind_sentBack (drop : Bool) (x : Option Copy) :
    (x.bind (Copy.sentBack drop)).bind (Copy.sentBack drop) = x.bind (Copy.sentBack drop) := by
  cases x with
  | none => rfl
  | some x => cases drop <;> rfl

section SendBacks
variable (c op : Nat) (drop : Bool) (lines : List Nat)

theorem State.sendBacks_mems (s : State) : (s.sendBacks c op drop lines).mems = s.mems :=
  mems_foldl (fun _ _ => State.sendBack_mems ..) lines s

theorem State.sendBacks_icache (s : State) : ((s.sendBacks c op drop lines).core c).icache = (s.core c).icache := by
  induction lines generalizing s with
  | nil => rfl
  | cons l ls ih => exact (ih _).trans (s.sendBack_icache c l op drop)

theorem State.sendBacks_wf {s : State} (hwf : Tbl.wf (s.core c).l1 = true) :
    Tbl.wf ((s.sendBacks c op drop lines).core c).l1 = true := by
  induction lines generalizing s with
  | nil => exact hwf
  | cons l ls ih => exact ih (s.sendBack_wf c l op drop hwf)

theorem State.sendBacks_l1_other {k : Nat} (hk : ∀ l ∈ lines, k ≠ l1Key l true) (s : State) :
    Tbl.find ((s.sendBacks c op drop lines).core c).l1 k = Tbl.find (s.core c).l1 k := by
  induction lines generalizing s with
  | nil => rfl
  | cons l ls ih =>
    obtain ⟨hl, hls⟩ := List.forall_mem_cons.mp hk
    exact (ih hls _).trans (s.sendBack_l1_other c l op drop hl)

theorem State.sendBacks_l1_mem {l : Nat} (hl : l ∈ lines) {s : State} (hwf : Tbl.wf (s.core c).l1 = true) :
    Tbl.find ((s.sendBacks c op drop lines).core c).l1 (l1Key l true) =
      (Tbl.find (s.core c).l1 (l1Key l true)).bind (Copy.sentBack drop) := by
  induction lines generalizing s with
  | nil => cases hl
  | cons a ls ih =>
    have hwf' := s.sendBack_wf c a op drop hwf
    change Tbl.find (((s.sendBack c a op drop).sendBacks c op drop ls).core c).l1 (l1Key l true) = _
    by_cases hla : l = a
    · subst hla
      have hsame := s.sendBack_l1_same c l op drop hwf
      by_cases hls : l ∈ ls
      · rw [ih hls hwf', hsame, Copy.sentBack_bind_sentBack]
      · have hother : ∀ m ∈ ls, l1Key l true ≠ l1Key m true := fun m hm heq => hls (l1Key_true_inj.mp heq ▸ hm)
        rw [State.sendBacks_l1_other c op drop ls hother, hsame]
    · rw [ih ((List.mem_cons.mp hl).resolve_left hla) hwf', s.sendBack_l1_other c a op drop fun heq => hla (l1Key_true_inj.mp heq)]

theorem State.mem_sendBacks_of_mem {s : State} {w : WriteBack} (hw : w ∈ s.writeBacks) : w ∈ (s.sendBacks c op drop lines).writeBacks := by
  induction lines generalizing s with
  | nil => exact hw
  | cons l ls ih => exact ih (s.mem_sendBack_of_mem c l op drop hw)

theorem State.mem_of_mem_sendBacks {s : State} {w : WriteBack} (hw : w ∈ (s.sendBacks c op drop lines).writeBacks) :
    w ∈ s.writeBacks ∨ (w.core = c ∧ w.line ∈ lines ∧ w.op = op) := by
  induction lines generalizing s with
  | nil => exact .inl hw
  | cons l ls ih =>
    rcases ih hw with hold | ⟨hcore, hline, hop⟩
    · rcases s.mem_of_mem_sendBack c l op drop hold with hold | ⟨hcore, hline, hop⟩
      · exact .inl hold
      · exact .inr ⟨hcore, hline ▸ List.mem_cons_self, hop⟩
    · exact .inr ⟨hcore, List.mem_cons_of_mem _ hline, hop⟩

theorem State.exists_mem_sendBacks {l : Nat} (hl : l ∈ lines) {s : State} {x : Copy}
    (hfind : Tbl.find (s.core c).l1 (l1Key l true) = some x) (hdirty : x.dirty ≠ 0) :
    ∃ w ∈ (s.sendBacks c op drop lines).writeBacks, w.core = c ∧ w.line = l ∧ w.mask = x.dirty ∧ w.data = x.data ∧ w.op = op := by
  induction lines generalizing s with
  | nil => cases hl
  | cons a ls ih =>
    by_cases hla : l = a
    · subst hla
      obtain ⟨w, hw, hprops⟩ := s.exists_mem_sendBack c l op drop hfind hdirty
      exact ⟨w, State.mem_sendBacks_of_mem c op drop ls hw, hprops⟩
    · refine ih ((List.mem_cons.mp hl).resolve_left hla) ?_
      rw [s.sendBack_l1_other c a op drop fun heq => hla (l1Key_true_inj.mp heq), hfind]

end SendBacks

end Sys2Proof.Machine
end

section
/-! PROOFS. What a `wbr` or `invr` does when it is performed (R256, R257): its write-backs, and the copies and instruction lines
that it leaves. -/

namespace Sys2Proof.Machine

/-- The lines of the MANUAL copies that the ranges of a request cover. -/
def coveredLines (s : State) (r : Req) (rs : List (Nat × Nat × Nat)) : List Nat :=
  ((s.core r.core).l1.filter (fun e => e.2.manual && inRanges (rs.filter (fun e => e.2.2 == 2)) (e.1 / 2))).map (fun e => e.1 / 2)

theorem inRanges_of_mem_coveredLines {s : State} {r : Req} {rs : List (Nat × Nat × Nat)} {l : Nat} (hl : l ∈ coveredLines s r rs) :
    inRanges (rs.filter (fun e => e.2.2 == 2)) l = true := by
  obtain ⟨e, he, rfl⟩ := List.mem_map.mp hl
  exact (Bool.and_eq_true_iff.mp (List.mem_filter.mp he).2).2

theorem mem_coveredLines {s : State} {r : Req} {rs : List (Nat × Nat × Nat)} {l : Nat} {x : Copy}
    (hcover : inRanges (rs.filter (fun e => e.2.2 == 2)) l = true) (hfind : Tbl.find (s.core r.core).l1 (l1Key l true) = some x)
    (hmanual : x.manual = true) : l ∈ coveredLines s r rs := by
  refine List.mem_map.mpr ⟨(l1Key l true, x), List.mem_filter.mpr ⟨Tbl.mem_of_find hfind, ?_⟩, l1Key_div_two l true⟩
  simp [hmanual, l1Key_div_two, hcover]

section CacheOp
variable (s : State) (r : Req) (rs : List (Nat × Nat × Nat)) (drop : Bool)

/-- The state in which every covered MANUAL copy has been sent back. -/
def cacheSent : State := s.sendBacks r.core r.id drop (coveredLines s r rs)

theorem cacheOp1_mem : (cacheOp1 s r rs drop).mem = s.mem := by
  have hsent : (cacheSent s r rs drop).mem = s.mem := congrArg Prod.fst (State.sendBacks_mems ..)
  cases drop
  · exact hsent
  · exact hsent

theorem cacheOp1_writeBacks : (cacheOp1 s r rs drop).writeBacks = (cacheSent s r rs drop).writeBacks := by
  cases drop <;> rfl

theorem cacheOp1_core_of_keep : (cacheOp1 s r rs false).core r.core = (cacheSent s r rs false).core r.core := rfl

theorem cacheOp1_core_of_drop : (cacheOp1 s r rs true).core r.core =
    { (cacheSent s r rs true).core r.core with
      l1 := ((cacheSent s r rs true).core r.core).l1.filter
        (fun e => e.2.manual || !inRanges (rs.filter (fun e => e.2.2 == 1)) (e.1 / 2))
      icache := ((cacheSent s r rs true).core r.core).icache.filter
        (fun x => !(decide (x.line < r.va + r.size) && decide (r.va < x.line + 64))) } :=
  (cacheSent s r rs true).core_modCore_same r.core fun k => { k with
    l1 := k.l1.filter (fun e => e.2.manual || !inRanges (rs.filter (fun e => e.2.2 == 1)) (e.1 / 2))
    icache := k.icache.filter (fun x => !(decide (x.line < r.va + r.size) && decide (r.va < x.line + 64))) }

/-- An operation that drops keeps of a line's copies the MANUAL ones, and all where its ranges do not cover the line. -/
theorem cacheOp1_l1 (hwf : Tbl.wf (s.core r.core).l1 = true) (l : Nat) (manual : Bool) :
    Tbl.find ((cacheOp1 s r rs drop).core r.core).l1 (l1Key l manual) =
      if drop = true ∧ inRanges (rs.filter (fun e => e.2.2 == 1)) l = true then
        (Tbl.find ((cacheSent s r rs drop).core r.core).l1 (l1Key l manual)).filter (fun x => x.manual)
      else Tbl.find ((cacheSent s r rs drop).core r.core).l1 (l1Key l manual) := by
  cases drop with
  | false => simp [cacheOp1_core_of_keep]
  | true =>
    have hwf' : Tbl.wf ((cacheSent s r rs true).core r.core).l1 = true := State.sendBacks_wf _ _ _ _ hwf
    rw [cacheOp1_core_of_drop, Tbl.find_filter hwf']
    cases hcover : inRanges (rs.filter (fun e => e.2.2 == 1)) l with
    | true => simp [l1Key_div_two, hcover]
    | false => cases Tbl.find ((cacheSent s r rs true).core r.core).l1 (l1Key l manual) <;> simp [l1Key_div_two, hcover]

/-- A covered MANUAL copy is cleaned, or goes with an operation that drops. -/
theorem cacheOp1_l1_covered (hwf : Tbl.wf (s.core r.core).l1 = true) {l : Nat} {x : Copy}
    (hcover : inRanges (rs.filter (fun e => e.2.2 == 2)) l = true) (hfind : Tbl.find (s.core r.core).l1 (l1Key l true) = some x)
    (hmanual : x.manual = true) : Tbl.find ((cacheOp1 s r rs drop).core r.core).l1 (l1Key l true) = x.sentBack drop := by
  have hsent : Tbl.find ((cacheSent s r rs drop).core r.core).l1 (l1Key l true) = x.sentBack drop := by
    rw [cacheSent, State.sendBacks_l1_mem _ _ _ _ (mem_coveredLines hcover hfind hmanual) hwf, hfind, Option.bind_some]
  rw [cacheOp1_l1 s r rs drop hwf, hsent]
  cases drop <;> simp [Copy.sentBack]

theorem cacheSent_l1_uncovered {l : Nat} (hcover : inRanges (rs.filter (fun e => e.2.2 == 2)) l = false) :
    Tbl.find ((cacheSent s r rs drop).core r.core).l1 (l1Key l true) = Tbl.find (s.core r.core).l1 (l1Key l true) := by
  refine State.sendBacks_l1_other _ _ _ _ (fun m hm heq => ?_) s
  obtain rfl := l1Key_true_inj.mp heq
  exact Bool.false_ne_true (hcover.symm.trans (inRanges_of_mem_coveredLines hm))

theorem cacheSent_l1_released (l : Nat) :
    Tbl.find ((cacheSent s r rs drop).core r.core).l1 (l1Key l false) = Tbl.find (s.core r.core).l1 (l1Key l false) :=
  State.sendBacks_l1_other _ _ _ _ (fun m _ => l1Key_false_ne_true l m) s

theorem cacheOp1_icache_of_drop {x : ILine} (hx : x ∈ ((cacheOp1 s r rs true).core r.core).icache) :
    r.va + r.size ≤ x.line ∨ x.line + 64 ≤ r.va := by
  rw [cacheOp1_core_of_drop] at hx
  simpa using (List.mem_filter.mp hx).2

theorem cacheOp1_icache_of_keep : ((cacheOp1 s r rs false).core r.core).icache = (s.core r.core).icache :=
  State.sendBacks_icache ..

end CacheOp

end Sys2Proof.Machine
end

section
/-! PROOFS. A write-back at its home (R216): the bytes of its mask, and no others. -/

namespace Sys2Proof.Machine

theorem foldl_frame {α β : Type} (g : State → β) {f : State → α → State} (hf : ∀ s a, g (f s a) = g s) (l : List α) (s : State) :
    g (l.foldl f s) = g s := by
  induction l generalizing s with
  | nil => rfl
  | cons a l ih => exact (ih _).trans (hf s a)

/-- The bytes that a write-back brings, by address. -/
def WriteBack.cells (w : WriteBack) : List (Nat × Byte) :=
  ((List.range 128).filter (fun i => w.mask.getLsbD i)).map (fun i => (w.line * 128 + i, Bits.rd w.data i))

theorem WriteBack.mem_cells {w : WriteBack} {e : Nat × Byte} :
    e ∈ w.cells ↔ ∃ i, i < 128 ∧ w.mask.getLsbD i = true ∧ e = (w.line * 128 + i, Bits.rd w.data i) := by
  simp only [WriteBack.cells, List.mem_map, List.mem_filter, List.mem_range, and_assoc, @eq_comm _ e]

theorem WriteBack.nodup_cells (w : WriteBack) : (w.cells.map (·.1)).Nodup := by
  rw [WriteBack.cells, List.map_map]
  refine List.Nodup.map (fun i j hij => ?_) (List.nodup_range.filter _)
  exact Nat.add_left_cancel hij

theorem State.mergeBack_mems (s : State) (w : WriteBack) : (s.mergeBack w).mems = (Bits.wrs s.mem w.cells, s.hostMem) := by
  unfold State.mergeBack
  dsimp only
  rw [State.noteStrict_mems, mems_foldl fun _ _ => State.spoil_mems .., State.cleanse_mems]
  rfl

theorem State.mergeBack_writeBacks (s : State) (w : WriteBack) : (s.mergeBack w).writeBacks = s.writeBacks.filter (fun x => x.id != w.id) := by
  unfold State.mergeBack
  refine (foldl_frame State.writeBacks (f := fun (y : State) i => y.spoil (.mem (w.line * 4 + i))) (fun _ _ => rfl) _ _).trans ?_
  unfold State.cleanse
  split <;> rfl

/-- A merge changes exactly the bytes that the mask admits. -/
theorem State.byte_mergeBack {s : State} (hwf : Memory.wf s.mem = true) (w : WriteBack) (a : Nat) :
    Memory.byte (s.mergeBack w).mem a =
      if a / 128 = w.line ∧ w.mask.getLsbD (a % 128) = true then Bits.rd w.data (a % 128) else Memory.byte s.mem a := by
  have hmem : (s.mergeBack w).mem = Bits.wrs s.mem w.cells := congrArg Prod.fst (s.mergeBack_mems w)
  rw [Memory.byte, hmem]
  split
  · rename_i hin
    obtain ⟨hline, hmask⟩ := hin
    refine Bits.rd_wrs_of_mem (Bits.wf_tbl hwf) w.nodup_cells (WriteBack.mem_cells.mpr ⟨a % 128, Nat.mod_lt _ (by decide), hmask, ?_⟩)
    rw [← hline, Nat.div_add_mod']
  · rename_i hout
    refine Bits.rd_wrs_other _ _ fun e he heq => hout ?_
    obtain ⟨i, hi, hmask, rfl⟩ := WriteBack.mem_cells.mp he
    have hline : a / 128 = w.line := by omega
    have hbyte : a % 128 = i := by omega
    exact ⟨hline, hbyte.symm ▸ hmask⟩

end Sys2Proof.Machine
end

section
/-! PROOFS. The steps of the memory engine on a request that may be performed (R213 to R217, R252 to R262, R415). -/

namespace Sys2Proof.Machine

section Request
variable {s : State} {req : Nat} {r : Req} (hreq : s.req? req = some r)
include hreq

theorem execHomeLoad_of_load (hkind : r.kind = .load) (hplace : r.place = .mem) (hhits : s.hits r = false) :
    execHomeLoad req s = .next (s.bindGroup r).dropFences := by
  simp [execHomeLoad, homeLoad, hreq, hkind, hplace, hhits]

section Store
variable (hkind : r.kind = .store) (hcan : s.canPerform r = true) (hplace : r.place = .mem)
include hkind hcan hplace

theorem execHomeStore_of_home (hpage : r.pageKind ≠ 2) : execHomeStore req s = .next
    (let x := s.homeStore r.core r.pageKind r.addr (bytesOf r.size r.data)
     (x.1.countMoved r.asid r.size).setReq r.id (fun y =>
      { y with st := .unacked x.2 s.clock, data2 := Memory.read x.1.mem (lineNo r.addr * 128) 128 })) := by
  simp [execHomeStore, homeStore, hreq, hkind, hcan, hplace, hpage]

theorem execHomeStore_of_manual (hpage : r.pageKind = 2) : execHomeStore req s = .next
    (((s.manualStore r.core r.asid r.addr r.va (bytesOf r.size r.data)).dropReq r.id).dropFences) := by
  simp [execHomeStore, homeStore, hreq, hkind, hcan, hplace, hpage]

end Store

theorem execStoreAck_of_plain {wts at_ : Nat} (hst : r.st = .unacked wts at_) (hplain : r.pageKind ≠ 1 ∨ wts = 0) :
    execStoreAck req s = .next ((s.advance r.core wts).dropReq r.id).dropFences := by
  have hnot : ¬(r.pageKind = 1 ∧ wts ≠ 0) := by omega
  simp only [execStoreAck, storeAck, hreq, hst, if_neg hnot]

theorem execStoreAck_of_released {wts at_ : Nat} (hst : r.st = .unacked wts at_) (hrel : r.pageKind = 1 ∧ wts ≠ 0) :
    execStoreAck req s = .next (((s.advance r.core wts).dropReq r.id).refresh r.core (lineNo r.addr)
      (Memory.setBytes [] 0 (bytesOf 128 r.data2)) wts at_).dropFences := by
  simp only [execStoreAck, storeAck, hreq, hst, if_pos hrel]

theorem execAtomicPerform_of_mem {op : Nat} (hkind : r.kind = .atom op ∨ r.kind = .red op) (hcan : s.canPerform r = true)
    (hgood : (s.ownMerged r).poisoned r = false) (hplace : r.place = .mem) : execAtomicPerform req s = .next
      (let x := (s.noteMiss r).atomRead r
       ((match atomNew op r.ty x.2 r.data r.data2 with
        | some v => x.1.atomWrite r v
        | none => x.1).countMoved r.asid r.size).answer r x.2) := by
  rcases hkind with hkind | hkind <;>
    simp [execAtomicPerform, atomicPerform, atomicOp, hreq, hkind, hcan, hgood, hplace] <;> rfl

theorem execMcasLock_of_free {ents : List McasEnt} {locked : List Nat} {line : Nat} (hkind : r.kind = .mcas ents locked)
    (hwants : s.wantsLock r = some line) (hfree : Tbl.find s.locks line = none) (hturn : s.mayServe line r.id = true) :
    execMcasLock req s = .next
      (({ s with locks := Tbl.put s.locks line r.id }.setReq r.id (fun y => { y with kind := .mcas ents (locked ++ [line]) })).served
        line r.id) := by
  simp [execMcasLock, hreq, hkind, hwants, hfree, hturn]

theorem execMcasComplete_of_locked {ents : List McasEnt} {locked : List Nat} (hkind : r.kind = .mcas ents locked) (hwaits : r.waits = true)
    (hlocked : ∀ l ∈ mcasLines ents, l ∈ locked)
    (hgood : ∀ e ∈ ents, s.poisoned { r with kind := .load, place := .mem, addr := e.pa, size := 8 } = false) :
    execMcasComplete req s = .next
      (let s1 := ents.foldl (mcasSee r) s
       (((if mcasMask s 0 ents = 0 then ents.foldl (mcasWrite r) s1 else s1).unlock r.id).countMoved r.asid (8 * ents.length)).answer r
        (if mcasMask s 0 ents = 0 then 256 else mcasMask s 0 ents)) := by
  have hall : (mcasLines ents).all (fun l => locked.contains l) = true := by simpa using hlocked
  have hbad : ents.any (fun e => s.poisoned { r with kind := .load, place := .mem, addr := e.pa, size := 8 }) = false := by
    simpa using hgood
  simp only [execMcasComplete, mcasComplete, hreq, hkind, hwaits, hall, hbad, Bool.not_true, Bool.or_self, Bool.false_eq_true, if_false]

section CacheOp
variable {rs : List (Nat × Nat × Nat)}

theorem execCacheOpComplete_of_wbr (hkind : r.kind = .wbr rs) (hst : r.st = .waiting) (hcan : s.canPerform r = true) :
    execCacheOpComplete req s = .next (cacheOp1 s r rs false) := by
  simp [execCacheOpComplete, cacheOpComplete, hreq, hkind, hst, hcan]

theorem execCacheOpComplete_of_invr (hkind : r.kind = .invr rs) (hst : r.st = .waiting) (hcan : s.canPerform r = true) :
    execCacheOpComplete req s = .next (cacheOp1 s r rs true) := by
  simp [execCacheOpComplete, cacheOpComplete, hreq, hkind, hst, hcan]

theorem execCacheOpComplete_of_sent {n t : Nat} (hkind : r.kind = .wbr rs ∨ r.kind = .invr rs) (hst : r.st = .unacked n t)
    (hsent : ∀ w ∈ s.writeBacks, w.core = r.core → w.id < r.data → inRanges (rs.filter (fun e => e.2.2 == 2)) w.line = false) :
    execCacheOpComplete req s = .next (s.dropReq r.id).dropFences := by
  have hclosed : s.rangeOpen r rs = false := by
    simp only [State.rangeOpen, List.any_eq_false, Bool.and_eq_true, beq_iff_eq, decide_eq_true_eq, not_and]
    exact fun w hw hwc => by simp [hsent w hw hwc.1 hwc.2]
  rcases hkind with hkind | hkind
  · simp [execCacheOpComplete, cacheOpComplete, hreq, hkind, hst, hclosed]
  · simp [execCacheOpComplete, cacheOpComplete, hreq, hkind, hst, hclosed]

end CacheOp

theorem execWatchArm_of_mem {ctr : Nat} (hkind : r.kind = .watch ctr) (hcan : s.canPerform r = true)
    (hgood : (s.ownMerged r).poisoned r = false) (hplace : r.place = .mem) (hpage : r.pageKind ≠ 2) : execWatchArm req s = .next
      (let word := ofBytes (overlay (s.versionBytes r.core) r.addr (Memory.bytes s.mem r.addr r.size))
       let s1 := s.dropReq r.id
       let x : Watch := { id := s1.nextId, uid := r.uid, line := lineNo r.addr, host := false, counter := ctr, fired := false }
       if word ≠ r.data ∨ s1.watchFull false (lineNo r.addr) = true then
         (s1.signal ctr 1 (s1.lineTime false (lineNo r.addr))).dropFences
       else ({ s1 with nextId := s1.nextId + 1, watches := s1.watches ++ [x] } : State).dropFences) := by
  have hown : s.ownMerged r = s := by simp [State.ownMerged, hpage]
  rw [hown] at hgood
  have hhost : (r.place == Place.host) = false := by rw [hplace]; rfl
  simp only [execWatchArm, watchArm, hreq, hkind, hown, hhost, hcan, hgood, Bool.false_and, Bool.not_true, Bool.false_eq_true, if_false]

section Host
variable (hplace : r.place = .host) (hports : s.fab.portsUp ≠ []) (htime : s.overdue r.lodged = false) (hcan : s.canPerform r = true)
include hplace hports htime hcan

theorem execHostAccessComplete_of_load (hkind : r.kind = .load) : execHostAccessComplete req s = .next (s.bindGroup r).dropFences := by
  simp [execHostAccessComplete, hostAccessComplete, hreq, hplace, hports, htime, hcan, hkind]

theorem execHostAccessComplete_of_store (hkind : r.kind = .store) : execHostAccessComplete req s = .next
    (((((({ s with hostMem := Memory.write s.hostMem r.addr r.size r.data } : State).touchLine true (lineNo r.addr)).strictBy true r.core
      r.addr).countMoved r.asid r.size).dropReq r.id).dropFences) := by
  simp [execHostAccessComplete, hostAccessComplete, hreq, hplace, hports, htime, hcan, hkind]

end Host

end Request

theorem execLeaseExpiry_of_l1 {s : State} {unit line : Nat} {x : Copy} (hfind : Tbl.find (s.core unit).l1 (l1Key line false) = some x)
    (hrel : x.manual = false) : execLeaseExpiry true unit line s = .next (if x.filled + 1024 ≤ s.clock then
      s.modCore unit (fun k => { k with l1 := Tbl.del k.l1 (l1Key line false) }) else s) := by
  simp [execLeaseExpiry, hfind, hrel]

theorem execLeaseExpiry_of_cluster {s : State} {unit line : Nat} {x : Copy} (hfind : Tbl.find (Tbl.getD s.clusters unit []) line = some x)
    (hrel : x.manual = false) : execLeaseExpiry false unit line s = .next (if x.filled + 1024 ≤ s.clock then
      { s with clusters := Tbl.mod s.clusters unit [] (fun y => Tbl.del y line) } else s) := by
  simp [execLeaseExpiry, hfind, hrel]

theorem execL1Eviction_of_closed {s : State} {core : Nat} (line : Nat) (hclosed : s.versionOpen core = false) :
    execL1Eviction core line s = .next
      ((s.modCore core (fun k => { k with l1 := Tbl.del k.l1 (l1Key line false) })).sendBack core line 0 true) := by
  have hstill : (s.modCore core (fun k => { k with l1 := Tbl.del k.l1 (l1Key line false) })).versionOpen core = false := by
    simpa [State.versionOpen, State.crew?] using hclosed
  simp only [execL1Eviction, hstill, Bool.and_false, Bool.false_eq_true, if_false]

theorem execManualWritebackMerge_of_turn {s : State} {wb : Nat} {w : WriteBack}
    (hfind : s.writeBacks.find? (fun w => w.id == wb) = some w) (hfree : Tbl.find s.locks w.line = none)
    (hfirst : ∀ x ∈ s.writeBacks, x.core = w.core → x.line = w.line → w.id ≤ x.id) (hturn : s.mayServe w.line w.id = true) :
    execManualWritebackMerge wb s = .next (s.mergeBack w) := by
  have hoverdue : s.writeBacks.any (fun x => x.core == w.core && x.line == w.line && decide (x.id < w.id)) = false := by
    simp only [List.any_eq_false, Bool.and_eq_true, beq_iff_eq, decide_eq_true_eq, not_and, Nat.not_lt, and_imp]
    exact hfirst
  simp [execManualWritebackMerge, hfind, hoverdue, hfree, hturn]

theorem execLoadComplete_of_out {s : State} {core wave op : Nat} {w : Wave} {o : OutOp} (hwave : s.wave? core wave = some w)
    (hout : w.outs.find? (fun o => o.id == op) = some o) : execLoadComplete core wave op s = .next
      ((((s.reqs.filter (fun r => r.op == op && r.core == core && (r.kind == .load || r.kind == .scale))).map (·.id)).foldl
        (fun (t : State) i =>
          match t.req? i with
          | some r => if t.hits r && r.waits then t.bindGroup r else t
          | none => t) s).writeOut core wave o).dropFences := by
  simp only [execLoadComplete, loadComplete, hwave, Option.bind_some, hout] <;> rfl

/-- What a performed `wbr` or `invr` leaves, copy by copy. -/
theorem cacheOp1_effect (s : State) (r : Req) (rs : List (Nat × Nat × Nat)) (drop : Bool) (hwf : Tbl.wf (s.core r.core).l1 = true) :
    let t := cacheOp1 s r rs drop
    let manual := fun l => inRanges (rs.filter (fun e => e.2.2 == 2)) l
    let released := fun l => inRanges (rs.filter (fun e => e.2.2 == 1)) l
    t.mem = s.mem
    ∧ (∀ l x, manual l = true → Tbl.find (s.core r.core).l1 (l1Key l true) = some x → x.manual = true →
      Tbl.find (t.core r.core).l1 (l1Key l true) = (if drop = true then none else some { x with dirty := 0 })
      ∧ (x.dirty ≠ 0 → ∃ w ∈ t.writeBacks, w.core = r.core ∧ w.line = l ∧ w.mask = x.dirty ∧ w.data = x.data ∧ w.op = r.id))
    ∧ (∀ l, manual l = false → Tbl.find (t.core r.core).l1 (l1Key l true) = if drop = true ∧ released l = true then
        (Tbl.find (s.core r.core).l1 (l1Key l true)).filter (fun x => x.manual) else Tbl.find (s.core r.core).l1 (l1Key l true))
    ∧ (∀ l x, Tbl.find (s.core r.core).l1 (l1Key l false) = some x → x.manual = false →
      Tbl.find (t.core r.core).l1 (l1Key l false) = if drop = true ∧ released l = true then none else some x)
    ∧ (∀ w ∈ t.writeBacks, w ∈ s.writeBacks ∨ (w.core = r.core ∧ manual w.line = true ∧ w.op = r.id))
    ∧ (drop = true → ∀ x ∈ (t.core r.core).icache, r.va + r.size ≤ x.line ∨ x.line + 64 ≤ r.va)
    ∧ (drop = false → (t.core r.core).icache = (s.core r.core).icache) := by
  intro t manual released
  refine ⟨cacheOp1_mem .., fun l x hcover hfind hmanual => ⟨cacheOp1_l1_covered s r rs drop hwf hcover hfind hmanual, fun hdirty => ?_⟩,
    fun l hcover => ?_, fun l x hfind hmanual => ?_, fun w hw => ?_, fun hdrop x hx => ?_, fun hdrop => ?_⟩
  · rw [cacheOp1_writeBacks]
    exact State.exists_mem_sendBacks _ _ _ _ (mem_coveredLines hcover hfind hmanual) hfind hdirty
  · rw [cacheOp1_l1 s r rs drop hwf, cacheSent_l1_uncovered s r rs drop hcover]
  · rw [cacheOp1_l1 s r rs drop hwf, cacheSent_l1_released, hfind]
    simp [Option.filter, hmanual, released]
  · rw [cacheOp1_writeBacks] at hw
    exact (State.mem_of_mem_sendBacks _ _ _ _ hw).imp_right fun ⟨hcore, hline, hop⟩ => ⟨hcore, inRanges_of_mem_coveredLines hline, hop⟩
  · subst hdrop
    exact cacheOp1_icache_of_drop s r rs hx
  · subst hdrop
    exact cacheOp1_icache_of_keep s r rs

/-- Settles O40: each clause is the step's own branch; what the copies and bytes become is stated for a list of lines and of bytes. -/
theorem memoryEvents : Obligations.MemoryEvents := by
  unfold Obligations.MemoryEvents
  refine ⟨fun req s r hreq hkind hplace hhits => execHomeLoad_of_load hreq hkind hplace hhits,
    fun req s r hreq hkind hcan => ⟨execHomeStore_of_home hreq hkind hcan, execHomeStore_of_manual hreq hkind hcan⟩,
    fun req wts t s r hreq hst => ⟨execStoreAck_of_plain hreq hst, execStoreAck_of_released hreq hst⟩,
    fun unit line s x hfind hrel => execLeaseExpiry_of_l1 hfind hrel,
    fun unit line s x hfind hrel => execLeaseExpiry_of_cluster hfind hrel,
    fun line s h hfind => ?leaves,
    fun core line s hclosed => execL1Eviction_of_closed line hclosed,
    fun wb s w hfind hfree hfirst hturn => ⟨execManualWritebackMerge_of_turn hfind hfree hfirst hturn,
      fun hwf => State.byte_mergeBack hwf w, congrArg Prod.snd (s.mergeBack_mems w), s.mergeBack_writeBacks w⟩,
    fun req op s r hreq hkind hcan hgood hplace => execAtomicPerform_of_mem hreq hkind hcan hgood hplace,
    fun req ents locked line s r hreq hkind hwants hfree hturn => execMcasLock_of_free hreq hkind hwants hfree hturn,
    fun req ents locked s r hreq hkind hwaits hlocked hgood => execMcasComplete_of_locked hreq hkind hwaits hlocked hgood,
    fun req rs s r hreq => ⟨execCacheOpComplete_of_wbr hreq, execCacheOpComplete_of_invr hreq,
      fun n t hkind hst hsent => execCacheOpComplete_of_sent hreq hkind hst hsent⟩,
    fun s t r rs drop ht hwf => ht ▸ cacheOp1_effect s r rs drop hwf,
    fun core wave op s w o hwave hout => execLoadComplete_of_out hwave hout,
    fun req ctr s r hreq hkind hcan hgood hplace hpage => execWatchArm_of_mem hreq hkind hcan hgood hplace hpage,
    fun watch s w hfind => ?fires, fun line s hports => ?snoop,
    fun req s r hreq hplace hports htime hcan => ⟨execHostAccessComplete_of_load hreq hplace hports htime hcan,
      execHostAccessComplete_of_store hreq hplace hports htime hcan⟩⟩
  case leaves => simp [exec, execLineLeavesSlice, State.leaveSlice, hfind]
  case fires => simp [exec, execWatchFire, hfind]
  case snoop => simp [exec, execHostSnoopInvalidation, hports]

end Sys2Proof.Machine
end

section
/-! PROOFS. The issue of a memory instruction (R237, R378, R434): it is not held where its translations are at hand, and where no lane
faults it sends what every passing lane's plan holds. -/

namespace Sys2Proof.Machine

/-- As `completesAt_of_body` for an instruction that may have to wait for walks, where it need not (R434). -/
theorem completesAt_of_bodyWhen {i : Instr} {h : Hdr} {ok : Ctx → State → Prop} {wait : Ctx → State → Option (List Nat)}
    {f body : Ctx → State → State} (hexec : ∀ s, exec i s = issueWhen i s wait body) (hwait : ∀ k t, ok k t → wait k t = none)
    (hbody : ∀ k t, ok k t → body k t = f k t) : CompletesAt i h ok f := by
  intro s cur x r hi hok
  rw [hexec, issueWhen_of_issues body hi (hwait _ _ hok), hbody _ _ hok]

/-! ## Translations at hand -/

theorem waitMisses_eq_none {accs : List Acc} (h : ∀ a ∈ accs, a.misses = []) : waitMisses accs = none := by
  have hnone : accs.flatMap Acc.misses = [] := List.flatMap_eq_nil_iff.mpr h
  simp [waitMisses, hnone]

theorem ldWait_eq_none {need len : Nat} {o : FmtM} {k : Ctx} {s : State}
    (h : ∀ l ∈ lanesOf k.pass, ∃ ps, k.acc s need (k.ea o l) len = .ok ps) : ldWait need len o k s = none := by
  refine waitMisses_eq_none (List.forall_mem_map.mpr fun l hl => ?_)
  obtain ⟨ps, hacc⟩ := h l hl
  rw [hacc]
  rfl

/-! ## Plans without a fault -/

section Plans
variable {k : Ctx} {f g : Nat → LanePlan} {rs : Nat → List Req}

theorem plansOf_congr (h : ∀ l ∈ lanesOf k.pass, f l = g l) : plansOf k f = (lanesOf k.pass).map (fun l => (l, g l)) :=
  List.map_congr_left fun l hl => by rw [h l hl]

/-- Where every plan holds requests, no cell met in part voids them (R75). -/
theorem noneIfPartial_of_ok (h : ∀ l ∈ lanesOf k.pass, ∃ rs, f l = .ok rs) : noneIfPartial (plansOf k f) = plansOf k f := by
  rw [noneIfPartial, if_neg]
  simp only [plansOf, List.any_map, List.any_eq_true, not_exists, not_and]
  intro l hl
  obtain ⟨rs, hrs⟩ := h l hl
  simp [hrs]

theorem planGood_of_ok (h : ∀ l ∈ lanesOf k.pass, f l = .ok (rs l)) :
    planGood (plansOf k f) = (lanesOf k.pass).map (fun l => (l, rs l)) := by
  rw [plansOf_congr h, planGood, List.filterMap_map]
  exact congrFun List.filterMap_eq_map _

/-- Plans without a fault leave no trap to take. -/
theorem planFaults_of_ok (h : ∀ l ∈ lanesOf k.pass, ∃ rs, f l = .ok rs) : planFaults (plansOf k f) = [] :=
  planFaults_eq_nil (List.forall_mem_map.mpr h)

/-- Where no lane faults, the lanes' requests are all that is sent. -/
theorem sendOthers_of_ok (h : ∀ l ∈ lanesOf k.pass, ∃ rs, f l = .ok rs) (s : State) :
    sendOthers k (plansOf k f) s = s.addReqs ((planGood (plansOf k f)).flatMap (·.2)) := by
  rw [sendOthers, planFaults_of_ok h, State.laneFaults_nil]

theorem sendOthers_of_reqs (h : ∀ l ∈ lanesOf k.pass, f l = .ok (rs l)) (s : State) :
    sendOthers k (plansOf k f) s = s.addReqs ((lanesOf k.pass).flatMap rs) := by
  rw [sendOthers_of_ok (fun l hl => ⟨rs l, h l hl⟩), planGood_of_ok h, List.flatMap_map]

theorem sendOthers_of_one {r : Nat → Req} (h : ∀ l ∈ lanesOf k.pass, f l = .ok [r l]) (s : State) :
    sendOthers k (plansOf k f) s = s.addReqs ((lanesOf k.pass).map r) := by
  rw [sendOthers_of_reqs h, List.map_eq_flatMap]

/-- A value-returning instruction sends the plans of its passing lanes, and nothing if there are none. -/
theorem sendLoads_congr (kind : OutKind) (acq ms : Bool) (addr : Nat → Nat) (s : State) (h : ∀ l ∈ lanesOf k.pass, f l = g l) :
    (if k.pass = 0 then s else sendLoads k kind acq ms addr (plansOf k f) s)
      = if k.pass = 0 then s else sendLoads k kind acq ms addr ((lanesOf k.pass).map (fun l => (l, g l))) s := by
  rw [plansOf_congr h]

end Plans

end Sys2Proof.Machine
end

section
/-! PROOFS. Loads and stores where they issue (R237 to R246). -/

namespace Sys2Proof.Machine

section Plain
variable {o : FmtM} {k : Ctx} {s : State} {l : Nat}

theorem ldPlan_of_ok (h : ∃ ps, k.acc s rightR (k.ea o l) (vecN o.mop * (o.ty.bits / 8)) = .ok ps
      ∧ s.physFault (s.tenantOfAsid k.asid) ps = none) :
    ldPlan o k s l = .ok ((List.range (vecN o.mop)).flatMap (fun i => elemReqs s (s.tenantOfAsid k.asid)
      { k.req .load l k.op with elem := i, ord := o.ord, scope := o.scope.toNat, ty := o.ty }
      (k.acc s rightR (k.ea o l) (vecN o.mop * (o.ty.bits / 8))).pieces (k.ea o l + i * (o.ty.bits / 8)) (o.ty.bits / 8) 0)) := by
  obtain ⟨ps, hacc, hphys⟩ := h
  simp only [ldPlan, plainAcc_of_ok hacc, thenPhys, hphys, hacc, Acc.pieces]

theorem stPlan_of_ok (h : ∃ ps, k.acc s rightW (k.ea o l) (vecN o.mop * (o.ty.bits / 8)) = .ok ps
      ∧ ps.any Piece.partialCell = false ∧ s.physFault (s.tenantOfAsid k.asid) ps = none) :
    stPlan o k s l = .ok ((List.range (vecN o.mop)).flatMap (fun i => elemReqs s (s.tenantOfAsid k.asid)
      { k.req .store l k.op with elem := i, ord := o.ord, scope := o.scope.toNat, ty := o.ty }
      (k.acc s rightW (k.ea o l) (vecN o.mop * (o.ty.bits / 8))).pieces (k.ea o l + i * (o.ty.bits / 8)) (o.ty.bits / 8)
      (k.elem o.d o.ty i l))) := by
  obtain ⟨ps, hacc, hcells, hphys⟩ := h
  simp only [stPlan, plainAcc_of_ok hacc, hcells, thenPhys, hphys, hacc, Acc.pieces, Bool.false_eq_true, if_false]

end Plain

/-- A buffer access within its region, aligned to its whole size and in one bank, slice or row (R220, R246). -/
theorem bufPlan_of_inside {k : Ctx} {o : FmtM} (p : Place) (base : Nat) {limit unit l size : Nat} (f : Nat → List Req)
    (h : 0 ≤ k.bufAddr o l ∧ k.bufAddr o l + size ≤ (limit : Int) ∧ (k.bufAddr o l).toNat % size = 0
      ∧ (k.bufAddr o l).toNat / unit = ((k.bufAddr o l).toNat + size - 1) / unit) :
    bufPlan k o p base limit unit l size f =
      .ok ((f (base + (k.bufAddr o l).toNat)).map (fun r => { r with place := p, va := (k.bufAddr o l).toNat })) := by
  obtain ⟨hlow, hhigh, halign, hunit⟩ := h
  have hin : ¬(k.bufAddr o l < 0 ∨ (limit : Int) < k.bufAddr o l + size) := by omega
  rw [bufPlan]
  simp only [hin, if_false, halign, ne_eq, not_true_eq_false, false_or, hunit]

/-- Settles O21: no cell met in part voids the plans, and no plan faults. -/
theorem storeComplete : Obligations.StoreComplete := by
  unfold Obligations.StoreComplete
  refine fun h o => completesAt_of_bodyWhen (fun _ => rfl)
    (fun k t hok => ldWait_eq_none fun l hl => (hok l hl).imp fun _ => And.left) fun k t hok => ?_
  rw [stBody, noneIfPartial_of_ok fun l hl => ⟨_, stPlan_of_ok (hok l hl)⟩]
  exact sendOthers_of_reqs (fun l hl => stPlan_of_ok (hok l hl)) t

/-- Settles O22: the statement's condition is what `lde` waits for. -/
theorem decodeLoadComplete : Obligations.DecodeLoadComplete := by
  unfold Obligations.DecodeLoadComplete
  exact fun h o => completesAt_of_bodyWhen (fun _ => rfl) (fun k t hok => hok.1) fun k t hok => rfl

end Sys2Proof.Machine

namespace Sys2Proof

open Machine

/-- Settles O20: `ld` by its translated pieces, the buffer loads and `sta` by the region that holds each access. -/
theorem loadComplete : Obligations.LoadComplete := by
  unfold Obligations.LoadComplete
  refine ⟨fun h o => completesAt_of_bodyWhen (fun _ => rfl)
      (fun k t hok => ldWait_eq_none fun l hl => (hok l hl).imp fun _ => And.left)
      fun k t hok => sendLoads_congr _ _ _ _ t fun l hl => ldPlan_of_ok (hok l hl),
    fun h o => ⟨completesAt_of_body (fun _ => rfl) fun k t hok => sendLoads_congr _ _ _ _ t fun l hl => ?lda,
      completesAt_of_body (fun _ => rfl) fun k t hok => sendLoads_congr _ _ _ _ t fun l hl => ?ldw,
      completesAt_of_body (fun _ => rfl) fun k t hok => sendLoads_congr _ _ _ _ t fun l hl => ?ldc,
      completesAt_of_body (fun _ => rfl) fun k t hok => ?sta⟩⟩
  case lda | ldw => exact bufPlan_of_inside _ _ _ (hok l hl)
  case ldc =>
    refine (bufPlan_of_inside _ _ _ (hok l hl)).trans ?_
    simp [Function.comp_def]
  case sta => exact sendOthers_of_one (fun l hl => bufPlan_of_inside _ _ _ (hok l hl)) t

end Sys2Proof
end

section
/-! PROOFS. Atomics where they issue, and the values that they write (R247 to R252). -/

namespace Sys2Proof.Machine

/-- Settles O23: no cell met in part voids the plans of `atom` and `red`, and `mcas` sends what each lane's stage gives. -/
theorem atomicComplete : Obligations.AtomicComplete := by
  unfold Obligations.AtomicComplete
  refine ⟨⟨fun h o => completesAt_of_bodyWhen (fun _ => rfl) (fun k t hok => hok.1) fun k t ⟨_, hplans⟩ => ?atom,
      fun h o => completesAt_of_bodyWhen (fun _ => rfl) (fun k t hok => hok.1) fun k t ⟨_, hplans⟩ => ?red⟩,
    fun h o => completesAt_of_bodyWhen (fun _ => rfl) (fun k t hok => hok.1) fun k t _ => rfl⟩
  case atom =>
    simp only [atomBody]
    rw [noneIfPartial_of_ok hplans]
    rfl
  case red =>
    rw [redBody, noneIfPartial_of_ok hplans]
    exact sendOthers_of_ok hplans t

/-! ## Values (R248) -/

/-- Settles O24: by the code of the operation and, for the floating-point ones, whether the type is a pair, which acts by halves. -/
theorem atomicValues : Obligations.AtomicValues := by
  unfold Obligations.AtomicValues
  refine fun t old b exp => ⟨rfl, rfl, rfl, rfl, rfl, rfl, rfl, rfl, rfl, ?scalar, ?pair⟩
  case scalar =>
    rintro (rfl | rfl)
    all_goals exact ⟨rfl, rfl, rfl⟩
  case pair =>
    rintro f (⟨rfl, rfl⟩ | ⟨rfl, rfl⟩)
    all_goals exact ⟨rfl, rfl, rfl⟩

end Sys2Proof.Machine
end

section
/-! PROOFS. Fences, cache operations, prefetches, pins and watches where they issue (R230, R255 to R261). -/

namespace Sys2Proof.Machine

/-! ## Cache operations (R256, R257) -/

section CacheOp
variable {o : FmtM} {need : Nat} {k : Ctx} {s : State}

/-- No range that a lane gives faults, at a page or at a MANUAL page's physical address (R256, R435). -/
def RangesOk (o : FmtM) (need : Nat) (k : Ctx) (s : State) : Prop :=
  ∀ l ∈ lanesOf k.pass, k.u32 o.b l = 0 ∨ ∃ ps, rangeAcc k s need (k.ea o l) (k.u32 o.b l) = (ps, none)
    ∧ s.physFault (s.tenantOfAsid k.asid) (ps.filter (fun p => leafKind p.leaf == 2)) = none

/-- The operation on the range of lane l; a range of no bytes gives none. -/
def cacheReq (o : FmtM) (need : Nat) (mk : List (Nat × Nat × Nat) → ReqKind) (k : Ctx) (s : State) (l : Nat) : Option Req :=
  let ps := (rangeAcc k s need (k.ea o l) (k.u32 o.b l)).1
  if k.u32 o.b l = 0 then none
  else some { k.req (mk (ps.map (fun p => (p.pa, p.len, leafKind p.leaf)))) l k.op with
    va := k.ea o l, size := (ps.map (·.len)).foldl (fun x y => x + y) 0 }

theorem cacheOp_of_ok (mk : List (Nat × Nat × Nat) → ReqKind) (h : RangesOk o need k s) :
    cacheOp o need mk k s = s.addReqs (((lanesOf k.pass).filterMap (cacheReq o need mk k s)).filter (fun r => r.size != 0)) := by
  have hrange : ∀ l ∈ lanesOf k.pass, k.u32 o.b l ≠ 0 → (rangeAcc k s need (k.ea o l) (k.u32 o.b l)).2 = none
      ∧ s.physFault (s.tenantOfAsid k.asid) ((rangeAcc k s need (k.ea o l) (k.u32 o.b l)).1.filter (fun p => leafKind p.leaf == 2))
        = none := fun l hl hlen => by
    obtain ⟨ps, hacc, hphys⟩ := (h l hl).resolve_left hlen
    rw [hacc]
    exact ⟨rfl, hphys⟩
  unfold cacheOp
  dsimp only
  rw [List.filterMap_filterMap, List.map_filterMap]
  refine (congrArg (State.laneFaults _ k) ?faults).trans ((State.laneFaults_nil ..).trans
    (congrArg (fun rs : List Req => s.addReqs (rs.filter (fun r => r.size != 0))) ?reqs))
  case faults =>
    refine List.filterMap_eq_nil_iff.mpr fun l hl => ?_
    by_cases hlen : k.u32 o.b l = 0
    · simp [hlen]
    · simp [hlen, hrange l hl hlen]
  case reqs =>
    refine List.filterMap_congr fun l hl => ?_
    by_cases hlen : k.u32 o.b l = 0
    · simp [cacheReq, hlen]
    · simp [cacheReq, hlen, hrange l hl hlen]

end CacheOp

/-! ## Prefetches (R259) -/

theorem prefOne_of_hit {o : FmtM} {k : Ctx} {s : State} {l pa : Nat} {leaf : DWord} (hin : outside (k.ea o l) 1 = false)
    (hhit : s.xlateNow k.core k.asid (k.ea o l) = .hit leaf pa) (hread : leafGrants leaf rightR = true) (hhbm : leafHost leaf = false)
    (hadmit : s.admits (s.tenantOfAsid k.asid) pa 1 = true) :
    prefOne o k s l = if leafKind leaf = 0 ∨ (leafKind leaf = 2 ∧ o.mop ≠ 0) then []
      else [{ k.req (.pref (o.mop == 0)) l k.op with pageKind := leafKind leaf, addr := pa, va := k.ea o l }] := by
  simp [prefOne, hin, hhit, hread, hhbm, hadmit]

/-! ## Instruction lines and pins (R259, R260) -/

theorem Core.mem_putILine (k : Core) (x : ILine) : x ∈ (k.putILine x).icache := by simp [Core.putILine]

theorem Core.pins_putILine (k : Core) (x : ILine) : (k.putILine x).pins = k.pins := rfl

theorem State.pins_modCore (s : State) (c d : Nat) {f : Core → Core} (hf : ∀ k, (f k).pins = k.pins) :
    ((s.modCore c f).core d).pins = (s.core d).pins := by
  rw [State.core_modCore]
  split_ifs with hc
  · rw [hf, hc]
  · rfl

theorem State.pins_missTlb (s : State) (c asid va d : Nat) : ((s.missTlb c asid va).core d).pins = (s.core d).pins := by
  unfold State.missTlb
  split
  · rfl
  · exact s.pins_modCore c d fun _ => rfl

theorem State.pins_fillTlb (s : State) (c asid va d : Nat) : ((s.fillTlb c asid va).core d).pins = (s.core d).pins := by
  unfold State.fillTlb
  split
  · exact s.pins_modCore c d fun _ => rfl
  · rfl

/-- A fetch that meets no cause puts the line into the instruction cache. -/
theorem State.fetchLine_ok {s t : State} {c asid line : Nat} (h : s.fetchLine c asid line = .ok t) :
    ∃ leaf pa, s.xlateNow c asid line = .hit leaf pa ∧ t = ((s.missTlb c asid line).fillTlb c asid line).modCore c (fun k =>
      k.putILine { asid := asid, line := line, bits := s.fetchBits c pa, bad := false }) := by
  unfold State.fetchLine at h
  split at h
  · cases h
  · cases h
  · rename_i leaf pa hhit
    split_ifs at h
    exact ⟨leaf, pa, hhit, (Except.ok.inj h).symm⟩

theorem State.mem_icache_of_fetchLine {s t : State} {c asid line pa : Nat} {leaf : DWord}
    (hhit : s.xlateNow c asid line = .hit leaf pa) (h : s.fetchLine c asid line = .ok t) :
    { asid := asid, line := line, bits := s.fetchBits c pa, bad := false } ∈ (t.core c).icache := by
  obtain ⟨leaf', pa', hhit', rfl⟩ := State.fetchLine_ok h
  obtain ⟨rfl, rfl⟩ := Tr.hit.inj (hhit.symm.trans hhit')
  rw [State.core_modCore_same]
  exact Core.mem_putILine ..

theorem State.pins_fetchLine {s t : State} {c asid line : Nat} (h : s.fetchLine c asid line = .ok t) (d : Nat) :
    (t.core d).pins = (s.core d).pins := by
  obtain ⟨leaf, pa, -, rfl⟩ := State.fetchLine_ok h
  exact (State.pins_modCore _ c d (Core.pins_putILine · _)).trans ((State.pins_fillTlb ..).trans (State.pins_missTlb ..))

/-- A line of a process is pinned, unless it is already or 512 pins stand (R260). -/
def Core.pin (c : Core) (asid a : Nat) : Core :=
  if c.pins.contains (asid, a) || decide (512 ≤ c.pins.length) then c else { c with pins := c.pins ++ [(asid, a)] }

theorem Core.pins_isPrefix_pin (c : Core) (asid a : Nat) : c.pins <+: (c.pin asid a).pins := by
  unfold Core.pin
  split_ifs
  · exact List.prefix_rfl
  · exact List.prefix_append ..

theorem Core.pin_pins (c : Core) (asid a : Nat) : (asid, a) ∈ (c.pin asid a).pins ∨ 512 ≤ (c.pin asid a).pins.length := by
  unfold Core.pin
  split_ifs with hstands
  · simpa using hstands
  · simp

/-- An `ipin` that no fault ends has fetched its first line and pinned it, and goes on with the others. -/
theorem ipinLines_cons_none {k : Ctx} {a : Nat} {ls : List Nat} {s t : State} (h : ipinLines k (a :: ls) s = (t, none)) :
    ∃ u, s.fetchLine k.core k.asid a = .ok u ∧ ipinLines k ls (u.modCore k.core (fun c => c.pin k.asid a)) = (t, none) := by
  unfold ipinLines at h
  split at h
  · cases h
  · split at h
    · cases h
    · exact ⟨_, ‹_›, h⟩

theorem pins_isPrefix_ipinLines {k : Ctx} {ls : List Nat} {s t : State} (h : ipinLines k ls s = (t, none)) :
    (s.core k.core).pins <+: (t.core k.core).pins := by
  induction ls generalizing s with
  | nil =>
    obtain ⟨rfl, -⟩ := Prod.mk.inj h
    exact List.prefix_rfl
  | cons a ls ih =>
    obtain ⟨u, hfetch, hrest⟩ := ipinLines_cons_none h
    have hpin := Core.pins_isPrefix_pin (u.core k.core) k.asid a
    have hpins := ih hrest
    rw [State.core_modCore_same] at hpins
    rw [← State.pins_fetchLine hfetch]
    exact hpin.trans hpins

/-- R260: a line that an `ipin` has passed is pinned or 512 pins stand, and further lines take no pin away. -/
theorem pinned_of_ipinLines {k : Ctx} {ls : List Nat} {s t : State} (h : ipinLines k ls s = (t, none)) :
    ∀ a ∈ ls, (k.asid, a) ∈ (t.core k.core).pins ∨ 512 ≤ (t.core k.core).pins.length := by
  induction ls generalizing s with
  | nil => exact List.forall_mem_nil _
  | cons a ls ih =>
    obtain ⟨u, hfetch, hrest⟩ := ipinLines_cons_none h
    have hpins := pins_isPrefix_ipinLines hrest
    rw [State.core_modCore_same] at hpins
    exact List.forall_mem_cons.mpr ⟨(Core.pin_pins ..).imp (hpins.subset ·) (·.trans hpins.length_le), ih hrest⟩

/-- Settles O25: ranges without a fault are sent whole, and the pins of an `ipin` by induction on its lines. -/
theorem fenceCacheComplete : Obligations.FenceCacheComplete := by
  unfold Obligations.FenceCacheComplete
  refine ⟨⟨fun h o => completes_of_body (fun _ => rfl) fun k t => ?fence,
      fun h o => completesAt_of_bodyWhen (fun _ => rfl) (fun _ _ hok => hok.1) fun k t ⟨_, hranges⟩ => cacheOp_of_ok _ hranges,
      fun h o => completesAt_of_bodyWhen (fun _ => rfl) (fun _ _ hok => hok.1) fun k t ⟨_, hranges⟩ => cacheOp_of_ok _ hranges⟩,
    fun h o => completes_of_body (fun _ => rfl) fun _ _ => rfl,
    fun h o => completes_of_body (fun _ => rfl) fun _ _ => rfl,
    fun h o => completesAt_of_bodyWhen (fun _ => rfl) (fun _ _ hok => hok.1) fun _ _ _ => rfl,
    fun h o => completes_of_body (fun _ => rfl) fun _ _ => rfl,
    fun o k s l leaf pa => prefOne_of_hit,
    fun s t c asid line leaf pa => State.mem_icache_of_fetchLine,
    fun k ls s t => pinned_of_ipinLines,
    fun h o => completesAt_of_bodyWhen (fun _ => rfl) (fun _ _ hok => hok.1) fun k t ⟨_, hplans⟩ => sendOthers_of_ok hplans t⟩
  case fence =>
    simp only [Bool.or_eq_true, beq_iff_eq, decide_eq_true_eq]
    rfl

end Sys2Proof.Machine
end

section
/-! PROOFS. Crew barriers (R263 to R265): what an arrival and the completion of a phase make of a core's barriers, and what the `bar`
instructions do where they issue. -/

namespace Sys2Proof.Machine

/-! ## A phase (R265) -/

section Phase
variable (k : Core) (w b n late clock : Nat) (m : Lanes)

theorem Core.bar_barArrive_same : (k.barArrive w b n late m).bar b = { k.bar b with
    cnt := if (k.bar b).cnt = 0 then BitVec.ofNat 16 n else (k.bar b).cnt
    arr := (k.bar b).arr + BitVec.ofNat 16 (laneCount m)
    open_ := (k.bar b).open_ + late } :=
  Tbl.getD_put_same ..

theorem Core.bar_barArrive_other {c : Nat} (hc : c ≠ b) : (k.barArrive w b n late m).bar c = k.bar c :=
  Tbl.getD_put_other _ _ _ hc

theorem Core.bar_barCheck_of_met (hmet : (k.bar b).met = true) :
    (k.barCheck b clock).bar b = { k.bar b with phase := (k.bar b).phase + 1, arr := 0, cnt := 0 } := by
  rw [Core.barCheck, if_pos hmet]
  exact Tbl.getD_put_same ..

theorem Core.barCheck_of_not_met (hmet : (k.bar b).met = false) : k.barCheck b clock = k := by
  simp [Core.barCheck, hmet]

theorem Core.bar_barCheck_other {c : Nat} (hc : c ≠ b) : (k.barCheck b clock).bar c = k.bar c := by
  cases hmet : (k.bar b).met
  · rw [Core.barCheck_of_not_met _ _ _ hmet]
  · rw [Core.barCheck, if_pos hmet]
    exact Tbl.getD_put_other _ _ _ hc

end Phase

theorem Barrier.met_iff (x : Barrier) : x.met = true ↔
    x.cnt ≠ 0 ∧ x.cnt.toNat ≤ x.arr.toNat + x.drop.toNat ∧ x.pb = 0 ∧ x.open_ = 0 := by
  simp [Barrier.met, and_assoc]

theorem Barrier.met_eq_false_iff (x : Barrier) : x.met = false ↔
    x.cnt = 0 ∨ x.arr.toNat + x.drop.toNat < x.cnt.toNat ∨ x.pb ≠ 0 ∨ x.open_ ≠ 0 := by
  rw [← Bool.not_eq_true, x.met_iff]
  simp only [not_and_or, not_not, not_le, ne_eq]

/-- Settles O28: an arrival and a completion put one entry in the table of barriers, and a phase that is not complete changes nothing. -/
theorem barrierPhase : Obligations.BarrierPhase := by
  unfold Obligations.BarrierPhase
  exact fun k w b n late clock m => ⟨k.bar_barArrive_same ..,
    fun hmet => k.bar_barCheck_of_met b clock ((Barrier.met_iff _).mpr hmet),
    fun hopen => k.barCheck_of_not_met b clock ((Barrier.met_eq_false_iff _).mpr hopen),
    fun _ hc => ⟨k.bar_barArrive_other _ _ _ _ _ hc, k.bar_barCheck_other _ _ hc⟩⟩

/-! ## The passing lanes and their counts (R265) -/

/-- The lowest passing lane is the first. -/
theorem Ctx.head?_lanesOf {k : Ctx} (hpass : k.pass ≠ 0) : (lanesOf k.pass).head? = some k.low := by
  obtain ⟨a, ls, hls⟩ := List.exists_cons_of_ne_nil (lanesOf_ne_nil hpass)
  simp [Ctx.low, lowestLane, hls]

theorem Ctx.low_mem {k : Ctx} (hpass : k.pass ≠ 0) : k.low ∈ lanesOf k.pass :=
  List.mem_of_head? (Ctx.head?_lanesOf hpass)

/-- The counts of the passing lanes lie outside 1 to 4,096, differ from each other, or differ from the count of the phase (R265). -/
def CountsClash (k : Ctx) (x : Barrier) (count : Nat → Nat) : Prop :=
  (∃ l ∈ lanesOf k.pass, count l = 0 ∨ 4096 < count l) ∨ (∃ l ∈ lanesOf k.pass, ∃ m ∈ lanesOf k.pass, count l ≠ count m)
    ∨ (x.cnt ≠ 0 ∧ ∃ l ∈ lanesOf k.pass, count l ≠ x.cnt.toNat)

/-- Comparing each count with that of the lowest passing lane, and this one with the phase's, finds every clash. -/
theorem countsClash_iff_low {k : Ctx} (hpass : k.pass ≠ 0) (x : Barrier) (count : Nat → Nat) : CountsClash k x count ↔
    (∃ l ∈ lanesOf k.pass, count l = 0 ∨ 4096 < count l) ∨ (∃ l ∈ lanesOf k.pass, count l ≠ count k.low)
      ∨ (x.cnt ≠ 0 ∧ count k.low ≠ x.cnt.toNat) := by
  have hlow := Ctx.low_mem hpass
  refine or_congr_right ⟨fun h => ?_, ?_⟩
  · by_cases hall : ∀ l ∈ lanesOf k.pass, count l = count k.low
    · rcases h with ⟨l, hl, m, hm, hne⟩ | ⟨hcnt, l, hl, hne⟩
      · exact absurd ((hall l hl).trans (hall m hm).symm) hne
      · exact .inr ⟨hcnt, hall l hl ▸ hne⟩
    · push Not at hall
      exact .inl hall
  · rintro (⟨l, hl, hne⟩ | ⟨hcnt, hne⟩)
    · exact .inl ⟨l, hl, k.low, hlow, hne⟩
    · exact .inr ⟨hcnt, k.low, hlow, hne⟩

/-- The counts of the passing lanes are one legal count, which is that of the phase if it has one (R265). -/
def CountsAgree (k : Ctx) (x : Barrier) (count : Nat → Nat) : Prop :=
  ∃ n, 1 ≤ n ∧ n ≤ 4096 ∧ (∀ l ∈ lanesOf k.pass, count l = n) ∧ (x.cnt = 0 ∨ x.cnt.toNat = n)

theorem CountsAgree.not_clash {k : Ctx} {x : Barrier} {count : Nat → Nat} (h : CountsAgree k x count) : ¬CountsClash k x count := by
  obtain ⟨n, hmin, hmax, hall, hcnt⟩ := h
  rintro (⟨l, hl, hrange⟩ | ⟨l, hl, m, hm, hne⟩ | ⟨hopen, l, hl, hne⟩)
  · have := hall l hl
    omega
  · exact hne ((hall l hl).trans (hall m hm).symm)
  · exact hne ((hall l hl).trans (hcnt.resolve_left hopen).symm)

/-- BARRIER_MISMATCH applies at a barrier that does not exist, and to an arrival whose counts clash (R265). -/
theorem barBad_iff {k : Ctx} (hpass : k.pass ≠ 0) (u : BarUse) (b : Nat) (x : Barrier) (count : Nat → Nat) :
    barBad u b x (if u.arrive then (lanesOf k.pass).map count else []) = true ↔
      15 < b ∨ (u.arrive = true ∧ CountsClash k x count) := by
  rw [countsClash_iff_low hpass]
  cases hu : u.arrive <;> simp [barBad, hu, Ctx.head?_lanesOf hpass, or_assoc]

/-! ## Arrivals and waits at their issue -/

/-- The passing lanes arrive at barrier b with count n, and the phase closes if it is complete (R227, R265). -/
def barArrival (k : Ctx) (b n : Nat) (s : State) : State :=
  let late := (lanesOf k.pass).flatMap (arriveReq b k s)
  ((s.addReqs late).modCore k.core (fun c => c.barArrive k.wave b n late.length k.pass)).barCheck k.core b

/-- The passing lanes with a pending arrival of the open phase wait at barrier b (R265). -/
def barAwait (k : Ctx) (b : Nat) (s : State) : State :=
  s.onWave k (fun y => y.barWait b ((s.core k.core).bar b).parity k.pass k.pc k.clock)

section Bar
variable {u : BarUse} {a : Opnd} {count : Ctx → Nat → Nat} {k : Ctx} {s : State}

/-- R265, R349: the whole split traps, and nothing else happens. -/
theorem barBody_of_mismatch (hpass : k.pass ≠ 0) (hbad : (15 < k.u32 a k.low ∨ k.x.taskQueue.isSome = true)
      ∨ (u.arrive = true ∧ CountsClash k ((s.core k.core).bar (k.u32 a k.low)) (count k))) :
    barBody u a count k s = s.takeTrap k.core k.wave k.lanes 0x40 0 k.pc 0 k.pc := by
  have htrap : (k.x.taskQueue.isSome || barBad u (k.u32 a k.low) ((s.core k.core).bar (k.u32 a k.low))
      (if u.arrive then (lanesOf k.pass).map (count k) else [])) = true := by
    rw [Bool.or_eq_true, barBad_iff hpass]
    tauto
  rw [barBody, if_neg hpass]
  exact if_pos htrap

/-- R265: what is no mismatch arrives with the count of its lowest passing lane, then waits. -/
theorem barBody_of_legal (hok : k.pass = 0 ∨ ((k.x.taskQueue = none ∧ k.u32 a k.low ≤ 15)
      ∧ (u.arrive = true → CountsAgree k ((s.core k.core).bar (k.u32 a k.low)) (count k)))) :
    barBody u a count k s = if k.pass = 0 then s
      else
        let t := if u.arrive then barArrival k (k.u32 a k.low) (count k k.low) s else s
        if u.wait then barAwait k (k.u32 a k.low) t else t := by
  by_cases hpass : k.pass = 0
  · simp [barBody, hpass]
  obtain ⟨⟨htask, hb⟩, hcounts⟩ := hok.resolve_left hpass
  have hgood : ¬(k.x.taskQueue.isSome || barBad u (k.u32 a k.low) ((s.core k.core).bar (k.u32 a k.low))
      (if u.arrive then (lanesOf k.pass).map (count k) else [])) = true := by
    rw [Bool.or_eq_true, barBad_iff hpass, htask]
    rintro (hsome | hout | ⟨harrive, hclash⟩)
    · simp at hsome
    · omega
    · exact (hcounts harrive).not_clash hclash
  rw [barBody, if_neg hpass, if_neg hpass]
  refine (if_neg hgood).trans ?_
  cases hu : u.arrive
  · rfl
  · simp [Ctx.head?_lanesOf hpass, barArrival, barAwait]

end Bar

/-- Settles O27: a mismatch traps, and otherwise each form is the arrival, the wait, or the one after the other. -/
theorem barrierComplete : Obligations.BarrierComplete := by
  unfold Obligations.BarrierComplete
  refine ⟨⟨?arrive, ?wait, ?sync, ?arriveImm, ?syncImm⟩,
    fun h o => ⟨?arriveBad, ?syncBad, ?waitBad⟩, fun h o => ⟨?arriveImmBad, ?syncImmBad⟩⟩
  case wait =>
    exact fun h o => completesAt_of_body (fun _ => rfl) fun k t hok =>
      barBody_of_legal (hok.imp_right fun hlegal => ⟨hlegal, nofun⟩)
  case arrive | sync | arriveImm | syncImm =>
    exact fun h o => completesAt_of_body (fun _ => rfl) fun k t hok =>
      barBody_of_legal (hok.imp_right fun ⟨hlegal, hagree⟩ => ⟨hlegal, fun _ => hagree⟩)
  case waitBad => exact completesAt_of_body (fun _ => rfl) fun k t ⟨hpass, hbad⟩ => barBody_of_mismatch hpass (.inl hbad)
  all_goals
    exact completesAt_of_body (fun _ => rfl) fun k t ⟨hpass, hbad⟩ =>
      barBody_of_mismatch hpass (hbad.imp_right fun hclash => ⟨rfl, hclash⟩)

end Sys2Proof.Machine
end

section
/-! PROOFS. Scratchpad queues where their instructions issue (R267 to R270, R324). -/

namespace Sys2Proof.Machine

section Queue
variable {o : FmtA} {k : Ctx} {s : State} {x : SqHead}

/-- With no passing lane a queue instruction does nothing. -/
theorem onQueue_of_none (hpass : k.pass = 0) (f : Nat → SqHead → State) : onQueue o k s f = s := if_pos hpass

theorem onQueue_of_head (hpass : k.pass ≠ 0) (hhead : s.sqHead k.core (k.u32 o.a k.low) = some x) (f : Nat → SqHead → State) :
    onQueue o k s f = f (k.u32 o.a k.low) x := by
  rw [onQueue, if_neg hpass]
  simp only [hhead]

theorem sqinitBody_of_legal (hq : k.u32 o.a k.low ≤ 31) (htask : k.x.taskQueue = none) (halign : k.u32 o.b k.low % 16 = 0)
    (hmin : 2 ≤ k.u32 o.c k.low) (hmax : k.u32 o.c k.low ≤ 1024) (hend : k.u32 o.b k.low + 16 + 8 * k.u32 o.c k.low ≤ k.x.abytes) :
    sqinitBody o k s = if k.pass = 0 then s
      else
        let z := k.x.abase + k.u32 o.b k.low
        let cap := k.u32 o.c k.low
        sendSq k ((lanesOf k.pass).map (sqReq k z (SqHead.word ⟨z, 0, 0, cap, cap⟩) false .rlx z 0 0))
          (s.modCore k.core (fun c => ({ c with squeues := Tbl.put c.squeues (k.u32 o.a k.low) z } : Core).sqWake
            (k.u32 o.a k.low) k.clock (fun _ => true))) := by
  have hlegal : ¬(31 < k.u32 o.a k.low ∨ k.x.taskQueue.isSome = true) := by simp [htask, hq]
  have hcap : ¬(k.u32 o.c k.low < 2 ∨ 1024 < k.u32 o.c k.low) := by omega
  rw [sqinitBody]
  simp only [hlegal, halign, hcap, Nat.not_lt.mpr hend, ne_eq, not_true_eq_false, if_false]

/-- R268: a push without room or credit waits for its queue. -/
theorem sqpushBody_of_full (hpass : k.pass ≠ 0) (hhead : s.sqHead k.core (k.u32 o.a k.low) = some x)
    (hcap : (lanesOf k.pass).length ≤ x.cap)
    (hfull : x.cap < x.used + (lanesOf k.pass).length ∨ x.allow < (lanesOf k.pass).length) :
    sqpushBody o k s = suspendReplay k (.squeue (k.u32 o.a k.low) (s.sqView k.core x.at_)) s :=
  (onQueue_of_head hpass hhead _).trans ((if_neg hcap.not_gt).trans (if_pos hfull))

/-- R269: a pop without enough entries waits for its queue. -/
theorem sqpopBody_of_short (free : Bool) (hpass : k.pass ≠ 0) (hhead : s.sqHead k.core (k.u32 o.a k.low) = some x)
    (hcap : (lanesOf k.pass).length ≤ x.cap) (hshort : x.used < (lanesOf k.pass).length) :
    sqpopBody free o k s = suspendReplay k (.squeue (k.u32 o.a k.low) (s.sqView k.core x.at_)) s :=
  (onQueue_of_head hpass hhead _).trans ((if_neg hcap.not_gt).trans (if_pos hshort))

end Queue

/-- Settles O29: each instruction makes its checks in turn on the header that stands, and the first that applies decides. -/
theorem queueComplete : Obligations.QueueComplete := by
  unfold Obligations.QueueComplete
  refine ⟨fun h o => completesAt_of_body (fun _ => rfl) fun k t ⟨hq, htask, halign, hmin, hmax, hend⟩ =>
      sqinitBody_of_legal hq htask halign hmin hmax hend,
    fun h o x => completesAt_of_body (fun _ => rfl) fun k t ⟨⟨hpass, hhead, hcap⟩, hroom, hcredit, hslots⟩ => ?push,
    fun h o x => completesAt_of_body (fun _ => rfl) fun k t ⟨hpass, hhead⟩ => onQueue_of_head hpass hhead _,
    fun h o x => completesAt_of_body (fun _ => rfl) fun k t ⟨⟨hpass, hhead, hcap⟩, hused, hslots⟩ => ?pop,
    fun h o x => completesAt_of_body (fun _ => rfl) fun k t ⟨⟨hpass, hhead, hcap⟩, hused, hslots⟩ => ?popFree,
    fun h o => ?none,
    fun h o x => completesAt_of_body (fun _ => rfl) fun k t ⟨⟨hpass, hhead, hcap⟩, hfull⟩ =>
      sqpushBody_of_full hpass hhead hcap hfull,
    fun h o x => ?short⟩
  case push =>
    have hgo : ¬(x.cap < x.used + (lanesOf k.pass).length ∨ x.allow < (lanesOf k.pass).length) := by omega
    exact (onQueue_of_head hpass hhead _).trans
      ((if_neg hcap.not_gt).trans ((if_neg hgo).trans (if_neg (Bool.eq_false_iff.mp hslots))))
  case pop | popFree =>
    exact (onQueue_of_head hpass hhead _).trans
      ((if_neg hcap.not_gt).trans ((if_neg hused.not_gt).trans (if_neg (Bool.eq_false_iff.mp hslots))))
  case none =>
    simp only [List.forall_mem_cons]
    refine ⟨completesAt_of_body (fun _ => rfl) fun k t hpass => if_pos hpass, ?_, ?_, ?_, ?_, List.forall_mem_nil _⟩
    all_goals exact completesAt_of_body (fun _ => rfl) fun k t hpass => onQueue_of_none hpass _
  case short =>
    simp only [List.forall_mem_cons]
    refine ⟨?_, ?_, List.forall_mem_nil _⟩
    all_goals
      exact completesAt_of_body (fun _ => rfl) fun k t ⟨⟨hpass, hhead, hcap⟩, hshort⟩ =>
        sqpopBody_of_short _ hpass hhead hcap hshort

end Sys2Proof.Machine
end

section
/-! PROOFS. The copy, batch, guard and pointer instructions where they issue (R265, R275 to R294, R322, R349). -/

namespace Sys2Proof.Machine

/-! ## Instructions of the elected lane (R276) -/

/-- An instruction issued once for the split acts where its elected lane passes. -/
theorem Ctx.ite_not_electedOk {α : Type} (k : Ctx) (a b : α) :
    (if (!k.electedOk) = true then a else b) = if k.pass.getLsbD (lowestLane k.lanes) = false then a else b := by
  simp [Ctx.electedOk, Ctx.elected]

/-- Settles O30: each instruction puts the command of its elected lane, whose row and stride fields the operation selects. -/
theorem copyCommandComplete : Obligations.CopyComplete := by
  unfold Obligations.CopyComplete
  refine ⟨fun h o => ?_, fun h o => ?_, fun h o => ?_, fun h o => ?_, fun h o => ?_⟩
  all_goals exact completes_of_body (fun _ => rfl) fun k t => k.ite_not_electedOk ..

/-! ## Batches and deferred arrivals (R284, R285) -/

section Arrival
variable {o : FmtA} {k : Ctx} {s : State}

theorem carrBody_of_none (hpass : k.pass = 0) : carrBody o k s = s := if_pos hpass

/-- R265, R349: the whole split traps, and no arrival is deferred. -/
theorem carrBody_of_mismatch (hpass : k.pass ≠ 0) (hbad : k.x.taskQueue.isSome = true ∨ 15 < k.u32 o.a k.low
      ∨ CountsClash k ((s.core k.core).bar (k.u32 o.a k.low)) (fun l => k.u32 o.c l)) :
    carrBody o k s = s.takeTrap k.core k.wave k.lanes 0x40 0 k.pc 0 k.pc := by
  have htrap : (k.x.taskQueue.isSome || barBad useArrive (k.u32 o.a k.low) ((s.core k.core).bar (k.u32 o.a k.low))
      ((lanesOf k.pass).map (fun l => k.u32 o.c l))) = true := by
    rw [Bool.or_eq_true]
    exact hbad.imp_right fun h => (barBad_iff hpass useArrive ..).mpr (h.imp_right fun hclash => ⟨rfl, hclash⟩)
  exact (if_neg hpass).trans (if_pos htrap)

/-- R285: the count is latched, and ARR is left to the arrival of each passing lane. -/
theorem carrBody_of_legal {n : Nat} (hpass : k.pass ≠ 0) (htask : k.x.taskQueue = none) (hb : k.u32 o.a k.low ≤ 15)
    (hmin : 1 ≤ n) (hmax : n ≤ 4096) (hall : ∀ l ∈ lanesOf k.pass, k.u32 o.c l = n)
    (hphase : ((s.core k.core).bar (k.u32 o.a k.low)).cnt = 0 ∨ ((s.core k.core).bar (k.u32 o.a k.low)).cnt.toNat = n) :
    carrBody o k s = s.modCore k.core (fun c =>
      let b := k.u32 o.a k.low
      let d := c.barArrive k.wave b n 0 k.pass
      { d with
        bars := Tbl.put d.bars b { d.bar b with arr := (c.bar b).arr },
        carrs := d.carrs ++ (lanesOf k.pass).map (fun l =>
          { id := k.op, wave := k.wave, lane := l, bar := b, cmds := c.batchOf k.wave l (k.u32 o.b k.low) }) }) := by
  have hagree : CountsAgree k ((s.core k.core).bar (k.u32 o.a k.low)) (fun l => k.u32 o.c l) := ⟨n, hmin, hmax, hall, hphase⟩
  have hgood : ¬(k.x.taskQueue.isSome || barBad useArrive (k.u32 o.a k.low) ((s.core k.core).bar (k.u32 o.a k.low))
      ((lanesOf k.pass).map (fun l => k.u32 o.c l))) = true := by
    rw [htask]
    intro hbad
    rcases (barBad_iff hpass useArrive ..).mp hbad with hout | ⟨-, hclash⟩
    · omega
    · exact hagree.not_clash hclash
  have hcount : ((lanesOf k.pass).map (fun l => k.u32 o.c l)).headD 0 = n := by
    simp [Ctx.head?_lanesOf hpass, hall _ (Ctx.low_mem hpass)]
  subst hcount
  exact (if_neg hpass).trans (if_neg hgood)

end Arrival

/-- Settles O31: `seal` asks whether any guard is open, `carr` whether the counts clash, and `cinit` is the elected lane's. -/
theorem sealArrivalComplete : Obligations.SealArrivalComplete := by
  unfold Obligations.SealArrivalComplete
  refine ⟨fun h o => completes_of_body (fun _ => rfl) fun k t => ?batch,
    fun h o n => completesAt_of_body (fun _ => rfl) fun k t ⟨hpass, htask, hb, hmin, hmax, hall, hphase⟩ =>
      carrBody_of_legal hpass htask hb hmin hmax hall hphase,
    fun h o => completesAt_of_body (fun _ => rfl) fun k t ⟨hpass, hbad⟩ => carrBody_of_mismatch hpass hbad,
    fun h o => completesAt_of_body (fun _ => rfl) fun k t hpass => carrBody_of_none hpass,
    fun h o => completes_of_body (fun _ => rfl) fun k t => k.ite_not_electedOk ..⟩
  case batch => simp only [sealBody, List.any_eq_true, Option.isNone_iff_eq_none]

/-! ## Guards and pointers (R290 to R294, R322) -/

/-- Settles O32: a guard write is the elected lane's, and `cptr` and `mtile` are token writes of what they read. -/
theorem guardPointerComplete : Obligations.GuardPointerComplete := by
  unfold Obligations.GuardPointerComplete
  refine ⟨⟨fun h o => ?_, fun h o => ?_, fun h o => ?_, fun h o => ?_⟩, fun h o => ?_, fun h o => ?_, fun h o => ?_, fun h o => ?_⟩
  iterate 4 exact completes_of_body (fun _ => rfl) fun k t => k.ite_not_electedOk ..
  all_goals exact completes_of_body (fun _ => rfl) fun _ _ => rfl

end Sys2Proof.Machine
end

section
/-! PROOFS. The steps of the copy engine on a command that may act (R272, R280 to R293). -/

namespace Sys2Proof.Machine

/-! ## Acceptance and start (R280, R283) -/

section Accept
variable {core cmd : Nat} {s : State} {x : CopyCmd} (hfind : Tbl.find (s.core core).cmds cmd = some x)
include hfind

/-- R280: a command whose turn it is takes its stream positions; a halted channel, or a stream without bytes, completes it. -/
theorem copyAccept_of_turn (hnew : x.accepted = false) (hage : x.age < s.clock)
    (hturn : ∀ e ∈ (s.core core).cmds, acceptsBefore e.2 x = false) :
    copyAccept core cmd s =
      (let ch := (s.core core).chan x.chan
       let y := { x with accepted := true, start := ch.iptr }
       let t := (s.settle core).modCore core (fun k => (({ k with cmds := Tbl.put k.cmds cmd y } : Core).putChan x.chan
          { (k.chan x.chan) with queue := ch.queue ++ [cmd], iptr := ch.iptr + x.total }).resolveAll)
       if ch.halt = true then t.failCmd core y 0x43 0 0 none else if x.total = 0 then t.endCmd core y else t) := by
  have hfirst : (s.core core).cmds.any (fun e => acceptsBefore e.2 x) = false := by simpa using hturn
  have hgo : (x.accepted || decide (s.clock ≤ x.age) || (s.core core).cmds.any (fun e => acceptsBefore e.2 x)) = false := by
    simp [hnew, hage, hfirst]
  simp only [copyAccept, hfind, hgo, Bool.false_eq_true, if_false]

theorem execCopyGuardResolve_of_found : execCopyGuardResolve core cmd s = .next (s.settle core) := by
  simp [execCopyGuardResolve, hfind]

end Accept

section Start
variable {core chan i : Nat} {s : State} {x : CopyCmd} (hnext : ((s.settle core).core core).nextCmd chan = some i)
  (hfind : Tbl.find ((s.settle core).core core).cmds i = some x)
include hnext hfind

/-- R290: a command that its guard refuses ends at the head of its channel, without a start. -/
theorem copyStart_of_refused (hguard : x.resolved = some false)
    (hhead : (((s.settle core).core core).chan chan).queue.head? = some i) :
    copyStart core chan s = (s.settle core).endCmd core x := by
  simp [copyStart, hnext, hfind, hguard, hhead]

/-- R283: a command that may start is checked, with its row list read. -/
theorem copyStart_of_ready (hguard : x.resolved ≠ some false) (hopen : x.guard = none ∨ x.resolved.isSome = true)
    (hrest : (s.settle core).enginesRest core = false)
    (horder : (s.settle core).cmdOrdered core x.wave x.lane x.id x.after = true) :
    let t := s.settle core
    let y := { x with started := true, rows := (t.core core).rowList x }
    (∀ cause sec addr, t.copyBad core y = some (cause, sec, addr) → copyStart core chan s = t.failCmd core x cause sec addr none)
    ∧ (t.copyBad core y = none → copyStart core chan s = t.modCore core (fun k => k.setCmd i (fun _ => y))) := by
  have hresolved : (x.guard.isSome && x.resolved.isNone) = false := by
    rcases hopen with h | h <;> simp [h, Option.isNone_eq_false_iff]
  have hkeep : (x.resolved == some false) = false := by simpa using hguard
  refine ⟨fun cause sec addr hbad => ?_, fun hgood => ?_⟩
  · simp only [copyStart, hnext, hfind, hkeep, hrest, hresolved, horder, hbad, Bool.not_true, Bool.or_self, Bool.false_eq_true, if_false]
  · simp only [copyStart, hnext, hfind, hkeep, hrest, hresolved, horder, hgood, Bool.not_true, Bool.or_self, Bool.false_eq_true, if_false]

end Start

/-! ## Delivery (R281, R282) -/

/-- A core without an open version has none to commit. -/
theorem State.copyCommit_of_closed {s : State} {c : Nat} (x : CopyCmd) (hclosed : s.versionOpen c = false) : s.copyCommit c x = s := by
  simp [State.copyCommit, hclosed]

/-- No request queues at a line while no line is locked (R218). -/
theorem State.queueAt_of_unlocked {s : State} (hfree : s.locks = []) (line age agent num : Nat) : s.queueAt line age agent num = s := by
  simp [State.queueAt, hfree]

theorem State.copyQueue_of_unlocked {s : State} (c : Nat) (x : CopyCmd) (hfree : s.locks = []) (hports : s.fab.portsUp ≠ []) :
    s.copyQueue c x = s := by
  have hport : s.fab.portsUp.isEmpty = false := by simpa using hports
  simp only [State.copyQueue, hport, Bool.and_false, Bool.false_and, Bool.false_eq_true, if_false]
  exact List.foldl_fixed' (fun line => State.queueAt_of_unlocked hfree ..) _

/-- The run of one delivery: up to `deliverMost` bytes from the first that has not been delivered. -/
def copyMove (core bytes : Nat) (x : CopyCmd) (s : State) : State × Nat × BitVec 6 × Kept :=
  let stop := x.stopAt (min bytes deliverMost)
  copyRun core stop (stop - x.done) x.done x (s.copyCommit core x) x.flags

/-- What the engine notes of a run that has moved bytes: how far the command is, and WPTR (R281). -/
def copyMoved (core cmd : Nat) (x : CopyCmd) (r : State × Nat × BitVec 6 × Kept) : State :=
  ({ r.1 with lineQ := r.1.lineQ.filter (fun e => e.num != cmd) } : State).modCore core (fun k =>
    let k1 := (k.setCmd cmd (fun y => { y with done := r.2.1, flags := r.2.2.1, pages := r.2.2.2, lodged := none })).countEv 10
      (r.2.1 - x.done)
    k1.putChan x.chan { (k1.chan x.chan) with wptr := x.start + r.2.1 })

section Head
variable {core cmd : Nat} {s : State} {x : CopyCmd} (hhead : (s.core core).headCmd cmd = some x)
include hhead

section Deliver
variable {bytes : Nat} (hdone : x.done < x.total) (hrest : s.enginesRest core = false)
include hdone hrest

/-- R281, R287: the bytes moved are noted, cleanse the buffer that they were written to, and count on the barriers. -/
theorem copyDeliver_of_moved {n : Nat} (hn : (copyMove core bytes x s).2.1 - x.done = n) (hmoved : n ≠ 0) :
    copyDeliver core cmd bytes s =
      (let t := copyMoved core cmd x (copyMove core bytes x s)
       let u := if x.dsp = 0 then t else (x.dests core).foldl (fun (u : State) d =>
         u.cleanseRange d (if x.dsp = 1 then .abuf else .wbuf) ((x.dstRow (x.done / x.w)).toNat + x.done % x.w
           + (if x.dsp = 1 ∧ d = core then x.abase else 0)) n) t
       (u.countMoved x.asid n).countPb core x n) := by
  subst hn
  have hgo : ¬(x.total ≤ x.done ∨ s.enginesRest core = true) := by simp [hdone, hrest]
  simp only [copyDeliver, hhead, if_neg hgo]
  exact if_neg hmoved

/-- A delivery that can move no byte, and waits for no lock, version or port, changes nothing. -/
theorem copyDeliver_of_stuck (hn : (copyMove core bytes x s).2.1 - x.done = 0) (hfree : s.locks = [])
    (hclosed : s.versionOpen core = false) (hports : s.fab.portsUp ≠ []) : copyDeliver core cmd bytes s = s := by
  have hgo : ¬(x.total ≤ x.done ∨ s.enginesRest core = true) := by simp [hdone, hrest]
  have hqueue : (s.copyCommit core x).copyQueue core x = s := by
    rw [State.copyCommit_of_closed x hclosed, State.copyQueue_of_unlocked core x hfree hports]
  simp only [copyDeliver, hhead, if_neg hgo]
  exact (if_pos hn).trans hqueue

end Deliver

/-! ## Completion and halt (R272, R293) -/

theorem copyComplete_of_delivered (hdone : x.total ≤ x.done) : copyComplete core cmd s = s.endCmd core x := by
  simp only [copyComplete, hhead, if_pos hdone]

/-- R293: the channel halts at the byte that cannot be moved, and fails every other command that it holds. -/
theorem copyFaultHalt_of_fault {cause addr : Nat} (hdone : x.done < x.total)
    (hfault : s.copyOne core (s.reach core x x.done) x.done = .error (cause, addr)) :
    copyFaultHalt core cmd s =
      (let t := (s.modCore core (fun k => k.putChan x.chan { (k.chan x.chan) with halt := true, mcause := cause })).failCmd core x 0x42
          cause addr (some x.chan)
       ((t.core core).chan x.chan).queue.foldl (fun (u : State) i => match Tbl.find (u.core core).cmds i with
         | some y => u.failCmd core y 0x43 0 0 none
         | none => u) t) := by
  simp only [copyFaultHalt, hhead, if_neg hdone.not_ge, hfault] <;> rfl

end Head

/-! ## Arrivals on barriers (R285, R287) -/

theorem carrArrival_of_released {core wave lane : Nat} {s : State} {r : CarrOp}
    (hfind : (s.core core).carrs.find? (fun r => r.wave == wave && r.lane == lane
      && r.cmds.all (fun i => (Tbl.find (s.core core).cmds i).isNone)) = some r)
    (hreleased : s.releasedTo core wave lane r.id = true) (htraps : s.traps = []) :
    carrArrival core wave lane s = (s.modCore core (fun k => { k with
      carrs := k.carrs.filter (fun y => y != r),
      bars := Tbl.put k.bars r.bar { (k.bar r.bar) with arr := (k.bar r.bar).arr + 1 } })).barCheck core r.bar := by
  simp only [carrArrival, hfind, hreleased, htraps, List.find?_nil, Bool.not_true, Bool.false_eq_true, if_false]

theorem execCinitPerform_of_found {core op : Nat} {s : State} {x : CinitOp}
    (hfind : (s.core core).cinits.find? (fun x => x.id == op) = some x) :
    execCinitPerform core op s = .next ((s.modCore core (fun k => { k with cinits := k.cinits.filter (fun y => y.id != op) })).addPb core
      x.bar (sintOf 32 x.amount.toNat)) := by
  simp only [execCinitPerform, hfind]

end Sys2Proof.Machine
end

section
/-! PROOFS. The steps of the matrix engine on a command that may act (R301 to R313, R316). -/

namespace Sys2Proof.Machine

/-! ## Acceptance and guards (R304, R308) -/

/-- A command as it enters the queue: with its guard read in the state `t` whose guards are resolved. -/
def matQueued (core : Nat) (s t : State) (x : MatCmd) : MatCmd :=
  { x with st := .queued, at_ := s.clock, resolved := (t.core core).guardSays x.guard,
           after := x.guard.bind (fun g => Tbl.find (t.core core).guardBy g.1) }

/-- The guard of an entering command, or of one in the queue, is open. -/
def matGuardsOpen (core : Nat) (t : State) (y : MatCmd) : Bool :=
  y.guardOpen || ((t.core core).mats.filter (fun m => m.st != .issued)).any MatCmd.guardOpen

section Accept
variable {core cmd : Nat} {s : State} {x : MatCmd} (hfind : (s.core core).mat? cmd = some x)
include hfind

/-- R304, R309: a command whose turn it is enters the queue, but a posted one faults while a guard is open. -/
theorem matrixAccept_of_turn (hst : x.st = .issued) (hage : x.at_ < s.clock) (hcrew : s.preempted core = none)
    (hturn : ∀ y ∈ (s.core core).mats, matBefore y x = false) :
    matrixAccept core cmd s =
      (let t := s.settleMats core
       let y := matQueued core s t x
       if (x.posted && matGuardsOpen core t y) = true then
         (t.postTrap x.asid core x.wave x.lanes 0x45 0 x.pc 0 none none none x.id).endMat core y
       else (t.modCore core (fun k => { k with
         mats := k.mats.filter (fun m => m.st != .issued) ++ [y] ++ k.mats.filter (fun m => m.st == .issued && m.id != cmd) })).settleMats
           core) := by
  have hfirst : (s.core core).mats.any (fun y => matBefore y x) = false := by simpa using hturn
  have hgo : (x.st != .issued || (s.preempted core).isSome || decide (s.clock ≤ x.at_)
      || (s.core core).mats.any (fun y => matBefore y x)) = false := by simp [hst, hage, hcrew, hfirst]
  simp only [matrixAccept, hfind, hgo, Bool.false_eq_true, if_false]
  rfl

theorem execMatrixGuardResolve_of_found : execMatrixGuardResolve core cmd s = .next (s.settleMats core) := by
  simp [execMatrixGuardResolve, hfind]

end Accept

/-! ## The block read and the start (R301, R302, R306) -/

section Settled
variable {core cmd : Nat} {s : State} {m : MatCmd} (hfind : ((s.settleMats core).core core).mat? cmd = some m)
include hfind

/-- R301, R302: the block is read where nothing before the command still writes the A-buffer, and is checked as it is read. -/
theorem mmaBlockRead_of_ready {a : Nat} (hkind : m.kind = .mma a none) (hst : m.st = .queued)
    (hage : m.at_ + 4 ≤ (s.settleMats core).clock) (hreleased : (s.settleMats core).matReleased core m = true)
    (holder : ∀ x ∈ ((s.settleMats core).core core).olderMats m, (footprintOf x.kind).writesA = false) :
    mmaBlockRead core cmd s =
      (let t := s.settleMats core
       let bs := Memory.read (t.core core).abuf (m.abase + a) 64
       if a % 64 ≠ 0 then t.failMat core m 0x14 a
       else if m.abytes < a + 64 then t.failMat core m 0x1A a
       else if t.poisonAt core .abuf (m.abase + a) 64 = true then t.failMat core m 0x51 a
       else (blockBad m.abytes bs (t.svc.boot == .bringup)).elim
         (t.modCore core (fun k => k.setMat cmd (fun y => { y with kind := .mma a (some (blockOf bs)) })))
         (fun e => t.failMat core m e a)) := by
  have hnone : (((s.settleMats core).core core).olderMats m).any (fun x => (footprintOf x.kind).writesA) = false := by
    simpa using holder
  have hgo : (m.st != .queued || decide ((s.settleMats core).clock < m.at_ + 4) || !(s.settleMats core).matReleased core m
      || (((s.settleMats core).core core).olderMats m).any (fun x => (footprintOf x.kind).writesA)) = false := by
    simp [hst, hage, hreleased, hnone]
  simp only [mmaBlockRead, hfind, hkind, hgo, Bool.false_eq_true, if_false]
  cases blockBad m.abytes (Memory.read ((s.settleMats core).core core).abuf (m.abase + a) 64)
    ((s.settleMats core).svc.boot == .bringup) <;> rfl

/-- R306: the oldest eligible command of a free unit is checked, and starts with what it will write. -/
theorem matrixStart_of_eligible (hel : (s.settleMats core).eligible core m = true)
    (hunit : ((s.settleMats core).core core).unitFree (s.settleMats core).clock m = true)
    (holder : ∀ x ∈ ((s.settleMats core).core core).olderMats m, x.kind.unit = m.kind.unit →
      (s.settleMats core).eligible core x = false) :
    matrixStart core cmd s =
      (let t := s.settleMats core
       (matBad m).elim
        (if t.matPoisoned core m = true then t.failMat core m 0x51 0
         else t.modCore core (fun k =>
          let o := matCompute (t.core core) m
          let k1 := k.setMat cmd (fun y => { y with st := .running (t.clock + matLatency m), tileOut := o.tiles, abufOut := o.abuf,
                                                     regOut := o.regs, flags := o.flags })
          if m.kind.unit = 0 then { k1 with arrayFree := t.clock + (matLatency m - 32) } else k1))
        (fun e => t.failMat core m e 0)) := by
  have hfirst : (((s.settleMats core).core core).olderMats m).any
      (fun x => x.kind.unit == m.kind.unit && (s.settleMats core).eligible core x) = false := by simpa using holder
  simp only [matrixStart, hfind, hel, hunit, hfirst, Bool.not_true, Bool.or_self, Bool.false_eq_true, if_false]
  cases matBad m <;> rfl

end Settled

/-! ## Completion (R307) -/

/-- Where no storage holds an uncorrectable error, a write clears none (R429). -/
theorem State.cleanse_of_sound {s : State} (hsound : s.poison = []) (c : Nat) (pl : Place) (hit : Nat → Bool) :
    s.cleanse c pl hit = s := by
  simp [State.cleanse, hsound]

/-- R307: a command that is due makes its writes and completes, with the registers that it writes if it has any. -/
theorem matrixComplete_of_due {core cmd due : Nat} {s : State} {m : MatCmd} (hfind : (s.core core).mat? cmd = some m)
    (hst : m.st = .running due) (hdue : due ≤ s.clock) (hsound : s.poison = []) :
    matrixComplete m.kind.unit core cmd s =
      (let u := (s.modCore core (fun k => { k with
          cbuf := Bits.wrs k.cbuf m.tileOut, abuf := Bits.wrs k.abuf m.abufOut })).modWave core m.wave (fun w => w.raise m.flags s.clock)
       if m.regOut = [] then u.endMat core m
       else (u.modWave core m.wave (fun w => { w with pend := w.pend ++ [{
           due := s.clock, early := s.clock, num := m.id, op := some m.id, isDiv := false, v := m.regOut, s := [], p := [], sp := [],
           fl := 0 }] })).modCore core (fun k => { k with mats := k.mats.filter (fun x => x.id != m.id) })) := by
  have hgo : ¬(m.kind.unit ≠ m.kind.unit ∨ s.clock < due) := by omega
  have hclean : ∀ (f : Core → Core) pl hit, (s.modCore core f).cleanse core pl hit = s.modCore core f :=
    fun f => State.cleanse_of_sound ((State.modCore_poison s core f).trans hsound) core
  simp only [matrixComplete, hfind, hst, if_neg hgo, hclean, List.isEmpty_iff]

end Sys2Proof.Machine
end

section
/-! PROOFS. The steps of the copy and matrix engines together. -/

namespace Sys2Proof.Machine

/-- Settles O41, by the rule of each step. -/
theorem engineEvents : Obligations.EngineEvents := by
  unfold Obligations.EngineEvents
  refine ⟨⟨fun core cmd s x hfind hnew hage hturn => congrArg Host.Outcome.next (copyAccept_of_turn hfind hnew hage hturn),
      fun core cmd s x => execCopyGuardResolve_of_found,
      fun core chan i s t x ht hnext hfind => ?start,
      fun core cmd bytes s x hhead hdone hrest => ?deliver,
      fun core cmd s x hhead hdone => congrArg Host.Outcome.next (copyComplete_of_delivered hhead hdone),
      fun core cmd cause addr s x hhead hdone hfault => congrArg Host.Outcome.next (copyFaultHalt_of_fault hhead hdone hfault),
      fun core wave lane s r hfind hreleased htraps => congrArg Host.Outcome.next (carrArrival_of_released hfind hreleased htraps),
      fun core op s x => execCinitPerform_of_found⟩,
    fun core cmd s t x ht hfind hst hage hcrew hturn => ?accept,
    fun core cmd s x => execMatrixGuardResolve_of_found,
    fun core cmd a s t m ht hfind hkind hst hage hreleased holder => ?block,
    fun core cmd s t m ht hfind hel hunit holder => ?matStart,
    fun core cmd due s m hfind hst hdue hsound => ?matDone⟩
  case start =>
    subst ht
    refine ⟨fun hguard hhead => congrArg Host.Outcome.next (copyStart_of_refused hnext hfind hguard hhead),
      fun hguard hopen hrest horder => ?_⟩
    obtain ⟨hbad, hgood⟩ := copyStart_of_ready hnext hfind hguard hopen hrest horder
    exact ⟨fun cause sec addr h => congrArg Host.Outcome.next (hbad cause sec addr h), fun h => congrArg Host.Outcome.next (hgood h)⟩
  case deliver =>
    refine ⟨fun hmoved hdsp => ?_, fun hmoved hdsp => ?_, fun hn hfree hclosed hports =>
      congrArg Host.Outcome.next (copyDeliver_of_stuck hhead hdone hrest hn hfree hclosed hports)⟩
    · refine congrArg Host.Outcome.next ((copyDeliver_of_moved hhead hdone hrest rfl hmoved).trans ?_)
      simp only [if_pos hdsp]
      rfl
    · refine congrArg Host.Outcome.next ((copyDeliver_of_moved hhead hdone hrest rfl hmoved).trans ?_)
      simp only [if_neg hdsp]
      rfl
  case accept =>
    subst ht
    have heq := matrixAccept_of_turn hfind hst hage hcrew hturn
    refine ⟨fun hposted hopen => congrArg Host.Outcome.next (heq.trans (if_pos ?_)),
      fun hok => congrArg Host.Outcome.next (heq.trans (if_neg ?_))⟩
    · exact (Bool.and_eq_true ..).mpr ⟨hposted, hopen⟩
    · exact Bool.eq_false_iff.mp ((Bool.and_eq_false_iff ..).mpr hok)
  case block =>
    subst ht
    have heq := mmaBlockRead_of_ready hfind hkind hst hage hreleased holder
    exact ⟨fun halign => congrArg Host.Outcome.next (heq.trans (if_pos halign)),
      fun halign hsize => congrArg Host.Outcome.next (heq.trans (by simp [halign, hsize])),
      fun halign hsize hbad => congrArg Host.Outcome.next (heq.trans (by simp [halign, hsize.not_gt, hbad])),
      fun halign hsize hsound => ⟨fun e hblock => congrArg Host.Outcome.next (heq.trans (by simp [halign, hsize.not_gt, hsound, hblock])),
        fun hblock => congrArg Host.Outcome.next (heq.trans (by simp [halign, hsize.not_gt, hsound, hblock]))⟩⟩
  case matStart =>
    subst ht
    have heq := matrixStart_of_eligible hfind hel hunit holder
    exact ⟨fun e hbad => congrArg Host.Outcome.next (heq.trans (by simp [hbad])),
      fun hgood hpoison => congrArg Host.Outcome.next (heq.trans (by simp [hgood, hpoison])),
      fun hgood hsound => congrArg Host.Outcome.next (heq.trans (by simp [hgood, hsound]))⟩
  case matDone =>
    have heq := matrixComplete_of_due hfind hst hdue hsound
    refine ⟨fun hunit => ?_, fun hunit => ?_, fun hunit => ?_⟩
    all_goals exact congrArg Host.Outcome.next (hunit ▸ heq)

end Sys2Proof.Machine
end

section
/-! PROOFS. The scalar of `mmap` where it issues (R44, R319). -/

namespace Sys2Proof.Machine

/-- The operands of `mmap.mul.f32 v0, 1, 1`: column 0 of the tile that v0 names, times the constant 1. -/
def mmapByOne : FmtX := { tX with b := .int 1, ty := .f32 }

/-- The scalar of the last command in the issue order of core 0, where that is an `mmap`. -/
def State.lastMmapScalar (s : State) : Option Word :=
  (s.core 0).mats.getLast?.bind fun m => match m.kind with
    | .mmap _ _ _ scalar _ _ => some scalar
    | _ => none

/-- The instruction is well-formed and issues on the small state. -/
theorem mmapByOne_issues : Instr.wellFormed (.mmap tH mmapByOne) = true
    ∧ issues (.mmap tH mmapByOne) tS tCur tW (rowMmap mmapByOne) tH = true := by decide +kernel

/-- R44: a constant takes the type of the operation, here FP32, whose 1 is not the integer 1. -/
theorem exec_mmapByOne : ∃ t, exec (.mmap tH mmapByOne) tS = .next t ∧ t.lastMmapScalar = some 0x3F800000 :=
  ⟨_, issue_of_issues _ mmapByOne_issues.2, by decide +kernel⟩

/-- Refutes O33: the statement reads the scalar b of `mmap` as a 32-bit integer, but R319 reads it as FP32 in every form except
`.causal`, and a constant in it is converted to that type (R44). The constant 1 of `mmap.mul.f32` is 0x3F800000, not 1. -/
theorem not_matrixComplete : ¬ Obligations.MatrixComplete := by
  unfold Obligations.MatrixComplete
  intro ⟨_, _, _, hmmap, _⟩
  obtain ⟨t, hexec, hscalar⟩ := exec_mmapByOne
  have hclaim := hmmap tH mmapByOne tS tCur tW _ mmapByOne_issues.2
  rw [Host.Outcome.next.inj (hexec.symm.trans hclaim)] at hscalar
  exact absurd hscalar (by decide +kernel)

end Sys2Proof.Machine
end

section
/-! PROOFS. Calls with a record where they issue (R324, R331, R334, R428): the record of each passing lane is at hand, so that no lane
waits or faults, and every passing lane makes its call. -/

namespace Sys2Proof.Machine

/-- The record at operand `b` of every passing lane can be reached: it translates, is aligned to 64 and exists (R334). -/
def RecordsGood (n : RecLen) (need : Nat) (b : Opnd) (k : Ctx) (s : State) : Prop :=
  ∀ l ∈ lanesOf k.pass, ∃ ps, k.acc s need (k.u64 b l) (n k s l) = .ok ps ∧ k.u64 b l % 64 = 0
    ∧ s.physFault (s.tenantOfAsid k.asid) ps = none

section Records
variable {n : RecLen} {need : Nat} {b : Opnd} {k : Ctx} {s : State} (hgood : RecordsGood n need b k s)
include hgood

theorem recWait_of_good : recWait n need b k s = none := by
  refine waitMisses_eq_none (List.forall_mem_map.mpr fun l hl => ?_)
  obtain ⟨ps, hacc, -, -⟩ := hgood l hl
  rw [recAcc, hacc]
  rfl

theorem recFaults_of_good : recFaults n need b k s = [] := by
  refine List.filterMap_eq_nil_iff.mpr fun l hl => ?_
  obtain ⟨ps, hacc, halign, hphys⟩ := hgood l hl
  simp [recAcc, hacc, halign, hphys, Acc.err, Acc.pieces, firstErr]

end Records

/-- What the issue of one call for each passing lane does, where no lane faults: the calls are sent and counted as event 11, and lanes
that may wait are SUSPENDED until the answer. -/
def sendLaneCalls (kind : CallOp) (o : FmtK) (args : Ctx → CallArgs) (susp : Bool) (k : Ctx) (s : State) : State :=
  let u := (s.addCalls ((lanesOf k.pass).map (fun l =>
    k.call (s.tenantOfAsid k.asid) kind o.d o.a o.b o.c (args k l) susp l (laneBit l)))).modCore k.core
      (fun c => c.countEv 11 (lanesOf k.pass).length)
  if susp = true ∧ k.pass ≠ 0 then u.onWave k (fun y => y.moveTo k.pass k.pc (.suspended (.call k.op)) k.clock) else u

/-- With no fault at issue the lanes that call are those that pass. -/
theorem callLanes_nil (k : Ctx) : callLanes k [] = lanesOf k.pass := by simp [callLanes]

/-- R331: where no lane faults every passing lane makes its call. -/
theorem laneCalls_of_noFaults {kind : CallOp} {o : FmtK} {args : Ctx → CallArgs} {susp : Bool}
    {faults : Ctx → State → List LaneFault} {k : Ctx} {s : State} (hkind : kind.isOrrery = true) (hfaults : faults k s = []) :
    laneCalls kind o args susp faults k s = sendLaneCalls kind o args susp k s := by
  have hall : ∀ (t : Nat) (ls : List Nat), (ls.map (fun l => k.call t kind o.d o.a o.b o.c (args k l) susp l (laneBit l))).filter
      (fun x => x.kind.isOrrery) = ls.map (fun l => k.call t kind o.d o.a o.b o.c (args k l) susp l (laneBit l)) := fun t ls =>
    List.filter_eq_self.mpr (List.forall_mem_map.mpr fun _ _ => hkind)
  have hlanes : lanesOf k.pass = [] → k.pass = 0 := fun hnil => by rw [← laneSet_lanesOf k.pass, hnil]; rfl
  have hmade : ((lanesOf k.pass).isEmpty && k.pass != 0) = false := by simpa using hlanes
  simp only [laneCalls, sendCalls, sendLaneCalls, hfaults, callLanes_nil, hall, laneSet_lanesOf, List.length_map, List.isEmpty_map,
    hmade, Bool.false_eq_true, if_false, State.laneFaults_nil, Bool.and_eq_true, bne_iff_ne]

/-- R334: a call with a record issues where every passing lane's record can be reached. -/
theorem completesAt_recordCall {i : Instr} {h : Hdr} {kind : CallOp} {susp : Bool} {n : RecLen} {need : Nat} {o : FmtK}
    {args : Ctx → CallArgs} (hkind : kind.isOrrery = true)
    (hexec : ∀ s, exec i s = issueWhen i s (recWait n need o.b) (recordCall kind susp n need o args)) :
    CompletesAt i h (RecordsGood n need o.b) (sendLaneCalls kind o args susp) :=
  completesAt_of_bodyWhen hexec (fun _ _ => recWait_of_good) fun _ _ hgood => laneCalls_of_noFaults hkind (recFaults_of_good hgood)

/-- R346: of the forms of `objnew` that of a queue alone has a record. -/
theorem completesAt_objnew (h : Hdr) (o : FmtK) : CompletesAt (.objnew h o) h
    (fun k s => o.sub = 5 ∧ o.c ≠ .int 0 → RecordsGood (fixedLen 64) rightR o.c k s)
    (sendLaneCalls (.objnew o.sub.toNat) o (args0RP o) false) := by
  have hreads : (o.sub = 5 ∧ (!isZeroCode o.c) = true) ↔ o.sub = 5 ∧ o.c ≠ .int 0 := by simp [isZeroCode]
  refine completesAt_of_bodyWhen (fun _ => rfl) (fun k t hgood => ?_) fun k t hgood => laneCalls_of_noFaults rfl ?_
  · simp only [newWait, hreads, ite_eq_right_iff]
    exact fun hrec => recWait_of_good (hgood hrec)
  · simp only [newFaults, hreads, ite_eq_right_iff]
    exact fun hrec => recFaults_of_good (hgood hrec)

/-- Settles O35: no lane waits or faults where every record can be reached, so each call is sent. -/
theorem recordCallComplete : Obligations.RecordCallComplete := by
  unfold Obligations.RecordCallComplete
  exact ⟨fun h o => completesAt_recordCall (kind := .psend (subBit o)) (n := fixedLen 64) (args := argsPP o) rfl fun _ => rfl,
    fun h o => completesAt_recordCall (kind := .precv (subBit o)) (n := fixedLen 64) (args := argsPP o) rfl fun _ => rfl,
    fun h o => completesAt_recordCall (kind := .qenq (subBit o)) (n := taskLen o.a) (args := argsPP o) rfl fun _ => rfl,
    fun h o => completesAt_recordCall (kind := .dcinit) (n := taskLen o.a) (args := argsPPR o) rfl fun _ => rfl,
    completesAt_objnew,
    fun h o => completesAt_recordCall (kind := .launch) (n := fixedLen 64) (args := argsPP o) rfl fun _ => rfl,
    fun h o => completesAt_recordCall (kind := .ctadmit) (n := fixedLen 64) (args := argsPP o) rfl fun _ => rfl⟩

end Sys2Proof.Machine
end

section
/-! PROOFS. A call of the Orrery or of Transit whose turn has come (R332, R333): the step performs it, each call by its own function. -/

namespace Sys2Proof.Machine

/-- The turn of call `x` has come: it is open, its thread's earlier accesses and calls have been performed, and no version of its crew is
open, which would commit first (R333, R383). -/
structure CallTurn (s : State) (x : Call) : Prop where
  found : s.calls.find? (fun y => y.id == x.id) = some x
  ready : s.callReady x = true
  closed : s.versionOpen x.core = false

/-- A call that is found under a number has that number. -/
theorem CallTurn.of_find {s : State} {x : Call} {id : Nat} (hfind : s.calls.find? (fun y => y.id == id) = some x)
    (hready : s.callReady x = true) (hclosed : s.versionOpen x.core = false) : x.id = id ∧ CallTurn s x := by
  have hid : x.id = id := by simpa using List.find?_some hfind
  exact ⟨hid, by rwa [hid], hready, hclosed⟩

/-- R333: a call of kind `k`, which is no `crest` under way, is performed by the function of its kind. -/
theorem CallTurn.next {s t : State} {x : Call} (turn : CallTurn s x) (f : Call → State → State) {k : CallOp} (hkind : x.kind = k)
    (h : f x s = t) (hcrest : k ≠ .crest := by nofun)
    (hf : ∀ (y : Call) (u : State), performCall { y with kind := k } u = f { y with kind := k } u := by intros; rfl) :
    exec (.objectCallPerform x.id) s = .next t := by
  have hperform : performCall x s = f x s := by
    subst hkind
    exact hf x s
  simp [exec, execObjectCallPerform, objectCallPerform, turn.found, turn.ready, turn.closed, hkind, hcrest, hperform, h]

end Sys2Proof.Machine
end

section
/-! PROOFS. What each call on an object of the Catalogue does as it is performed (R329, R336 to R350, R352, R353, R355): one equation for
each case of its function. -/

namespace Sys2Proof.Machine

/-- An access that can be made is made. The proof is no `rfl`: where a second access follows, the kernel would compare it with the first. -/
theorem CallAcc.bind_ok {α : Type} (s : State) (x : Call) (f : α → State) (y : α) : (CallAcc.ok y).bind s x f = f y := by
  simp only [CallAcc.bind]

/-! ## Creation (R329, R337, R342, R343, R345, R346) -/

section Create
variable {s t : State} {x : Call}

theorem State.replyNew_of_some {b : ObjBody} {u : State} {i : Nat} (h : s.newObj (dieOf x.core) x.asid b = some (u, i)) :
    s.replyNew x b = u.reply x 2 (u.handleAt i) := by
  simp only [State.replyNew, h]

/-- NOSLOT stands in the answer where no index is free. -/
theorem State.replyNew_of_none {b : ObjBody} (h : s.newObj (dieOf x.core) x.asid b = none) :
    s.replyNew x b = s.reply x 2 (failWord 8) := by
  simp only [State.replyNew, h, stNoSlot]

/-- R329: performing call `x` in state s makes an object in state t and answers with its handle, or with NOSLOT. -/
def Call.Creates (x : Call) (s t : State) (b : ObjBody) : Prop :=
  (∀ u i, t.newObj (dieOf x.core) x.asid b = some (u, i) →
    exec (.objectCallPerform x.id) s = .next (u.reply x 2 (u.handleAt i)))
  ∧ (t.newObj (dieOf x.core) x.asid b = none → exec (.objectCallPerform x.id) s = .next (t.reply x 2 (failWord 8)))

theorem CallTurn.creates (turn : CallTurn s x) (f : Call → State → State) {k : CallOp} {b : ObjBody} (hkind : x.kind = k)
    (h : f x s = t.replyNew x b) (hcrest : k ≠ .crest := by nofun)
    (hf : ∀ (y : Call) (u : State), performCall { y with kind := k } u = f { y with kind := k } u := by intros; rfl) :
    x.Creates s t b :=
  ⟨fun _ _ hnew => turn.next f hkind (h.trans (State.replyNew_of_some hnew)) hcrest hf,
    fun hnew => turn.next f hkind (h.trans (State.replyNew_of_none hnew)) hcrest hf⟩

theorem performObjnew_port (hc : x.noC = true) (hmin : 1 ≤ x.b.toNat % 2 ^ 32) (hmax : x.b.toNat % 2 ^ 32 ≤ 1024) :
    performObjnew 2 x s = s.replyNew x (.port (x.b.toNat % 2 ^ 32) [] 0) :=
  if_pos ⟨hmin, hmax, hc⟩

/-- R337: the capacity of a port has its limits. -/
theorem performObjnew_port_of_bad (hb : x.b.toNat % 2 ^ 32 = 0 ∨ 1024 < x.b.toNat % 2 ^ 32) :
    performObjnew 2 x s = s.failCall x 0x32 (x.b.toNat % 2 ^ 32) :=
  if_neg fun ⟨hmin, hmax, _⟩ => by omega

theorem performObjnew_waitset (hb : x.b.toNat % 2 ^ 32 = 0) (hc : x.noC = true) :
    performObjnew 3 x s = s.replyNew x (.waitset []) :=
  if_pos ⟨hb, hc⟩

theorem performObjnew_timer (hb : x.b.toNat % 2 ^ 32 = 0) (hc : x.noC = false) (hctr : s.counterFault x.asid x.c.toNat = none) :
    performObjnew 4 x s = s.replyNew x (.timer x.c.toNat 0 0 0 0) := by
  simp only [performObjnew, hb, hc, ne_eq, not_true_eq_false, Bool.false_eq_true, or_self, if_false, hctr]

theorem performObjnew_queue {r : List Byte} {q : TaskQ} {c : Nat} (hb : x.b.toNat % 2 ^ 32 = 0) (hc : x.noC = false)
    (hread : s.threadRead x x.c.toNat 64 = .ok (t, r)) (hdesc : queueDesc r = some (q, c))
    (hcontract : c = 0 ∨ t.contractFault x.asid c = none) (harena : t.arenaFault x q.arena ((q.cap + 8) * q.recsz) = .ok ()) :
    performObjnew 5 x s = t.replyNew x (.queue q) := by
  have hfault : (if c = 0 then none else t.contractFault x.asid c) = none := by
    rcases hcontract with hzero | hnone
    · exact if_pos hzero
    · rw [hnone, ite_self]
  simp only [performObjnew, hb, hc, ne_eq, not_true_eq_false, Bool.false_eq_true, or_self, if_false, hread, CallAcc.bind_ok, hdesc,
    hfault, harena]

theorem performObjnew_event (hb : x.b.toNat % 2 ^ 32 = 0) (hc : x.noC = true) : performObjnew 6 x s = s.replyNew x (.event 0) :=
  if_pos ⟨hb, hc⟩

end Create

/-! ## Waves (R336) -/

/-- The wave that `wcreate` makes at a clock: what its operands ask for, with what it takes from the calling wave; `i` and `gen` are the
index and the generation of its object, and `ctr` its exit counter. -/
def Call.madeWave (x : Call) (clock i gen ctr : Nat) : Wave :=
  { Wave.start x.asid (lowLanes (x.c.toNat % 64)) (x.b.setWidth 56) clock (x.c.toNat / 256 % 64 * 8) (x.c.toNat / 2 ^ 14 % 4) with
    s := Bits.wrs [] ((List.range 4).map (fun n => (n, x.maker.sregs.getD n 0))), argp := x.maker.argp, scalewin := x.maker.windows
    rt := x.maker.rt, crewNo := x.maker.crewNo, abase := x.maker.abase, abytes := x.maker.abytes, taskQueue := x.maker.queue
    exitCtr := ctr, waveObj := some (i, gen) }

section Wave
variable {s : State} {x : Call} (hlanes : 1 ≤ x.c.toNat % 64 ∧ x.c.toNat % 64 ≤ 32)
  (hquota : 1 ≤ x.c.toNat / 256 % 64 ∧ x.c.toNat / 256 % 64 ≤ 32) (hzero : x.c.toNat / 64 % 4 = 0 ∧ x.c.toNat / 2 ^ 16 = 0)
  (hctr : x.noA = true ∨ s.counterFault x.asid x.a.toNat = none)
include hlanes hquota hzero hctr

/-- The configuration keeps its limits, and the counter, where one is named, is one of the process. -/
theorem performWcreate_checks : ¬(fieldOf x.c.toNat 0 6 = 0 ∨ 32 < fieldOf x.c.toNat 0 6 ∨ fieldOf x.c.toNat 8 6 = 0
      ∨ 32 < fieldOf x.c.toNat 8 6 ∨ fieldOf x.c.toNat 6 2 ≠ 0 ∨ x.c.toNat / 2 ^ 16 ≠ 0)
    ∧ (if x.noA = true then none else s.counterFault x.asid x.a.toNat) = none := by
  refine ⟨?_, ?_⟩
  · simp only [fieldOf]
    omega
  · rcases hctr with hnone | hok
    · exact if_pos hnone
    · rw [hok, ite_self]

theorem performWcreate_of_badEntry {c : Nat} (hentry : (s.entryCheck x.core x.asid x.b.toNat).2 = some c) :
    performWcreate x s = (s.entryCheck x.core x.asid x.b.toNat).1.failCall x c x.b.toNat := by
  obtain ⟨hcfg, hcounter⟩ := performWcreate_checks hlanes hquota hzero hctr
  simp only [performWcreate, if_neg hcfg, hcounter, hentry]

theorem performWcreate_of_noWave (hentry : (s.entryCheck x.core x.asid x.b.toNat).2 = none)
    (hfree : ((s.entryCheck x.core x.asid x.b.toNat).1.core x.core).freeWaves (x.c.toNat / 256 % 64 * 8) = []) :
    performWcreate x s = (s.entryCheck x.core x.asid x.b.toNat).1.reply x 2 (failWord 8) := by
  obtain ⟨hcfg, hcounter⟩ := performWcreate_checks hlanes hquota hzero hctr
  have hhead : (((s.entryCheck x.core x.asid x.b.toNat).1.core x.core).freeWaves (fieldOf x.c.toNat 8 6 * 8)).head? = none :=
    congrArg List.head? hfree
  simp only [performWcreate, if_neg hcfg, hcounter, hentry, hhead, stNoSlot]

theorem performWcreate_of_free {w i ctr : Nat} {ws : List Nat} {u : State} (hcounter : ctr = if x.noA then 0 else x.a.toNat)
    (hentry : (s.entryCheck x.core x.asid x.b.toNat).2 = none)
    (hfree : ((s.entryCheck x.core x.asid x.b.toNat).1.core x.core).freeWaves (x.c.toNat / 256 % 64 * 8) = w :: ws)
    (hnew : (s.entryCheck x.core x.asid x.b.toNat).1.newObj (dieOf x.core) x.asid (.wave false ctr) = some (u, i)) :
    performWcreate x s = ((u.setWave x.core w
      (x.madeWave s.clock i (match Tbl.find u.objs i with | some o => o.gen | none => 0) ctr)).taskWaveMore
        x.maker.queue).reply x 2 (u.handleAt i) := by
  obtain ⟨hcfg, hnofault⟩ := performWcreate_checks hlanes hquota hzero hctr
  have hhead : (((s.entryCheck x.core x.asid x.b.toNat).1.core x.core).freeWaves (fieldOf x.c.toNat 8 6 * 8)).head? = some w :=
    congrArg List.head? hfree
  have hcount : fieldOf x.c.toNat 0 6 = x.c.toNat % 64 := by simp [fieldOf]
  subst hcounter
  simp only [performWcreate, if_neg hcfg, hnofault, hentry, hhead, hnew]
  rw [hcount]
  rfl

end Wave

end Sys2Proof.Machine
end

section
/-! PROOFS. Calls on the objects of the Catalogue as they are performed (R342 to R345, R347, R350, R352, R353, R355): one equation for each
case of a call's function. -/

namespace Sys2Proof.Machine

/-! ## The object that a call names (R328) -/

theorem onCounter_of_event {s : State} {x : Call} {o : Obj} {h v : Nat} (hown : s.owned x.asid h = some o) (hbody : o.body = .event v)
    (f : Nat → State) : onCounter x h s f = f v := by
  simp only [onCounter, hown, hbody]

section Object
variable {s : State} {x : Call} {o : Obj} (hown : s.owned x.asid x.a.toNat = some o)
include hown

theorem onWaitset_of_waitset {ms : Tbl (Nat × Nat)} (hbody : o.body = .waitset ms) (f : Tbl (Nat × Nat) → State) :
    onWaitset x s f = f ms := by
  simp only [onWaitset, hown, hbody]

theorem onTimer_of_timer {c st d p n : Nat} (hbody : o.body = .timer c st d p n) (f : Nat → Nat → State) :
    onTimer x s f = f c n := by
  simp only [onTimer, hown, hbody]

theorem onQueueObj_of_queue {q : TaskQ} (hbody : o.body = .queue q) (f : TaskQ → State) : onQueueObj x s f = f q := by
  simp only [onQueueObj, hown, hbody]

/-! ## Counters, wait sets and timers (R342, R343, R345) -/

theorem performEcsig_of_event {v : Nat} (hbody : o.body = .event v) :
    performEcsig x s = (s.signal x.a.toNat (x.b.toNat % 2 ^ 32) (s.core x.core).time).reply x 0 0 :=
  onCounter_of_event hown hbody _

theorem performEcread_of_event {v : Nat} (hbody : o.body = .event v) : performEcread x s = s.reply x 2 v := by
  simp only [performEcread, hown, hbody]

/-- R328: OBJ_TYPE, since an event counter is no timer. -/
theorem performTdisarm_of_event {v : Nat} (hbody : o.body = .event v) : performTdisarm x s = s.failCall x 0x31 x.a.toNat := by
  simp only [performTdisarm, onTimer, hown, hbody, objType]

theorem performObjdel_of_event {v : Nat} (hbody : o.body = .event v) : performObjdel x s =
    (((s.wakeAll (handleIdx x.a.toNat)).forgetCounter x.a.toNat).freeIdx (handleIdx x.a.toNat)).reply x 1 0 := by
  simp only [performObjdel, hown, hbody, stOk]

theorem performWsadd_of_event {i v : Nat} {ms : Tbl (Nat × Nat)} {c : Obj} (hbody : o.body = .waitset ms)
    (hctr : s.owned x.asid x.b.toNat = some c) (hevent : c.body = .event v) :
    performWsadd i x s = (s.setBody (handleIdx x.a.toNat)
      (.waitset (Tbl.put ms i (handleIdx x.b.toNat, x.c.toNat)))).fireWaiters.reply x 1 0 :=
  (onWaitset_of_waitset hown hbody _).trans (onCounter_of_event hctr hevent _)

theorem performWsdel_of_waitset {i : Nat} {ms : Tbl (Nat × Nat)} (hbody : o.body = .waitset ms) :
    performWsdel i x s = (s.setBody (handleIdx x.a.toNat) (.waitset (Tbl.del ms i))).reply x 1 0 :=
  onWaitset_of_waitset hown hbody _

section Timer
variable {c st d p n : Nat} (hbody : o.body = .timer c st d p n)
include hbody

theorem performTarm_of_once (hperiod : x.c.toNat % 2 ^ 32 = 0) :
    performTarm x s = (s.setBody (handleIdx x.a.toNat) (.timer c 1 x.b.toNat 0 n)).reply x 1 0 := by
  refine (onTimer_of_timer hown hbody _).trans ((if_neg fun hbad => hbad.1 hperiod).trans ?_)
  simp only [hperiod, if_true, stOk]

theorem performTarm_of_period (hperiod : 1000 ≤ x.c.toNat % 2 ^ 32) :
    performTarm x s = (s.setBody (handleIdx x.a.toNat) (.timer c 2 x.b.toNat (x.c.toNat % 2 ^ 32) n)).reply x 1 0 := by
  have hsome : x.c.toNat % 2 ^ 32 ≠ 0 := by omega
  refine (onTimer_of_timer hown hbody _).trans ((if_neg fun hbad => absurd hbad.2 hperiod.not_gt).trans ?_)
  simp only [hsome, if_false, stOk]

/-- R345: a period has its least length. -/
theorem performTarm_of_short (hsome : 0 < x.c.toNat % 2 ^ 32) (hshort : x.c.toNat % 2 ^ 32 < 1000) :
    performTarm x s = s.failCall x 0x32 x.a.toNat :=
  (onTimer_of_timer hown hbody _).trans (if_pos ⟨hsome.ne', hshort⟩)

theorem performTdisarm_of_timer :
    performTdisarm x s = (s.setBody (handleIdx x.a.toNat) (.timer c 0 0 0 n)).reply x 1 0 :=
  onTimer_of_timer hown hbody _

end Timer

theorem performObjinfo_of_owned : performObjinfo x s = s.reply x 2 (o.body.type * 2 ^ 60 + (objStateCount o.body).1 * 2 ^ 56
    + (objStateCount o.body).2 % 2 ^ 32) := by
  simp only [performObjinfo, hown, infoWord]

/-! ## Task queues and dependence counters (R347, R350) -/

section Queue
variable {q : TaskQ} (hbody : o.body = .queue q)
include hbody

theorem performQenq_of_deep {w : Bool} (hdeep : 8 < x.depth) : performQenq w x s = s.failCall x 0x34 x.a.toNat :=
  (onQueueObj_of_queue hown hbody _).trans (if_pos hdeep)

/-- R347: FULL, or a wait for the queue to change. -/
theorem performQenq_of_full {w : Bool} (hdepth : x.depth ≤ 8) (hfull : q.slotFor s.freeCtr x.depth = none) :
    performQenq w x s = if w = true then s.waitCall x (.change (handleIdx x.a.toNat)) else s.reply x 1 2 := by
  refine (onQueueObj_of_queue hown hbody _).trans ((if_neg hdepth.not_gt).trans ?_)
  simp only [hfull, stFull]

theorem performQenq_of_room {w : Bool} {slot : Nat} {t u : State} {r : List Byte} (hdepth : x.depth ≤ 8)
    (hslot : q.slotFor s.freeCtr x.depth = some slot) (hread : s.threadRead x x.b.toNat q.recsz = .ok (t, r))
    (hwrite : t.threadWrite x (q.arena + slot * q.recsz) r = .ok u) :
    performQenq w x s = (({ u with freeCtr := u.freeCtr + 1 } : State).setBody (handleIdx x.a.toNat)
      (.queue (q.enqueue slot x.depth r (u.core x.core).time))).reply x 1 0 := by
  refine (onQueueObj_of_queue hown hbody _).trans ((if_neg hdepth.not_gt).trans ?_)
  simp only [hslot, hread, CallAcc.bind_ok, hwrite, State.callTime, stOk]

theorem performDcinit_of_zero (hzero : x.c.toNat % 2 ^ 32 = 0) : performDcinit x s = s.failCall x 0x32 0 :=
  (onQueueObj_of_queue hown hbody _).trans (if_pos hzero)

theorem performDcinit_of_count {t : State} {r : List Byte} (hcount : x.c.toNat % 2 ^ 32 ≠ 0)
    (hread : s.threadRead x x.b.toNat q.recsz = .ok (t, r)) :
    performDcinit x s = t.replyNew x (.dep 0 (x.c.toNat % 2 ^ 32) x.a.toNat r) := by
  refine (onQueueObj_of_queue hown hbody _).trans ((if_neg hcount).trans ?_)
  simp only [hread, CallAcc.bind_ok]

end Queue

section Dependence
variable {n qh : Nat} {r : List Byte}

/-- R350: a counter that has reached zero stays as it is. -/
theorem performDcdec_of_done {st : Nat} (hbody : o.body = .dep st n qh r) (hdone : st ≠ 0) :
    performDcdec x s = s.reply x 1 0xFFFFFFFF := by
  cases st with
  | zero => exact absurd rfl hdone
  | succ m => simp only [performDcdec, hown, hbody]

variable (hbody : o.body = .dep 0 n qh r)
include hbody

theorem performDcdec_of_more (hmore : 1 < n) :
    performDcdec x s = (s.setBody (handleIdx x.a.toNat) (.dep 0 (n - 1) qh r)).reply x 1 (n - 1) := by
  simp only [performDcdec, hown, hbody, hmore, if_true]

variable {y : Obj} {q : TaskQ} (hlast : n ≤ 1) (hqueue : s.owned x.asid qh = some y) (hy : y.body = .queue q)
include hlast hqueue hy

/-- R350: the successor of the last decrement is enqueued. -/
theorem performDcdec_of_slot {slot : Nat} {t : State} (hslot : q.general s.freeCtr = some slot)
    (hwrite : s.threadWrite x (q.arena + slot * q.recsz) r = .ok t) :
    performDcdec x s = ((({ t with freeCtr := t.freeCtr + 1 } : State).setBody (handleIdx qh)
      (.queue (q.enqueue slot 0 r (t.core x.core).time))).setBody (handleIdx x.a.toNat) (.dep 3 0 qh r)).reply x 1 0 := by
  simp only [performDcdec, hown, hbody, if_neg hlast.not_gt, hqueue, Option.map_some, hy, hslot, hwrite, CallAcc.bind_ok, State.callTime]

/-- R350: without a general slot the successor is HELD. -/
theorem performDcdec_of_held (hfull : q.general s.freeCtr = none) :
    performDcdec x s = ((s.setBody (handleIdx qh) (.queue { q with held := q.held ++
      [{ dep := handleIdx x.a.toNat, gen := o.gen, record := r, time := (s.core x.core).time }] })).setBody (handleIdx x.a.toNat)
        (.dep 2 0 qh r)).reply x 1 0 := by
  simp only [performDcdec, hown, hbody, if_neg hlast.not_gt, hqueue, Option.map_some, hy, hfull, State.callTime]

end Dependence

/-! ## Suspension (R344) -/

/-- The waiters that a call's operation leaves when it waits on `on` go on at `c`, and fire at once where they are satisfied. -/
def State.suspendOn (s : State) (x : Call) (c : PC) (on : WaitOn) : State :=
  ({ s.waitCall x on with
    waiters := (s.waitCall x on).waiters.map (fun w => if w.id = x.op then { w with cont := c } else w) } : State).fireWaiters

theorem performSuspend_of_event {c : PC} {v : Nat} (hbody : o.body = .event v) :
    performSuspend c x s = s.suspendOn x c (.counter (handleIdx x.a.toNat) x.b.toNat) := by
  simp only [performSuspend, hown, hbody, State.suspendOn]

theorem performSuspend_of_waitset {c : PC} {ms : Tbl (Nat × Nat)} (hbody : o.body = .waitset ms) (hb : x.noB = true) :
    performSuspend c x s = s.suspendOn x c (.waitset (handleIdx x.a.toNat)) := by
  simp only [performSuspend, hown, hbody, hb, if_true, State.suspendOn]

/-- R344: a wait set takes no threshold. -/
theorem performSuspend_of_threshold {c : PC} {ms : Tbl (Nat × Nat)} (hbody : o.body = .waitset ms) (hb : x.noB = false) :
    performSuspend c x s = s.failCall x 0x32 x.a.toNat := by
  simp only [performSuspend, hown, hbody, hb, Bool.false_eq_true, if_false, objArg]

end Object

/-! ## Handles of no object (R328) -/

/-- The calls whose operand a is to name an object fault OBJ_HANDLE where it names none of the process. -/
theorem performCall_of_unowned {s : State} {x : Call} (hnone : s.owned x.asid x.a.toNat = none)
    (hkind : x.kind ∈ [CallOp.ecsig, .ecread, .tarm, .tdisarm, .objdel, .objinfo, .dcdec, .dcinit, .grantrev]) :
    performCall x s = s.failCall x 0x30 x.a.toNat := by
  simp only [List.mem_cons, List.not_mem_nil, or_false] at hkind
  rcases hkind with hkind | hkind | hkind | hkind | hkind | hkind | hkind | hkind | hkind <;> simp only [performCall, hkind]
  · simp only [performEcsig, onCounter, hnone, objHandle]
  · simp only [performEcread, hnone, objHandle]
  · simp only [performTarm, onTimer, hnone, objHandle]
  · simp only [performTdisarm, onTimer, hnone, objHandle]
  · simp only [performObjdel, hnone, objHandle]
  · simp only [performObjinfo, hnone, objHandle]
  · simp only [performDcdec, hnone, objHandle]
  · simp only [performDcinit, onQueueObj, hnone, objHandle]
  · simp only [performGrantrev, hnone, objHandle]

/-! ## syscall (R355) -/

section Syscall
variable {s : State} {x : Call} {n : Nat}

/-- The mailbox ring that takes the calls of a wave's core and half has no free entry. -/
def State.mailFull (s : State) (x : Call) : Prop :=
  256 ≤ (s.svc.rings.filter (fun e => e.sc == x.core / 32 * 2 + x.wave % 2)).length

/-- The state with the entry of a `syscall` in its mailbox ring. -/
def State.mail (s : State) (x : Call) (n : Nat) : State :=
  { s with nextId := s.nextId + 1, svc := { s.svc with rings := s.svc.rings ++ [{
      id := s.nextId, sc := x.core / 32 * 2 + x.wave % 2, fn := n, uid := x.uid, core := x.core, wave := x.wave, asid := x.asid
      lanes := x.lanes, todo := x.lanes, recs := x.recs, bitmap := if x.noA then none else some x.a.toNat, call := x.id, answers := [] }] } }

theorem performSyscall_of_full (hfull : s.mailFull x) : performSyscall n x s = s.waitCall x (.ring (x.core / 32 * 2 + x.wave % 2)) :=
  if_pos hfull

theorem performSyscall_of_room (hroom : ¬s.mailFull x) (ha : x.noA = true) :
    performSyscall n x s = ((s.mail x n).modCall x.id (fun y => { y with sent := some s.nextId })).callGo x :=
  (if_neg hroom).trans (if_pos ha)

theorem performSyscall_of_bitmap (hroom : ¬s.mailFull x) (ha : x.noA = false) :
    performSyscall n x s = (s.mail x n).replyLanes x ((lanesOf x.lanes).map (fun l => (l, 0))) :=
  (if_neg hroom).trans (if_neg (Bool.eq_false_iff.mp ha))

end Syscall

end Sys2Proof.Machine
end

section
/-! PROOFS. Ports, messages, grants and names as the calls on them are performed (R337 to R341, R351, R407, R408, R411). -/

namespace Sys2Proof.Machine

/-! ## Where a port leads (R330, R407) -/

section Target
variable {s : State} {idx pkg die i g : Nat} {dead : Bool}

theorem State.sendTo_proxy_of_lost (hlost : s.lost pkg = true) : s.sendTo idx (.proxy pkg die i g dead) = some .lost :=
  congrArg some (if_pos hlost)

theorem State.sendTo_proxy_of_dead (hlost : s.lost pkg = false) : s.sendTo idx (.proxy pkg die i g true) = some .dead := by
  simp only [State.sendTo, hlost, Bool.false_eq_true, if_false, if_true]

theorem State.sendTo_proxy_of_remote (hlost : s.lost pkg = false) (hhost : pkg ≠ 0xFFFE) (hother : pkg ≠ s.fab.pkgNo) :
    s.sendTo idx (.proxy pkg die i g false) = some (.remote pkg i g) := by
  simp only [State.sendTo, hlost, Bool.false_eq_true, if_false, hhost, hother]

end Target

/-! ## psend (R338, R408) -/

section Send
variable {s t : State} {x : Call} {w : Bool} {o : Obj} {r : List Byte} {d : SendDesc} (hlost : x.lost = false)
  (hown : s.owned x.asid x.a.toNat = some o) (hread : s.threadRead x x.b.toNat 64 = .ok (t, r)) (hdesc : sendDesc r = some d)
include hlost hown hread hdesc

theorem performPsend_of_dead (hto : s.sendTo (handleIdx x.a.toNat) o.body = some .dead) :
    performPsend w x s = (t.killProxy (handleIdx x.a.toNat)).reply x 1 13 := by
  simp only [performPsend, hlost, Bool.false_eq_true, if_false, hown, hto, hread, CallAcc.bind_ok, hdesc, stDead]

theorem performPsend_of_lost {ls : List (Nat × DWord)} (hto : s.sendTo (handleIdx x.a.toNat) o.body = some .lost)
    (hpages : t.grantLeaves x.asid d.gva d.npg = .ok (some ls)) : performPsend w x s = t.reply x 1 5 := by
  simp only [performPsend, hlost, Bool.false_eq_true, if_false, hown, hto, hread, CallAcc.bind_ok, hdesc, hpages, stPeerLost]

/-- R408: a send to another package is forwarded once its buffers can be reached. -/
theorem performPsend_of_remote {pkg i g : Nat} {ls : List (Nat × DWord)} {ps : List Piece} {u : State} {p : List Byte}
    (hto : s.sendTo (handleIdx x.a.toNat) o.body = some (.remote pkg i g))
    (hpages : t.grantLeaves x.asid d.gva d.npg = .ok (some ls)) (hgrant : t.threadAcc x rightW (x.b.toNat + 40) 8 = .ok ps)
    (hdata : t.threadRead x d.data d.len = .ok (u, p)) : performPsend w x s = psendAway u x d p ls w pkg i g := by
  simp only [performPsend, hlost, Bool.false_eq_true, if_false, hown, hto, hread, CallAcc.bind_ok, hdesc, hpages, hgrant, hdata]

section Here
variable {idx : Nat} (hto : s.sendTo (handleIdx x.a.toNat) o.body = some (.here idx))
include hto

theorem performPsend_of_badPage {e : Nat × Nat} (hpages : t.grantLeaves x.asid d.gva d.npg = .error e) :
    performPsend w x s = t.failCall x e.1 e.2 := by
  simp only [performPsend, hlost, Bool.false_eq_true, if_false, hown, hto, hread, CallAcc.bind_ok, hdesc, hpages]

theorem performPsend_of_noPage (hpages : t.grantLeaves x.asid d.gva d.npg = .ok none) : performPsend w x s = t.reply x 1 4 := by
  simp only [performPsend, hlost, Bool.false_eq_true, if_false, hown, hto, hread, CallAcc.bind_ok, hdesc, hpages, stNoPage]

variable {ls : List (Nat × DWord)} (hpages : t.grantLeaves x.asid d.gva d.npg = .ok (some ls))
include hpages

theorem performPsend_of_full (hfull : t.portFull idx = true) :
    performPsend w x s = if w = true then t.waitCall x (.change idx) else t.reply x 1 2 := by
  simp only [performPsend, hlost, Bool.false_eq_true, if_false, hown, hto, hread, CallAcc.bind_ok, hdesc, hpages, hfull, if_true, stFull]

theorem performPsend_of_room {ps : List Piece} {u : State} {p : List Byte} (hroom : t.portFull idx = false)
    (hgrant : t.threadAcc x rightW (x.b.toNat + 40) 8 = .ok ps) (hdata : t.threadRead x d.data d.len = .ok (u, p)) :
    performPsend w x s = psendHere s x d p ls idx u := by
  simp only [performPsend, hlost, Bool.false_eq_true, if_false, hown, hto, hread, CallAcc.bind_ok, hdesc, hpages, hroom, hgrant, hdata]

end Here

end Send

section Append
variable {s t : State} {x : Call} {d : SendDesc} {p : List Byte} {ls : List (Nat × DWord)} {idx : Nat}

theorem psendHere_of_plain {v : State} (hplain : d.npg = 0) (hwrite : t.threadWrite x (x.b.toNat + 40) (bytesOf 8 0) = .ok v) :
    psendHere s x d p ls idx t = (v.append idx (sendMsg v x d p none [])).reply x 1 0 := by
  simp only [psendHere, hplain, if_true, hwrite, CallAcc.bind_ok, stOk]

/-- R338: a message with pages makes a GRANT, and its call ends with the shootdown of the pages. -/
theorem psendHere_of_grant {v : State} {g : Nat} (hpaged : d.npg ≠ 0)
    (hnew : t.newObj (dieOf x.core) x.asid (.grant 0 d.npg (some idx) x.id) = some (v, g)) :
    psendHere s x d p ls idx t = ((((v.takePages x d ls).append idx
      (sendMsg v x d p (some (v.handleAt g)) (ls.map (fun e => grantPage e.2)))).modCall x.id (fun y => { y with lodged := none })).callGo
        x) := by
  simp only [psendHere, if_neg hpaged, hnew]

theorem psendHere_of_noSlot (hpaged : d.npg ≠ 0)
    (hnew : t.newObj (dieOf x.core) x.asid (.grant 0 d.npg (some idx) x.id) = none) : psendHere s x d p ls idx t = t.reply x 1 8 := by
  simp only [psendHere, if_neg hpaged, hnew, stNoSlot]

theorem psendAway_of_plain {w : Bool} {pkg i g : Nat} (hplain : d.npg = 0) : psendAway s x d p ls w pkg i g =
    (((s.markSent x x.id).outBy x.core).countMoved x.asid (256 * messageFlits p.length 0)).sendOut x.homeDie pkg x.id
      (.message i g s.fab.pkgNo x.asid (BitVec.ofNat 64 d.tag) p [] w) :=
  if_pos hplain

end Append

/-! ## precv (R340) -/

section Receive
variable {s t : State} {x : Call} {w : Bool} {o : Obj} {r : List Byte} {d : RecvDesc} {cap lost : Nat} {msgs : List Msg}
  (hown : s.owned x.asid x.a.toNat = some o) (hbody : o.body = .port cap msgs lost)
  (hread : s.threadRead x x.b.toNat 64 = .ok (t, r)) (hdesc : recvDesc r = some d)
include hown hbody hread hdesc

theorem performPrecv_of_empty (hempty : msgs = []) :
    performPrecv w x s = if w = true then t.waitCall x (.change (handleIdx x.a.toNat)) else t.reply x 1 1 := by
  subst hempty
  simp only [performPrecv, hown, hbody, hread, CallAcc.bind_ok, hdesc, stEmpty]

variable {m : Msg} {rest : List Msg} (hfirst : msgs = m :: rest)
include hfirst

/-- R340: NOROOM, since the message has more pages than the receiver takes or its landing range is not free. -/
theorem performPrecv_of_noRoom (hroom : d.maxpg < m.pages.length ∨ t.landing x.asid d.lva m.pages.length = none) :
    performPrecv w x s = t.reply x 1 11 := by
  have hnone : (if d.maxpg < m.pages.length then none else t.landing x.asid d.lva m.pages.length) = none := by
    rcases hroom with hmany | hnone
    · exact if_pos hmany
    · rw [hnone, ite_self]
  subst hfirst
  simp only [performPrecv, hown, hbody, hread, CallAcc.bind_ok, hdesc, hnone, stNoRoom]

/-- R340: the first message of this package goes into the receiver's buffer, its record and its landing range. -/
theorem performPrecv_of_message {las : List Nat} {u v : State} (hpages : m.pages.length ≤ d.maxpg)
    (hland : t.landing x.asid d.lva m.pages.length = some las) (hpkg : m.pkg = t.fab.pkgNo)
    (hdata : t.threadWrite x d.buf (m.payload.take d.len) = .ok u)
    (hrec : u.threadWrite x (x.b.toNat + 24) (bytesOf 8 m.tag.toNat ++ bytesOf 4 m.payload.length ++ bytesOf 4 m.pages.length
      ++ bytesOf 4 (m.pkg % 65536 * 65536 + m.asid % 65536)) = .ok v) :
    performPrecv w x s = ((((((((las.zip m.pages).foldl (fun (y : State) e => y.mapPage false x.asid e.1 e.2) v).setBody
      (handleIdx x.a.toNat) (.port cap rest lost)).portRoom (handleIdx x.a.toNat)).resumeParked x.asid d.lva
        (d.lva + 65536 * m.pages.length)).setGrant m.grant 1).advance x.core m.time).reply x 1
          (if d.len < m.payload.length then 3 else 0)) := by
  have hhere : (m.pkg != t.fab.pkgNo) = false := bne_eq_false_iff_eq.mpr hpkg
  subst hfirst
  simp only [performPrecv, hown, hbody, hread, CallAcc.bind_ok, hdesc, if_neg hpages.not_gt, hland, hhere, Bool.false_and,
    Bool.false_eq_true, if_false, hdata, hrec, stTrunc, stOk]

end Receive

/-! ## grantrev (R341, R410) -/

section Revoke
variable {s : State} {x : Call} {o : Obj} {n serial : Nat} {p : Option Nat} (hown : s.owned x.asid x.a.toNat = some o)
include hown

theorem performGrantrev_of_taken (hbody : o.body = .grant 1 n p serial) : performGrantrev x s = s.reply x 1 10 := by
  simp only [performGrantrev, hown, hbody, stTaken]

theorem performGrantrev_of_returned {st : Nat} (hbody : o.body = .grant st n p serial) (hst : 2 ≤ st) :
    performGrantrev x s = s.reply x 1 0 := by
  match st, hst with
  | st + 2, _ => simp only [performGrantrev, hown, hbody, stOk]

/-- R341: a message that still waits in its port is withdrawn. -/
theorem performGrantrev_of_queued {h cap lost : Nat} {y : Obj} {msgs : List Msg} {m : Msg} (hbody : o.body = .grant 0 n (some h) serial)
    (hport : Tbl.find s.objs h = some y) (hy : y.body = .port cap msgs lost)
    (hmsg : msgs.find? (fun m => m.serial == serial && m.pkg == s.fab.pkgNo) = some m) :
    performGrantrev x s =
      (((s.setBody h (.port cap (msgs.filter (fun y => y != m)) lost)).returnMsg m).portRoom h).reply x 1 0 := by
  simp only [performGrantrev, hown, hbody, hport, Option.map_some, hy, hmsg, stOk]

/-- R410: of a grant in flight the other package is asked. -/
theorem performGrantrev_of_sent {g : SentGrant} (hbody : o.body = .grant 0 n none serial) (hsent : Tbl.find s.fab.sent serial = some g) :
    performGrantrev x s = (s.markSent x serial).sendOut x.homeDie g.pkg serial (.revoke g.index) := by
  simp only [performGrantrev, hown, hbody, hsent]

end Revoke

/-! ## Names (R351, R411, R412) -/

section Look
variable {s : State} {x : Call} {b : Binding}

theorem State.lookFound_of_lost (hlost : s.lost b.pkg = true) : s.lookFound x b = s.reply x 2 (failWord 5) := if_pos hlost

theorem State.lookFound_of_near (hlost : s.lost b.pkg = false) :
    s.lookFound x b = s.replyNew x (.proxy b.pkg (b.index / 2 ^ 21) b.index b.gen false) :=
  if_neg (Bool.eq_false_iff.mp hlost)

/-- R351: the answer of an `nslook` that finds binding b is a new proxy, or PEER_LOST. -/
theorem CallTurn.looksUp (turn : CallTurn s x) (hkind : x.kind = .nslook) (hlook : performNslook x s = s.lookFound x b) :
    (s.lost b.pkg = true → exec (.objectCallPerform x.id) s = .next (s.reply x 2 (failWord 5)))
    ∧ (s.lost b.pkg = false → x.Creates s s (.proxy b.pkg (b.index / 2 ^ 21) b.index b.gen false)) :=
  ⟨fun hlost => turn.next performNslook hkind (hlook.trans (State.lookFound_of_lost hlost)),
    fun hnear => turn.creates performNslook hkind (hlook.trans (State.lookFound_of_near hnear))⟩

theorem performNslook_of_pkgBind (hb : Tbl.find s.fab.pkgBind x.b.toNat = some b) : performNslook x s = s.lookFound x b := by
  simp only [performNslook, hb]

variable (hpkg : Tbl.find s.fab.pkgBind x.b.toNat = none)
include hpkg

theorem performNslook_of_hostBind (hb : Tbl.find s.fab.hostBind x.b.toNat = some b) : performNslook x s = s.lookFound x b := by
  simp only [performNslook, hpkg, hb]

variable (hhost : Tbl.find s.fab.hostBind x.b.toNat = none)
include hhost

theorem performNslook_of_sysBind (hhere : s.holderOf x.b.toNat = s.fab.pkgNo) (hb : Tbl.find s.fab.sysBind x.b.toNat = some b) :
    performNslook x s = s.lookFound x b := by
  simp only [performNslook, hpkg, hhost, hhere, if_true, hb]

theorem performNslook_of_unbound (hhere : s.holderOf x.b.toNat = s.fab.pkgNo) (hb : Tbl.find s.fab.sysBind x.b.toNat = none) :
    performNslook x s = s.reply x 2 (failWord 6) := by
  simp only [performNslook, hpkg, hhost, hhere, if_true, hb, stNotFound]

/-- R411: the package that holds the name is asked. -/
theorem performNslook_of_away (haway : s.holderOf x.b.toNat ≠ s.fab.pkgNo) (hlost : s.lost (s.holderOf x.b.toNat) = false) :
    performNslook x s = (s.markSent x x.id).sendOut (dieOf x.core) (s.holderOf x.b.toNat) x.id (.lookup x.b) := by
  simp only [performNslook, hpkg, hhost, if_neg haway, hlost, Bool.false_eq_true, if_false]

end Look

section Bind
variable {s : State} {x : Call} {o : Obj} {cap lost : Nat} {ms : List Msg} (hown : s.owned x.asid x.a.toNat = some o)
  (hbody : o.body = .port cap ms lost) (hname : x.b.toNat ≠ 0)
include hown hbody hname

theorem performNsbind_pkg_of_free (hfree : Tbl.find s.fab.pkgBind x.b.toNat = none) :
    performNsbind false x s =
      ({ s with fab := { s.fab with
        pkgBind := Tbl.put s.fab.pkgBind x.b.toNat ⟨s.fab.pkgNo, handleIdx x.a.toNat, o.gen⟩ } } : State).reply x 1 0 := by
  simp only [performNsbind, hown, hbody, if_neg hname, Bool.not_false, if_true, hfree, Option.isSome_none, Bool.false_eq_true, if_false,
    stOk]

theorem performNsbind_pkg_of_bound (hbound : (Tbl.find s.fab.pkgBind x.b.toNat).isSome = true) :
    performNsbind false x s = s.reply x 1 7 := by
  simp only [performNsbind, hown, hbody, if_neg hname, Bool.not_false, if_true, hbound, stExists]

theorem performNsbind_sys_of_free (hhere : s.holderOf x.b.toNat = s.fab.pkgNo) (hfree : Tbl.find s.fab.sysBind x.b.toNat = none) :
    performNsbind true x s =
      ({ s with fab := { s.fab with
        sysBind := Tbl.put s.fab.sysBind x.b.toNat ⟨s.fab.pkgNo, handleIdx x.a.toNat, o.gen⟩ } } : State).reply x 1 0 := by
  simp only [performNsbind, hown, hbody, if_neg hname, Bool.not_true, Bool.false_eq_true, if_false, hhere, if_true, hfree,
    Option.isSome_none, stOk]

theorem performNsbind_sys_of_bound (hhere : s.holderOf x.b.toNat = s.fab.pkgNo)
    (hbound : (Tbl.find s.fab.sysBind x.b.toNat).isSome = true) : performNsbind true x s = s.reply x 1 7 := by
  simp only [performNsbind, hown, hbody, if_neg hname, Bool.not_true, Bool.false_eq_true, if_false, hhere, if_true, hbound, stExists]

/-- R411: the package that holds the name makes the system binding. -/
theorem performNsbind_sys_of_away (haway : s.holderOf x.b.toNat ≠ s.fab.pkgNo) (hlost : s.lost (s.holderOf x.b.toNat) = false) :
    performNsbind true x s = (s.markSent x x.id).sendOut x.homeDie (s.holderOf x.b.toNat) x.id
      (.bind x.b (handleIdx x.a.toNat) o.gen) := by
  simp only [performNsbind, hown, hbody, if_neg hname, Bool.not_true, Bool.false_eq_true, if_false, if_neg haway, hlost]

end Bind

end Sys2Proof.Machine
end

section
/-! PROOFS. `launch` and `ctadmit` as they are performed (R358, R359, R368, R369), and the Orrery's own steps: wakes and
replays (R324, R344), expiries (R345), task waves (R348) and the successors of HELD counters (R350). -/

namespace Sys2Proof.Machine

/-! ## launch (R358, R359) -/

/-- The process that a `launch` is for. -/
def Call.launchAsid (x : Call) : Nat := if x.noA then x.asid else x.a.toNat % 2 ^ 16

theorem Call.launchAsid_found {s : State} {x : Call} (hproc : (Tbl.find s.procs x.launchAsid).isSome = true) :
    (Tbl.find s.procs (if x.noA then x.asid else x.a.toNat % 2 ^ 16)).isNone = false := by
  rw [← Option.not_isSome]
  exact congrArg not hproc

section Launch
variable {s t : State} {x : Call} {b : List Byte} (hread : s.threadRead x x.b.toNat 64 = .ok (t, b))
include hread

theorem performLaunch_of_badHandle {e : Nat × Nat} (hbad : t.launchHandles x.asid (launchRec b) = some e) :
    performLaunch x s = t.failCall x e.1 e.2 := by
  simp only [performLaunch, hread, CallAcc.bind_ok, hbad]

variable (hhandles : t.launchHandles x.asid (launchRec b) = none)
include hhandles

theorem performLaunch_of_noProcess (hproc : Tbl.find s.procs x.launchAsid = none) :
    performLaunch x s = t.reply x 2 (failWord 6) := by
  have hnone : (Tbl.find s.procs (if x.noA then x.asid else x.a.toNat % 2 ^ 16)).isNone = true := Option.isNone_iff_eq_none.mpr hproc
  simp only [performLaunch, hread, CallAcc.bind_ok, hhandles, hnone, if_true, stNotFound]

variable (hproc : (Tbl.find s.procs x.launchAsid).isSome = true)
include hproc

theorem performLaunch_of_badEntry {c : Nat} (hentry : (t.entryCheck x.core x.launchAsid (launchRec b).entry).2 = some c) :
    performLaunch x s = (t.entryCheck x.core x.launchAsid (launchRec b).entry).1.failCall x c (launchRec b).entry := by
  have hfound := Call.launchAsid_found hproc
  rw [Call.launchAsid] at hentry ⊢
  simp only [performLaunch, hread, CallAcc.bind_ok, hhandles, hfound, Bool.false_eq_true, if_false, hentry]

variable (hentry : (t.entryCheck x.core x.launchAsid (launchRec b).entry).2 = none)
include hentry

theorem performLaunch_of_status {st : Nat}
    (hstatus : (t.entryCheck x.core x.launchAsid (launchRec b).entry).1.launchStatus x.launchAsid (launchRec b) (launchReserved b) = some st) :
    performLaunch x s = (t.entryCheck x.core x.launchAsid (launchRec b).entry).1.reply x 2 (failWord st) := by
  have hfound := Call.launchAsid_found hproc
  rw [Call.launchAsid] at hentry hstatus ⊢
  simp only [performLaunch, hread, CallAcc.bind_ok, hhandles, hfound, Bool.false_eq_true, if_false, hentry, hstatus]

theorem performLaunch_of_open {u : State}
    (hu : (t.entryCheck x.core x.launchAsid (launchRec b).entry).1 = u)
    (hstatus : u.launchStatus x.launchAsid (launchRec b) (launchReserved b) = none) :
    performLaunch x s = (u.openLaunch x.launchAsid (launchRec b) (s.core x.core).time).1.reply x 2
      (x.launchAsid % 2 ^ 16 * 2 ^ 32 + u.nextSerial % 2 ^ 32) := by
  have hfound := Call.launchAsid_found hproc
  subst hu
  rw [Call.launchAsid] at hentry hstatus ⊢
  simp only [performLaunch, hread, CallAcc.bind_ok, hhandles, hfound, Bool.false_eq_true, if_false, hentry, hstatus, State.callTime]
  rfl

end Launch

/-! ## ctadmit (R368, R369) -/

/-- The tenant and the counter of the contract may be used. -/
theorem performCtadmit_checks {s t : State} {x : Call} {c : Contract} (htenant : x.asid = 0 ∨ c.tenant = s.tenantOfAsid x.asid)
    (hctr : c.missCtr = 0 ∨ t.counterFault x.asid c.missCtr = none) :
    ¬(x.asid ≠ 0 ∧ c.tenant ≠ s.tenantOfAsid x.asid) ∧ (if c.missCtr = 0 then none else t.counterFault x.asid c.missCtr) = none := by
  refine ⟨fun ⟨hasid, hother⟩ => htenant.elim hasid hother, ?_⟩
  rcases hctr with hzero | hnone
  · exact if_pos hzero
  · rw [hnone, ite_self]

section Contract
variable {s t : State} {x : Call} {b : List Byte} (hread : s.threadRead x x.b.toNat 64 = .ok (t, b))
include hread

theorem performCtadmit_of_badDesc (hdesc : contractDesc b s.clock = none) : performCtadmit x s = t.reply x 2 (failWord 14) := by
  simp only [performCtadmit, hread, CallAcc.bind_ok, hdesc, stRecord]

variable {c : Contract} (hdesc : contractDesc b s.clock = some c)
include hdesc

theorem performCtadmit_of_otherTenant (hasid : x.asid ≠ 0) (htenant : c.tenant ≠ s.tenantOfAsid x.asid) :
    performCtadmit x s = t.reply x 2 (failWord 14) := by
  simp only [performCtadmit, hread, CallAcc.bind_ok, hdesc, if_pos (And.intro hasid htenant), stRecord]

variable (htenant : x.asid = 0 ∨ c.tenant = s.tenantOfAsid x.asid) (hctr : c.missCtr = 0 ∨ t.counterFault x.asid c.missCtr = none)
include htenant hctr

theorem performCtadmit_of_budget (hcores : budgetCores (s.budget c.tenant) < c.cores) :
    performCtadmit x s = t.reply x 2 (failWord 17) := by
  obtain ⟨hallowed, hnofault⟩ := performCtadmit_checks htenant hctr
  simp only [performCtadmit, hread, CallAcc.bind_ok, hdesc, if_neg hallowed, hnofault, if_pos hcores, stBudget]

variable (hcores : c.cores ≤ budgetCores (s.budget c.tenant))
include hcores

theorem performCtadmit_of_rejected (hadm : s.admissible c = false) : performCtadmit x s = t.reply x 2 (failWord 16) := by
  obtain ⟨hallowed, hnofault⟩ := performCtadmit_checks htenant hctr
  simp only [performCtadmit, hread, CallAcc.bind_ok, hdesc, if_neg hallowed, hnofault, if_neg hcores.not_gt, hadm, Bool.not_false,
    Bool.or_true, if_true, stReject]

theorem performCtadmit_of_admitted {u : State} {i : Nat} (hboot : s.svc.boot ≠ .bringup) (hadm : s.admissible c = true)
    (hnew : t.newObj (dieOf x.core) x.asid (.contract c) = some (u, i)) :
    performCtadmit x s = (u.drainSet c).reply x 2 (u.handleAt i) := by
  obtain ⟨hallowed, hnofault⟩ := performCtadmit_checks htenant hctr
  simp only [performCtadmit, hread, CallAcc.bind_ok, hdesc, if_neg hallowed, hnofault, if_neg hcores.not_gt, beq_eq_false_iff_ne.mpr hboot,
    hadm, Bool.not_true, Bool.or_self, Bool.false_eq_true, if_false, hnew]

end Contract

/-! ## Wakes and replays (R324, R344, R407) -/

section Wake
variable {s : State} {n : Nat} {w : Waiter} {v : Word} (hfired : s.firedWaiter n = some (w, v))
include hfired

theorem execOrreryWake_of_suspend (hon : w.on.isSuspend = true) :
    execOrreryWake n s = .next (((s.dropWaiter n).crewTime w.uid w.time).onCrewWave w.uid w.wave (fun y =>
      (if y.waitLanes (.waiter n) = 0 then y else y.write s.clock n [] [(0, v)]).wakeSusp s.clock
        (fun p => p.waitsFor (.waiter n)) (fun _ => w.cont))) := by
  simp only [execOrreryWake, hfired, hon, Bool.not_true, Bool.false_eq_true, if_false]

variable (hon : w.on.isSuspend = false) (hdecided : s.undecided n = false)
include hon hdecided

theorem execSuspendReplayWake_of_call (hlost : w.on ≠ .lost) :
    execSuspendReplayWake n s = .next ((s.dropWaiter n).onCrewWave w.uid w.wave (fun y =>
      { y.wakeSusp s.clock (fun p => p.waitsFor (.waiter n)) (fun p => p.pc) with
        replays := if allLanes ((s.waiters.filter (fun v => v.id == n && v.on == .ring 0xFFFE)).map (·.lanes)) = 0 then y.replays
          else y.replays ++ [(allLanes ((s.waiters.filter (fun v => v.id == n && v.on == .ring 0xFFFE)).map (·.lanes)), w.cont, false)] })) := by
  simp only [execSuspendReplayWake, hfired, hon, hdecided, Bool.or_self, Bool.false_eq_true, if_false, hlost]

theorem execSuspendReplayWake_of_lost (hlost : w.on = .lost) : execSuspendReplayWake n s = .next (s.loseWaiter w) := by
  simp only [execSuspendReplayWake, hfired, hon, hdecided, Bool.or_self, Bool.false_eq_true, if_false, if_pos hlost]

end Wake

/-! ## Expiries (R345) -/

section Expiry
variable {s : State} {obj c d p n : Nat} {o : Obj} (hobj : Tbl.find s.objs obj = some o) (hdue : d ≤ s.clock)
include hobj hdue

theorem execSiderealExpiry_of_once (hbody : o.body = .timer c 1 d p n) :
    execSiderealExpiry obj s = .next ((s.setBody obj (.timer c 0 0 0 (n + 1))).signal c 1 0) := by
  have hgo : ¬(1 = 0 ∨ s.clock < d) := by omega
  simp only [execSiderealExpiry, hobj, Option.map_some, hbody, if_neg hgo, if_true]

theorem execSiderealExpiry_of_period (hbody : o.body = .timer c 2 d p n) :
    execSiderealExpiry obj s = .next ((s.setBody obj (.timer c 2 (d + p) p (n + 1))).signal c 1 0) := by
  have hgo : ¬(2 = 0 ∨ s.clock < d) := by omega
  have honce : ¬(2 = 1) := by decide
  simp only [execSiderealExpiry, hobj, Option.map_some, hbody, if_neg hgo, if_neg honce]

end Expiry

/-! ## Task queues (R348, R350) -/

section Tasks
variable {s : State} {obj : Nat} {o : Obj} {q : TaskQ} (hobj : Tbl.find s.objs obj = some o) (hbody : o.body = .queue q)
include hobj hbody

/-- R348: the wave of the tasks that a core takes, and its trap where a check of the entry that has been made fails. -/
theorem taskWaveForm_of_room {core w base : Nat} {s1 : State} {t : Task} {ts : List Task} (htasks : q.gather = t :: ts)
    (hstage : s.stageFor core o.owner q = some s1) (hwave : pickFrom s.freeCtr ((s1.core core).freeWaves (q.q8 * 8)) = some w)
    (hplace : (s1.core core).placeFor q.abytes = some base) :
    taskWaveForm core obj s =
      let r := s1.entryCheck core o.owner t.entry
      let s3 := ((({ r.1 with freeCtr := r.1.freeCtr + 1 } : State).setBody obj (.queue { q with
        tasks := q.tasks.filter (fun y => !((t :: ts).map (·.slot)).contains y.slot), waves := q.waves + 1 })).setWave core w
          (taskWave s o.owner q obj base (t :: ts) r.2.isNone)).advance core (((t :: ts).map (·.time)).foldl max 0)
      if r.2 = some 0x04 then
        s3.takeTrap core w (lowLanes (t :: ts).length) 0x04 0 (BitVec.ofNat 56 t.entry) t.entry (BitVec.ofNat 56 t.entry)
      else if r.2 = some 0x05 then
        s3.takeTrap core w (lowLanes (t :: ts).length) 0x05 0 (BitVec.ofNat 56 t.entry) t.entry (BitVec.ofNat 56 t.entry)
      else s3 := by
  simp only [taskWaveForm, hobj, hbody, htasks, hstage, hwave, hplace]
  by_cases hpc : (s1.entryCheck core o.owner t.entry).2 = some 0x04
  · simp only [hpc, true_or, if_true, Option.getD_some]
  by_cases hbtm : (s1.entryCheck core o.owner t.entry).2 = some 0x05
  · simp only [hbtm, or_true, if_true, Option.getD_some, Option.some_inj, Nat.reduceEqDiff, if_false]
  · simp only [hpc, hbtm, or_self, if_false]

/-- R350: the oldest HELD successor takes the general slot that is free. -/
theorem execHeldSuccessorEnqueue_of_free {slot : Nat} {h : HeldTask} {rest : List HeldTask} (hheld : q.held = h :: rest)
    (hslot : ({ q with held := [] } : TaskQ).general s.freeCtr = some slot)
    (hfree : s.agentBusy (s.procRanges o.owner (q.arena + slot * q.recsz) q.recsz) (heldNum obj) = false) :
    execHeldSuccessorEnqueue obj s = .next
      (let va := q.arena + slot * q.recsz
       let s0 := ({ s.agentServed (heldNum obj) with freeCtr := s.freeCtr + 1 } : State).procWrite o.owner h.time va h.record
       let s1 := s0.setBody obj
        (.queue (({ q with held := rest } : TaskQ).enqueue slot 0 h.record (max h.time (s0.procTime o.owner va q.recsz))))
       (match Tbl.find s1.objs h.dep with
        | some d => match d.body with
          | .dep 2 n qh r => if d.gen = h.gen then s1.setBody h.dep (.dep 3 n qh r) else s1
          | _ => s1
        | none => s1).poke (.change obj)) := by
  simp only [execHeldSuccessorEnqueue, hobj, hbody, hheld, hslot, State.asAgent_of_free hfree] <;> rfl

end Tasks

end Sys2Proof.Machine
end

section
/-! PROOFS. The calls and the Orrery's steps together (R324, R332 to R353, R355, R358, R359, R368, R369, R376). -/

namespace Sys2Proof.Machine

/-- What each call does, by the case of its function that the clause's hypotheses decide. -/
theorem callEffects : CallEffects := by
  intro x s hfind hready hclosed
  have turn : CallTurn s x := ⟨hfind, hready, hclosed⟩
  refine ⟨⟨fun hkind hc => ⟨?port, ?badPort⟩, ?waitset, ?timer, ?queue, ?event⟩, ?wave, ⟨?qenq, ?dcinit, ?dcdec⟩,
    ⟨?suspend, ?syscall⟩, ⟨?look, ?bind⟩, ?send, ⟨?receive, ?revoke⟩, ?launch, ?contract⟩
  case port => exact fun hmin hmax => turn.creates (performObjnew 2) hkind (performObjnew_port hc hmin hmax)
  case badPort => exact fun hb => turn.next (performObjnew 2) hkind (performObjnew_port_of_bad hb)
  case waitset => exact fun hkind hb hc => turn.creates (performObjnew 3) hkind (performObjnew_waitset hb hc)
  case timer => exact fun hkind hb hc hctr => turn.creates (performObjnew 4) hkind (performObjnew_timer hb hc hctr)
  case queue =>
    exact fun t r q c hkind hb hc hread hdesc hcontract harena =>
      turn.creates (performObjnew 5) hkind (performObjnew_queue hb hc hread hdesc hcontract harena)
  case event => exact fun hkind hb hc => turn.creates (performObjnew 6) hkind (performObjnew_event hb hc)
  case wave =>
    refine fun hkind hmin hmax hqmin hqmax hlow hhigh hctr => ⟨fun c hentry => ?_, fun hentry hfree => ?_,
      fun w ws u i hentry hfree hnew => ?_⟩
    · exact turn.next performWcreate hkind (performWcreate_of_badEntry ⟨hmin, hmax⟩ ⟨hqmin, hqmax⟩ ⟨hlow, hhigh⟩ hctr hentry)
    · exact turn.next performWcreate hkind (performWcreate_of_noWave ⟨hmin, hmax⟩ ⟨hqmin, hqmax⟩ ⟨hlow, hhigh⟩ hctr hentry hfree)
    · exact turn.next performWcreate hkind
        (performWcreate_of_free ⟨hmin, hmax⟩ ⟨hqmin, hqmax⟩ ⟨hlow, hhigh⟩ hctr rfl hentry hfree hnew)
  case qenq =>
    intro w q hkind ⟨o, hown, hbody⟩
    exact ⟨fun hdeep => turn.next (performQenq w) hkind (performQenq_of_deep hown hbody hdeep),
      fun hdepth hfull => turn.next (performQenq w) hkind (performQenq_of_full hown hbody hdepth hfull),
      fun slot t r u hdepth hslot hread hwrite =>
        turn.next (performQenq w) hkind (performQenq_of_room hown hbody hdepth hslot hread hwrite)⟩
  case dcinit =>
    intro q hkind ⟨o, hown, hbody⟩
    exact ⟨fun hzero => turn.next performDcinit hkind (performDcinit_of_zero hown hbody hzero),
      fun t r hcount hread => turn.creates performDcinit hkind (performDcinit_of_count hown hbody hcount hread)⟩
  case dcdec =>
    refine fun o st n qh r hkind hown hbody => ⟨fun hdone => turn.next performDcdec hkind (performDcdec_of_done hown hbody hdone),
      fun hst hmore => ?_, fun y q hst hlast hqueue hy => ⟨fun slot t hslot hwrite => ?_, fun hfull => ?_⟩⟩ <;> subst hst
    · exact turn.next performDcdec hkind (performDcdec_of_more hown hbody hmore)
    · exact turn.next performDcdec hkind (performDcdec_of_slot hown hbody hlast hqueue hy hslot hwrite)
    · exact turn.next performDcdec hkind (performDcdec_of_held hown hbody hlast hqueue hy hfull)
  case suspend =>
    refine fun c hkind => ⟨fun v ⟨o, hown, hbody⟩ => turn.next (performSuspend c) hkind (performSuspend_of_event hown hbody),
      fun ms ⟨o, hown, hbody⟩ => ⟨fun hb => ?_, fun hb => ?_⟩⟩
    · exact turn.next (performSuspend c) hkind (performSuspend_of_waitset hown hbody hb)
    · exact turn.next (performSuspend c) hkind (performSuspend_of_threshold hown hbody hb)
  case syscall =>
    exact fun n hkind => ⟨fun hfull => turn.next (performSyscall n) hkind (performSyscall_of_full hfull),
      fun hroom ha => turn.next (performSyscall n) hkind (performSyscall_of_room hroom ha),
      fun hroom ha => turn.next (performSyscall n) hkind (performSyscall_of_bitmap hroom ha)⟩
  case look =>
    exact fun hkind => ⟨fun b hb => turn.looksUp hkind (performNslook_of_pkgBind hb),
      fun b hpkg hb => turn.looksUp hkind (performNslook_of_hostBind hpkg hb),
      fun hpkg hhost => ⟨fun b hhere hb => turn.looksUp hkind (performNslook_of_sysBind hpkg hhost hhere hb),
        fun hhere hb => turn.next performNslook hkind (performNslook_of_unbound hpkg hhost hhere hb),
        fun haway hlost => turn.next performNslook hkind (performNslook_of_away hpkg hhost haway hlost)⟩⟩
  case bind =>
    refine fun sys o cap ms lost hkind hown hbody hname => ⟨fun hsys hfree => ?_, fun hsys hbound => ?_, fun hsys hhere hfree => ?_,
      fun hsys hhere hbound => ?_, fun hsys haway hlost => ?_⟩ <;> subst hsys
    · exact turn.next (performNsbind false) hkind (performNsbind_pkg_of_free hown hbody hname hfree)
    · exact turn.next (performNsbind false) hkind (performNsbind_pkg_of_bound hown hbody hname hbound)
    · exact turn.next (performNsbind true) hkind (performNsbind_sys_of_free hown hbody hname hhere hfree)
    · exact turn.next (performNsbind true) hkind (performNsbind_sys_of_bound hown hbody hname hhere hbound)
    · exact turn.next (performNsbind true) hkind (performNsbind_sys_of_away hown hbody hname haway hlost)
  case send =>
    intro w t r d hkind hlost hread hdesc
    refine ⟨fun cap ms lost ⟨o, hown, hbody⟩ => ?here, fun pkg die i g ⟨o, hown, hbody⟩ hnear => ?dead,
      fun pkg die i g dead ls ⟨o, hown, hbody⟩ hgone hpages => ?gone,
      fun pkg die i g ls ps u p ⟨o, hown, hbody⟩ hnear hhost hother hplain hpages hgrant hdata => ?remote⟩
    case here =>
      have hto : s.sendTo (handleIdx x.a.toNat) o.body = some (.here (handleIdx x.a.toNat)) := by rw [hbody]; rfl
      refine ⟨fun e hpages => turn.next (performPsend w) hkind (performPsend_of_badPage hlost hown hread hdesc hto hpages),
        fun hpages => turn.next (performPsend w) hkind (performPsend_of_noPage hlost hown hread hdesc hto hpages),
        fun ls hpages hfull => turn.next (performPsend w) hkind (performPsend_of_full hlost hown hread hdesc hto hpages hfull),
        fun ls ps u p hpages hroom hgrant hdata => ?_⟩
      have hhere := performPsend_of_room (w := w) hlost hown hread hdesc hto hpages hroom hgrant hdata
      exact ⟨fun v hplain hwrite => turn.next (performPsend w) hkind (hhere.trans (psendHere_of_plain hplain hwrite)),
        fun v g hpaged hnew => turn.next (performPsend w) hkind (hhere.trans (psendHere_of_grant hpaged hnew)),
        fun hpaged hnew => turn.next (performPsend w) hkind (hhere.trans (psendHere_of_noSlot hpaged hnew))⟩
    case dead =>
      exact turn.next (performPsend w) hkind
        (performPsend_of_dead hlost hown hread hdesc (hbody ▸ State.sendTo_proxy_of_dead hnear))
    case gone =>
      exact turn.next (performPsend w) hkind
        (performPsend_of_lost hlost hown hread hdesc (hbody ▸ State.sendTo_proxy_of_lost hgone) hpages)
    case remote =>
      exact turn.next (performPsend w) hkind ((performPsend_of_remote hlost hown hread hdesc
        (hbody ▸ State.sendTo_proxy_of_remote hnear hhost hother) hpages hgrant hdata).trans (psendAway_of_plain hplain))
  case receive =>
    intro w t r d cap msgs lost hkind ⟨o, hown, hbody⟩ hread hdesc
    exact ⟨fun hempty => turn.next (performPrecv w) hkind (performPrecv_of_empty hown hbody hread hdesc hempty),
      fun m rest hfirst hmany => turn.next (performPrecv w) hkind
        (performPrecv_of_noRoom hown hbody hread hdesc hfirst (.inl hmany)),
      fun m rest hfirst _ hnone => turn.next (performPrecv w) hkind
        (performPrecv_of_noRoom hown hbody hread hdesc hfirst (.inr hnone)),
      fun m rest las u v hfirst hpages hland hpkg hdata hrec => turn.next (performPrecv w) hkind
        (performPrecv_of_message hown hbody hread hdesc hfirst hpages hland hpkg hdata hrec)⟩
  case revoke =>
    refine fun st n p serial hkind ⟨o, hown, hbody⟩ => ⟨fun hst => ?_,
      fun hst => turn.next performGrantrev hkind (performGrantrev_of_returned hown hbody hst),
      fun h y cap msgs lost m hst hp hport hy hmsg => ?_, fun g hst hp hsent => ?_⟩ <;> subst hst
    · exact turn.next performGrantrev hkind (performGrantrev_of_taken hown hbody)
    · subst hp
      exact turn.next performGrantrev hkind (performGrantrev_of_queued hown hbody hport hy hmsg)
    · subst hp
      exact turn.next performGrantrev hkind (performGrantrev_of_sent hown hbody hsent)
  case launch =>
    refine fun t b hkind hread => ⟨fun e hbad => turn.next performLaunch hkind (performLaunch_of_badHandle hread hbad),
      fun hhandles hproc => turn.next performLaunch hkind (performLaunch_of_noProcess hread hhandles hproc),
      fun hhandles hproc => ⟨fun c hentry => ?_, fun st hentry hstatus => ?_, fun hentry hstatus => ⟨?_, fun hcontract => ?_⟩⟩⟩
    · exact turn.next performLaunch hkind (performLaunch_of_badEntry hread hhandles hproc hentry)
    · exact turn.next performLaunch hkind (performLaunch_of_status hread hhandles hproc hentry hstatus)
    · exact turn.next performLaunch hkind (performLaunch_of_open hread hhandles hproc hentry rfl hstatus)
    · simp only [State.openLaunch, hcontract, if_true, Tbl.find_put_same, Inst.fresh]
  case contract =>
    refine fun t b hkind hread => ⟨fun hdesc => turn.next performCtadmit hkind (performCtadmit_of_badDesc hread hdesc),
      fun c hdesc => ⟨fun hasid htenant => turn.next performCtadmit hkind (performCtadmit_of_otherTenant hread hdesc hasid htenant),
        fun htenant hctr => ⟨fun hcores => ?_, fun hcores hboot => ⟨fun hadm => ?_, fun u i hadm hnew => ?_⟩⟩⟩⟩
    · exact turn.next performCtadmit hkind (performCtadmit_of_budget hread hdesc htenant hctr hcores)
    · exact turn.next performCtadmit hkind (performCtadmit_of_rejected hread hdesc htenant hctr hcores hadm)
    · exact turn.next performCtadmit hkind (performCtadmit_of_admitted hread hdesc htenant hctr hcores hboot hadm hnew)

/-- Settles O42: a call whose turn has come is performed by the function of its kind, and the hypotheses of each clause decide one case of
that function or of the Orrery's step. -/
theorem callEvents : Obligations.CallEvents := by
  unfold Obligations.CallEvents
  refine ⟨callEffects, fun id s x o hfind hready hclosed hown => ?owned, fun id s x hfind hready hclosed hnone hkind => ?unowned,
    fun id s x hfind hready hclosed hkind => ?lstat, fun n v s w hfired => ⟨execOrreryWake_of_suspend hfired,
      fun hon hdecided => ⟨execSuspendReplayWake_of_call hfired hon hdecided, execSuspendReplayWake_of_lost hfired hon hdecided⟩⟩,
    fun obj c d p n s o hobj hdue => ⟨execSiderealExpiry_of_once hobj hdue, execSiderealExpiry_of_period hobj hdue⟩,
    fun core obj w base s s1 o q t ts hobj hbody htasks hstage hwave hplace => ?form,
    fun obj slot s o q h rest hobj hbody hheld hslot hfree => execHeldSuccessorEnqueue_of_free hobj hbody hheld hslot hfree⟩
  case owned =>
    obtain ⟨rfl, turn⟩ := CallTurn.of_find hfind hready hclosed
    refine ⟨fun v hbody => ⟨fun hkind => turn.next performEcsig hkind (performEcsig_of_event hown hbody),
        fun hkind => turn.next performEcread hkind (performEcread_of_event hown hbody),
        fun hkind => turn.next performTdisarm hkind (performTdisarm_of_event hown hbody),
        fun hkind => turn.next performObjdel hkind (performObjdel_of_event hown hbody)⟩,
      fun ms hbody => ⟨fun i c v hkind hctr hevent => turn.next (performWsadd i) hkind (performWsadd_of_event hown hbody hctr hevent),
        fun i hkind => turn.next (performWsdel i) hkind (performWsdel_of_waitset hown hbody)⟩,
      fun c st d p n hbody => ⟨fun hkind hperiod => turn.next performTarm hkind (performTarm_of_once hown hbody hperiod),
        fun hkind hperiod => turn.next performTarm hkind (performTarm_of_period hown hbody hperiod),
        fun hkind hsome hshort => turn.next performTarm hkind (performTarm_of_short hown hbody hsome hshort),
        fun hkind => turn.next performTdisarm hkind (performTdisarm_of_timer hown hbody)⟩,
      fun hkind => turn.next performObjinfo hkind (performObjinfo_of_owned hown)⟩
  case unowned =>
    obtain ⟨rfl, turn⟩ := CallTurn.of_find hfind hready hclosed
    have hcrest : x.kind ≠ .crest := fun hcrest => by simp [hcrest] at hkind
    exact turn.next performCall rfl (performCall_of_unowned hnone hkind) hcrest
  case lstat =>
    obtain ⟨rfl, turn⟩ := CallTurn.of_find hfind hready hclosed
    exact turn.next performLstat hkind rfl
  case form =>
    exact congrArg Host.Outcome.next (taskWaveForm_of_room hobj hbody htasks hstage hwave hplace)

end Sys2Proof.Machine
end

section
/-! PROOFS. Calls without a record where they issue (R331 to R333), `suspend` and `syscall` (R344, R355): which lanes call, and what a
call carries. -/

namespace Sys2Proof.Machine

/-! ## Calls without a record -/

/-- R331: a call that no lane's fault can hold back is made by every passing lane. -/
theorem completes_laneCalls {i : Instr} {h : Hdr} {kind : CallOp} {o : FmtK} {args : Ctx → CallArgs} (hkind : kind.isOrrery = true)
    (hexec : ∀ s, exec i s = issue i s (laneCalls kind o args false noFaults)) : Completes i h (sendLaneCalls kind o args false) :=
  completes_of_body hexec fun _ _ => laneCalls_of_noFaults hkind rfl

/-- No entry breaks R35, so no lane takes MISALIGNED_PC. -/
theorem entryFaults_of_pcOk {o : Opnd} {k : Ctx} (hok : ∀ l ∈ lanesOf k.pass, pcOk (k.u64 o l) = true) (s : State) :
    entryFaults o k s = [] :=
  List.filterMap_eq_nil_iff.mpr fun l hl => by rw [if_pos (hok l hl)]

theorem isZeroCode_eq_decide (o : Opnd) : isZeroCode o = decide (o = .int 0) := rfl

theorem isZeroCode_eq_false {o : Opnd} (h : isZeroCode o = false) : o ≠ .int 0 := of_decide_eq_false h

/-- Settles O34: no lane faults where the entries are well-placed, so each passing lane's call is sent. -/
theorem callComplete : Obligations.CallComplete := by
  unfold Obligations.CallComplete
  refine ⟨⟨fun h o => ?wcreate, fun h o => completes_laneCalls rfl fun _ => rfl, fun h o => completes_laneCalls rfl fun _ => rfl,
    fun h o => completes_laneCalls rfl fun _ => rfl, fun h o => completes_laneCalls rfl fun _ => rfl,
    fun h o => completes_laneCalls rfl fun _ => rfl, fun h o => completes_laneCalls rfl fun _ => rfl,
    fun h o => completes_laneCalls rfl fun _ => rfl, fun h o => completes_laneCalls rfl fun _ => rfl,
    fun h o => completes_laneCalls rfl fun _ => rfl, fun h o => completes_laneCalls rfl fun _ => rfl,
    fun h o => completes_laneCalls rfl fun _ => rfl, fun h o => completes_laneCalls rfl fun _ => rfl,
    fun h o => completes_laneCalls rfl fun _ => rfl⟩, fun k tenant kind d a b c v susp l m => ?carried⟩
  case wcreate =>
    exact completesAt_of_body (fun _ => rfl) fun k t hok => laneCalls_of_noFaults rfl (entryFaults_of_pcOk hok t)
  case carried => simp only [Ctx.call, isZeroCode_eq_decide, Ctx.taskDepth]

/-! ## The calls of a split -/

/-- What the issue of one call for all passing lanes does: the call is sent and counted as event 11, and the lanes are SUSPENDED at
the instruction (R324). -/
def sendSplitCall (x : Call) (k : Ctx) (s : State) : State :=
  ((s.addCalls [x]).modCore k.core (fun c => c.countEv 11 1)).onWave k (fun y =>
    y.moveTo k.pass k.pc (.suspended (.call k.op)) k.clock)

theorem sendCalls_of_split {k : Ctx} {x : Call} (hpass : k.pass ≠ 0) (hkind : x.kind.isOrrery = true) (s : State) :
    sendCalls k true [] [x] s = sendSplitCall x k s := by
  have hsome : (k.pass != 0) = true := bne_iff_ne.mpr hpass
  simp only [sendCalls, sendSplitCall, callLanes_nil, laneSet_lanesOf, hsome, Bool.and_true, if_true, List.filter_cons, hkind,
    List.filter_nil, List.length_singleton, List.isEmpty_cons, Bool.false_eq_true, if_false, State.laneFaults_nil]

section Suspend
variable {o : FmtK} {cont : Ctx → Nat} {k : Ctx}

theorem suspendBody_of_noPass (hpass : k.pass = 0) (s : State) : suspendBody o cont k s = s := if_pos hpass

/-- R344: a continuation that passes both checks of R37 lets the split call. -/
theorem suspendBody_of_target {s : State} (hpass : k.pass ≠ 0) (htarget : (s.entryCheck k.core k.asid (cont k)).2 = none) :
    suspendBody o cont k s = sendSplitCall (k.call (s.tenantOfAsid k.asid) (.suspend (BitVec.ofNat 56 (cont k))) o.d o.a o.b o.c
      (argsPP o k k.low) true k.low k.pass) k (s.entryCheck k.core k.asid (cont k)).1 := by
  simp only [suspendBody, hpass, if_false, htarget]
  exact sendCalls_of_split hpass rfl _

end Suspend

/-- The bitmap word that operand a of a `syscall` names, if it names one, can be reached, is aligned to 4 and lies on no MANUAL page
(R355). -/
def BitmapGood (o : FmtK) (k : Ctx) (s : State) : Prop :=
  o.a ≠ .int 0 → ∃ ps, k.acc s (rightR + rightW) (k.u64 o.a k.low) 4 = .ok ps ∧ k.u64 o.a k.low % 4 = 0
    ∧ ps.any (fun p => leafKind p.leaf == 2) = false ∧ s.physFault (s.tenantOfAsid k.asid) ps = none

section Syscall
variable {o : FmtK} {k : Ctx} {s : State}

theorem mapAcc_misses_of_good (hmap : BitmapGood o k s) : (mapAcc o k s).misses = [] := by
  cases hzero : isZeroCode o.a
  · obtain ⟨ps, hacc, -⟩ := hmap (isZeroCode_eq_false hzero)
    simp [mapAcc, hzero, hacc, Acc.misses]
  · simp [mapAcc, hzero, Acc.misses]

theorem mapFault_of_good (hmap : BitmapGood o k s) : mapFault o k s = none := by
  cases hzero : isZeroCode o.a
  · obtain ⟨ps, hacc, halign, hkind, hphys⟩ := hmap (isZeroCode_eq_false hzero)
    have hmapAcc : mapAcc o k s = .ok ps := by simp [mapAcc, hzero, hacc]
    simp only [mapFault, hzero, hmapAcc, Acc.err, Acc.pieces, halign, hkind, hphys]
    rfl
  · simp [mapFault, hzero]

theorem syscallWait_of_noPass (hpass : k.pass = 0) : syscallWait o k s = none := if_pos hpass

theorem syscallWait_of_good (hmap : BitmapGood o k s) (hrecs : RecordsGood (fixedLen 128) (rightR + rightW) o.b k s) :
    syscallWait o k s = none := by
  have hwait := recWait_of_good hrecs
  simp only [recWait, waitMisses] at hwait
  simp only [syscallWait, waitMisses, List.flatMap_cons, mapAcc_misses_of_good hmap, List.nil_append, hwait, ite_self]

theorem syscallBody_of_noPass (hpass : k.pass = 0) : syscallBody o k s = s := if_pos hpass

/-- R355: where the bitmap word and every record can be reached the split makes one call, with the records of all its lanes. -/
theorem syscallBody_of_good (hpass : k.pass ≠ 0) (hmap : BitmapGood o k s)
    (hrecs : RecordsGood (fixedLen 128) (rightR + rightW) o.b k s) : syscallBody o k s =
      sendSplitCall { k.call (s.tenantOfAsid k.asid) (.syscall o.imm.toNat) o.d o.a o.b o.c (argsPP o k k.low) true k.low k.pass with
        recs := (lanesOf k.pass).map (fun l => (l, k.u64 o.b l)) } k s := by
  have hlanes : (lanesOf k.pass).isEmpty = false := by simpa using lanesOf_ne_nil hpass
  have hlowest : lowestLane k.pass = k.low := rfl
  have hwrites : (!o.d.isS || k.low == k.low) = true := by simp
  simp only [syscallBody, hpass, if_false, mapFault_of_good hmap, recFaults_of_good hrecs, callLanes_nil, laneSet_lanesOf, hlanes,
    Bool.false_eq_true, hlowest]
  rw [sendCalls_of_split hpass rfl]
  simp only [Ctx.call, hwrites]

end Syscall

/-- Settles O36: `suspend` by the check of its continuation, `syscall` by what its bitmap word and its records meet. -/
theorem suspendComplete : Obligations.SuspendComplete := by
  unfold Obligations.SuspendComplete
  refine ⟨fun h o => completesAt_of_body (fun _ => rfl) fun k t ⟨hpass, htarget⟩ => suspendBody_of_target hpass htarget,
    fun h o => completesAt_of_body (fun _ => rfl) fun k t ⟨hpass, htarget⟩ => suspendBody_of_target hpass htarget,
    fun h o => completesAt_of_bodyWhen (fun _ => rfl) (fun k t ⟨_, hmap, hrecs⟩ => syscallWait_of_good hmap hrecs)
      fun k t ⟨hpass, hmap, hrecs⟩ => syscallBody_of_good hpass hmap hrecs,
    fun h o => List.forall_mem_cons.mpr ⟨?pcRelative, List.forall_mem_singleton.mpr ?absolute⟩,
    fun h o => completesAt_of_bodyWhen (fun _ => rfl) (fun k t hpass => syscallWait_of_noPass hpass)
      fun k t hpass => syscallBody_of_noPass hpass⟩
  case pcRelative => exact completesAt_of_body (fun _ => rfl) fun k t hpass => suspendBody_of_noPass hpass t
  case absolute => exact completesAt_of_body (fun _ => rfl) fun k t hpass => suspendBody_of_noPass hpass t

end Sys2Proof.Machine
end

section
/-! PROOFS. Bytes as numbers: what a field of bytes reads back as, where they are laid out in sections one after the other. -/

namespace Sys2Proof.Machine

theorem ofBytes_bytesOf (n x : Nat) : ofBytes (bytesOf n x) = x % 256 ^ n := by
  induction n generalizing x with
  | zero => simp [bytesOf, ofBytes, Nat.mod_one]
  | succ n ih =>
    have hsplit : x % 256 ^ (n + 1) = x % 256 + 256 * (x / 256 % 256 ^ n) := by rw [Nat.pow_succ', Nat.mod_mul]
    rw [bytesOf, ofBytes, ih, BitVec.toNat_ofNat, hsplit]

theorem recNum_append_left {a : List Byte} {lo n : Nat} (h : lo + n ≤ a.length) (b : List Byte) :
    recNum (a ++ b) lo n = recNum a lo n := by
  rw [recNum, recNum, List.drop_append_of_le_length (by omega), List.take_append_of_le_length (by simp; omega)]

theorem recNum_append_right (a b : List Byte) (lo n : Nat) : recNum (a ++ b) (a.length + lo) n = recNum b lo n := by
  rw [recNum, recNum, ← List.drop_drop, List.drop_left]

/-- The whole of a number's bytes reads back as the number. -/
theorem recNum_bytesOf {n x : Nat} (hfits : x < 256 ^ n) : recNum (bytesOf n x) 0 n = x := by
  rw [recNum, List.drop_zero, List.take_of_length_le (length_bytesOf n x).le, ofBytes_bytesOf, Nat.mod_eq_of_lt hfits]

/-- Where the j-th of some sections of bytes starts. -/
def sectionAt (bss : List (List Byte)) (j : Nat) : Nat := ((bss.take j).map List.length).sum

/-- What lies in one section is read from that section. -/
theorem recNum_flatten {bss : List (List Byte)} {bs : List Byte} {lo n : Nat} (j : Nat) (hsec : bss[j]? = some bs)
    (hin : lo + n ≤ bs.length) : recNum bss.flatten (sectionAt bss j + lo) n = recNum bs lo n := by
  induction bss generalizing j with
  | nil => simp at hsec
  | cons a t ih =>
    cases j with
    | zero =>
      obtain rfl : a = bs := by simpa using hsec
      simpa [sectionAt] using recNum_append_left hin t.flatten
    | succ j =>
      have hskip := recNum_append_right a t.flatten (sectionAt t j + lo) n
      rw [ih j (by simpa using hsec), ← Nat.add_assoc] at hskip
      simpa [sectionAt] using hskip

/-- A number that is a section reads back, where it fits its bytes. -/
theorem recNum_section {bss : List (List Byte)} {n x off : Nat} (j : Nat) (hsec : bss[j]? = some (bytesOf n x))
    (hoff : sectionAt bss j = off) (hfits : x < 256 ^ n) : recNum bss.flatten off n = x := by
  have hread := recNum_flatten j hsec (lo := 0) (n := n) (by simp)
  rwa [Nat.add_zero, hoff, recNum_bytesOf hfits] at hread

end Sys2Proof.Machine
end

section
/-! PROOFS. Traps (R354, R379, R380, R133): the fault record and its port, and the fate of the lanes that take the trap. -/

namespace Sys2Proof.Machine

/-! ## The fault record and its port -/

/-- The fields of Table 13-11. -/
def faultSections (cause sec lost : Nat) (lanes : Lanes) (pc : PC) (addr core wave task : Nat) : List (List Byte) :=
  [bytesOf 4 (cause + lost * 2 ^ 8 + sec * 2 ^ 16), bytesOf 4 lanes.toNat, bytesOf 8 pc.toNat, bytesOf 8 addr,
    bytesOf 4 (core + wave * 2 ^ 16), bytesOf 4 task, bytesOf 32 0]

theorem faultRecord_eq_sections {cause sec lost core wave : Nat} (hcause : cause < 256) (hsec : sec < 256) (hlost : lost < 256)
    (hcore : core < 1024) (hwave : wave < 128) (lanes : Lanes) (pc : PC) (addr task : Nat) :
    faultRecord cause sec lost lanes pc addr core wave task = (faultSections cause sec lost lanes pc addr core wave task).flatten := by
  simp [faultRecord, faultSections, Nat.mod_eq_of_lt hcause, Nat.mod_eq_of_lt hsec, Nat.mod_eq_of_lt hlost, Nat.mod_eq_of_lt hcore,
    Nat.mod_eq_of_lt hwave]

/-- R354: PAGE_FAULT and PAGE_PERM go to the pager port, where there is one. -/
theorem Proc.portFor_eq (p : Proc) (cause : Nat) : p.portFor cause =
    if (cause = 0x10 ∨ cause = 0x11) ∧ p.pagerPort ≠ 0 then p.pagerPort.toNat else p.faultPort.toNat := by
  simp [Proc.portFor, resumable]

section Port
variable {s : State} {h cap lost : Nat} {o : Obj} {msgs : List Msg} (hport : s.named h = some o) (hbody : o.body = .port cap msgs lost)
include hport hbody

/-- The record joins a port with room, with the count of those lost before it. -/
theorem State.sendRecord_of_room (hroom : msgs.length < cap) (hlost : lost < 256) (asid : Nat) (mk : Nat → List Byte) :
    ∃ x : Msg, x.payload = mk lost ∧
      s.sendRecord h asid mk = (s.setBody (handleIdx h) (.port cap (msgs ++ [x]) 0)).poke (.change (handleIdx h)) := by
  have hcount : min lost 255 = lost := by omega
  simp only [State.sendRecord, hport, hbody, hroom, if_true, hcount]
  exact ⟨_, rfl, rfl⟩

/-- A full port counts the record as lost. -/
theorem State.sendRecord_of_full (hfull : cap ≤ msgs.length) (asid : Nat) (mk : Nat → List Byte) :
    s.sendRecord h asid mk = s.setBody (handleIdx h) (.port cap msgs (lost + 1)) := by
  simp only [State.sendRecord, hport, hbody, Nat.not_lt.mpr hfull, if_false]

end Port

theorem State.record_of_process {s : State} {c w : Nat} {p : Proc} (hproc : Tbl.find s.procs (s.asidOf c w) = some p) (m : Lanes)
    (cause sec : Nat) (pc : PC) (addr id : Nat) : s.record c w m cause sec pc addr id =
      s.sendRecord (p.portFor cause) (s.asidOf c w) (fun lost => faultRecord cause sec lost m pc addr c w id) := by
  simp only [State.record, hproc]

/-! ## The fate of a trap -/

theorem fateOf_of_page {cause : Nat} (h : cause = 0x10 ∨ cause = 0x11) : fateOf cause = .park := by
  rcases h with rfl | rfl <;> rfl

theorem fateOf_of_debug {cause : Nat} (h : cause = 0x0A ∨ cause = 0x0B) : fateOf cause = .stop := by
  rcases h with rfl | rfl <;> rfl

theorem fateOf_of_other {cause : Nat} (h : cause ∉ [0x0A, 0x0B, 0x10, 0x11]) : fateOf cause = .ends := by
  simp only [List.mem_cons, List.not_mem_nil, or_false, not_or] at h
  obtain ⟨hbkpt, hstep, hfault, hperm⟩ := h
  simp [fateOf, resumable, hbkpt, hstep, hfault, hperm]

section Trap
variable {s : State} {c w cause : Nat} {m : Lanes} {x : Wave} (hwave : s.wave? c w = some x)
include hwave

/-- Lanes that have left the wave take nothing. -/
theorem State.takeTrap_of_gone (hgone : m &&& x.lanes = 0) (sec : Nat) (pc : PC) (addr : Nat) (goOn : PC) :
    s.takeTrap c w m cause sec pc addr goOn = s := by
  simp only [State.takeTrap, hwave, hgone, if_true]

variable (hlanes : m &&& x.lanes ≠ 0)
include hlanes

theorem State.takeTrap_of_page (hcause : cause = 0x10 ∨ cause = 0x11) (sec : Nat) (pc : PC) (addr : Nat) (goOn : PC) :
    s.takeTrap c w m cause sec pc addr goOn = (s.record c w (m &&& x.lanes) cause sec pc addr (x.taskId (m &&& x.lanes))).modWave c w
      (fun y => y.moveTo (m &&& x.lanes) pc (.parked cause sec addr false) s.clock) := by
  simp only [State.takeTrap, hwave, hlanes, if_false, fateOf_of_page hcause]

theorem State.takeTrap_of_debug (hcause : cause = 0x0A ∨ cause = 0x0B) (sec : Nat) (pc : PC) (addr : Nat) (goOn : PC) :
    s.takeTrap c w m cause sec pc addr goOn = (s.record c w (m &&& x.lanes) cause sec pc addr (x.taskId (m &&& x.lanes))).modWave c w
      (fun y => (if y.chkctl.getLsbD 8 then y.stopAll cause else y).moveTo (m &&& x.lanes) goOn (.stopped cause) s.clock) := by
  simp only [State.takeTrap, hwave, hlanes, if_false, fateOf_of_debug hcause]

theorem State.takeTrap_of_fatal (hcause : cause ∉ [0x0A, 0x0B, 0x10, 0x11]) (sec : Nat) (pc : PC) (addr : Nat) (goOn : PC) :
    s.takeTrap c w m cause sec pc addr goOn = if s.versionOpen c = true then s.endCrew c w (m &&& x.lanes) cause pc addr
      else (s.record c w (m &&& x.lanes) cause sec pc addr (x.taskId (m &&& x.lanes))).exitLanes c w (m &&& x.lanes) := by
  simp only [State.takeTrap, hwave, hlanes, if_false, fateOf_of_other hcause]

end Trap

/-- Settles O57: the fate by the cause, and for a cause that ends lanes by whether a version is open; no part of a trap writes a
memory. -/
theorem trapTaken : Obligations.TrapTaken := by
  unfold Obligations.TrapTaken
  intro s c w m n cause sec addr pc goOn x hwave hn hlanes
  subst hn
  refine ⟨fun hcause => State.takeTrap_of_page hwave hlanes hcause sec pc addr goOn,
    fun hcause => State.takeTrap_of_debug hwave hlanes hcause sec pc addr goOn, fun hcause hclosed => ?closed, fun hcause hopen => ?opened,
    congrArg Prod.fst (State.takeTrap_mems ..), fun d hgone => State.takeTrap_of_gone hwave hgone sec pc addr goOn⟩
  case closed => rw [State.takeTrap_of_fatal hwave hlanes hcause, if_neg (Bool.eq_false_iff.mp hclosed)]
  case opened => rw [State.takeTrap_of_fatal hwave hlanes hcause, if_pos hopen]

end Sys2Proof.Machine

namespace Sys2Proof

open Machine

/-- Settles O58: the record by its sections, the port by the cause, and the sending by whether the port has room. -/
theorem faultRecord : Obligations.FaultRecord := by
  unfold Obligations.FaultRecord
  refine ⟨fun cause sec lost addr core wave task lanes pc hcause hsec hlost hcore hwave haddr htask => ?fields, Proc.portFor_eq,
    fun s p c w m cause sec addr id pc hproc => State.record_of_process hproc m cause sec pc addr id,
    fun s h asid cap lost mk o msgs hport hbody => ⟨fun hroom hlost => State.sendRecord_of_room hport hbody hroom hlost asid mk,
      fun hfull => State.sendRecord_of_full hport hbody hfull asid mk⟩⟩
  case fields =>
    have hlanes := lanes.isLt
    have hpc := pc.isLt
    rw [faultRecord_eq_sections hcause hsec hlost hcore hwave]
    refine ⟨?length, recNum_section 0 rfl rfl (by omega), recNum_section 1 rfl rfl (by omega), recNum_section 2 rfl rfl (by omega),
      recNum_section 3 rfl rfl (by omega), recNum_section 4 rfl rfl (by omega), recNum_section 5 rfl rfl (by omega),
      recNum_section 6 rfl rfl (by norm_num)⟩
    case length => simp [faultSections]

end Sys2Proof
end

section
/-! PROOFS. The Dusk instructions where they issue (R385, R393 to R399): hints, traps, `rett`, and how the supervisor's calls begin. -/

namespace Sys2Proof.Machine

/-! ## phint -/

section Hint
variable {o : FmtI} {k : Ctx} (s : State)

theorem phintBody_of_misaligned (hmis : k.u32 o.a (lowestLane k.lanes) % 128 ≠ 0) : phintBody o k s =
    s.takeTrap k.core k.wave k.lanes 0x14 0 k.pc (k.u32 o.a (lowestLane k.lanes)) k.pc := if_pos hmis

variable (haligned : k.u32 o.a (lowestLane k.lanes) % 128 = 0)
include haligned

theorem phintBody_of_outside (hout : k.x.abytes < k.u32 o.a (lowestLane k.lanes) + 128) : phintBody o k s =
    s.takeTrap k.core k.wave k.lanes 0x1A 0 k.pc (k.u32 o.a (lowestLane k.lanes)) k.pc := by
  simp only [phintBody, haligned, ne_eq, not_true_eq_false, if_false, hout, if_true]

theorem phintBody_of_inside (hin : k.u32 o.a (lowestLane k.lanes) + 128 ≤ k.x.abytes) : phintBody o k s =
    hintNow k (some (k.u32 o.a (lowestLane k.lanes))) s := by
  simp only [phintBody, haligned, ne_eq, not_true_eq_false, if_false, Nat.not_lt.mpr hin]

end Hint

/-! ## rett -/

/-- One more bit in a field that is 0 makes it nonzero. -/
theorem fieldOf_add_two_pow {x lo w p : Nat} (hlo : lo ≤ p) (hp : p < lo + w) (hzero : fieldOf x lo w = 0) :
    fieldOf (x + 2 ^ p) lo w ≠ 0 := by
  have hpow : 2 ^ p = 2 ^ (p - lo) * 2 ^ lo := by rw [← Nat.pow_add, Nat.sub_add_cancel hlo]
  have hlt : 2 ^ (p - lo) < 2 ^ w := Nat.pow_lt_pow_right (by norm_num) (by omega)
  unfold fieldOf at hzero ⊢
  rw [hpow, Nat.add_mul_div_right _ _ (by positivity), Nat.add_mod, hzero, Nat.zero_add, Nat.mod_mod, Nat.mod_eq_of_lt hlt]
  positivity

/-- The word of a `rett`: core, wave and lanes (R396). -/
def rettWord (core w : Nat) (m : Lanes) : Nat := m.toNat * 2 ^ 32 + w * 2 ^ 16 + core

theorem rettWord_core {core w : Nat} (hcore : core < 1024) (m : Lanes) : fieldOf (rettWord core w m) 0 10 = core := by
  simp only [fieldOf, rettWord]
  omega

theorem rettWord_gap {core w : Nat} (hcore : core < 1024) (m : Lanes) : fieldOf (rettWord core w m) 10 6 = 0 := by
  simp only [fieldOf, rettWord]
  omega

section Rett
variable {core w : Nat} (hcore : core < 1024) (hw : w < 128) (m : Lanes)
include hcore hw

theorem rettWord_wave : fieldOf (rettWord core w m) 16 7 = w := by
  simp only [fieldOf, rettWord]
  omega

theorem rettWord_top : fieldOf (rettWord core w m) 23 9 = 0 := by
  simp only [fieldOf, rettWord]
  omega

theorem rettWord_lanes : BitVec.ofNat 32 (rettWord core w m / 2 ^ 32) = m := by
  have hdiv : rettWord core w m / 2 ^ 32 = m.toNat := by
    simp only [rettWord]
    omega
  rw [hdiv, BitVec.ofNat_toNat, BitVec.setWidth_eq]

/-- R396: a caller that may resume the wave makes the lanes that the word names READY. -/
theorem rettOne_of_allowed {asid : Nat} {s : State} (hmay : asid = 0 ∨ s.asidOf core w = asid) (step : Bool) :
    rettOne asid (rettWord core w m) step s = s.modWave core w (fun y => y.resumeStopped m step s.clock) := by
  simp only [rettOne, rettWord_core hcore, rettWord_gap hcore, rettWord_wave hcore hw, rettWord_top hcore hw,
    rettWord_lanes hcore hw]
  exact if_neg (by tauto)

/-- A wave of another process is not touched. -/
theorem rettOne_of_denied {asid : Nat} {s : State} (hsup : asid ≠ 0) (hother : s.asidOf core w ≠ asid) (step : Bool) :
    rettOne asid (rettWord core w m) step s = s := by
  simp only [rettOne, rettWord_core hcore, rettWord_wave hcore hw]
  exact if_pos (.inr (.inr ⟨hsup, hother⟩))

end Rett

/-- A word with a nonzero reserved bit has no effect. -/
theorem rettOne_of_reserved {x : Nat} (h : fieldOf x 10 6 ≠ 0 ∨ fieldOf x 23 9 ≠ 0) (asid : Nat) (step : Bool) (s : State) :
    rettOne asid x step s = s := if_pos (by tauto)

/-- Settles O37: `phint` by its address, and `rett` by the fields of its word. -/
theorem duskComplete : Obligations.DuskComplete := by
  unfold Obligations.DuskComplete
  refine ⟨⟨fun h o => completesAt_of_body (fun _ => rfl) fun k t ⟨haligned, hin⟩ => phintBody_of_inside t haligned hin,
    fun h o => completesAt_of_body (fun _ => rfl) fun k t hmis => phintBody_of_misaligned t hmis,
    fun h o => completesAt_of_body (fun _ => rfl) fun k t ⟨haligned, hout⟩ => phintBody_of_outside t haligned hout,
    fun h o => completes_of_body (fun _ => rfl) fun k t => ?full, fun h o => completes_of_body (fun _ => rfl) fun _ _ => rfl,
    fun h o => completes_of_body (fun _ => rfl) fun _ _ => rfl, fun h o => completes_of_body (fun _ => rfl) fun _ _ => rfl,
    fun h o => completes_of_body (fun _ => rfl) fun _ _ => rfl⟩, fun asid core w m step s hcore hw => ?word⟩
  case full => rfl
  case word =>
    refine ⟨fun hmay => ?allowed, fun ⟨hsup, hother⟩ => rettOne_of_denied hcore hw m hsup hother step,
      fun j hj => rettOne_of_reserved (.inl ?low) asid step s, fun j hj => rettOne_of_reserved (.inr ?high) asid step s⟩
    case allowed =>
      have hframe := onlyWave_modWave s core w (fun y => y.resumeStopped m step s.clock)
      rw [← rettOne_of_allowed hcore hw m hmay step] at hframe
      exact ⟨rettOne_of_allowed hcore hw m hmay step, hframe.cores, hframe.outside, hframe.core.waves⟩
    case low => exact fieldOf_add_two_pow (by omega) (by omega) (rettWord_gap hcore m)
    case high => exact fieldOf_add_two_pow (by omega) (by omega) (rettWord_top hcore hw m)

/-! ## The supervisor's calls -/

/-- What the issue of a supervisor call of each passing lane does before the calls begin: event 11 counts none of them (R428). -/
def sendSupervisorCalls (cs : List Call) (k : Ctx) (s : State) : State :=
  (s.addCalls cs).modCore k.core (fun c => c.countEv 11 0)

theorem sendCalls_of_supervisor {k : Ctx} {f : Nat → Call} (hkind : ∀ l, (f l).kind.isOrrery = false) (s : State) :
    sendCalls k false [] ((lanesOf k.pass).map f) s = sendSupervisorCalls ((lanesOf k.pass).map f) k s := by
  have hnone : ((lanesOf k.pass).map f).filter (fun x => x.kind.isOrrery) = [] :=
    List.filter_eq_nil_iff.mpr (List.forall_mem_map.mpr fun l _ => by simp [hkind])
  have hmade : ((lanesOf k.pass).isEmpty && k.pass != 0) = false := by
    simpa using fun hnil => by rw [← laneSet_lanesOf k.pass, hnil]; rfl
  simp only [sendCalls, sendSupervisorCalls, hnone, List.length_nil, List.isEmpty_map, hmade, Bool.false_and, Bool.false_eq_true,
    if_false, State.laneFaults_nil]

/-- No passing lane's range leaves the address space. -/
theorem ptinvFaults_of_inside {o : FmtM} {k : Ctx} (hin : ∀ l ∈ lanesOf k.pass, k.u32 o.b l = 0 ∨ outside (k.ea o l) (k.u32 o.b l) = false) :
    ptinvFaults o k = [] :=
  List.filterMap_eq_nil_iff.mpr fun l hl => if_neg fun ⟨hsome, hout⟩ => by
    rcases hin l hl with hzero | hinside
    · exact hsome hzero
    · exact Bool.false_ne_true (hinside.symm.trans hout)

/-- R399: the shootdowns of the passing lanes begin. -/
theorem ptinvBody_of_inside {o : FmtM} {k : Ctx} (mode : Nat)
    (hin : ∀ l ∈ lanesOf k.pass, k.u32 o.b l = 0 ∨ outside (k.ea o l) (k.u32 o.b l) = false) (s : State) : ptinvBody o mode k s =
      (sendSupervisorCalls ((lanesOf k.pass).map (fun l => { k.call (s.tenantOfAsid k.asid) (.ptinv mode) o.d o.a o.b o.d
        (k.ea o l, k.u32 o.b l, k.u32 o.d l) false l (laneBit l) with writes := false })) k s).beginCalls k (beginPtinv mode) := by
  simp only [ptinvBody, ptinvFaults_of_inside hin, callLanes_nil]
  rw [sendCalls_of_supervisor fun _ => rfl]

/-! ## How the supervisor's calls begin -/

/-- R397: a crew that is no stage context is pre-empted to be held, once it has started. -/
theorem beginCsave_of_crew {x : Call} {s : State} {k : Crew} (hcrew : s.crew? x.a.toNat = some k) (hcore : x.a.toNat ≤ 1023)
    (hstage : k.stage = none) : beginCsave x s = if s.clock < k.startedAt then s.reply x 2 (failWord stBusy)
      else (s.askPreempt x.a.toNat 3 true none).markSent x k.uid := by
  have hmay : ¬(1023 < x.a.toNat ∨ k.stage.isSome = true) := by simp [hstage, hcore]
  simp only [beginCsave, hcrew, hmay, if_false]

theorem beginCsave_of_none {x : Call} {s : State} (hcrew : s.crew? x.a.toNat = none) (hsaving : s.savingAt x.a.toNat = none) :
    beginCsave x s = s.reply x 2 (failWord stNotFound) := by
  simp only [beginCsave, hcrew, hsaving]

/-- R398: only a HELD frame with a crew is taken. -/
theorem beginCrest_of_notHeld {x : Call} {s : State}
    (h : ∀ f, Tbl.find s.frames x.a.toNat = some f → f.crew = none ∨ f.state ≠ 3) : beginCrest x s = s.reply x 1 stNotFound := by
  cases hframe : Tbl.find s.frames x.a.toNat with
  | none => simp only [beginCrest, hframe]
  | some f =>
    cases hcrew : f.crew with
    | none => simp only [beginCrest, hframe, hcrew]
    | some k =>
      have hstate : f.state ≠ 3 := (h f hframe).resolve_left (by simp [hcrew])
      simp only [beginCrest, hframe, hcrew, hstate, ne_eq, not_false_eq_true, if_true]

theorem beginPtinv_of_nothing {x : Call} {s : State} (mode : Nat)
    (h : x.b.toNat % 2 ^ 32 = 0 ∨ Tbl.find s.procs (x.c.toNat % 65536) = none) : beginPtinv mode x s = s.reply x 0 0 :=
  if_pos (h.imp_right Option.isNone_iff_eq_none.mpr)

/-- Settles O38: the calls are sent as those of the Orrery but are not counted, and each begins by what its operand names. -/
theorem supervisorComplete : Obligations.SupervisorComplete := by
  unfold Obligations.SupervisorComplete
  refine ⟨⟨fun h o => completes_of_body (fun _ => rfl) fun k t => ?csave, fun h o => completes_of_body (fun _ => rfl) fun k t => ?crest,
      fun h o => completesAt_of_body (fun _ => rfl) fun k t hin => ptinvBody_of_inside 0 hin t,
      fun h o => completesAt_of_body (fun _ => rfl) fun k t hin => ptinvBody_of_inside 1 hin t,
      fun h o => completesAt_of_body (fun _ => rfl) fun k t hin => ptinvBody_of_inside 2 hin t⟩,
    fun x s k hcrew hcore hstage => ⟨fun hstarted => ?started, fun hstarting => ?starting⟩, fun x s => beginCsave_of_none,
    fun x s => beginCrest_of_notHeld, fun x s mode => ⟨beginPtinv_of_nothing mode, fun ⟨hsome, hproc⟩ => ?shoot⟩⟩
  case csave => exact congrArg (State.beginCalls · k beginCsave) (sendCalls_of_supervisor (fun _ => rfl) t)
  case crest => exact congrArg (State.beginCalls · k beginCrest) (sendCalls_of_supervisor (fun _ => rfl) t)
  case started => exact (beginCsave_of_crew hcrew hcore hstage).trans (if_neg (Nat.not_lt.mpr hstarted))
  case starting => exact (beginCsave_of_crew hcrew hcore hstage).trans (if_pos hstarting)
  case shoot => exact if_neg (not_or.mpr ⟨hsome, by simpa [Option.isSome_iff_ne_none] using hproc⟩)

end Sys2Proof.Machine
end

section
/-! PROOFS. Words written out from the layouts (Tables 2-3 and 2-5 to 2-10): each is the encoding of its instruction. -/

namespace Sys2Proof.Machine

/-- The encoding of a well-formed instruction decodes to it. -/
theorem decode_of_encode {i : Instr} {w : Nat} (hwf : i.wellFormed = true) (hw : encode i = w) : decode w = .ok i :=
  hw ▸ decodeEncode i hwf

/-- Settles O49: the words of instructions are their encodings, and the others fail the first check of the decoder that they meet. -/
theorem decodeWords : Obligations.DecodeWords := by
  unfold Obligations.DecodeWords
  exact ⟨decode_of_encode rfl rfl, decode_of_encode rfl rfl, decode_of_encode rfl rfl, decode_of_encode rfl rfl,
    decode_of_encode rfl rfl, decode_of_encode rfl rfl, decode_of_encode rfl rfl, decode_of_encode rfl rfl,
    decode_of_encode rfl rfl, decode_of_encode rfl rfl, decode_of_encode rfl rfl, decode_of_encode rfl rfl,
    decode_of_encode rfl rfl, decode_of_encode rfl rfl, decode_of_encode rfl rfl, decode_of_encode rfl rfl,
    decode_of_encode rfl rfl, rfl, rfl, rfl⟩

end Sys2Proof.Machine
end

section
/-! PROOFS. Claims, starts and retirements (R28, R29, R360 to R364): one rule for each step of a die's agent and of a crew. -/

namespace Sys2Proof.Machine

/-! ## Claims -/

section Claims
variable {die : Nat} {s : State} (hrt : s.rtResume die = none)
include hrt

/-- Rule 2 of R361: the lowest free core with work of a contract to claim is served. -/
theorem dieAgentClaim_of_instance {c dl ix serial k : Nat}
    (hfirst : ((s.freeCores die).filterMap (fun c => (s.instanceOn c).map (fun i => (c, i)))).head? = some (c, dl, ix, serial, k)) :
    dieAgentClaim die s = s.claimFor serial k 1 (fun _ _ => c) := by
  simp only [dieAgentClaim, hrt, Option.isSome_none, Bool.false_eq_true, if_false, hfirst]

variable (hnone : ∀ c ∈ s.freeCores die, s.instanceOn c = none) (hnormal : s.normalResume die = none)
include hnone hnormal

theorem dieAgentClaim_of_gathered {x serial : Nat} {l : Launch} (hgathered : s.gathered die = some (x, serial, l)) :
    dieAgentClaim die s = ({ s with gathers := Tbl.del s.gathers die } : State).claimGangs serial l [x] := by
  have hempty : (s.freeCores die).filterMap (fun c => (s.instanceOn c).map (fun i => (c, i))) = [] :=
    List.filterMap_eq_nil_iff.mpr fun c hc => by rw [hnone c hc]; rfl
  simp only [dieAgentClaim, hrt, hempty, hnormal, hgathered, List.head?_nil, Option.isSome_none, Bool.false_eq_true, if_false]

theorem dieAgentClaim_of_normal (hgathered : s.gathered die = none) : dieAgentClaim die s = s.claimNormal die := by
  have hempty : (s.freeCores die).filterMap (fun c => (s.instanceOn c).map (fun i => (c, i))) = [] :=
    List.filterMap_eq_nil_iff.mpr fun c hc => by rw [hnone c hc]; rfl
  simp only [dieAgentClaim, hrt, hempty, hnormal, hgathered, List.head?_nil, Option.isSome_none, Bool.false_eq_true, if_false]

end Claims

/-- Rule 4 of R361: the first launch that a free core, or for a gang a free cluster, can take. -/
theorem State.claimNormal_of_work {die serial : Nat} {s : State} {l : Launch}
    (hwork : s.normalWork.find? (fun e => if e.2.gang then !(s.freeClusters die).isEmpty else !(s.freeCores die).isEmpty) = some (serial, l)) :
    s.claimNormal die = if l.gang = true then s.claimGangs serial l (s.freeClusters die)
      else s.claimFor serial 0 (min (min 64 (s.freeCores die).length) (min (s.headroom l.tenant) (max 1 (ceilDiv l.left 16))))
        (fun j _ => (s.freeCores die).getD j 0) := by
  simp only [State.claimNormal, hwork]

/-! ## Starts -/

section Start
variable {core : Nat} {s : State} {x : Claim} {l : Launch} (hclaim : (s.core core).claim = some x)
  (hlaunch : Tbl.find s.launches x.serial = some l)
include hclaim hlaunch

theorem crewStart_of_frame (hgang : l.gang = false) {f : Nat} {rest : List Nat} (hpool : s.framePool = f :: rest) :
    crewStart core s = ({ s with framePool := rest } : State).startCrew core f x l := by
  simp [crewStart, hclaim, hlaunch, startGroup, hgang, hpool]

theorem crewStart_of_noFrame (hgang : l.gang = false) (hpool : s.framePool = []) : crewStart core s =
    (s.modCore core (fun y => { y with claim := none })).setInst x.serial x.inst (fun i => i.giveBack [x.index]) := by
  simp [crewStart, hclaim, hlaunch, startGroup, hgang, hpool]

/-- The claims of a cluster's cores. -/
def clusterClaims (s : State) (core : Nat) : List (Nat × Claim) :=
  (clusterCores (core / 8)).filterMap (fun c => ((s.core c).claim).map (fun y => (c, y)))

/-- R364: the eight of a gang start together, or give their indices back together. -/
theorem crewStart_of_gang (hgang : l.gang = true) (hall : (clusterClaims s core).length = 8)
    (hsame : ∀ e ∈ clusterClaims s core, e.2.serial = x.serial) : crewStart core s =
      if 8 ≤ s.framePool.length then ((clusterClaims s core).zip (s.framePool.take 8)).foldl
        (fun (t : State) e => t.startCrew e.1.1 e.2 e.1.2 l) { s with framePool := s.framePool.drop 8 }
      else ((clusterClaims s core).foldl (fun (t : State) e => t.modCore e.1 (fun y => { y with claim := none })) s).setInst x.serial x.inst
        (fun i => i.giveBack ((clusterClaims s core).map (fun e => e.2.index))) := by
  have hcores : (clusterCores (core / 8)).length = 8 := by simp [clusterCores]
  have hother : (clusterClaims s core).any (fun e => e.2.serial != x.serial) = false := by simpa using hsame
  have hframes : (s.framePool.take 8).length < 8 ↔ ¬8 ≤ s.framePool.length := by
    rw [List.length_take]
    omega
  unfold clusterClaims at hall hother ⊢
  simp only [crewStart, hclaim, hlaunch, startGroup, hgang, if_true, hother, hall, hcores, bne_self_eq_false, Bool.or_self,
    Bool.false_eq_true, if_false, hframes, ite_not]

end Start

/-! ## Retirement -/

theorem State.commitVersion_of_closed {s : State} {c : Nat} (h : s.versionOpen c = false) : s.commitVersion c = s := by
  simp only [State.commitVersion, h, Bool.not_false, if_true]

theorem State.manualBack_of_noLines {s : State} {c : Nat} (h : s.manualLines c = []) : s.manualBack c = s := by
  simp only [State.manualBack, h, List.foldl_nil]

/-- R28: a crew that is done, with its MANUAL bytes at home, retires. -/
theorem crewRetire_of_quiet {core : Nat} {s : State} {k : Crew} (hcrew : s.crew? core = some k) (hstage : k.stage = none)
    (hquiet : s.crewQuiet core k.uid = true) (hversion : s.versionOpen core = false) (hlines : s.manualLines core = [])
    (hbacks : s.backsOpen k.uid = false) :
    crewRetire core s = ((s.chargeCore core).emptyCore core).crewGone k (s.core core).time := by
  simp only [crewRetire, hcrew, hstage, Option.isSome_none, hquiet, Bool.not_true, Bool.or_self, Bool.false_eq_true, if_false,
    State.commitVersion_of_closed hversion, hversion, State.manualBack_of_noLines hlines, hbacks]

end Sys2Proof.Machine
end

section
/-! PROOFS. Gathering a cluster for a gang (R365): which cluster qualifies and is taken, and the moves that it takes. -/

namespace Sys2Proof.Machine

/-! ## The first element of a stable sort -/

theorem head?_insertBy {α : Type} (le : α → α → Bool) (x : α) (l : List α) :
    (insertBy le x l).head? = match l.head? with
      | none => some x
      | some y => if le x y then some x else some y := by
  cases l with
  | nil => rfl
  | cons y t =>
    rw [insertBy]
    cases hle : le x y <;> simp [hle]

/-- Of rising numbers sorted by a measure, the first has the least measure, and of equal ones it is the lowest. -/
theorem sortBy_head_least {f : Nat → Nat} {l : List Nat} (hrising : l.Pairwise (· < ·)) {x : Nat}
    (hx : (sortBy (fun a b => decide (f a ≤ f b)) l).head? = some x) :
    x ∈ l ∧ ∀ y ∈ l, f x < f y ∨ (f x = f y ∧ x ≤ y) := by
  induction l generalizing x with
  | nil => simp [sortBy] at hx
  | cons a t ih =>
    obtain ⟨hlt, htail⟩ := List.pairwise_cons.mp hrising
    have hins : (insertBy (fun a b => decide (f a ≤ f b)) a (sortBy (fun a b => decide (f a ≤ f b)) t)).head? = some x := hx
    rw [head?_insertBy] at hins
    cases hz : (sortBy (fun a b => decide (f a ≤ f b)) t).head? with
    | none =>
      obtain rfl : t = [] := by
        cases t with
        | nil => rfl
        | cons b u =>
          have hhead := head?_insertBy (fun a b => decide (f a ≤ f b)) b (sortBy (fun a b => decide (f a ≤ f b)) u)
          rw [show insertBy (fun a b => decide (f a ≤ f b)) b (sortBy (fun a b => decide (f a ≤ f b)) u)
            = sortBy (fun a b => decide (f a ≤ f b)) (b :: u) from rfl, hz] at hhead
          split at hhead <;> simp at hhead
          split at hhead <;> simp at hhead
      simp only [hz, Option.some.injEq] at hins
      subst hins
      simp
    | some z =>
      obtain ⟨hzt, hleast⟩ := ih htail hz
      simp only [hz, decide_eq_true_eq] at hins
      by_cases hle : f a ≤ f z
      · obtain rfl : a = x := by simpa [hle] using hins
        refine ⟨List.mem_cons_self, List.forall_mem_cons.mpr ⟨.inr ⟨rfl, le_rfl⟩, fun y hy => ?_⟩⟩
        have hay := hlt y hy
        rcases hleast y hy with hzy | ⟨hzy, -⟩ <;> omega
      · obtain rfl : z = x := by simpa [hle] using hins
        exact ⟨List.mem_cons_of_mem _ hzt, List.forall_mem_cons.mpr ⟨.inl (by omega), hleast⟩⟩

/-! ## Clusters that qualify -/

theorem State.gatherAt_least {s : State} {die lvl x : Nat} (h : s.gatherAt die lvl = some x) : x ∈ dieClusters die
    ∧ s.qualifies die x lvl = true ∧ ∀ y ∈ dieClusters die, s.qualifies die y lvl = true →
      (s.crewsOf x).length < (s.crewsOf y).length ∨ ((s.crewsOf x).length = (s.crewsOf y).length ∧ x ≤ y) := by
  have hrising : ((dieClusters die).filter (fun x => s.qualifies die x lvl)).Pairwise (· < ·) :=
    (List.pairwise_map.mpr (List.pairwise_lt_range.imp fun hij => by omega)).sublist List.filter_sublist
  obtain ⟨hmem, hleast⟩ := sortBy_head_least hrising h
  obtain ⟨hdie, hqual⟩ := List.mem_filter.mp hmem
  exact ⟨hdie, hqual, fun y hy hq => hleast y (List.mem_filter.mpr ⟨hy, hq⟩)⟩

theorem State.qualifies_iff (s : State) (die x lvl : Nat) : s.qualifies die x lvl = true ↔
    (∀ c ∈ clusterCores x, (s.core c).claim = none ∧ (s.core c).reservedFor = none
      ∧ (∀ k, s.crew? c = some k → k.stage = none ∧ k.rt = false ∧ k.gang = none ∧ k.base ≤ lvl))
    ∧ (s.crewsOf x).length ≤ ((s.freeCores die).filter (fun c => c / 8 != x)).length := by
  have hcrews : (s.crewsOf x).all (fun e => e.2.movable lvl) = true ↔
      ∀ c ∈ clusterCores x, ∀ k, s.crew? c = some k → k.movable lvl = true := by
    simp only [State.crewsOf, List.all_eq_true, List.mem_filterMap, Option.map_eq_some_iff]
    exact ⟨fun h c hc k hk => h (c, k) ⟨c, hc, k, hk, rfl⟩, fun h e ⟨c, hc, k, hk, he⟩ => he ▸ h c hc k hk⟩
  have hmovable : ∀ k : Crew, k.movable lvl = true ↔ k.stage = none ∧ k.rt = false ∧ k.gang = none ∧ k.base ≤ lvl := fun k => by
    simp [Crew.movable, and_assoc]
  simp only [State.qualifies, Bool.and_eq_true, hcrews, hmovable, List.all_eq_true, Option.isNone_iff_eq_none, decide_eq_true_eq]
  refine and_congr_left fun _ => ⟨fun ⟨hmove, hfree⟩ c hc => ⟨(hfree c hc).1, (hfree c hc).2, hmove c hc⟩, fun h =>
    ⟨fun c hc => (h c hc).2.2, fun c hc => ⟨(h c hc).1, (h c hc).2.1⟩⟩⟩

/-! ## Moves -/

theorem State.crew?_modCrew (s : State) (c : Nat) (f : Crew → Crew) : (s.modCrew c f).crew? c = (s.crew? c).map f := by
  simp [State.crew?, State.modCrew]

/-- A change of a core's crew is decided by what it makes of the crew that stands there. -/
theorem State.modCrew_congr {s : State} {c : Nat} {k : Crew} {f g : Crew → Crew} (hcrew : s.crew? c = some k) (h : f k = g k) :
    s.modCrew c f = s.modCrew c g :=
  State.modCore_congr (by simp only [show (s.core c).crew = some k from hcrew, Option.map_some, h])

theorem State.saveGroup_of_alone {s : State} {c : Nat} {k : Crew} (hcrew : s.crew? c = some k) (hgang : k.gang = none) :
    s.saveGroup c = [c] := by
  simp only [State.saveGroup, hcrew, hgang, Option.isSome_none, Bool.false_eq_true, if_false]

/-- R365: a crew that nothing has asked for is asked to move to a free core, which stays reserved for it. -/
theorem State.askMove_of_alone {s : State} {die c d : Nat} {k : Crew} (hcrew : s.crew? c = some k) (hdest : s.moveTarget die c = some d)
    (hgang : k.gang = none) (hpreempt : k.preempt = none) (hasked : k.asked = none) :
    s.askMove die c = (s.modCrew c (fun k => { k with asked := some { reason := 2, at_ := 0, forced := false, hold := false, dest := some d } })).modCore d
      (fun y => { y with reservedFor := some (.move k.uid) }) := by
  have hask : s.askPreempt c 2 false (some d) =
      s.modCrew c (fun k => { k with asked := some { reason := 2, at_ := 0, forced := false, hold := false, dest := some d } }) := by
    simp only [State.askPreempt, State.saveGroup_of_alone hcrew hgang, List.foldl_cons, List.foldl_nil, if_true]
    exact State.modCrew_congr hcrew (by simp only [Crew.ask, hpreempt, hasked])
  have hmove : (s.askPreempt c 2 false (some d)).moveDest c = some d := by
    simp [hask, State.moveDest, State.crew?_modCrew, hcrew, hpreempt]
  rw [← hask]
  simp only [State.askMove, hcrew, hdest, hmove, if_true]

/-! ## The step -/

theorem gangGather_of_idle {die x serial : Nat} {s : State} (hgather : Tbl.find s.gathers die = some (x, serial))
    (hidle : s.normalWork.any (fun e => e.1 == serial) = false) : gangGather die s = s.dropGather die := by
  simp only [gangGather, hgather, hidle, Bool.false_eq_true, if_false]

section Gather
variable {die serial : Nat} {s : State} {l : Launch} (hgather : Tbl.find s.gathers die = none)
  (hfirst : s.normalWork.head? = some (serial, l))
include hgather hfirst

/-- Where the first work is no gang, a cluster is free or none qualifies, nothing is gathered. -/
theorem gangGather_of_none (h : l.gang = false ∨ s.freeClusters die ≠ [] ∨ s.gatherAt die l.lvl = none) : gangGather die s = s := by
  simp only [gangGather, hgather, hfirst]
  rcases h with hgang | hfree | hnone
  · simp [hgang]
  · simp [hfree]
  · simp [hnone]

theorem gangGather_of_cluster {x : Nat} (hruns : s.dieRuns die = true) (hgang : l.gang = true) (hfull : s.freeClusters die = [])
    (hx : s.gatherAt die l.lvl = some x) : gangGather die s =
      ((s.crewsOf x).map (·.1)).foldl (fun (t : State) c => t.askMove die c) ((clusterCores x).foldl (fun (t : State) c =>
        if (t.core c).crew = none then t.modCore c (fun y => { y with reservedFor := some (.gang serial) }) else t)
        { s with gathers := Tbl.put s.gathers die (x, serial) }) := by
  simp only [gangGather, hgather, hruns, hfirst, hgang, hfull, List.isEmpty_nil, Bool.not_true, Bool.or_self, Bool.false_eq_true,
    if_false, hx, Option.isNone_iff_eq_none]

end Gather

end Sys2Proof.Machine
end

section
/-! PROOFS. Contract instances, budgets, Precession and stage cores (R367, R370 to R375). -/

namespace Sys2Proof.Machine

/-! ## Instances (R370 to R372) -/

section Contracts
variable {obj serial : Nat} {s : State} {t : Contract} {l : Launch} (hcontract : s.contractAt obj = some t)
include hcontract

/-- What the opening at S_k does (R370). -/
def openAt (s : State) (obj serial : Nat) (t : Contract) (l : Launch) : State :=
  let s0 := s.chargeStages obj
  let s1 := ({ s0 with launches := Tbl.mod s0.launches serial l (fun y => { y with
      insts := y.insts.filter (fun i => !i.finished l.count) ++ [Inst.fresh (l.firstK + t.opened)] }) } : State).setBody obj
      (.contract { t with opened := t.opened + 1 })
  let free := (t.coreList.filter (fun c => (s1.core c).free)).length
  let lower := t.coreList.filter (fun c => match s1.crew? c with
    | some z => !z.rt && z.stage.isNone
    | none => false)
  (lower.take (min l.count t.coreList.length - free)).foldl (fun u c => u.askPreempt c 1 false none) s1

theorem State.openInstance_of_due (hlaunch : s.boundLaunch obj = some (serial, l))
    (hdue : t.start + (l.firstK + t.opened) * t.period ≤ s.clock) : s.openInstance obj = openAt s obj serial t l := by
  simp only [State.openInstance, hcontract, hlaunch, Nat.not_lt.mpr hdue, if_false]
  rfl

/-- R371: a core that has worked its share does no more until the next opening. -/
theorem contractShareReached_of_spent {core : Nat} {i : Inst} {k : Crew} (hcharged : s.chargedTo obj core = some (serial, i, k))
    (hspent : core ∉ i.spent) (hshare : t.shareCycles ≤ Tbl.getD i.charge core 0 + s.uncharged core k) : contractShareReached obj core s =
      (s.setInst serial i.k (fun y => { y with spent := y.spent ++ [core] })).modCore core (fun y =>
        if k.stage.isSome = true then { y.demote with crew := y.demote.crew.map (fun w => { w with draining := true }) } else y.demote) := by
  have hfirst : (i.spent.contains core || decide (Tbl.getD i.charge core 0 + s.uncharged core k < t.shareCycles)) = false := by
    simpa using ⟨hspent, hshare⟩
  simp only [contractShareReached, hcontract, hcharged, hfirst, Bool.false_eq_true, if_false]

/-- R372: work that is left at the deadline is a miss. -/
theorem contractDeadline_of_miss {inst : Nat} {i : Inst} (hlaunch : s.boundLaunch obj = some (serial, l))
    (hinst : l.insts.find? (fun i => i.k == inst) = some i) (hdue : t.deadlineOf inst ≤ s.clock) (hclaims : i.claims = true)
    (hlate : ∀ n, i.ended = some n → t.deadlineOf inst ≤ n) : contractDeadline obj inst s =
      (let s1 := (s.setInst serial inst (fun y => { y with claims := false, returned := [] })).demoteWhere
        (fun z => z.serial == serial && z.inst == inst)
       let s2 := if t.missCtr = 0 then s1 else s1.signal t.missCtr 1 0
       if t.abort = true ∧ l.ver = true then s2.abortCrews serial inst l.asid else s2) := by
  simp only [contractDeadline, hcontract, hlaunch, hinst, Bool.and_eq_true]
  refine if_neg ?_
  cases hended : i.ended with
  | none => simp [hdue, hclaims]
  | some n => simpa [hdue, hclaims] using hlate n hended

end Contracts

theorem contractInstanceOpen_of_bound {obj serial : Nat} {s : State} {y : Launch} (hlaunch : s.boundLaunch obj = some (serial, y)) :
    contractInstanceOpen obj s =
      (y.insts.foldl (fun (v : State) (i : Inst) => contractDeadline obj i.k v) s).openInstance obj := by
  simp only [contractInstanceOpen, hlaunch]

/-! ## Windows and evaluations (R367, R375) -/

theorem budgetWindowClose_of_open {tenant win watts : Nat} {s : State} (hnow : s.clock / s.tenMicros = win + 1)
    (hopen : ((Tbl.getD s.svc.moved tenant Moved.zero).roll (win + 1)).closed ≠ win + 1) : budgetWindowClose tenant win watts s =
      (let m := (Tbl.getD s.svc.moved tenant Moved.zero).roll (win + 1)
       { s with svc := { s.svc with
        moved := Tbl.put s.svc.moved tenant { m with closed := win + 1 },
        gatedBw := setMember s.svc.gatedBw tenant (fieldOf (s.budget tenant).toNat 32 16 != 0xFFFF
          && decide (fieldOf (s.budget tenant).toNat 32 16 * 40000 < m.last)),
        gatedPower := setMember s.svc.gatedPower tenant (fieldOf (s.budget tenant).toNat 52 12 != 0xFFF
          && decide (fieldOf (s.budget tenant).toNat 52 12 < watts)) } }) := by
  have hdue : ¬((s.clock / s.tenMicros != win + 1 || decide (win + 1 = ((Tbl.getD s.svc.moved tenant Moved.zero).roll (win + 1)).closed)) = true) := by
    simpa [hnow] using hopen.symm
  simp only [budgetWindowClose, hdue, Bool.false_eq_true, if_false]

theorem execPrecessionEval_of_due {s : State} (hdue : s.svc.nextEval ≤ s.clock) : execPrecessionEval s =
    .next ((List.range 64).foldl State.evalStage { s with svc := { s.svc with nextEval := s.svc.nextEval + 10000 } }) := by
  simp only [execPrecessionEval, Nat.not_lt.mpr hdue, if_false]

/-! ## Stage cores -/

/-- A stage core is left: the contract is charged for its work, and the next stage may take it (R373, R375). -/
def leaveStage (core : Nat) (k : Crew) (t : State) : State :=
  let u := match k.contract.bind (fun i => t.chargedTo i core) with
    | some (serial, i, _) => t.setInst serial i.k (fun y =>
        { y with charge := Tbl.mod y.charge core 0 (fun n => n + t.uncharged core k) })
    | none => t
  let v := (u.emptyCore core).forgetCrew k.uid
  match k.nextStage with
  | some n => if stageEn (v.stageEntry n) && v.outOfSets core then v.joinStage core n else v
  | none => v

/-- R375: a context that is to leave and holds nothing leaves. -/
theorem stageCoreLeave_of_quiet {core : Nat} {s t : State} {k : Crew} (hcrew : s.crew? core = some k) (hstage : k.stage.isSome = true)
    (hleaves : k.draining = true ∨ k.contract.isSome = true) (hwaves : (s.core core).waves = [])
    (ht : t = s.modCore core (fun y => y.closeGuards s.clock)) (hquiet : t.crewQuiet core k.uid = true)
    (hlines : t.manualLines core = []) (hbacks : t.backsOpen k.uid = false) : stageCoreLeave core s = leaveStage core k t := by
  subst ht
  have hgoes : (k.stage.isNone || !(k.draining || k.contract.isSome) || !(s.core core).waves.isEmpty) = false := by
    obtain ⟨n, hn⟩ := Option.isSome_iff_exists.mp hstage
    rcases hleaves with h | h <;> simp [hn, hwaves, h]
  simp only [stageCoreLeave, hcrew, hgoes, Bool.false_eq_true, if_false, hquiet, Bool.not_true,
    State.manualBack_of_noLines hlines, hbacks]
  rfl

/-- Settles O43, by the rule of each step. -/
theorem transitEvents : Obligations.TransitEvents := by
  unfold Obligations.TransitEvents
  refine ⟨fun die c dl ix serial k s hrt hfirst => ?served, fun die s hrt hnormal hnone => ⟨fun x serial l hgathered => ?gathered,
      fun serial l hgathered hwork => ?work⟩,
    fun core f rest s x l hclaim hlaunch hgang hpool => ?frame, fun core s x l hclaim hlaunch hgang hpool => ?noFrame,
    fun core s k hcrew hstage hquiet hversion hlines hbacks => ?retire,
    fun core s x l hclaim hlaunch hgang hall hsame => ?gang, fun die x serial s hgather hidle => ?idle,
    fun die x serial s l hgather hruns hfirst hgang hfull hx => ?gather, fun die serial s l hgather hfirst h => ?noGather,
    fun die lvl x s => State.gatherAt_least, fun die lvl x s => s.qualifies_iff die x lvl,
    fun die c d s k => State.askMove_of_alone, fun obj serial s u t l y hbound hu hcontract hlaunch hdue => ?opens,
    fun obj core serial s t i k hcontract hcharged hspent hshare => ?share,
    fun obj inst serial s t l i hcontract hlaunch hinst hdue hclaims hlate => ?miss,
    fun tenant win watts s m hnow hm hopen => ?window, fun s hdue => execPrecessionEval_of_due hdue,
    fun core s t k hcrew hstage hleaves hwaves ht hquiet hlines hbacks => ?leaves⟩
  case served => exact congrArg Host.Outcome.next (dieAgentClaim_of_instance hrt hfirst)
  case gathered => exact congrArg Host.Outcome.next (dieAgentClaim_of_gathered hrt hnone hnormal hgathered)
  case work =>
    have hclaims := (dieAgentClaim_of_normal hrt hnone hnormal hgathered).trans (State.claimNormal_of_work hwork)
    exact ⟨fun hgang => congrArg Host.Outcome.next (hclaims.trans (if_pos hgang)),
      fun hgang => congrArg Host.Outcome.next (hclaims.trans (if_neg (Bool.eq_false_iff.mp hgang)))⟩
  case frame => exact congrArg Host.Outcome.next (crewStart_of_frame hclaim hlaunch hgang hpool)
  case noFrame => exact congrArg Host.Outcome.next (crewStart_of_noFrame hclaim hlaunch hgang hpool)
  case retire => exact congrArg Host.Outcome.next (crewRetire_of_quiet hcrew hstage hquiet hversion hlines hbacks)
  case gang =>
    have hstart := crewStart_of_gang hclaim hlaunch hgang hall hsame
    exact ⟨fun hroom => congrArg Host.Outcome.next (hstart.trans (if_pos hroom)),
      fun hfew => congrArg Host.Outcome.next (hstart.trans (if_neg (Nat.not_le.mpr hfew)))⟩
  case idle => exact congrArg Host.Outcome.next (gangGather_of_idle hgather hidle)
  case gather => exact congrArg Host.Outcome.next (gangGather_of_cluster hgather hfirst hruns hgang hfull hx)
  case noGather => exact congrArg Host.Outcome.next (gangGather_of_none hgather hfirst h)
  case opens =>
    subst hu
    exact congrArg Host.Outcome.next ((contractInstanceOpen_of_bound hbound).trans (State.openInstance_of_due hcontract hlaunch hdue))
  case share => exact congrArg Host.Outcome.next (contractShareReached_of_spent hcontract hcharged hspent hshare)
  case miss => exact congrArg Host.Outcome.next (contractDeadline_of_miss hcontract hlaunch hinst hdue hclaims hlate)
  case window =>
    subst hm
    exact congrArg Host.Outcome.next (budgetWindowClose_of_open hnow hopen)
  case leaves => exact congrArg Host.Outcome.next (stageCoreLeave_of_quiet hcrew hstage hleaves hwaves ht hquiet hlines hbacks)

end Sys2Proof.Machine
end

section
/-! PROOFS. Traffic of Erwick Link (R401, R406 to R410): what is taken in its turn, and what a message, a TAKEN notice and a
revocation do once theirs has come. -/

namespace Sys2Proof.Machine

/-! ## Traffic in its turn -/

/-- The traffic `m` is the next of its stream that has been taken. -/
def State.takeTurn (s : State) (m : RemoteMsg) : State :=
  { s with fab := { s.fab with inSeq := Tbl.put s.fab.inSeq (streamOf m.pkg m.die) (m.seq + 1) } }

/-- Traffic that takes effect in a step of its own. -/
def hasOwnStep (m : RemoteMsg) : Bool :=
  match m.body with
  | .message .. | .revoke _ | .taken => true
  | _ => false

/-- Traffic of the stream of `m` is still to take effect. -/
def State.streamHolds (s : State) (m : RemoteMsg) : Bool := s.fab.arrived.any (fun x => x.pkg == m.pkg && x.die == m.die)

theorem State.streamHolds_eq_false_iff {s : State} {m : RemoteMsg} :
    s.streamHolds m = false ↔ ∀ x ∈ s.fab.arrived, ¬(x.pkg = m.pkg ∧ x.die = m.die) := by
  simp [State.streamHolds]

/-- What any other traffic does as it is taken. -/
def State.takeEffect (s : State) (m : RemoteMsg) : State :=
  match m.body with
  | .answer st => (s.ackUpTo m.pkg m.serial).onAnswer m st
  | .revoked t => (s.ackUpTo m.pkg m.serial).onRevoked m t
  | .found f => (s.ackUpTo m.pkg m.serial).onFound m f
  | .room => s.roomFor m.serial
  | .lookup _ | .bind .. | .unbind _ => s.atHolder m
  | _ => s

theorem State.takeEffect_of_answer {s : State} {m : RemoteMsg} {st : Nat} (hbody : m.body = .answer st) :
    s.takeEffect m = (s.ackUpTo m.pkg m.serial).onAnswer m st := by simp only [State.takeEffect, hbody]

theorem State.takeEffect_of_revoked {s : State} {m : RemoteMsg} {t : Bool} (hbody : m.body = .revoked t) :
    s.takeEffect m = (s.ackUpTo m.pkg m.serial).onRevoked m t := by simp only [State.takeEffect, hbody]

theorem State.takeEffect_of_found {s : State} {m : RemoteMsg} {f : Option (Nat × Nat × Nat)} (hbody : m.body = .found f) :
    s.takeEffect m = (s.ackUpTo m.pkg m.serial).onFound m f := by simp only [State.takeEffect, hbody]

theorem State.takeEffect_of_room {s : State} {m : RemoteMsg} (hbody : m.body = .room) : s.takeEffect m = s.roomFor m.serial := by
  simp only [State.takeEffect, hbody]

theorem State.takeEffect_of_name {s : State} {m : RemoteMsg} {n : DWord} {i g : Nat}
    (hbody : m.body = .lookup n ∨ m.body = .bind n i g ∨ m.body = .unbind n) : s.takeEffect m = s.atHolder m := by
  rcases hbody with hbody | hbody | hbody <;> simp only [State.takeEffect, hbody]

/-- R406: traffic whose turn has come waits for its own step, or behind such traffic, or takes effect. -/
theorem flitArrival_of_turn {s : State} {m : RemoteMsg} (hlink : s.linkOn m.pkg m.die = true)
    (hseq : m.seq = Tbl.getD s.fab.inSeq (streamOf m.pkg m.die) 0) : flitArrival m s =
      if hasOwnStep m = true then { s.takeTurn m with fab := { (s.takeTurn m).fab with arrived := (s.takeTurn m).fab.arrived ++ [m] } }
      else if s.streamHolds m = true then s else (s.takeTurn m).takeEffect m := by
  have hturn : (!s.linkOn m.pkg m.die || m.seq != Tbl.getD s.fab.inSeq (streamOf m.pkg m.die) 0) = false := by simp [hlink, ← hseq]
  unfold flitArrival
  cases hbody : m.body <;>
    simp only [hturn, hbody, hasOwnStep, State.takeEffect, if_true, Bool.false_eq_true, if_false] <;> rfl

/-- Other traffic, with nothing of its stream waiting, takes effect. -/
theorem flitArrival_of_clear {s t : State} {m : RemoteMsg} (hlink : s.linkOn m.pkg m.die = true)
    (hseq : m.seq = Tbl.getD s.fab.inSeq (streamOf m.pkg m.die) 0) (hfirst : ∀ x ∈ s.fab.arrived, ¬(x.pkg = m.pkg ∧ x.die = m.die))
    (hown : hasOwnStep m = false) (ht : (s.takeTurn m).takeEffect m = t) : flitArrival m s = t := by
  rw [flitArrival_of_turn hlink hseq, hown, State.streamHolds_eq_false_iff.mpr hfirst]
  exact ht

theorem hasOwnStep_of_body {m : RemoteMsg} {i : Nat} (h : m.body = .taken ∨ m.body = .revoke i ∨ isMessage m = true) :
    hasOwnStep m = true := by
  rcases h with hbody | hbody | hmessage
  · simp only [hasOwnStep, hbody]
  · simp only [hasOwnStep, hbody]
  · cases hbody : m.body <;> simp [isMessage, hbody] at hmessage
    simp only [hasOwnStep, hbody]

/-! ## Messages (R408) -/

section Message
variable {s : State} {m : RemoteMsg} {pkg serial index gen sender asid : Nat} {tag : DWord} {payload : List Byte}
  {pages : List RemotePage} {waits : Bool} {o : Obj} {cap lost : Nat} {msgs : List Msg}
  (hfind : s.fab.arrived.find? (fun m => m.pkg == pkg && m.serial == serial && isMessage m) = some m) (hturn : s.oldestOf m = true)
  (hbody : m.body = .message index gen sender asid tag payload pages waits)
  (hobj : Tbl.find (s.dropArrived m).objs index = some o) (hport : o.body = .port cap msgs lost)
include hfind hturn hbody hobj hport

/-- The port is gone: another object has its index. -/
theorem remoteMessageArrival_of_gone (hgen : o.gen ≠ gen) :
    remoteMessageArrival pkg serial s = (s.dropArrived m).answerTo m (index / 2 ^ 21) (.answer stDead) := by
  simp only [remoteMessageArrival, hfind, hturn, hbody, hobj, hport, Bool.not_true, Bool.false_eq_true, if_false, hgen, ne_eq,
    not_false_eq_true, if_true]

/-- The port has no room, or the staging area none for the pages, and the sender does not wait. -/
theorem remoteMessageArrival_of_full (hgen : o.gen = gen) (hfull : (s.dropArrived m).portFull index = true
    ∨ stagingBytes < (s.dropArrived m).staged + 65536 * pages.length) (hwaits : waits = false) :
    remoteMessageArrival pkg serial s = (s.dropArrived m).answerTo m (index / 2 ^ 21) (.answer stFull) := by
  have hrefused : ((s.dropArrived m).portFull index
      || decide (stagingBytes < (s.dropArrived m).staged + 65536 * pages.length)) = true := by simpa using hfull
  simp only [remoteMessageArrival, hfind, hturn, hbody, hobj, hport, Bool.not_true, Bool.false_eq_true, if_false, hgen, ne_eq,
    not_true_eq_false, hrefused, if_true, hwaits]

/-- The message joins its port. -/
theorem remoteMessageArrival_of_room (hgen : o.gen = gen) (hroom : (s.dropArrived m).portFull index = false)
    (hstaged : (s.dropArrived m).staged + 65536 * pages.length ≤ stagingBytes) : remoteMessageArrival pkg serial s =
      ((s.dropArrived m).append index (Msg.mk payload tag sender asid none 0 (pages.map stagedPage) serial
        (s.dropArrived m).outTime)).answerTo m (index / 2 ^ 21) (.answer stOk) := by
  have htaken : ((s.dropArrived m).portFull index
      || decide (stagingBytes < (s.dropArrived m).staged + 65536 * pages.length)) = false := by simp [hroom, hstaged]
  simp only [remoteMessageArrival, hfind, hturn, hbody, hobj, hport, Bool.not_true, Bool.false_eq_true, if_false, hgen, ne_eq,
    not_true_eq_false, htaken]

end Message

/-! ## TAKEN notices and revocations (R409, R410) -/

theorem grantTakenNotice_of_found {obj serial : Nat} {s : State} {g : SentGrant}
    (hfind : s.fab.sent.find? (fun e => handleIdx e.2.handle == obj && s.fab.arrived.any (fun m =>
      m.pkg == e.2.pkg && m.serial == e.1 && m.body == RemoteBody.taken && s.oldestOf m)) = some (serial, g)) :
    grantTakenNotice obj s = (g.pages.foldl (fun (t : State) p => t.addFrame g.asid p.frame) { s with fab := { s.fab with
        sent := Tbl.del s.fab.sent serial,
        arrived := s.fab.arrived.filter (fun m => !(m.pkg == g.pkg && m.serial == serial && m.body == RemoteBody.taken)) } }).setGrant
      (some g.handle) 1 := by
  simp only [grantTakenNotice, hfind]

/-- A revocation. -/
def isRevocation (m : RemoteMsg) : Bool := match m.body with | .revoke _ => true | _ => false

section Revocation
variable {s : State} {m : RemoteMsg} {pkg serial port : Nat}
  (hfind : s.fab.arrived.find? (fun m => m.pkg == pkg && m.serial == serial && isRevocation m) = some m)
  (hbody : m.body = .revoke port) (hturn : s.oldestOf m = true)
include hfind hbody hturn

/-- The message that is still queued is removed. -/
theorem remoteGrantrev_of_queued {idx cap lost : Nat} {msgs : List Msg}
    (hqueued : (s.dropArrived m).queuedFrom pkg serial = some (idx, cap, msgs, lost)) : remoteGrantrev pkg serial s =
      (((s.dropArrived m).setBody idx (.port cap (msgs.filter (fun y => !(y.pkg == pkg && y.serial == serial))) lost)).portRoom idx).answerTo
        m (port / 2 ^ 21) (.revoked false) := by
  unfold remoteGrantrev
  split
  next hnone => cases hnone.symm.trans hfind
  next x hx =>
    obtain rfl : x = m := Option.some.inj (hx.symm.trans hfind)
    simp only [hturn, hbody, hqueued, Bool.not_true, Bool.false_eq_true, if_false]

/-- A message that is gone has been taken, unless its grant has been returned. -/
theorem remoteGrantrev_of_gone (hgone : (s.dropArrived m).queuedFrom pkg serial = none) : remoteGrantrev pkg serial s =
    (s.dropArrived m).answerTo m (port / 2 ^ 21)
      (.revoked (!s.fab.outbox.any (fun e => e.pkg == pkg && e.serial == serial && e.body == .revoked false))) := by
  unfold remoteGrantrev
  split
  next hnone => cases hnone.symm.trans hfind
  next x hx =>
    obtain rfl : x = m := Option.some.inj (hx.symm.trans hfind)
    simp only [hturn, hbody, hgone, Bool.not_true, Bool.false_eq_true, if_false]

end Revocation

end Sys2Proof.Machine
end

section
/-! PROOFS. Losses, and the host (R407, R413 to R416, R421, R422, R431): one rule for each step of a stream, a port and the host. -/

namespace Sys2Proof.Machine

/-! ## Losses -/

/-- R407: a package whose stream has stalled is unreachable. -/
theorem execStreamTimeout_of_stalled {pkg : Nat} {s : State} (hreach : s.lost pkg = false)
    (hstalled : ∃ e ∈ s.fab.outbox, e.pkg = pkg ∧ e.acked = false ∧ e.at_ + 2000000 ≤ s.clock) : execStreamTimeout pkg s =
      .next (({ s with fab := { s.fab with unreachable := s.fab.unreachable ++ [pkg] } } : State).losePackage pkg) := by
  obtain ⟨e, hmem, hpkg, hopen, hlong⟩ := hstalled
  have hheld : s.stalled pkg = true := List.any_eq_true.mpr ⟨e, hmem, by simp [hpkg, hopen, hlong]⟩
  simp only [execStreamTimeout, hreach, hheld, Bool.not_true, Bool.or_self, Bool.false_eq_true, if_false]

/-- R415: a request that the host leaves unanswered for too long. -/
theorem State.hostLate_of_req {s : State} {r : Req} {n : Nat} (hmem : r ∈ s.reqs) (hhost : r.place = .host) (hwaits : r.waits = true)
    (hlodged : r.lodged = some n) (hlong : n + 1000000 ≤ s.clock) : s.hostLate r.id = true := by
  have hlate : s.reqs.any (fun x => x.id == r.id && x.place == .host && x.waits && s.overdue x.lodged) = true :=
    List.any_eq_true.mpr ⟨r, hmem, by simp [hhost, hwaits, hlodged, State.overdue, hlong]⟩
  simp only [State.hostLate, hlate, Bool.true_or]

theorem execHostAccessTimeout_of_late {s : State} {n : Nat} (hlate : s.hostLate n = true) :
    execHostAccessTimeout n s = .next s.warmRestart := by
  simp only [execHostAccessTimeout, hlate, if_true]

/-! ## The region that the host shares -/

/-- With no access of the host waiting and no lock on the range, Lodestar's access is made at once (R218). -/
theorem State.hostRegion_of_free {s : State} {off n : Nat} {acc : HostAccess} {f : State → State} (hnone : s.fab.hostQ = [])
    (hfree : s.agentBusy (if s.inShared off n then [(s.sharedBase + off, n)] else []) s.nextId = false) :
    s.hostRegion acc off n f = f s := by
  simp only [State.hostRegion, hnone, List.find?_nil, hfree, Bool.false_eq_true, if_false]

/-! ## Ports -/

section Up
variable {s : State} (hup : s.fab.portsUp ≠ [])
include hup

theorem execCxlLinkLoss_of_up :
    execCxlLinkLoss s = .next ({ s with fab := { s.fab with portsUp := [] } } : State).warmRestart := by
  simp only [execCxlLinkLoss, List.isEmpty_iff, hup, if_false]

theorem execEwcctlRestart_of_up : execEwcctlRestart s = .next (if s.booted = true then s.warmRestart else s) := by
  cases hbooted : s.booted <;> simp [execEwcctlRestart, hup, hbooted]

/-! ## The host's accesses -/

theorem hostCxlMemAccess_readShared {off n : Nat} (hnone : s.fab.hostQ = [])
    (hfree : s.agentBusy (if s.inShared off n then [(s.sharedBase + off, n)] else []) s.nextId = false) :
    hostCxlMemAccess (.readShared off n) s = s.hostGets (s.hostRead off n) := by
  simp only [hostCxlMemAccess, List.isEmpty_eq_false_iff.mpr hup, Bool.not_false, if_true, State.hostRegion_of_free hnone hfree]

theorem hostCxlMemAccess_writeShared {off : Nat} {bs : List Byte} (hin : s.inShared off bs.length = true) (hnone : s.fab.hostQ = [])
    (hfree : s.agentBusy [(s.sharedBase + off, bs.length)] s.nextId = false) : hostCxlMemAccess (.writeShared off bs) s =
      ((s.homeBytes (s.sharedBase + off) bs).hostWrote false (s.sharedBase + off) bs.length).poke (.ring 0xFFFE) := by
  have hrange : s.agentBusy (if s.inShared off bs.length then [(s.sharedBase + off, bs.length)] else []) s.nextId = false := by
    rw [if_pos hin, hfree]
  simp only [hostCxlMemAccess, List.isEmpty_eq_false_iff.mpr hup, Bool.not_false, hin, Bool.and_self, if_true,
    State.hostRegion_of_free hnone hrange]

theorem hostCxlMemAccess_readReg {off : Nat} {v : DWord} (hv : s.dvsecRead off = some v) :
    hostCxlMemAccess (.readReg off) s = s.hostGets (bytesOf 8 v.toNat) := by
  simp only [hostCxlMemAccess, hv, List.isEmpty_eq_false_iff.mpr hup, Bool.not_false, if_true]

/-- R421: of the registers that the host writes, RESTART alone acts. -/
theorem hostCxlMemAccess_writeReg (off : Nat) (v : DWord) : hostCxlMemAccess (.writeReg off v) s =
    if off = 0x20 ∧ v.getLsbD 0 = true ∧ (s.dvsecRead off).isSome = true then s.warmRestart else s := by
  simp only [hostCxlMemAccess, List.isEmpty_eq_false_iff.mpr hup, Bool.not_false, true_and]

end Up

theorem execCxlLinkUp_of_trained {port rate width : Nat} {s : State} (hport : port < 2) (hrate : 0 < rate) (hmax : rate ≤ 64)
    (hwidth : 0 < width) (hwide : width ≤ 16) (hboot : s.svc.boot = .bringup → port = 0) (hruns : s.svc.stopped = false) :
    execCxlLinkUp port rate width s =
      .next { s with fab := { s.fab with portsUp := Tbl.put s.fab.portsUp port (rate, width) } } := by
  have htrains : port < 2 ∧ 0 < rate ∧ rate ≤ 64 ∧ 0 < width ∧ width ≤ 16 ∧ (s.svc.boot ≠ .bringup ∨ port = 0)
      ∧ (!s.svc.stopped) = true := ⟨hport, hrate, hmax, hwidth, hwide, Decidable.imp_iff_not_or.mp hboot, by rw [hruns]; rfl⟩
  simp only [execCxlLinkUp, hwidth.ne', if_false, htrains, and_self, if_true]

/-- The loss of the last port that is up is a warm restart. -/
theorem State.portDown_of_up {port : Nat} {s : State} (hup : (Tbl.find s.fab.portsUp port).isSome = true) : s.portDown port =
    (let s1 : State := { s with fab := { s.fab with portsUp := Tbl.del s.fab.portsUp port } }
     if Tbl.del s.fab.portsUp port = [] then s1.warmRestart else s1) := by
  have hnone : (Tbl.find s.fab.portsUp port).isNone = false := by rw [← Option.not_isSome, hup]; rfl
  simp only [State.portDown, hnone, Bool.false_eq_true, if_false, List.isEmpty_iff]

theorem execDoeRequest_of_answer {port kind : Nat} {s t : State} {b : List Byte} (hup : (Tbl.find s.fab.portsUp port).isSome = true)
    (hbooted : s.booted = true) (hanswer : s.doeAnswer kind = some (b, t)) : execDoeRequest port kind s =
      .next { t with fab := { t.fab with doeAnswered := t.fab.doeAnswered ++ [(port, kind, b)] } } := by
  simp only [execDoeRequest, hup, hbooted, Bool.and_self, if_true, hanswer]

theorem execDoeRequest_of_down {port kind : Nat} {s : State} (h : Tbl.find s.fab.portsUp port = none ∨ s.booted = false) :
    execDoeRequest port kind s = .next s := by
  have hno : ((Tbl.find s.fab.portsUp port).isSome && s.booted) = false := by rcases h with h | h <;> simp [h]
  simp only [execDoeRequest, hno, Bool.false_eq_true, if_false]

/-! ## The steps together -/

/-- Settles O45, by the rule of each step. -/
theorem fabricEvents : Obligations.FabricEvents := by
  unfold Obligations.FabricEvents
  refine ⟨fun m s hlink hseq => ?traffic,
    fun pkg serial index gen sender asid tag payload pages waits s t m o cap msgs lost hfind hturn hbody ht hobj hport => ?message,
    fun obj serial s g hfind => congrArg Host.Outcome.next (grantTakenNotice_of_found hfind),
    fun pkg serial port s m hfind hbody hturn => ⟨fun idx cap msgs lost hqueued => ?queued, fun hgone => ?gone⟩,
    fun pkg s => execStreamTimeout_of_stalled, fun req s r n hmem hid hhost hwaits hlodged hlong => ?late,
    fun s hup => ⟨execCxlLinkLoss_of_up hup, fun hbooted => ?restart, fun hheld => ?noRestart, fun off n hnone hfree => ?readShared,
      fun off bs hin hnone hfree => ?writeShared, fun off v hv => ?readReg, fun off v => ?writeReg⟩,
    fun port rate width s => execCxlLinkUp_of_trained, fun port rate s hup => ?down, fun port kind s t b => execDoeRequest_of_answer,
    fun port kind s => execDoeRequest_of_down, fun s => rfl⟩
  case traffic =>
    have hplain : ∀ b, m.body = b → (match b with | .message .. | .revoke _ | .taken => true | _ => false) = false →
        hasOwnStep m = false := fun b hbody hb => by rw [hasOwnStep, hbody]; exact hb
    refine ⟨fun i hown => ?waits, fun st hbody hfirst => ?answer, fun t hbody hfirst => ?revoked, fun f hbody hfirst => ?found,
      fun hbody hfirst => ?room, fun n i g hbody hfirst => ?name, fun st hbody hblocked => ?blocked⟩
    case waits => exact congrArg Host.Outcome.next ((flitArrival_of_turn hlink hseq).trans (if_pos (hasOwnStep_of_body hown)))
    case answer =>
      exact congrArg Host.Outcome.next
        (flitArrival_of_clear hlink hseq hfirst (hplain _ hbody rfl) (State.takeEffect_of_answer hbody))
    case revoked =>
      exact congrArg Host.Outcome.next
        (flitArrival_of_clear hlink hseq hfirst (hplain _ hbody rfl) (State.takeEffect_of_revoked hbody))
    case found =>
      exact congrArg Host.Outcome.next
        (flitArrival_of_clear hlink hseq hfirst (hplain _ hbody rfl) (State.takeEffect_of_found hbody))
    case room =>
      exact congrArg Host.Outcome.next
        (flitArrival_of_clear hlink hseq hfirst (hplain _ hbody rfl) (State.takeEffect_of_room hbody))
    case name =>
      have hown : hasOwnStep m = false := by rcases hbody with hbody | hbody | hbody <;> exact hplain _ hbody rfl
      exact congrArg Host.Outcome.next (flitArrival_of_clear hlink hseq hfirst hown (State.takeEffect_of_name hbody))
    case blocked =>
      have hholds : s.streamHolds m = true := by
        rw [← Bool.not_eq_false, State.streamHolds_eq_false_iff]
        exact hblocked
      exact congrArg Host.Outcome.next ((flitArrival_of_turn hlink hseq).trans
        ((if_neg (by rw [hplain _ hbody rfl]; exact Bool.false_ne_true)).trans (if_pos hholds)))
  case message =>
    subst ht
    exact ⟨fun hgen => congrArg Host.Outcome.next (remoteMessageArrival_of_gone hfind hturn hbody hobj hport hgen),
      fun hgen hfull hwaits => congrArg Host.Outcome.next (remoteMessageArrival_of_full hfind hturn hbody hobj hport hgen hfull hwaits),
      fun hgen hroom hstaged => congrArg Host.Outcome.next
        (remoteMessageArrival_of_room hfind hturn hbody hobj hport hgen hroom hstaged)⟩
  case queued => exact congrArg Host.Outcome.next (remoteGrantrev_of_queued hfind hbody hturn hqueued)
  case gone => exact congrArg Host.Outcome.next (remoteGrantrev_of_gone hfind hbody hturn hgone)
  case late =>
    subst hid
    exact execHostAccessTimeout_of_late (State.hostLate_of_req hmem hhost hwaits hlodged hlong)
  case restart => exact (execEwcctlRestart_of_up hup).trans (congrArg Host.Outcome.next (if_pos hbooted))
  case noRestart => exact (execEwcctlRestart_of_up hup).trans (congrArg Host.Outcome.next (if_neg (Bool.eq_false_iff.mp hheld)))
  case readShared => exact congrArg Host.Outcome.next (hostCxlMemAccess_readShared hup hnone hfree)
  case writeShared => exact congrArg Host.Outcome.next (hostCxlMemAccess_writeShared hup hin hnone hfree)
  case readReg => exact congrArg Host.Outcome.next (hostCxlMemAccess_readReg hup hv)
  case writeReg => exact congrArg Host.Outcome.next (hostCxlMemAccess_writeReg hup off v)
  case down => exact congrArg Host.Outcome.next (State.portDown_of_up hup)

end Sys2Proof.Machine
end

section
/-! PROOFS. The functions of the service cores (R355, R417 to R420, R423 to R428), and power, errors and boot (R429 to R433). -/

namespace Sys2Proof.Machine

/-! ## The command ring -/

/-- A record in its turn, with flags that it allows, is served by its function (R418, R419). -/
theorem serveEwc_of_record {s : State} {base logn fn : Nat} {f : EwcRec → State} (hring : s.ringOf s.fab.ewccmd = some (base, logn))
    (hwait : s.fab.ewcWait = none) (hup : s.fab.ewcUp = true) (hfree : s.agentBusy (ringRange base logn) ringNum = false)
    (htail : Memory.read s.mem base 4 ≠ s.ringHead base) (hseq : (s.ewcRec base logn (s.ringHead base)).seq = s.ringHead base)
    (hflags : (s.ewcRec base logn (s.ringHead base)).flagsOk = true) (hfn : (s.ewcRec base logn (s.ringHead base)).fn = fn)
    (hlisted : fn ≤ 5) : serveEwc fn s f = f (s.ewcRec base logn (s.ringHead base)) := by
  have hready : ¬ (s.fab.ewcWait.isSome = true ∨ (!s.fab.ewcUp) = true ∨ Memory.read s.mem base 4 = s.ringHead base) := by
    simp [hwait, hup, htail]
  have htakes : ¬ (5 < fn ∨ (!(s.ewcRec base logn (s.ringHead base)).flagsOk) = true) := by simp [hflags, hlisted]
  simp only [serveEwc, hring, if_neg hready, hfree, Bool.false_eq_true, if_false, ne_eq, hseq, not_true_eq_false, hfn, if_neg htakes,
    if_true]

/-! ## A lane of a `syscall` entry -/

theorem supFn_iff_of_listed {fn : Nat} (hlisted : listedFn fn = true) : supFn fn = true ↔ 256 ≤ fn := by
  simp only [listedFn, supFn, Bool.or_eq_true, Bool.and_eq_true, decide_eq_true_eq] at hlisted ⊢
  omega

/-- What the function `body` answers a lane of entry `e` whose record holds `b` (R355, R424, R425). -/
def svcAnswer (body : RingEnt → List Byte → State → SvcRes) (e : RingEnt) (b : List Byte) (t : State) : SvcRes :=
  if listedFn e.fn = false then (t, 14, [])
  else if supFn e.fn = true ∧ e.asid ≠ 0 then (t, 20, [])
  else if recNum b 4 4 ≠ 0 then (t, 14, [])
  else body e b t

section Answer
variable {body : RingEnt → List Byte → State → SvcRes} {e : RingEnt} {b : List Byte} {t : State}

theorem svcAnswer_of_unlisted (hlisted : listedFn e.fn = false) : svcAnswer body e b t = (t, 14, []) := if_pos hlisted

variable (hlisted : listedFn e.fn = true)
include hlisted

theorem svcAnswer_of_denied (hsup : 256 ≤ e.fn) (hasid : e.asid ≠ 0) : svcAnswer body e b t = (t, 20, []) := by
  rw [svcAnswer, if_neg (Bool.not_eq_false _ ▸ hlisted), if_pos ⟨(supFn_iff_of_listed hlisted).mpr hsup, hasid⟩]

theorem svcAnswer_of_allowed (hallowed : 256 ≤ e.fn → e.asid = 0) :
    svcAnswer body e b t = if recNum b 4 4 ≠ 0 then (t, 14, []) else body e b t := by
  have hno : ¬ (supFn e.fn = true ∧ e.asid ≠ 0) := fun h => h.2 (hallowed ((supFn_iff_of_listed hlisted).mp h.1))
  rw [svcAnswer, if_neg (Bool.not_eq_false _ ▸ hlisted), if_neg hno]

end Answer

/-- A lane whose turn has come and whose record can be read and written has its answer in its record, and its reply (R355, R424). -/
theorem serve_of_turn {fn entry lane : Nat} {s t u v : State} {b : List Byte} {e : RingEnt} {r : SvcRes}
    {body : RingEnt → List Byte → State → SvcRes} (hfind : s.svc.rings.find? (fun e => e.id == entry) = some e)
    (hturn : s.svcTurn e = true) (hlane : lane = lowestLane e.todo) (hout : s.svcOut e = false)
    (hfree : s.agentBusy (s.svcRanges e lane) e.id = false) (hread : (s.agentServed e.id).svcRead e lane = .ok (t, b))
    (hfn : e.fn = fn ∨ listedFn e.fn = false ∧ fn = 1) (hr : svcAnswer body e b t = r)
    (hresult : r.1.svcWrite e lane 8 r.2.2 = .ok u) (hstatus : u.svcWrite e lane 0 (bytesOf 4 r.2.1) = .ok v) :
    serve fn entry lane s body = v.svcReplied e lane r.2.1 := by
  have htakes : (!s.svcTurn e || lane != lowestLane e.todo || !(e.fn == fn || (!listedFn e.fn && fn == 1)) || s.svcOut e) = false := by
    rcases hfn with hfn | ⟨hlisted, hfn⟩
    · simp [hturn, hlane, hout, hfn]
    · simp [hturn, hlane, hout, hlisted, hfn]
  have hanswer : (if (!listedFn e.fn) = true then badField t else if (supFn fn && e.asid != 0) = true then (t, stDenied, [])
      else if recNum b 4 4 ≠ 0 then badField t else body e b t) = r := by
    rcases hfn with rfl | ⟨hlisted, -⟩
    · rw [← hr]
      simp only [svcAnswer, Bool.not_eq_true', Bool.and_eq_true, bne_iff_ne]
      rfl
    · rw [← hr, svcAnswer_of_unlisted hlisted, if_pos (by rw [hlisted]; rfl)]
      rfl
  simp only [serve, hfind, htakes, Bool.false_eq_true, if_false, State.asAgent_of_free hfree, hread, hanswer, hresult, hstatus]

/-- The functions of the service cores: the event of each, its number in Table 17-2 and what it answers. -/
noncomputable def svcFunctions (entry lane : Nat) : List (Instr × Nat × (RingEnt → List Byte → State → SvcRes)) :=
  [(Instr.log entry lane, 1, svcLog), (Instr.evread entry lane, 2, svcEvread), (Instr.evsel entry lane, 3, svcEvsel),
    (Instr.ownports entry lane, 4, svcOwnports), (Instr.proc entry lane, 0x100, svcProc), (Instr.frames entry lane, 0x101, svcFrames),
    (Instr.tenant entry lane, 0x102, svcTenant), (Instr.firewall entry lane, 0x103, svcFirewall),
    (Instr.stage entry lane, 0x104, svcStage), (Instr.hwin entry lane, 0x105, svcHwin), (Instr.route entry lane, 0x106, svcRoute),
    (Instr.ewcset entry lane, 0x107, svcEwcset), (Instr.caps entry lane, 0x108, svcCaps), (Instr.ras entry lane, 0x109, svcRas),
    (Instr.hbind entry lane, 0x10A, svcHbind)]

theorem exec_of_mem_svcFunctions (entry lane : Nat) (s : State) : ∀ p ∈ svcFunctions entry lane,
    exec p.1 s = .next (serve p.2.1 entry lane s p.2.2) ∧ listedFn p.2.1 = true := by
  simp only [svcFunctions, List.forall_mem_cons]
  exact ⟨⟨rfl, rfl⟩, ⟨rfl, rfl⟩, ⟨rfl, rfl⟩, ⟨rfl, rfl⟩, ⟨rfl, rfl⟩, ⟨rfl, rfl⟩, ⟨rfl, rfl⟩, ⟨rfl, rfl⟩, ⟨rfl, rfl⟩, ⟨rfl, rfl⟩, ⟨rfl, rfl⟩,
    ⟨rfl, rfl⟩, ⟨rfl, rfl⟩, ⟨rfl, rfl⟩, ⟨rfl, rfl⟩, List.forall_mem_nil _⟩

/-! ## Power, errors and reset -/

/-- R430: the governor's comparison, at its tick. -/
theorem execPowerGovernorTick_of_due {watts : Nat} {s : State} (hdue : s.svc.nextTick ≤ s.clock) :
    execPowerGovernorTick watts s = .next { s with svc := { s.svc with
      governor := (if s.svc.hot = true ∨ min s.svc.moduleCap s.svc.powerCeiling < watts then
          (if s.svc.governor ≤ 2 then 2 else s.svc.governor - 2)
        else if 100 * watts < 95 * min s.svc.moduleCap s.svc.powerCeiling then (if 8 ≤ s.svc.governor then 8 else s.svc.governor + 2)
        else s.svc.governor)
      nextTick := (s.clock / s.tenMicros + 1) * s.tenMicros } } := by
  simp only [execPowerGovernorTick, Nat.not_lt.mpr hdue, if_false, governed, Bool.or_eq_true, decide_eq_true_eq]

/-- R430, R421: at 115 °C the links that are up drop. -/
theorem execThermalShutdown_eq (s : State) : execThermalShutdown s = .next (if s.fab.portsUp = [] then
    { s with svc := { s.svc with stopped := true } }
    else ({ s with svc := { s.svc with stopped := true }, fab := { s.fab with portsUp := [] } } : State).warmRestart) := by
  simp only [execThermalShutdown, List.isEmpty_iff]

/-- R429: an uncorrectable error of HBM4E is logged with its address. -/
theorem execEccUncorrectable_mem {u : Nat} {s : State} (hunit : s.unitOk (.mem u) = true) :
    execEccUncorrectable (.mem u) s = .next (((s.poisonUnit (.mem u)).wearFrame (.mem u)).logError 0x51 (u * 32)) := by
  simp only [execEccUncorrectable, hunit, Bool.not_true, Bool.false_eq_true, if_false]

/-- R429: elsewhere the position is a free value. -/
theorem execEccUncorrectable_of_ne_mem {place : EccPlace} {s t : State} (hunit : s.unitOk place = true)
    (ht : (s.poisonUnit place).wearFrame place = t) (hplace : ∀ u, place ≠ .mem u) : execEccUncorrectable place s = .next
      (({ t with freeCtr := t.freeCtr + 1 } : State).logError 0x51 (Config.freeWord t.freeCtr).toNat) := by
  subst ht
  cases place with
  | mem u => exact absurd rfl (hplace u)
  | _ => simp only [execEccUncorrectable, hunit, Bool.not_true, Bool.false_eq_true, if_false, State.freeNat]

/-- What a package reset keeps (notes/assumptions/63). -/
def State.resetKeeping (s : State) : State :=
  { State.reset with hostMem := s.hostMem, agenda := s.agenda, freeCtr := s.freeCtr, nextSerial := s.nextSerial }

/-- R431, R432: a reset under a configuration block within its limits. -/
theorem execPackageReset_of_bootOk {b : BootBlock} {s : State} (hok : bootOk b = true) : execPackageReset b s = .next
    (if imagePasses b.main b.fuses then s.resetKeeping.bootUp b .running
      else if imagePasses b.bringup b.fuses then { s.resetKeeping.bootUp b .bringup with
        svc := { (s.resetKeeping.bootUp b .bringup).svc with failingCheck := b.failingCheck } }
      else { s.resetKeeping with svc := { s.resetKeeping.svc with boot := .failed, failingCheck := b.failingCheck } }) := by
  simp only [execPackageReset, hok, Bool.not_true, Bool.false_eq_true, if_false]
  rfl

/-! ## The functions and events together -/

/-- Settles O46, by what serves a record, a lane's turn, and the rule of each event. -/
theorem serviceEvents : Obligations.ServiceEvents := by
  unfold Obligations.ServiceEvents
  refine ⟨⟨fun s base logn hring hwait hup hfree htail hseq hflags => ?ring,
      fun entry lane s t b e hfind hturn hlane hout hfree hread => ?lane⟩,
    fun watts s => execPowerGovernorTick_of_due, fun hot s => rfl, fun s => execThermalShutdown_eq s,
    fun core loc s => ⟨fun hn => congrArg Host.Outcome.next (if_neg hn), fun hn => congrArg Host.Outcome.next (if_pos hn)⟩,
    fun place s hunit => ⟨fun u hplace => ?mem, execEccUncorrectable_of_ne_mem hunit rfl⟩, fun b s hok => ?reset⟩
  case ring =>
    have hserves : ∀ {fn : Nat} {f : EwcRec → State}, fn ≤ 5 → (s.ewcRec base logn (s.ringHead base)).fn = fn →
        Host.Outcome.next (serveEwc fn s f) = (.next (f (s.ewcRec base logn (s.ringHead base))) : Out) := fun hlisted hfn =>
      congrArg Host.Outcome.next (serveEwc_of_record hring hwait hup hfree htail hseq hflags hfn hlisted)
    exact ⟨hserves (by decide), hserves (by decide), hserves (by decide), hserves (by decide), hserves (by decide), hserves (by decide)⟩
  case lane =>
    refine ⟨fun p hp hfn => ?listed, fun hlisted u v hresult hstatus => ?unlisted⟩
    case listed =>
      obtain ⟨hexec, hknown⟩ := exec_of_mem_svcFunctions entry lane s p hp
      have hlisted : listedFn e.fn = true := hfn ▸ hknown
      have hanswers : ∀ {r : SvcRes} {u v : State}, svcAnswer p.2.2 e b t = r → r.1.svcWrite e lane 8 r.2.2 = .ok u →
          u.svcWrite e lane 0 (bytesOf 4 r.2.1) = .ok v → exec p.1 s = .next (v.svcReplied e lane r.2.1) :=
        fun hr hresult hstatus => hexec.trans (congrArg Host.Outcome.next
          (serve_of_turn hfind hturn hlane hout hfree hread (.inl hfn) hr hresult hstatus))
      exact ⟨fun hsup hasid u v => hanswers (svcAnswer_of_denied hlisted hsup hasid),
        fun hallowed hreserved u v => hanswers ((svcAnswer_of_allowed hlisted hallowed).trans (if_pos hreserved)),
        fun hallowed hzero u v => hanswers ((svcAnswer_of_allowed hlisted hallowed).trans (if_neg (not_not_intro hzero)))⟩
    case unlisted =>
      exact congrArg Host.Outcome.next (serve_of_turn hfind hturn hlane hout hfree hread (.inr ⟨hlisted, rfl⟩)
        (svcAnswer_of_unlisted hlisted) hresult hstatus)
  case mem =>
    subst hplace
    exact execEccUncorrectable_mem hunit
  case reset =>
    have hboots := execPackageReset_of_bootOk (s := s) hok
    refine ⟨fun hmain => ?main, fun hmain hbringup => ?bringup, fun hmain hbringup => ?failed⟩
    case main => exact hboots.trans (congrArg Host.Outcome.next (if_pos hmain))
    case bringup =>
      exact hboots.trans (congrArg Host.Outcome.next ((if_neg (Bool.eq_false_iff.mp hmain)).trans (if_pos hbringup)))
    case failed =>
      exact hboots.trans (congrArg Host.Outcome.next
        ((if_neg (Bool.eq_false_iff.mp hmain)).trans (if_neg (Bool.eq_false_iff.mp hbringup))))

end Sys2Proof.Machine
end

section
/-! PROOFS. The wave record (R387, Table 15-5): what a wave's record gives back of the wave that was written. -/

namespace Sys2Proof.Machine

/-! ## Tables and lists over a range -/

theorem Tbl.find_of_mem {α : Type} {t : List (Nat × α)} (hkeys : (t.map (·.1)).Nodup) {k : Nat} {x : α} (hmem : (k, x) ∈ t) :
    Tbl.find t k = some x := by
  induction t with
  | nil => simp at hmem
  | cons e t ih =>
    obtain ⟨hhead, htail⟩ := List.nodup_cons.mp hkeys
    rcases List.mem_cons.mp hmem with rfl | hmem
    · exact if_pos rfl
    · have hne : e.1 ≠ k := fun hk => hhead (List.mem_map.mpr ⟨(k, x), hmem, hk.symm⟩)
      exact (if_neg hne).trans (ih htail hmem)

section Range
variable {n k : Nat} (hk : k < n)

theorem nodup_keys_range {α : Type} (f : Nat → α) : (((List.range n).map (fun i => (i, f i))).map (·.1)).Nodup := by
  rw [List.map_map]
  exact List.nodup_range.map Function.injective_id

include hk

theorem mem_map_range {α : Type} (f : Nat → α) : (k, f k) ∈ (List.range n).map (fun i => (i, f i)) :=
  List.mem_map.mpr ⟨k, List.mem_range.mpr hk, rfl⟩

theorem Tbl.getD_range {α : Type} (f : Nat → α) (d : α) : Tbl.getD ((List.range n).map (fun i => (i, f i))) k d = f k := by
  rw [Tbl.getD, Tbl.find_of_mem (nodup_keys_range f) (mem_map_range hk f), Option.getD_some]

theorem Bits.rd_wrs_range {b : Nat} (f : Nat → BitVec b) : Bits.rd (Bits.wrs [] ((List.range n).map (fun i => (i, f i)))) k = f k :=
  Bits.rd_wrs_of_mem rfl (nodup_keys_range f) (mem_map_range hk f)

end Range

/-- The elements of a list, taken by their places. -/
theorem filterMap_getElem?_range {α : Type} (l : List α) {n : Nat} (hlen : l.length ≤ n) :
    (List.range n).filterMap (fun k => l[k]?) = l := by
  induction l generalizing n with
  | nil => simp
  | cons a t ih =>
    obtain ⟨n, rfl⟩ : ∃ k, n = k + 1 := ⟨n - 1, by simp at hlen; omega⟩
    rw [List.range_succ_eq_map, List.filterMap_cons, List.getElem?_cons_zero, List.filterMap_map]
    exact congrArg (a :: ·) (ih (by simpa using hlen))

/-! ## Bits that are set where a condition holds -/

/-- The number whose bit i is set where `f i` holds, for i below n. -/
def markSum (f : Nat → Bool) : Nat → Nat
  | 0 => 0
  | n + 1 => markSum f n + if f n then 2 ^ n else 0

theorem markSum_lt (f : Nat → Bool) (n : Nat) : markSum f n < 2 ^ n := by
  induction n with
  | zero => exact Nat.one_pos
  | succ n ih =>
    rw [markSum, Nat.pow_succ]
    split <;> omega

theorem markSum_congr {f g : Nat → Bool} {n : Nat} (h : ∀ i < n, f i = g i) : markSum f n = markSum g n := by
  induction n with
  | zero => rfl
  | succ n ih => rw [markSum, markSum, ih fun i hi => h i (by omega), h n (by omega)]

theorem testBit_markSum (f : Nat → Bool) {n i : Nat} (hi : i < n) : (markSum f n).testBit i = f i := by
  induction n with
  | zero => omega
  | succ n ih =>
    rw [markSum]
    by_cases hin : i < n
    · split
      · rw [Nat.add_comm, Nat.testBit_two_pow_add_gt hin, ih hin]
      · rw [Nat.add_zero, ih hin]
    · obtain rfl : i = n := by omega
      have hclear : (markSum f i).testBit i = false := Nat.testBit_lt_two_pow (markSum_lt f i)
      split
      · rw [Nat.add_comm, Nat.testBit_two_pow_add_eq, hclear, ‹f i = true›]; rfl
      · rw [Nat.add_zero, hclear, Bool.eq_false_iff.mpr ‹¬ f i = true›]

theorem fieldOf_one_iff (x i : Nat) : fieldOf x i 1 = 1 ↔ x.testBit i = true := by
  rw [fieldOf, Nat.pow_one, Nat.testBit_eq_decide_div_mod_eq, decide_eq_true_eq]

theorem tokMarks_eq (l : List TokOp) : tokMarks l = markSum (fun i => (l[i]?).any (·.done)) l.length := by
  induction l using List.reverseRecOn with
  | nil => rfl
  | append_singleton l x ih =>
    have hsnoc : tokMarks (l ++ [x]) = if x.done then tokMarks l + 2 ^ l.length else tokMarks l := by
      rw [tokMarks, List.length_append, List.length_singleton, List.range_succ, List.zip_append (by simp), List.foldl_append]
      rfl
    have hold : markSum (fun i => ((l ++ [x])[i]?).any (·.done)) l.length = tokMarks l := by
      rw [ih]
      exact markSum_congr fun i hi => by rw [List.getElem?_append_left hi]
    rw [hsnoc, List.length_append, List.length_singleton, markSum, hold]
    simp only [List.getElem?_concat_length, Option.any_some]
    split <;> rfl

theorem Wave.predByte_eq (w : Wave) (l : Nat) : w.predByte l = markSum (fun i => (Bits.rd w.p i).getLsbD l) 7 := by
  simp only [Wave.predByte, List.range, List.range.loop, List.map_cons, List.map_nil, List.foldl_cons, List.foldl_nil, markSum]

/-! ## Bytes at their offsets -/

theorem take_bytesOf {k n : Nat} (hkn : k ≤ n) (x : Nat) : (bytesOf n x).take k = bytesOf k x := by
  induction k generalizing n x with
  | zero => rfl
  | succ k ih =>
    obtain ⟨n, rfl⟩ : ∃ m, n = m + 1 := ⟨n - 1, by omega⟩
    exact congrArg (BitVec.ofNat 8 x :: ·) (ih (Nat.le_of_succ_le_succ hkn) (x / 256))

/-- The first bytes of a number read back as its low part. -/
theorem recNum_bytesOf_low {k n : Nat} (hkn : k ≤ n) (x : Nat) : recNum (bytesOf n x) 0 k = x % 256 ^ k := by
  rw [recNum, List.drop_zero, take_bytesOf hkn, ofBytes_bytesOf]

theorem sectionAt_add_length_le {bss : List (List Byte)} {bs : List Byte} {j : Nat} (hsec : bss[j]? = some bs) :
    sectionAt bss j + bs.length ≤ bss.flatten.length := by
  obtain ⟨hj, rfl⟩ := List.getElem?_eq_some_iff.mp hsec
  have hnext : sectionAt bss j + bss[j].length = sectionAt bss (j + 1) := by
    rw [sectionAt, sectionAt, List.take_succ_eq_append_getElem hj, List.map_append, List.sum_append_nat, List.map_singleton,
      List.sum_singleton]
  calc sectionAt bss j + bss[j].length = sectionAt bss (j + 1) := hnext
    _ ≤ sectionAt bss (j + 1) + ((bss.drop (j + 1)).map List.length).sum := Nat.le_add_right ..
    _ = bss.flatten.length := by
      rw [sectionAt, ← List.sum_append_nat, ← List.map_append, List.take_append_drop, List.length_flatten]

section Rows
variable {f : Nat → List Byte} {b : Nat} (hlen : ∀ i, (f i).length = b)
include hlen

theorem length_rows (n : Nat) : ((List.range n).flatMap f).length = n * b := by
  simp [List.length_flatMap, hlen]

/-- What lies in one of equal rows is read from that row. -/
theorem recNum_rows {n i lo len : Nat} (hi : i < n) (hin : lo + len ≤ b) :
    recNum ((List.range n).flatMap f) (b * i + lo) len = recNum (f i) lo len := by
  have hrow : ((List.range n).map f)[i]? = some (f i) := by simp [hi]
  have hat : sectionAt ((List.range n).map f) i = b * i := by
    have hfun : List.length ∘ f = fun _ => b := funext hlen
    rw [sectionAt, ← List.map_take, List.map_map, hfun]
    simp [Nat.min_eq_left hi.le, Nat.mul_comm]
  rw [List.flatMap_def, ← hat, recNum_flatten i hrow (by rw [hlen]; exact hin)]

end Rows

/-- Bytes of memory, as a number, are read one by one. -/
theorem Memory.read_eq_ofBytes {m : Memory} {a : Nat} (bs : List Byte) (h : ∀ i (hi : i < bs.length), Bits.rd m (a + i) = bs[i]) :
    Memory.read m a bs.length = ofBytes bs := by
  induction bs generalizing a with
  | nil => rfl
  | cons b t ih =>
    have hhead : Bits.rd m a = b := h 0 (by simp)
    have htail : Memory.read m (a + 1) t.length = ofBytes t := ih fun i hi => by
      rw [Nat.add_assoc, Nat.add_comm 1 i]
      exact h (i + 1) (Nat.succ_lt_succ hi)
    rw [List.length_cons, Memory.read, ofBytes, hhead, htail]

/-- What has been written at an address is read within it. -/
theorem recAt_setBytes {m : Memory} (hm : Memory.wf m = true) (a : Nat) {bs : List Byte} {off n : Nat} (hin : off + n ≤ bs.length) :
    recAt (Memory.setBytes m a bs) a off n = recNum bs off n := by
  have hlen : ((bs.drop off).take n).length = n := by simp; omega
  have hread := Memory.read_eq_ofBytes (m := Memory.setBytes m a bs) (a := a + off) ((bs.drop off).take n) fun i hi => by
    rw [hlen] at hi
    rw [Nat.add_assoc]
    exact (Memory.byte_setBytes hm a bs (by omega)).trans (by simp)
  rwa [hlen] at hread

/-! ## The sections of a wave record -/

@[simp] theorem Split.length_bytes (p : Split) : p.bytes.length = 16 := by simp [Split.bytes]

@[simp] theorem Split.length_faultBytes (p : Split) : p.faultBytes.length = 16 := by
  unfold Split.faultBytes
  split <;> simp

/-- The row of `pad32` for place i. -/
def padRow {α : Type} (f : α → List Byte) (l : List α) (i : Nat) : List Byte := (l[i]?.map f).getD (bytesOf 16 0)

theorem length_padRow {α : Type} {f : α → List Byte} (hf : ∀ x, (f x).length = 16) (l : List α) (i : Nat) :
    (padRow f l i).length = 16 := by
  cases hrow : l[i]? <;> simp [padRow, hrow, hf]

theorem pad32_eq {α : Type} (f : α → List Byte) (l : List α) : pad32 f l = (List.range 32).flatMap (padRow f l) := by
  unfold pad32
  congr 1
  funext i
  cases hrow : l[i]? <;> simp [padRow, hrow]

/-- The 16 bytes of the poll record. -/
def Wave.pollBytes (w : Wave) : List Byte := (w.poll.map (fun p => bytesOf 8 p.addr ++ bytesOf 8 p.value.toNat)).getD (bytesOf 16 0)

@[simp] theorem Wave.length_pollBytes (w : Wave) : w.pollBytes.length = 16 := by
  cases hpoll : w.poll <;> simp [Wave.pollBytes, hpoll]

/-- The sections of a wave record (Table 15-5). -/
def Wave.recordSections (w : Wave) : List (List Byte) :=
  [(List.range 32).flatMap (padRow Split.bytes w.splits),
    (List.range 64).flatMap (fun i => bytesOf 4 (Bits.rd w.s i).toNat),
    (List.range 8).flatMap (fun i => bytesOf 16 (w.jreg i).word),
    (List.range 16).flatMap (fun b => bytesOf 4 (Bits.rd w.barW b).toNat),
    (List.range 16).flatMap (fun b => bytesOf 4 (Bits.rd w.barQ b).toNat),
    (List.range 32).flatMap (fun l => bytesOf 1 (w.predByte l)),
    bytesOf 4 w.fpctl.toNat, bytesOf 4 w.chkctl.toNat, bytesOf 4 w.quota,
    bytesOf 20 ((if w.rt then 128 else 0) + w.base * 4 + w.level),
    (List.range 8).flatMap (fun i => bytesOf 8 (Bits.rd w.scalewin i).toNat),
    w.pollBytes, bytesOf 8 (if w.rest.resting && w.rest.hinted then 1 else 0),
    bytesOf 8 (if w.rest.resting && w.rest.hinted then w.rest.hintPc.toNat else 0), bytesOf 96 0,
    (List.range 16).flatMap (fun k => bytesOf 8 (w.count k) ++ bytesOf 8 (tokMarks (w.tok k))),
    (List.range 32).flatMap (padRow Split.faultBytes w.splits)]

theorem Wave.record_eq_sections (w : Wave) : w.record = w.recordSections.flatten := by
  cases hpoll : w.poll <;>
    simp [Wave.record, Wave.recordSections, Wave.pollBytes, hpoll, pad32_eq]

/-- The lengths of the sections. -/
def recordLengths : List Nat := [512, 256, 128, 64, 64, 32, 4, 4, 4, 20, 64, 16, 8, 8, 96, 256, 512]

theorem Wave.map_length_recordSections (w : Wave) : w.recordSections.map List.length = recordLengths := by
  simp [Wave.recordSections, recordLengths, length_rows (length_padRow Split.length_bytes _),
    length_rows (length_padRow Split.length_faultBytes _), length_rows (fun _ => length_bytesOf _ _), length_rows (b := 16)]

theorem Wave.sectionAt_recordSections (w : Wave) (j : Nat) : sectionAt w.recordSections j = (recordLengths.take j).sum := by
  rw [sectionAt, List.map_take, w.map_length_recordSections]

section Record
variable {m : Memory} {a j : Nat} {w : Wave}

section Sections
variable (hm : Memory.wf m = true)
include hm

/-- What lies in a section of a record that has been written is read from that section. -/
theorem Wave.recAt_section {bs : List Byte} {lo n off : Nat} (hsec : w.recordSections[j]? = some bs)
    (hoff : (recordLengths.take j).sum + lo = off) (hin : lo + n ≤ bs.length) :
    recAt (Memory.setBytes m a w.record) a off n = recNum bs lo n := by
  have hend := sectionAt_add_length_le hsec
  rw [← w.sectionAt_recordSections j] at hoff
  rw [w.record_eq_sections, recAt_setBytes hm a (by omega), ← hoff, recNum_flatten j hsec hin]

/-- A number of a record reads back. -/
theorem Wave.recAt_number {n x off : Nat} (hsec : w.recordSections[j]? = some (bytesOf n x)) (hoff : (recordLengths.take j).sum = off)
    (hfits : x < 256 ^ n) : recAt (Memory.setBytes m a w.record) a off n = x := by
  rw [Wave.recAt_section hm (lo := 0) hsec hoff (by simp), recNum_bytesOf hfits]

/-- What lies in a row of a section is read from that row. -/
theorem Wave.recAt_row {f : Nat → List Byte} {rows b i lo n off : Nat} (hsec : w.recordSections[j]? = some ((List.range rows).flatMap f))
    (hlen : ∀ i, (f i).length = b) (hi : i < rows) (hoff : (recordLengths.take j).sum + (b * i + lo) = off) (hin : lo + n ≤ b) :
    recAt (Memory.setBytes m a w.record) a off n = recNum (f i) lo n := by
  have hrow : b * i + b ≤ rows * b := by
    rw [Nat.mul_comm rows, ← Nat.mul_succ]
    exact Nat.mul_le_mul_left b hi
  rw [Wave.recAt_section hm hsec hoff (by rw [length_rows hlen]; omega), recNum_rows hlen hi hin]

/-- A number of a row reads back. -/
theorem Wave.recAt_entry {x : Nat → Nat} {rows b i off : Nat} (hsec : w.recordSections[j]? = some ((List.range rows).flatMap (fun i => bytesOf b (x i))))
    (hi : i < rows) (hoff : (recordLengths.take j).sum + b * i = off) (hfits : x i < 256 ^ b) :
    recAt (Memory.setBytes m a w.record) a off b = x i := by
  rw [Wave.recAt_row hm (lo := 0) hsec (fun _ => length_bytesOf _ _) hi hoff (by omega), recNum_bytesOf hfits]

end Sections

/-! ## What a record gives back -/

theorem JReg.word_lt (r : JReg) : r.word < 256 ^ 16 := by
  have hpcw := r.pcw.isLt
  have harr := r.arr.isLt
  have hexp := r.exp.isLt
  rw [JReg.word]
  split <;> omega

theorem jregFrom_word (r : JReg) : jregFrom r.word = r := by
  obtain ⟨v, pcw, arr, exp⟩ := r
  have hpcw := pcw.isLt
  have harr := arr.isLt
  have hexp := exp.isLt
  have hv : decide (fieldOf (JReg.word ⟨v, pcw, arr, exp⟩) 120 1 = 1) = v := by
    cases v <;> simp [fieldOf, JReg.word] <;> omega
  have hp : BitVec.ofNat 56 (JReg.word ⟨v, pcw, arr, exp⟩ / 2 ^ 64) = pcw := by
    apply BitVec.eq_of_toNat_eq
    cases v <;> simp [JReg.word] <;> omega
  have ha : BitVec.ofNat 32 (JReg.word ⟨v, pcw, arr, exp⟩ / 2 ^ 32) = arr := by
    apply BitVec.eq_of_toNat_eq
    cases v <;> simp [JReg.word] <;> omega
  have he : BitVec.ofNat 32 (JReg.word ⟨v, pcw, arr, exp⟩) = exp := by
    apply BitVec.eq_of_toNat_eq
    cases v <;> simp [JReg.word] <;> omega
  rw [jregFrom, hv, hp, ha, he]

/-- What a record holds of a split. -/
def Split.recorded (p : Split) : PC × Lanes × Nat × Nat := (p.pc, p.mask, splitCode p.st, splitDetail p.st)

theorem splitCode_lt (x : SplitSt) : splitCode x < 256 ^ 1 := by
  cases x <;> simp [splitCode]

theorem splitFrom_of_empty {clock k : Nat} {old : Option Split} (hcode : recAt m a (16 * k + 12) 1 = 0) :
    splitFrom m a clock k old = none := by
  simp [splitFrom, hcode]

theorem splitFrom_of_written {clock k : Nat} {old : Option Split} {p : Split} (hpc : recAt m a (16 * k) 8 = p.pc.toNat)
    (hmask : recAt m a (16 * k + 8) 4 = p.mask.toNat) (hcode : recAt m a (16 * k + 12) 1 = splitCode p.st)
    (hdetail : recAt m a (16 * k + 13) 1 = splitDetail p.st) : (splitFrom m a clock k old).map Split.recorded = some p.recorded := by
  unfold splitFrom Split.recorded
  rw [hcode, hdetail, hpc, hmask]
  cases hst : p.st with
  | parked c sec x r => cases r <;> simp [splitCode, splitDetail]
  | suspended why => cases old with
    | none => simp [splitCode, splitDetail]
    | some o => cases ho : o.st <;> simp [splitCode, splitDetail, ho]
  | stopped c => cases old with
    | none => simp [splitCode, splitDetail]
    | some o => cases ho : o.st <;> simp [splitCode, splitDetail, ho]
  | _ => simp [splitCode, splitDetail]

section Written
variable (hm : Memory.wf m = true)
include hm

/-- A place without a split holds zeros. -/
theorem Wave.splitFrom_record_none {clock k : Nat} {old : Option Split} (hk : k < 32) (hsplit : w.splits[k]? = none) :
    splitFrom (Memory.setBytes m a w.record) a clock k old = none := by
  apply splitFrom_of_empty
  rw [Wave.recAt_row hm (j := 0) (lo := 12) rfl (length_padRow Split.length_bytes _) hk (Nat.zero_add _) (by omega), padRow, hsplit]
  rfl

theorem Wave.splitFrom_record_some {clock k : Nat} {old : Option Split} {p : Split} (hk : k < 32) (hsplit : w.splits[k]? = some p)
    (hdetail : splitDetail p.st < 256) :
    (splitFrom (Memory.setBytes m a w.record) a clock k old).map Split.recorded = some p.recorded := by
  have hrow : padRow Split.bytes w.splits k = [bytesOf 8 p.pc.toNat, bytesOf 4 p.mask.toNat, bytesOf 1 (splitCode p.st),
      bytesOf 1 (splitDetail p.st), bytesOf 2 0].flatten := by simp [padRow, hsplit, Split.bytes]
  have hpc := p.pc.isLt
  have hmask := p.mask.isLt
  have hread : ∀ lo n, lo + n ≤ 16 →
      recAt (Memory.setBytes m a w.record) a (16 * k + lo) n = recNum (padRow Split.bytes w.splits k) lo n := fun lo n =>
    Wave.recAt_row hm (j := 0) rfl (length_padRow Split.length_bytes _) hk (Nat.zero_add _)
  refine splitFrom_of_written ((hread 0 8 (by omega)).trans ?_) ((hread 8 4 (by omega)).trans ?_) ((hread 12 1 (by omega)).trans ?_)
    ((hread 13 1 (by omega)).trans ?_) <;> rw [hrow]
  · exact recNum_section 0 rfl rfl (hpc.trans (by decide))
  · exact recNum_section 1 rfl (by simp [sectionAt]) (hmask.trans_le (by decide))
  · exact recNum_section 2 rfl (by simp [sectionAt]) (splitCode_lt p.st)
  · exact recNum_section 3 rfl (by simp [sectionAt]) hdetail

/-- The splits of a record are those that were written, in their places. -/
theorem Wave.recorded_splits {clock : Nat} {old : List Split} (hlen : w.splits.length ≤ 32) (hdetail : ∀ p ∈ w.splits, splitDetail p.st < 256) :
    ((List.range 32).filterMap (fun k => splitFrom (Memory.setBytes m a w.record) a clock k old[k]?)).map Split.recorded =
      w.splits.map Split.recorded := by
  have hplace : ∀ k ∈ List.range 32, (splitFrom (Memory.setBytes m a w.record) a clock k old[k]?).map Split.recorded =
      (w.splits.map Split.recorded)[k]? := fun k hk => by
    have hk := List.mem_range.mp hk
    rw [List.getElem?_map]
    cases hsplit : w.splits[k]? with
    | none => rw [Wave.splitFrom_record_none hm hk hsplit, Option.map_none]
    | some p => rw [Wave.splitFrom_record_some hm hk hsplit (hdetail p (List.mem_of_getElem? hsplit)), Option.map_some]
  rw [List.map_filterMap, List.filterMap_congr hplace, filterMap_getElem?_range _ (by simpa using hlen)]

/-- The predicates of a record are those that were written. -/
theorem Wave.predFrom_record {i : Nat} (hi : i < 7) : predFrom (Memory.setBytes m a w.record) a i = Bits.rd w.p i := by
  apply BitVec.eq_of_getLsbD_eq
  intro l hl
  have hbyte : recAt (Memory.setBytes m a w.record) a (0x400 + l) 1 = w.predByte l :=
    Wave.recAt_entry hm (j := 5) rfl hl (by rw [Nat.one_mul]; rfl) (by rw [w.predByte_eq]; exact (markSum_lt _ 7).trans (by decide))
  have hbit : fieldOf (recAt (Memory.setBytes m a w.record) a (0x400 + l) 1) i 1 = 1 ↔ (Bits.rd w.p i).getLsbD l = true := by
    rw [fieldOf_one_iff, hbyte, w.predByte_eq, testBit_markSum _ hi]
  rw [predFrom, laneSet_getLsbD]
  simp only [hl, decide_true, Bool.true_and, List.mem_filter, List.mem_range, true_and, hbit, Bool.decide_eq_true]

/-- The marks of a token's operations are those that were written. -/
theorem Wave.tokFrom_record {k posts clock : Nat} {old : List TokOp} (hk : k < 16) (hcount : w.count k < 64) :
    (tokFrom (Memory.setBytes m a w.record) a k posts clock old).map (·.done) = (w.tok k).map (·.done) := by
  have hlen : ∀ k, (bytesOf 8 (w.count k) ++ bytesOf 8 (tokMarks (w.tok k))).length = 16 := by simp
  have hn : recAt (Memory.setBytes m a w.record) a (0x500 + 16 * k) 1 = w.count k := by
    rw [Wave.recAt_row hm (j := 15) (lo := 0) rfl hlen hk (off := 0x500 + 16 * k) rfl (by omega), recNum_append_left (by simp), recNum_bytesOf_low (by omega)]
    exact Nat.mod_eq_of_lt (by omega)
  have hmarks : recAt (Memory.setBytes m a w.record) a (0x508 + 16 * k) 8 = tokMarks (w.tok k) := by
    have hfits : tokMarks (w.tok k) < 256 ^ 8 := by
      rw [tokMarks_eq]
      exact (markSum_lt _ _).trans (Nat.pow_lt_pow_right (by decide) hcount)
    have hright := recNum_append_right (bytesOf 8 (w.count k)) (bytesOf 8 (tokMarks (w.tok k))) 0 8
    rw [Wave.recAt_row hm (j := 15) (lo := 8) rfl hlen hk (by rw [show (recordLengths.take 15).sum = 0x500 from rfl]; omega) (by omega)]
    exact (by simpa using hright : _ = _).trans (recNum_bytesOf hfits)
  rw [tokFrom, hn, hmarks, Nat.mod_eq_of_lt hcount, List.map_map]
  apply List.ext_getElem
  · simp [Wave.count]
  · intro i hi _
    have hin : i < (w.tok k).length := by simpa [Wave.count] using hi
    simp [fieldOf_one_iff, tokMarks_eq, testBit_markSum _ hin, hin]

/-- A table of a record is that of the wave. -/
theorem Wave.rd_table {n rows b off i : Nat} {x : Nat → BitVec n}
    (hsec : w.recordSections[j]? = some ((List.range rows).flatMap (fun i => bytesOf b (x i).toNat)))
    (hoff : (recordLengths.take j).sum = off) (hfits : 2 ^ n ≤ 256 ^ b) (hi : i < rows) :
    Bits.rd (Bits.wrs [] ((List.range rows).map (fun i => (i, BitVec.ofNat n (recAt (Memory.setBytes m a w.record) a (off + b * i) b))))) i =
      x i := by
  subst hoff
  rw [Bits.rd_wrs_range hi, Wave.recAt_entry hm hsec hi rfl ((x i).isLt.trans_le hfits), BitVec.ofNat_toNat, BitVec.setWidth_eq]

theorem Wave.word_record {off : Nat} {x : Word} (hsec : w.recordSections[j]? = some (bytesOf 4 x.toNat))
    (hoff : (recordLengths.take j).sum = off) : BitVec.ofNat 32 (recAt (Memory.setBytes m a w.record) a off 4) = x := by
  rw [Wave.recAt_number hm hsec hoff (x.isLt.trans_le (by decide)), BitVec.ofNat_toNat, BitVec.setWidth_eq]

theorem Wave.quota_record (hquota : w.quota < 512) : recAt (Memory.setBytes m a w.record) a 0x428 4 % 512 = w.quota := by
  rw [Wave.recAt_number hm (j := 8) (off := 0x428) rfl rfl (hquota.trans (by decide)), Nat.mod_eq_of_lt hquota]

/-- The class, base and level of a wave share the byte at 0x42C. -/
theorem Wave.class_record (hbase : w.base < 4) (hlevel : w.level < 4) :
    recAt (Memory.setBytes m a w.record) a 0x42C 1 = (if w.rt then 128 else 0) + w.base * 4 + w.level := by
  rw [Wave.recAt_section hm (j := 9) (lo := 0) (off := 0x42C) rfl rfl (by rw [length_bytesOf]; omega), recNum_bytesOf_low (by omega)]
  apply Nat.mod_eq_of_lt
  split <;> omega

theorem Wave.jreg_record {i : Nat} (hi : i < 8) :
    Tbl.getD ((List.range 8).map (fun i => (i, jregFrom (recAt (Memory.setBytes m a w.record) a (0x300 + 16 * i) 16)))) i JReg.clear =
      w.jreg i := by
  rw [Tbl.getD_range hi, Wave.recAt_entry hm (j := 2) (off := 0x300 + 16 * i) rfl hi rfl (w.jreg i).word_lt, jregFrom_word]

end Written

end Record

theorem class_fields (rt : Bool) {base level : Nat} (hbase : base < 4) (hlevel : level < 4) :
    decide (fieldOf ((if rt then 128 else 0) + base * 4 + level) 7 1 = 1) = rt
      ∧ fieldOf ((if rt then 128 else 0) + base * 4 + level) 2 2 = base ∧ fieldOf ((if rt then 128 else 0) + base * 4 + level) 0 2 = level := by
  cases rt <;> simp [fieldOf] <;> omega

section Tables
variable (w : Wave) (m : Memory) (a clock : Nat)

theorem Wave.fromRecord_s : (w.fromRecord m a clock).s =
    Bits.wrs [] ((List.range 64).map (fun i => (i, BitVec.ofNat 32 (recAt m a (0x200 + 4 * i) 4)))) := by
  simp only [Wave.fromRecord]

theorem Wave.fromRecord_barW : (w.fromRecord m a clock).barW =
    Bits.wrs [] ((List.range 16).map (fun i => (i, BitVec.ofNat 32 (recAt m a (0x380 + 4 * i) 4)))) := by
  simp only [Wave.fromRecord]

theorem Wave.fromRecord_barQ : (w.fromRecord m a clock).barQ =
    Bits.wrs [] ((List.range 16).map (fun i => (i, BitVec.ofNat 32 (recAt m a (0x3C0 + 4 * i) 4)))) := by
  simp only [Wave.fromRecord]

theorem Wave.fromRecord_scalewin : (w.fromRecord m a clock).scalewin =
    Bits.wrs [] ((List.range 8).map (fun i => (i, BitVec.ofNat 64 (recAt m a (0x440 + 8 * i) 8)))) := by
  simp only [Wave.fromRecord]

theorem Wave.fromRecord_splits :
    (w.fromRecord m a clock).splits = (List.range 32).filterMap (fun k => splitFrom m a clock k w.splits[k]?) := by
  simp only [Wave.fromRecord]

theorem Wave.fromRecord_p : (w.fromRecord m a clock).p = Bits.wrs [] ((List.range 7).map (fun i => (i, predFrom m a i))) := by
  simp only [Wave.fromRecord]

theorem Wave.fromRecord_jreg (i : Nat) : (w.fromRecord m a clock).jreg i =
    Tbl.getD ((List.range 8).map (fun i => (i, jregFrom (recAt m a (0x300 + 16 * i) 16)))) i JReg.clear := by
  simp only [Wave.jreg, Wave.fromRecord]

theorem Wave.fromRecord_tok (k : Nat) : (w.fromRecord m a clock).tok k =
    Tbl.getD ((List.range 16).map (fun k => (k, tokFrom m a k (Tbl.getD w.posts k 0) clock (w.tok k)))) k [] := by
  rw [Wave.tok]
  simp only [Wave.fromRecord]

theorem Wave.fromRecord_words : (w.fromRecord m a clock).fpctl = BitVec.ofNat 32 (recAt m a 0x420 4)
    ∧ (w.fromRecord m a clock).chkctl = BitVec.ofNat 32 (recAt m a 0x424 4) ∧ (w.fromRecord m a clock).quota = recAt m a 0x428 4 % 512 := by
  simp only [Wave.fromRecord, and_self]

theorem Wave.fromRecord_class : (w.fromRecord m a clock).rt = decide (fieldOf (recAt m a 0x42C 1) 7 1 = 1)
    ∧ (w.fromRecord m a clock).base = fieldOf (recAt m a 0x42C 1) 2 2 ∧ (w.fromRecord m a clock).level = fieldOf (recAt m a 0x42C 1) 0 2 := by
  simp only [Wave.fromRecord, and_self]

end Tables

/-- R387: what a record gives back of a wave is what was written of it. -/
theorem Wave.fromRecord_record {m : Memory} {a clock : Nat} {w : Wave} (hm : Memory.wf m = true) (hlen : w.splits.length ≤ 32)
    (hcount : ∀ k < 16, w.count k < 64) (hquota : w.quota < 512) (hbase : w.base < 4) (hlevel : w.level < 4)
    (hdetail : ∀ p ∈ w.splits, splitDetail p.st < 256) :
    let y := w.static.fromRecord (Memory.setBytes m a w.record) a clock
    (∀ i < 64, Bits.rd y.s i = Bits.rd w.s i) ∧ (∀ i < 7, Bits.rd y.p i = Bits.rd w.p i) ∧ (∀ i < 8, y.jreg i = w.jreg i)
      ∧ (∀ b < 16, Bits.rd y.barW b = Bits.rd w.barW b ∧ Bits.rd y.barQ b = Bits.rd w.barQ b)
      ∧ (∀ i < 8, Bits.rd y.scalewin i = Bits.rd w.scalewin i)
      ∧ y.fpctl = w.fpctl ∧ y.chkctl = w.chkctl ∧ y.quota = w.quota ∧ y.rt = w.rt ∧ y.base = w.base ∧ y.level = w.level
      ∧ y.splits.map Split.recorded = w.splits.map Split.recorded
      ∧ (∀ k < 16, (y.tok k).map (·.done) = (w.tok k).map (·.done)) := by
  intro y
  obtain ⟨hfpctl, hchkctl, hquota'⟩ := w.static.fromRecord_words (Memory.setBytes m a w.record) a clock
  obtain ⟨hrt, hb, hl⟩ := w.static.fromRecord_class (Memory.setBytes m a w.record) a clock
  rw [Wave.class_record hm hbase hlevel] at hrt hb hl
  obtain ⟨hrt', hb', hl'⟩ := class_fields w.rt hbase hlevel
  refine ⟨fun i hi => ?s, fun i hi => ?p, fun i hi => ?jreg, fun b hb => ⟨?barW, ?barQ⟩, fun i hi => ?scalewin,
    hfpctl.trans (Wave.word_record hm (j := 6) rfl rfl), hchkctl.trans (Wave.word_record hm (j := 7) rfl rfl),
    hquota'.trans (Wave.quota_record hm hquota), hrt.trans hrt', hb.trans hb', hl.trans hl', ?splits, fun k hk => ?toks⟩
  case s =>
    rw [Wave.fromRecord_s]
    exact Wave.rd_table hm (j := 1) (x := Bits.rd w.s) rfl rfl (by decide) hi
  case p => rw [Wave.fromRecord_p, Bits.rd_wrs_range hi, Wave.predFrom_record hm hi]
  case jreg => rw [Wave.fromRecord_jreg, Wave.jreg_record hm hi]
  case barW =>
    rw [Wave.fromRecord_barW]
    exact Wave.rd_table hm (j := 3) (x := Bits.rd w.barW) rfl rfl (by decide) hb
  case barQ =>
    rw [Wave.fromRecord_barQ]
    exact Wave.rd_table hm (j := 4) (x := Bits.rd w.barQ) rfl rfl (by decide) hb
  case scalewin =>
    rw [Wave.fromRecord_scalewin]
    exact Wave.rd_table hm (j := 10) (x := Bits.rd w.scalewin) rfl rfl (by decide) hi
  case splits => rw [Wave.fromRecord_splits, Wave.recorded_splits hm hlen hdetail]
  case toks => rw [Wave.fromRecord_tok, Tbl.getD_range hk, Wave.tokFrom_record hm hk (hcount k hk)]

end Sys2Proof.Machine
end

section
/-! PROOFS. The v registers of a frame (R386, R388): a register that a save kept has its value again and another is zero. -/

namespace Sys2Proof.Machine

theorem Bits.rd_keep {b : Nat} {m : Bits b} (hm : Tbl.wf m = true) (keep : Nat → Bool) (k : Nat) :
    Bits.rd (Bits.keep m keep) k = if keep k then Bits.rd m k else 0 := by
  rw [Bits.rd, Tbl.getD, Bits.keep, Tbl.find_filter hm, Bits.rd, Tbl.getD]
  cases hfind : Tbl.find m k <;> cases hkeep : keep k <;> simp [Option.filter, hkeep]

theorem Tbl.nodup_keys_of_wf {α : Type} {t : List (Nat × α)} (ht : Tbl.wf t = true) : (t.map (·.1)).Nodup := by
  induction t with
  | nil => exact List.nodup_nil
  | cons e t ih =>
    refine List.nodup_cons.mpr ⟨fun hmem => ?_, ih (Tbl.wf_tail ht)⟩
    obtain ⟨f, hf, hkey⟩ := List.mem_map.mp hmem
    exact (Tbl.wf_head_lt (i := e.1) (y := e.2) ht f hf).ne' hkey

/-! ## The bytes of words -/

section Cells
variable {base : Nat} {ws : List (Nat × Word)}

theorem mem_wordCells {e : Nat × Byte} :
    e ∈ wordCells base ws ↔ ∃ c ∈ ws, ∃ i < 4, e = (base + 4 * c.1 + i, BitVec.ofNat 8 (c.2.toNat / 256 ^ i)) := by
  simp only [wordCells, List.mem_flatMap, List.mem_map, List.mem_range, eq_comm]

variable (hws : Tbl.wf ws = true)
include hws

theorem nodup_keys_wordCells : ((wordCells base ws).map (·.1)).Nodup := by
  induction ws with
  | nil => exact List.nodup_nil
  | cons e t ih =>
    have hcells : wordCells base (e :: t) =
        (List.range 4).map (fun i => (base + 4 * e.1 + i, BitVec.ofNat 8 (e.2.toNat / 256 ^ i))) ++ wordCells base t := by
      simp only [wordCells, List.flatMap_cons]
    rw [hcells, List.map_append, List.map_map]
    refine List.Nodup.append (List.nodup_range.map fun x y h => Nat.add_left_cancel h) (ih (Tbl.wf_tail hws)) fun a ha hb => ?_
    obtain ⟨i, hi, rfl⟩ := List.mem_map.mp ha
    obtain ⟨f, hf, hkey⟩ := List.mem_map.mp hb
    obtain ⟨c, hc, j, hj, rfl⟩ := mem_wordCells.mp hf
    have hlt := Tbl.wf_head_lt (i := e.1) (y := e.2) hws c hc
    have hi := List.mem_range.mp hi
    simp only [Function.comp_apply] at hkey
    omega

variable {m : Memory} (hm : Tbl.wf m = true) {clear : Nat → Bool} {k : Nat}
include hm

/-- A byte of a word of an image is that of the word. -/
theorem Memory.rd_image_wordCells {i : Nat} (hi : i < 4) (hclear : clear (base + 4 * k + i) = true) :
    Bits.rd (Memory.image m clear (wordCells base ws)) (base + 4 * k + i) = BitVec.ofNat 8 ((Bits.rd ws k).toNat / 256 ^ i) := by
  cases hfind : Tbl.find ws k with
  | some x =>
    have hword : Bits.rd ws k = x := by rw [Bits.rd, Tbl.getD, hfind, Option.getD_some]
    rw [hword]
    exact Bits.rd_wrs_of_mem (Tbl.wf_filter hm _) (nodup_keys_wordCells hws)
      (mem_wordCells.mpr ⟨(k, x), Tbl.mem_of_find hfind, i, hi, rfl⟩)
  | none =>
    have hword : Bits.rd ws k = 0 := by rw [Bits.rd, Tbl.getD, hfind, Option.getD_none]
    have hother : ∀ e ∈ wordCells base ws, e.1 ≠ base + 4 * k + i := fun e he hkey => by
      obtain ⟨c, hc, j, hj, rfl⟩ := mem_wordCells.mp he
      obtain rfl : c.1 = k := by simp only at hkey; omega
      exact Option.some_ne_none c.2 ((Tbl.find_of_mem (Tbl.nodup_keys_of_wf hws) hc).symm.trans hfind)
    rw [Memory.image, Bits.rd_wrs_other _ _ hother, Bits.rd_keep hm, hword]
    simp [hclear]

/-- A word of an image reads back. -/
theorem Memory.read_image_wordCells (hclear : ∀ i < 4, clear (base + 4 * k + i) = true) :
    Memory.read (Memory.image m clear (wordCells base ws)) (base + 4 * k) 4 = (Bits.rd ws k).toNat := by
  have hread := Memory.read_eq_ofBytes (m := Memory.image m clear (wordCells base ws)) (a := base + 4 * k)
    (bytesOf 4 (Bits.rd ws k).toNat) fun i hi => by
      have hi4 : i < 4 := by simpa using hi
      rw [Memory.rd_image_wordCells hws hm hi4 (hclear i hi4), getElem_bytesOf]
  rw [length_bytesOf, ofBytes_bytesOf] at hread
  exact hread.trans (Nat.mod_eq_of_lt (Bits.rd ws k).isLt)

end Cells

/-! ## The registers of a wave -/

/-- The cells of the v registers of a list, as a frame is read back. -/
def regCells (value : Nat → Nat → Word) (is : List Nat) : List (Nat × Word) :=
  is.flatMap (fun i => (List.range 32).map (fun l => (vkey i l, value i l)))

theorem mem_regCells {value : Nat → Nat → Word} {is : List Nat} {e : Nat × Word} :
    e ∈ regCells value is ↔ ∃ i ∈ is, ∃ l < 32, e = (vkey i l, value i l) := by
  simp only [regCells, List.mem_flatMap, List.mem_map, List.mem_range, eq_comm]

theorem vkey_inj {i j l n : Nat} (hl : l < 32) (hn : n < 32) : vkey i l = vkey j n ↔ i = j ∧ l = n := by
  unfold vkey
  omega

theorem nodup_keys_regCells (value : Nat → Nat → Word) {is : List Nat} (his : is.Nodup) : ((regCells value is).map (·.1)).Nodup := by
  rw [regCells, List.map_flatMap]
  refine List.nodup_flatMap.mpr ⟨fun i _ => ?_, his.imp fun {i j} hij k hi hj => ?_⟩
  · rw [List.map_map]
    exact List.nodup_range.map fun x y h => Nat.add_left_cancel h
  · obtain ⟨e, he, rfl⟩ := List.mem_map.mp hi
    obtain ⟨f, hf, hkey⟩ := List.mem_map.mp hj
    obtain ⟨l, hl, rfl⟩ := List.mem_map.mp he
    obtain ⟨n, hn, rfl⟩ := List.mem_map.mp hf
    exact hij ((vkey_inj (List.mem_range.mp hl) (List.mem_range.mp hn)).mp hkey.symm).1

section Frame
variable {m : Memory} {pa base kept q i l : Nat}

theorem frameRegs_eq : frameRegs m pa base kept q = Bits.wrs []
    (regCells (fun i l => BitVec.ofNat 32 (Memory.read m (regsAt pa + 128 * (base + i) + 4 * l) 4))
      ((List.range q).filter (fun i => fieldOf kept i 1 == 1))) := rfl

theorem rd_frameRegs_of_kept (hi : i < q) (hl : l < 32) (hkept : fieldOf kept i 1 = 1) :
    Bits.rd (frameRegs m pa base kept q) (vkey i l) = BitVec.ofNat 32 (Memory.read m (regsAt pa + 128 * base + 4 * vkey i l) 4) := by
  have hat : regsAt pa + 128 * base + 4 * vkey i l = regsAt pa + 128 * (base + i) + 4 * l := by
    unfold vkey
    omega
  rw [hat, frameRegs_eq]
  exact Bits.rd_wrs_of_mem rfl (nodup_keys_regCells _ (List.nodup_range.filter _))
    (mem_regCells.mpr ⟨i, List.mem_filter.mpr ⟨List.mem_range.mpr hi, beq_iff_eq.mpr hkept⟩, l, hl, rfl⟩)

theorem rd_frameRegs_of_left (hl : l < 32) (hleft : fieldOf kept i 1 ≠ 1) : Bits.rd (frameRegs m pa base kept q) (vkey i l) = 0 := by
  rw [frameRegs_eq, Bits.rd_wrs_other, Bits.rd_nil]
  intro e he hkey
  obtain ⟨j, hj, n, hn, rfl⟩ := mem_regCells.mp he
  obtain ⟨rfl, -⟩ := (vkey_inj hn hl).mp hkey
  exact hleft (beq_iff_eq.mp (List.mem_filter.mp hj).2)

/-- A kept register is written to its place in the frame. -/
theorem Memory.read_putRegs {w : Wave} (hm : Memory.wf m = true) (hv : Bits.wf w.v = true) (hi : i < w.quota) (hl : l < 32)
    (hkept : fieldOf kept i 1 = 1) :
    Memory.read (putRegs m pa base kept w) (regsAt pa + 128 * base + 4 * vkey i l) 4 = (Bits.rd w.v (vkey i l)).toNat := by
  have hreg : vkey i l / 32 = i := by
    unfold vkey
    omega
  have hword : Bits.rd (w.v.filter (fun e => fieldOf kept (e.1 / 32) 1 == 1)) (vkey i l) = Bits.rd w.v (vkey i l) :=
    (Bits.rd_keep (Bits.wf_tbl hv) (fun k => fieldOf kept (k / 32) 1 == 1) (vkey i l)).trans
      (if_pos (by rw [hreg, hkept]; rfl))
  rw [← hword]
  refine Memory.read_image_wordCells (Tbl.wf_filter (Bits.wf_tbl hv) _) (Bits.wf_tbl hm) fun b hb => ?_
  have hplace : (regsAt pa + 128 * base + 4 * vkey i l + b - (regsAt pa + 128 * base)) / 128 = i := by
    unfold vkey
    omega
  have hend : 4 * vkey i l + b < 128 * w.quota := by
    unfold vkey
    omega
  simp only [hplace, hkept, beq_self_eq_true, Bool.and_true, Bool.and_eq_true, decide_eq_true_eq]
  omega

/-- R388: a v register that was kept has its value again and another is zero. -/
theorem rd_frameRegs_putRegs {w : Wave} (hm : Memory.wf m = true) (hv : Bits.wf w.v = true) (hi : i < w.quota) (hl : l < 32) :
    Bits.rd (frameRegs (putRegs m pa base kept w) pa base kept w.quota) (vkey i l) =
      if fieldOf kept i 1 = 1 then Bits.rd w.v (vkey i l) else 0 := by
  split
  · rw [rd_frameRegs_of_kept hi hl ‹_›, Memory.read_putRegs hm hv hi hl ‹_›, BitVec.ofNat_toNat, BitVec.setWidth_eq]
  · exact rd_frameRegs_of_left hl ‹_›

end Frame

end Sys2Proof.Machine
end

section
/-! PROOFS. Steps of Dusk (R207, R366, R383, R384, R386 to R388, R397, R399): requests, saves, restores, commits and shootdowns. -/

namespace Sys2Proof.Machine

/-! ## Requests -/

/-- R384: a request that has been made reaches its crew. -/
theorem execPreemptRequest_of_asked {core reason : Nat} {s : State} {k : Crew} {p : Preempt} (hcrew : s.crew? core = some k)
    (hasked : k.asked = some p) (hreason : p.reason = reason) : execPreemptRequest core reason s =
      .next (s.modCrew core (fun k => { k with asked := none, preempt := some { p with at_ := s.clock } })) := by
  simp only [execPreemptRequest, hcrew, Option.bind_some, hasked, hreason, if_true]

/-- R384: after 8,192 cycles a request is forced. -/
theorem execForcedSaveTimeout_of_late {core : Nat} {s : State} {p : Preempt} (hpreempted : s.preempted core = some p)
    (hforced : p.forced = false) (hbusy : s.enginesRest core = false) (hlate : p.at_ + 8192 ≤ s.clock) :
    execForcedSaveTimeout core s = .next (s.modCrew core (fun k => { k with preempt := some { p with forced := true } })) := by
  have hdue : (p.forced || s.enginesRest core || decide (s.clock < p.at_ + 8192)) = false := by simp [hforced, hbusy, hlate]
  simp only [execForcedSaveTimeout, hpreempted, hdue, Bool.false_eq_true, if_false]

/-! ## Saves -/

/-- R386: a drained crew that goes alone, with its MANUAL bytes at home, is written to its frame. -/
theorem crewSave_of_drained {core : Nat} {s : State} {k : Crew} (hgroup : s.saveGroup core = [core]) (hcrew : s.crew? core = some k)
    (hdrained : s.crewDrained core = true) (hlines : s.manualLines core = []) (hbacks : s.backsOpen k.uid = false)
    (hfree : s.agentBusy [(k.frame, frameBytesLen)] (duskNum k.uid) = false) :
    crewSave core s = (s.agentServed (duskNum k.uid)).saveCrew core := by
  have huid : s.uidOf core = k.uid := by simp only [State.uidOf, hcrew]
  simp [crewSave, hgroup, hdrained, hlines, State.manualBack_of_noLines hlines, huid, hbacks, hcrew, State.asDusk,
    State.asAgent_of_free hfree]

@[simp] theorem State.setInst_frames (s : State) (serial k : Nat) (f : Inst → Inst) : (s.setInst serial k f).frames = s.frames := by
  have hsignal : ∀ (u : State) h n t, (u.signal h n t).frames = u.frames := fun u h n t => by
    unfold State.signal
    (repeat' split) <;> rfl
  unfold State.setInst
  split
  · rfl
  · dsimp only
    split
    · rw [hsignal]
    · rfl

@[simp] theorem State.chargeCore_frames (s : State) (c : Nat) : (s.chargeCore c).frames = s.frames := by
  unfold State.chargeCore
  split
  · rw [State.setInst_frames]
  · rfl

section Leaving
variable (s : State) (written : List (Nat × Nat)) (c : Nat) (f : Core → Core)

/-- A crew that leaves its core once it has been written leaves memory and the frames alone. -/
theorem State.leaving_mem : ((((s.cleanseFrame written).freshBuffers c).chargeCore c).modCore c f).mem = s.mem :=
  congrArg Prod.fst (by
    rw [State.modCore_mems, State.chargeCore_mems, State.freshBuffers_mems, State.cleanseFrame_mems] :
    State.mems ((((s.cleanseFrame written).freshBuffers c).chargeCore c).modCore c f) = s.mems)

theorem State.leaving_frames : ((((s.cleanseFrame written).freshBuffers c).chargeCore c).modCore c f).frames = s.frames := by
  rw [State.modCore_frames, State.chargeCore_frames]
  rfl

end Leaving

/-! ## Restores and moves -/

theorem State.savedCrew_of_frame {s : State} {pa : Nat} {f : Frame} {k : Crew} (hframe : Tbl.find s.frames pa = some f)
    (hcrew : f.crew = some k) : s.savedCrew pa = some k := by
  rw [State.savedCrew, hframe, Option.bind_some, hcrew]

/-- Frames that no lock and no earlier request holds are restored at once (R218, R388). -/
theorem State.restoreAs_of_free {s : State} {pa c : Nat} {f : Frame} {k : Crew} (hframe : Tbl.find s.frames pa = some f)
    (hcrew : f.crew = some k) (hfree : s.agentBusy ((s.frameGroup pa).map (fun a => (a, frameBytesLen))) (duskNum k.uid) = false) :
    s.restoreAs pa c = (s.agentServed (duskNum k.uid)).restoreGroup pa c := by
  simp only [State.restoreAs, State.savedCrew_of_frame hframe hcrew, State.asDusk, State.asAgent_of_free hfree]

/-- A SAVED crew of the resume list whose core its agent gives it, or that a `crest` has released to a core, goes there. -/
theorem crewRestore_of_picked {frame core : Nat} {s : State} {f : Frame} (hframe : Tbl.find s.frames frame = some f) (hsaved : f.state = 2)
    (hpicked : f.resume = true ∧ s.rtResume (dieOf core) = some (frame, core) ∨ f.target = some core ∧ s.awaits frame core = true) :
    crewRestore frame core s = s.restoreAs frame core := by
  have hgoes : (f.resume && (s.rtResume (dieOf core) == some (frame, core) || (!(s.rtResume (dieOf core)).isSome
      && !(s.freeCores (dieOf core)).any (fun c => (s.instanceOn c).isSome) && s.normalResume (dieOf core) == some (frame, core)))
      || (f.target == some core && s.awaits frame core)) = true := by
    rcases hpicked with ⟨hresume, hrt⟩ | ⟨htarget, hawaits⟩
    · rw [hresume, hrt, beq_self_eq_true]; rfl
    · rw [htarget, hawaits, beq_self_eq_true]; simp
  simp only [crewRestore, hframe, hsaved, hgoes, and_self, if_true]

/-! ## Commits -/

theorem execVersionCommit_of_waiting {core : Nat} {s : State} {r : Req} (hmem : r ∈ s.reqs) (hcore : r.core = core)
    (hwaits : r.waits = true) (hneeds : s.needsCommit r = true) : execVersionCommit core s = .next (s.commitVersion core) := by
  have hany : s.reqs.any (fun r => r.core == core && r.waits && s.needsCommit r) = true :=
    List.any_eq_true.mpr ⟨r, hmem, by rw [hcore, hwaits, hneeds, beq_self_eq_true]; rfl⟩
  rw [execVersionCommit, hany, Bool.or_true, if_pos rfl]

theorem execVersionCommit_of_committing {core : Nat} {s : State} (hcommitting : s.committing core = true) :
    execVersionCommit core s = .next (s.commitVersion core) := by
  rw [execVersionCommit, hcommitting, Bool.true_or, if_pos rfl]

/-- R383: a commit that is under way takes the locks of the version's lines in ascending order, and merges once it holds them all. -/
theorem State.commitVersion_of_committing {core : Nat} {s : State} {m : Commit} (hopen : s.versionOpen core = true)
    (hcommitting : s.committing core = true) (hfind : s.commits.find? (fun x => x.uid == s.uidOf core) = some m) :
    s.commitVersion core =
      let t := takeLocks m.age (4096 * core) m.id (s.versionSpan core) s
      if ∀ l ∈ s.versionSpan core, Tbl.find t.locks l = some m.id then
        (({ t with commits := t.commits.filter (fun x => x.id != m.id) } : State).mergeVersion core).unlock m.id
      else t := by
  have hbegun : s.beginCommit core = s := by rw [State.beginCommit, if_pos hcommitting]
  simp only [State.commitVersion, hopen, Bool.not_true, Bool.false_eq_true, if_false, hbegun, hfind, List.all_eq_true, beq_iff_eq]

/-! ## Shootdowns -/

/-- R207: with nothing under the old translation open, a shootdown drops the translations of its range and completes. -/
theorem shootdownComplete_of_closed {sd : Nat} {s : State} {h : Shoot} (hfind : s.shoots.find? (fun h => h.id == sd) = some h)
    (hopen : s.shootOpen h = false) (hlines : ∀ c, s.shootLines h c = []) (hbacks : ∀ w ∈ s.writeBacks, h.back w = false)
    (hdropped : ∀ c, (s.shootDrop h).shootLines h c = []) : shootdownComplete sd s =
      ({ s.shootDrop h with shoots := (s.shootDrop h).shoots.filter (fun y => y.id != sd) } : State).afterShoot h := by
  have hnone : (s.shootDrop h).writeBacks.any h.back = false := List.any_eq_false.mpr fun w hw => Bool.eq_false_iff.mp (hbacks w hw)
  simp [shootdownComplete, hfind, hopen, hlines, hdropped, hnone]

/-! ## The steps together -/

/-- Settles O44, by the rule of each step; what a record gives back, and what the frame gives back of the registers, are read off the bytes
that were written. -/
theorem duskEvents : Obligations.DuskEvents := by
  unfold Obligations.DuskEvents
  refine ⟨fun core reason s k p => execPreemptRequest_of_asked, fun core s p => execForcedSaveTimeout_of_late,
    fun core s k hgroup hcrew hdrained hlines hbacks hfree =>
      congrArg Host.Outcome.next (crewSave_of_drained hgroup hcrew hdrained hlines hbacks hfree),
    fun core s k q hcrew hpreempted => ?written, fun core pa s k f hsaving hgroup hframe hdue hcrew => ?completed,
    fun frame core s f k hframe hcrew hsaved hpicked hfree => congrArg Host.Outcome.next
      ((crewRestore_of_picked hframe hsaved hpicked).trans (State.restoreAs_of_free hframe hcrew hfree)),
    fun src dst pa s f k hmoved hframe hcrew hawaits hfree => ?moved, fun pa c s f k g hframe hcrew hengine hclean => ?restored,
    fun m pa n clock w hm hlen hcount hquota hbase hlevel => Wave.fromRecord_record hm hlen hcount hquota hbase hlevel,
    fun m pa base kept w i l => rd_frameRegs_putRegs, fun core s r => execVersionCommit_of_waiting,
    fun core s => execVersionCommit_of_committing, fun core m s hopen hcommitting hfind => ⟨?waits, ?merges⟩,
    fun sd s h hfind hopen hlines hbacks hdropped =>
      congrArg Host.Outcome.next (shootdownComplete_of_closed hfind hopen hlines hbacks hdropped)⟩
  case written =>
    intro y p hint ws kept area bytes hclean
    have hspared : s.saveSpoilt core (s.core core) (savePlan (s.core core) k.abytes) = false := hclean
    simp only [State.saveCrew, hcrew, hpreempted, hspared, Bool.false_eq_true, if_false]
    exact ⟨State.leaving_mem .., _, (congrArg (Tbl.find · k.frame) (State.leaving_frames ..)).trans (Tbl.find_put_same ..), rfl, rfl, rfl, rfl,
      (Nat.add_assoc ..).symm, _, rfl, rfl, rfl, rfl, rfl, rfl, rfl, rfl, rfl, rfl⟩
  case completed =>
    refine congrArg Host.Outcome.next ?_
    simp only [saveComplete, hsaving, hgroup, List.any_cons, List.any_nil, hframe, decide_eq_false (Nat.not_lt.mpr hdue), Bool.or_false,
      Bool.false_eq_true, if_false, List.foldl_cons, List.foldl_nil, hcrew]
  case moved =>
    have hmoves : crewMove src dst s = s.restoreAs pa dst := by simp only [crewMove, hmoved, hawaits, if_true]
    exact congrArg Host.Outcome.next (hmoves.trans (State.restoreAs_of_free hframe hcrew hfree))
  case restored =>
    simp only [State.restoreCrew, hframe, hcrew, hengine, hclean, Bool.false_eq_true, if_false]
  case waits =>
    rintro ⟨l, hl, hother⟩
    exact (State.commitVersion_of_committing hopen hcommitting hfind).trans (if_neg fun hall => hother (hall l hl))
  case merges => exact fun hall => (State.commitVersion_of_committing hopen hcommitting hfind).trans (if_pos hall)

end Sys2Proof.Machine
end
